-- ==== Sys2Proof/Word.lean ====
section
/-! DEFINITION. The words of the machine: a scalar register, a vector lane, a byte, an address (R3, R45, R132). -/

namespace Sys2Proof

/-- A scalar register, an instruction word, a constant-bank entry: 64 bits. -/
abbrev Word := BitVec 64

/-- One lane of a vector register: 32 bits (R132). -/
abbrev Lane := BitVec 32

/-- The smallest addressable unit of memory. -/
abbrev Byte := BitVec 8

end Sys2Proof
end

