-- ==== Sys2Proof/Config.lean ====
section
/-! DEFINITION. What the manual leaves to one implementation, and the values it leaves open: opaque constants, of which
nothing can be proved but that they are there. -/

namespace Sys2Proof.Config

/-- Byte `i` of the B store after the launch that drew `seed`, until BLOAD writes it (R244). -/
opaque bStoreByte (seed i : Nat) : Byte

/-- Byte `i` of SHAKE256 of a message (R410, R415). -/
opaque digestByte (msg : List Byte) (i : Nat) : Byte

/-- Byte `i` of the root digest in the ROM (R410). -/
opaque rootByte (i : Nat) : Byte

/-- Does a Falcon-1024 signature over a digest verify under a public key? (R410) -/
opaque falconOk (key digest sig : List Byte) : Bool

/-- Byte `i` of the public key of a base die (R414). -/
opaque keyByte (die i : Nat) : Byte

/-- Byte `i` of the Falcon-1024 signature of base die 0 over a digest (R415). -/
opaque signByte (digest : List Byte) (i : Nat) : Byte

/-- The enabled dies of a configuration image (R402, R410). -/
opaque imageDies (body : List Byte) : BitVec 4

/-- Does a configuration image disable a skein of the package? (R403, R410) -/
opaque imageSkeinOff (body : List Byte) (skein : Nat) : Bool

/-- PLIMSET of a configuration image (R416). -/
opaque imagePlimset (body : List Byte) : Nat

/-- The package power limit of a configuration image (R410, R416). -/
opaque imageLimit (body : List Byte) : Nat

end Sys2Proof.Config
end

