-- ==== Sys2Proof/Machine/Store.lean ====
section
/-! DEFINITION. A total map from numbers to values, written as the finite list of the entries that differ from a
default: memory bytes, register files, tables of hardware objects. The list is sorted and holds no default, so that
equal maps are equal data. -/

namespace Sys2Proof.Machine

/-- The entries that differ from the default, by rising number. -/
abbrev SMap (α : Type) := List (Nat × α)

/-- The value at number `k`; `d` where nothing is listed. -/
def SMap.get {α : Type} (d : α) : SMap α → Nat → α
  | [], _ => d
  | (j, v) :: m, k => if j = k then v else SMap.get d m k

/-- The map without any entry for `k`. -/
def SMap.erase {α : Type} (k : Nat) : SMap α → SMap α
  | [] => []
  | (j, v) :: m => if j = k then SMap.erase k m else (j, v) :: SMap.erase k m

/-- Insert an entry before the first entry of a greater number. -/
def SMap.insert {α : Type} (k : Nat) (v : α) : SMap α → SMap α
  | [] => [(k, v)]
  | (j, w) :: m => if k < j then (k, v) :: (j, w) :: m else (j, w) :: SMap.insert k v m

/-- The map with value `v` at `k`; a default value is not listed. -/
def SMap.set {α : Type} [DecidableEq α] (d : α) (m : SMap α) (k : Nat) (v : α) : SMap α :=
  if v = d then SMap.erase k m else SMap.insert k v (SMap.erase k m)

/-- The map changed at `k` by a function of the value there. -/
def SMap.modify {α : Type} [DecidableEq α] (d : α) (m : SMap α) (k : Nat) (f : α → α) : SMap α :=
  SMap.set d m k (f (SMap.get d m k))

/-- Write a run of consecutive numbers. -/
def SMap.setList {α : Type} [DecidableEq α] (d : α) (m : SMap α) (k : Nat) : List α → SMap α
  | [] => m
  | v :: vs => SMap.setList d (SMap.set d m k v) (k + 1) vs

/-- Read a run of `n` consecutive numbers from `k`. -/
def SMap.getList {α : Type} (d : α) (m : SMap α) (k : Nat) : Nat → List α
  | 0 => []
  | n + 1 => SMap.get d m k :: SMap.getList d m (k + 1) n

/-- The canonical form: numbers strictly rise, and no listed value is the default. -/
def SMap.wf {α : Type} [DecidableEq α] (d : α) : SMap α → Bool
  | [] => true
  | [(_, v)] => !decide (v = d)
  | (j, v) :: (k, w) :: m => !decide (v = d) && decide (j < k) && SMap.wf d ((k, w) :: m)

end Sys2Proof.Machine
end

