-- ==== Sys2Proof/Machine/Bits.lean ====
section
/-! DEFINITION. Fields of words, byte order and the integer helpers (R3, R44). -/

namespace Sys2Proof.Machine

/-- Bits `[lo + n - 1 : lo]` of a number. -/
def bits (x lo n : Nat) : Nat := x / 2 ^ lo % 2 ^ n

/-- Bit `i` of a number. -/
def bitOf (x i : Nat) : Bool := x / 2 ^ i % 2 = 1

/-- A truth value as 0 or 1. -/
def b2n (b : Bool) : Nat := if b then 1 else 0

/-- SignedValue(x, n) (R44). -/
def signedValue (x n : Nat) : Int :=
  let y := x % 2 ^ n
  if 2 * y < 2 ^ n then (y : Int) else (y : Int) - (2 : Int) ^ n

/-- Wrap(v, n) (R44). -/
def wrap (v : Int) (n : Nat) : Nat := (v % (2 : Int) ^ n).toNat

/-- SignExtend(x, n) to 64 bits (R44). -/
def signExtend (x n : Nat) : Word := BitVec.ofInt 64 (signedValue x n)

/-- ZeroExtend(x, n) to 64 bits (R44). -/
def zeroExtend (x n : Nat) : Word := BitVec.ofNat 64 (x % 2 ^ n)

/-- SatS(v, n) and whether it clamped (R44). -/
def satS (v : Int) (n : Nat) : Nat × Bool :=
  if v < -(2 : Int) ^ (n - 1) then (2 ^ (n - 1), true)
  else if (2 : Int) ^ (n - 1) - 1 < v then (2 ^ (n - 1) - 1, true)
  else (wrap v n, false)

/-- SatU(v, n) and whether it clamped (R44). -/
def satU (v : Int) (n : Nat) : Nat × Bool :=
  if v < 0 then (0, true)
  else if (2 : Int) ^ n - 1 < v then (2 ^ n - 1, true)
  else (wrap v n, false)

/-- `n` rotated left by `k mod w` within `w` bits (R44). -/
def rotl (x k w : Nat) : Nat :=
  let y := x % 2 ^ w
  let j := k % w
  (y * 2 ^ j) % 2 ^ w + y / 2 ^ (w - j)

/-- Leading zeros of a `w`-bit number. -/
def leadingZeros (x w : Nat) : Nat := if x % 2 ^ w = 0 then w else w - 1 - Nat.log2 (x % 2 ^ w)

/-- Ones among the low `w` bits. -/
def ones (x : Nat) : Nat → Nat
  | 0 => 0
  | w + 1 => ones x w + b2n (bitOf x w)

/-- The lowest one at or above bit `i`, looking at `n` bits; `none` where there is none. -/
def lowestOne (x i : Nat) : Nat → Option Nat
  | 0 => none
  | n + 1 => if bitOf x i then some i else lowestOne x (i + 1) n

/-- Numbers `0` to `n - 1`. -/
def upto (n : Nat) : List Nat := List.range n

/-- A word of `n` bits from a rule for each bit. -/
def maskOf (f : Nat → Bool) : Nat → Nat
  | 0 => 0
  | n + 1 => maskOf f n + (if f n then 2 ^ n else 0)

/-- A number as `n` bytes, the least significant first (R3). -/
def toBytes (x : Nat) : Nat → List Byte
  | 0 => []
  | n + 1 => BitVec.ofNat 8 x :: toBytes (x / 256) n

/-- The number that bytes give, the least significant first (R3). -/
def ofBytes : List Byte → Nat
  | [] => 0
  | b :: bs => b.toNat + 256 * ofBytes bs

/-- The `i`-th item, or a default. -/
def nth {α : Type} (d : α) (l : List α) (i : Nat) : α := l.getD i d

/-- A list cut into pieces of `n`, `k` pieces in all. -/
def pieces {α : Type} (n : Nat) : Nat → List α → List (List α)
  | 0, _ => []
  | k + 1, l => l.take n :: pieces n k (l.drop n)

/-- Is the number a multiple of `n`? -/
def aligned (x n : Nat) : Bool := x % n = 0

end Sys2Proof.Machine
end

