-- ==== Sys2Proof/Syntax.lean ====
section
/-! DEFINITION. The steps of the machine: one constructor per row of the opcode table. A strand word carries the fields
of its form (R46 to R50), an event the plain data that the outside or the agent concerned supplies. -/

namespace Sys2Proof

/-- A destination code of 7 bits (R51). -/
inductive Dst where
  | v (r : Fin 64)
  | s (r : Fin 32)
  | p (r : Fin 16)
  | h (r : Fin 16)
  deriving DecidableEq, Repr

/-- A source field of 10 bits (R52): a kind and an index. The all-zero field is `v 0`. -/
inductive Src where
  | v (r : Fin 64)
  | s (r : Fin 32)
  | p (r : Fin 16)
  | h (r : Fin 16)
  | stg
  | cb (i : BitVec 8)
  | lit (i : BitVec 8)
  deriving DecidableEq, Repr

/-- The type codes 0x0 to 0xE of R55. -/
inductive Ty where
  | s8 | s16 | s32 | s64 | n8 | n16 | n32 | n64 | b32 | f32 | f16 | bf16 | e4m3 | e5m2 | e2m1
  deriving DecidableEq, Repr

/-- Form O3 (R46, R47). -/
structure O3 where
  p : Bool
  v : Bool
  dst : Dst
  a : Src
  b : Src
  c : Src
  g : Fin 16
  gn : Bool
  ty : Ty
  mod : BitVec 4
  deriving DecidableEq, Repr

/-- Form I32 (R46, R48). -/
structure I32 where
  p : Bool
  v : Bool
  dst : Dst
  imm : BitVec 32
  g : Fin 16
  gn : Bool
  ty : Ty
  deriving DecidableEq, Repr

/-- Form B24 (R46, R49). AUX is read as R49 gives it for LOOP and LOOPI. -/
structure B24 where
  p : Bool
  v : Bool
  off : BitVec 24
  aux : BitVec 13
  g : Fin 16
  gn : Bool
  lid : Fin 4
  deriving DecidableEq, Repr

/-- Form N (R50). -/
structure FormN where
  p : Bool
  v : Bool
  count : BitVec 8
  deriving DecidableEq, Repr

/-- A Whorl word (R386): the fields that R387 gives an operation; a field it does not use is 0. -/
structure WW where
  d : Fin 16
  a : Fin 16
  b : Fin 16
  imm : BitVec 14
  deriving DecidableEq, Repr

/-- Header of a packet between devices or base dies (R286), with the devices it joins. -/
structure PktHdr where
  src : Nat
  dst : Nat
  grp : Nat
  tag : BitVec 16
  step : BitVec 64
  cseq : Nat
  att : Option (BitVec 16)
  deriving DecidableEq, Repr

/-- One RPUT chunk on its way to a landing zone (R293, R295). `spn`, `chan` and `rec` name the sending record. -/
structure ChunkMsg where
  hdr : PktHdr
  lspn : Nat
  zone : Nat
  slot : Nat
  seq : Nat
  off : Nat
  last : Nat
  rop : Nat
  xw : Nat
  data : List Byte
  spn : Nat
  chan : Nat
  recno : Nat
  port : Nat
  deriving DecidableEq, Repr

/-- The answer to an RPUT chunk: 0 accepted, 1 refused, 2 its path has failed beyond this device's ports, 3 the target's task is away and
the chunk waits at its channel (R292, R295, R308). DESIGN CHOICE (log entry 120): the numbers. -/
structure AcceptMsg where
  hdr : PktHdr
  spn : Nat
  chan : Nat
  recno : Nat
  status : Nat
  deriving DecidableEq, Repr

/-- A returned slot on its way to its binding (R290). -/
structure CreditMsg where
  hdr : PktHdr
  lspn : Nat
  zone : Nat
  deriving DecidableEq, Repr

/-- A cancel notice of a binding for a broken slot (R292). -/
structure CancelMsg where
  hdr : PktHdr
  lspn : Nat
  zone : Nat
  slot : Nat
  seq : Nat
  deriving DecidableEq, Repr

/-- One bobbin element (R296): a store (`op = none`) or an update of R241. -/
structure BobElem where
  off : Nat
  wide : Bool
  op : Option (BitVec 4)
  ty : Ty
  value : BitVec 64
  spn : Nat
  strand : Nat
  deriving DecidableEq, Repr

/-- One bobbin flit on the links (R297). -/
structure FlitMsg where
  hdr : PktHdr
  page : Nat
  elems : List BobElem
  id : Nat
  port : Nat
  deriving DecidableEq, Repr

/-- The completion record of a flit: one status per element, 0 applied, else the BOBBIN reason (R300, R305). -/
structure FlitDone where
  hdr : PktHdr
  id : Nat
  status : List Nat
  deriving DecidableEq, Repr

/-- A vote on the commit tree (R332, R334). -/
structure VoteMsg where
  grp : Nat
  src : Nat
  att : BitVec 16
  flags : BitVec 6
  first : Option Nat
  deriving DecidableEq, Repr

/-- A decision record on the commit tree, `dst` the device that it is for (R335). -/
structure DecisionMsg where
  grp : Nat
  dst : Nat
  att : BitVec 16
  commit : Bool
  flags : BitVec 6
  first : Option Nat
  deriving DecidableEq, Repr

/-- Registration and arrival counts of a step-group phaser from the rest of the group (R216). -/
structure GatherMsg where
  src : Nat
  grp : Nat
  att : Option (BitVec 16)
  idx : Nat
  phase : BitVec 32
  signallers : Nat
  arrivals : Nat
  deriving DecidableEq, Repr

/-- A valid step-group entry that the far end of a port sends (R320). -/
structure PeerEntry where
  grp : Nat
  pkg : Nat
  deriving DecidableEq, Repr

/-- An event for the taps of the Whorl (R380): the base die, f0 to f5, and the task and logical spindle of the strand or
record that it comes from (R388). -/
structure TapEvent where
  die : Nat
  f0 : Word
  f1 : Word
  f2 : Word
  f3 : Word
  f4 : Word
  f5 : Word
  task : Option (Nat × Nat)
  deriving DecidableEq, Repr

/-- What the power controller measures: the means of its window of 64 ticks, and the highest core-rail current since its last report
(R416). -/
structure PowerReport where
  pnow : Nat
  icore : Nat
  peak : Nat
  deriving DecidableEq, Repr

/-- One step of the machine, by its row of the opcode table. -/
inductive Instr where
  -- strand words, class 0x01
  | add (w : O3)
  | sub (w : O3)
  | mul (w : O3)
  | mulh (w : O3)
  | madd (w : O3)
  | and (w : O3)
  | or (w : O3)
  | xor (w : O3)
  | andn (w : O3)
  | shl (w : O3)
  | shr (w : O3)
  | sra (w : O3)
  | rotl (w : O3)
  | min (w : O3)
  | max (w : O3)
  | abs (w : O3)
  | neg (w : O3)
  | clz (w : O3)
  | popc (w : O3)
  | bfx (w : O3)
  | bfi (w : O3)
  | cmp (w : O3)
  | sel (w : O3)
  | mov (w : O3)
  | idx (w : O3)
  -- class 0x02
  | li (w : I32)
  | lih (w : I32)
  | addi (w : I32)
  | muli (w : I32)
  | andi (w : I32)
  | ori (w : I32)
  | xori (w : I32)
  -- class 0x03
  | br (w : B24)
  | call (w : B24)
  | calli (w : O3)
  | ret (w : O3)
  | jmpi (w : O3)
  | loop (w : B24)
  | loopi (w : B24)
  | movl (w : O3)
  | nop (w : FormN)
  | halt (w : O3)
  | yield (w : O3)
  -- class 0x04
  | trap (w : O3)
  | eret (w : O3)
  | mfcr (w : O3)
  | mtcr (w : O3)
  | strstart (w : O3)
  | strwait (w : O3)
  | strid (w : O3)
  | setfp (w : O3)
  | ctxsv (w : O3)
  | ctxld (w : O3)
  -- class 0x08
  | vadd (w : O3)
  | vsub (w : O3)
  | vmul (w : O3)
  | vfma (w : O3)
  | vfms (w : O3)
  | vfnma (w : O3)
  | vmin (w : O3)
  | vmax (w : O3)
  | vabs (w : O3)
  | vneg (w : O3)
  | vscale (w : O3)
  | vcmp (w : O3)
  | vclass (w : O3)
  -- class 0x09
  | viadd (w : O3)
  | visub (w : O3)
  | vimul (w : O3)
  | vimulh (w : O3)
  | vimadd (w : O3)
  | vimin (w : O3)
  | vimax (w : O3)
  | viabs (w : O3)
  | vand (w : O3)
  | vor (w : O3)
  | vxor (w : O3)
  | vandn (w : O3)
  | vnot (w : O3)
  | vshl (w : O3)
  | vshr (w : O3)
  | vsra (w : O3)
  | vrotl (w : O3)
  | vicmp (w : O3)
  | vsel (w : O3)
  | vclz (w : O3)
  | vpopc (w : O3)
  -- class 0x0A
  | vdiv (w : O3)
  | vsqrt (w : O3)
  | vrsqrt (w : O3)
  | vrcp (w : O3)
  | vexp2 (w : O3)
  | vlog2 (w : O3)
  | div (w : O3)
  | rem (w : O3)
  -- class 0x0B
  | vcvt (w : O3)
  | vcvtsr (w : O3)
  | vpack (w : O3)
  | vunpack (w : O3)
  | vbcast (w : O3)
  | vperm (w : O3)
  | vshuf (w : O3)
  | vrot (w : O3)
  | vcompress (w : O3)
  | vexpand (w : O3)
  | viota (w : O3)
  | vmovx (w : O3)
  | vmovs (w : O3)
  | vins (w : O3)
  | vredadd (w : O3)
  | vredmax (w : O3)
  | vredmin (w : O3)
  | vscan (w : O3)
  | vrng (w : O3)
  | vrngf (w : O3)
  -- class 0x0C
  | pand (w : O3)
  | por (w : O3)
  | pxor (w : O3)
  | pandn (w : O3)
  | pnot (w : O3)
  | pset (w : O3)
  | pget (w : O3)
  | pcnt (w : O3)
  | pfirst (w : O3)
  | pmov (w : O3)
  -- class 0x10
  | ld (w : O3)
  | st (w : O3)
  | vld (w : O3)
  | vst (w : O3)
  | vldx (w : O3)
  | vstx (w : O3)
  | vlds (w : O3)
  | vsts (w : O3)
  | sld (w : O3)
  | sst (w : O3)
  | cbload (w : O3)
  -- class 0x11
  | trans (w : O3)
  | hrel (w : O3)
  | hchk (w : O3)
  | ldblk (w : O3)
  | blkwait (w : O3)
  | wbblk (w : O3)
  | evblk (w : O3)
  | reschk (w : O3)
  | pgreq (w : O3)
  | replay (w : O3)
  -- class 0x14
  | semsig (w : O3)
  | semwait (w : O3)
  | semset (w : O3)
  | semrd (w : O3)
  | spldef (w : O3)
  | spfillw (w : O3)
  | spfreew (w : O3)
  | sppub (w : O3)
  | spret (w : O3)
  | phreg (w : O3)
  | phdrop (w : O3)
  | pharr (w : O3)
  | phwait (w : O3)
  | pharw (w : O3)
  | tickw (w : O3)
  -- class 0x15
  | fence (w : O3)
  | atom (w : O3)
  | atomr (w : O3)
  | cas (w : O3)
  | swap (w : O3)
  -- class 0x18
  | mqpush (w : O3)
  | qstatRead (w : O3)
  | qstatSkip (w : O3)
  | qstatFlush (w : O3)
  | qstatMxcap (w : O3)
  | qstatClear (w : O3)
  | cqpush (w : O3)
  | cstage (w : O3)
  | cdrain (w : O3)
  -- class 0x1C
  | lzdefZone (w : O3)
  | lzdefBinding (w : O3)
  | lzres (w : O3)
  | lzrel (w : O3)
  | lzwait (w : O3)
  | lzstat (w : O3)
  | bst (w : O3)
  | batom (w : O3)
  | bflush (w : O3)
  | bflushall (w : O3)
  | bstat (w : O3)
  | xwdef (w : O3)
  | xadd (w : O3)
  | xwread (w : O3)
  | xwclr (w : O3)
  | lnkstat (w : O3)
  -- class 0x20
  | stepid (w : O3)
  | vote (w : O3)
  | stepwait (w : O3)
  | losschk (w : O3)
  | rqtag (w : O3)
  | mcread (w : O3)
  | mcackLog (w : O3)
  | mcackPoison (w : O3)
  | mcackSuspect (w : O3)
  | tagpurge (w : O3)
  | scrub (w : O3)
  | verdef (w : O3)
  -- class 0x24
  | bkpt (w : O3)
  | tmark (w : O3)
  | whorlsig (w : O3)
  -- Whorl words
  | lde (w : WW)
  | ldi (w : WW)
  | ldt (w : WW)
  | stt (w : WW)
  | whorlAdd (w : WW)
  | whorlAddi (w : WW)
  | whorlSub (w : WW)
  | whorlAnd (w : WW)
  | whorlOr (w : WW)
  | whorlXor (w : WW)
  | whorlShl (w : WW)
  | whorlShr (w : WW)
  | whorlMin (w : WW)
  | whorlMax (w : WW)
  | beq (w : WW)
  | bne (w : WW)
  | blt (w : WW)
  | hbin (w : WW)
  | cms (w : WW)
  | hll (w : WW)
  | trig (w : WW)
  | emit (w : WW)
  | exit (w : WW)
  -- events of strands and memory
  | fixedLatencyWriteback (sp st : Nat)
  | idleCountEnd (sp st : Nat)
  | latchDeposit (sp st : Nat)
  | handleDeposit (sp st : Nat)
  | takeTrap (sp st : Nat)
  | watchdogExpiry (sp : Nat)
  | waitTimeout (sp st : Nat)
  | loadDataReturn (sp st : Nat)
  | storeApply (n : Nat)
  | atomApply (n : Nat)
  | atomicReply (sp st : Nat)
  | blockFillDone (sp b : Nat)
  | blockWritebackDone (sp b : Nat)
  | blockEvictDone (sp b : Nat)
  | phaserGatherReceive (m : GatherMsg)
  | phaserReleaseReceive (sp lit : Nat)
  -- engine records, one issue each
  | mma (sp : Nat)
  | mmaz (sp : Nat)
  | bload (sp : Nat)
  | accld (sp : Nat)
  | accst (sp : Nat)
  | mxt (sp : Nat)
  | copy (sp ch : Nat)
  | copyacc (sp ch : Nat)
  | fill (sp ch : Nat)
  | gather (sp ch : Nat)
  | rput (sp ch : Nat)
  -- engines, links and step transactions
  | engineRecordComplete (sp q : Nat)
  | subarrayWakeDone (sp x : Nat)
  | subarrayGate (sp x : Nat)
  | rputChunkReceive (m : ChunkMsg)
  | rputChunkAccept (m : AcceptMsg)
  | slotCreditReceive (m : CreditMsg)
  | cancelNoticeReceive (m : CancelMsg)
  | bobbinAgeExpiry (die b : Nat)
  | bobbinFlitReceive (m : FlitMsg)
  | bobbinCompletionReceive (m : FlitDone)
  | xaddApply (die w : Nat)
  | portTrained (port peerPort : Nat) (es : List PeerEntry)
  | portFailure (port : Nat)
  | trainingRetry (port : Nat)
  | flitCrcResend (port : Nat)
  | peerEntryExchange (port : Nat) (es : List PeerEntry)
  | attemptOpen (q : Nat)
  | voteDeadline (c : Nat)
  | childVoteDeadline (c child : Nat)
  | voteReceive (m : VoteMsg)
  | decisionReceive (m : DecisionMsg)
  | purgeComplete (part : Nat) (tag : BitVec 16)
  | scrubberVisit (block : Nat)
  | inFieldTest (skein : Nat) (pass : Bool)
  | containmentLost
  -- queues, packets and scheduling
  | notifyWptrWrite (q : Nat) (v : Word)
  | queuePoll (q : Nat)
  | qstsWrite (q : Nat) (v : Word)
  | queueDescriptorWrite (q word : Nat) (v : Word)
  | packetNop (q k : Nat)
  | launch (q k : Nat)
  | graph (q k : Nat)
  | signal (q k : Nat)
  | waitsig (q k : Nat)
  | waitsigReread (q k : Nat)
  | waitsigTimeout (q k : Nat)
  | stepopen (q k : Nat)
  | stepclose (q k : Nat)
  | resync (q k : Nat)
  | taskNode (g n : Nat)
  | condNode (g n : Nat)
  | loopNode (g n : Nat)
  | switchNode (g n : Nat)
  | schedulingRound
  | preemptSave (t : Nat)
  | taskCompletion (t : Nat)
  -- host, registers and start
  | hostMemoryRead (fn addr n : Nat)
  | hostMemoryWrite (fn addr : Nat) (data : List Byte)
  | objectWindowSemaphoreStore (fn sp k : Nat) (v : Word)
  | objectWindowSpoolStore (fn sp n half : Nat) (v : Word)
  | objectWindowPhaserStore (fn sp n off : Nat) (v : Word)
  | partitionEntryWrite (p word : Nat) (v : Word)
  | invalidateGo (p : Nat) (v : Word)
  | invalidationComplete (p : Nat)
  | queueBindingWrite (q : Nat) (v : BitVec 16)
  | stepGroupEntryWrite (e word : Nat) (v : Word)
  | portEnable (port : Nat) (en : Bool)
  | portRetrain (port : Nat)
  | timectlWrite (v : Word)
  | plimsetWrite (v : Word)
  | ipeakClear
  | powerThrottle (mhz : Nat) (hold : Bool) (r : PowerReport)
  | registerWrite (off : Nat) (v : Word)
  | powerOnReset (img : Option (List Byte))
  | fundamentalReset (img : Option (List Byte))
  | pfFunctionLevelReset (img : Option (List Byte))
  | vfFunctionLevelReset (vf : Nat)
  | serviceFull
  | mailboxLoadImage (len : Nat)
  | mailboxReadKey (die : Nat)
  | mailboxAttest
  -- Whorl
  | attachSlotEnable (w slot : Nat) (v : Word)
  | attachSlotDisable (w slot : Nat)
  | irqstsClear (w : Nat) (v : BitVec 32)
  | tenantBudgetWrite (w p : Nat) (v : Word)
  | budgetWindowReset
  | whorlEventOffer (e : TapEvent)
  | whorlRunStart (w slot : Nat)
  -- debug, clocks and resends
  | debugStopreq (sp : Nat)
  | debugResume (sp : Nat)
  | debugStopped (sp : Nat)
  | allstopRequestReceive (sp : Nat)
  | scopecntWrite (sp : Nat) (v : Word)
  | scopeadrWrite (sp : Nat) (v : Word)
  | tickTargetReached (sp st : Nat)
  | linkLoss (port : Nat)
  | tickDiscipline (add : Option Bool) (err : Nat)
  | thermalLimitChange (watts : Nat)
  | voteResend (n : Nat)
  | cancelNoticeResend (n : Nat)
  | resumptionRestoreDone (t : Nat)
  | copyReadReturn (sp ch : Nat)
  | hbmTrainingComplete (dies : BitVec 4) (hbm : BitVec 12) (good : Bool)
  deriving DecidableEq, Repr

end Sys2Proof
end

