-- ==== Sys2Proof/Machine/Types.lean ====
section
/-! DEFINITION. The type codes of R55 and their widths (R96, R132, R151). -/

namespace Sys2Proof

/-- The type of a code 0 to 14 (R55). -/
def Ty.ofCode (c : Nat) : Option Ty :=
  [Ty.s8, .s16, .s32, .s64, .n8, .n16, .n32, .n64, .b32, .f32, .f16, .bf16, .e4m3, .e5m2, .e2m1][c]?

/-- The code of a type (R55). -/
def Ty.code : Ty → Nat
  | .s8 => 0 | .s16 => 1 | .s32 => 2 | .s64 => 3 | .n8 => 4 | .n16 => 5 | .n32 => 6 | .n64 => 7 | .b32 => 8
  | .f32 => 9 | .f16 => 10 | .bf16 => 11 | .e4m3 => 12 | .e5m2 => 13 | .e2m1 => 14

/-- Width of a type in bits (R96, R132, R151). -/
def Ty.width : Ty → Nat
  | .s8 => 8 | .s16 => 16 | .s32 => 32 | .s64 => 64 | .n8 => 8 | .n16 => 16 | .n32 => 32 | .n64 => 64 | .b32 => 32
  | .f32 => 32 | .f16 => 16 | .bf16 => 16 | .e4m3 => 8 | .e5m2 => 8 | .e2m1 => 4

/-- Is the type signed? -/
def Ty.signed : Ty → Bool
  | .s8 => true | .s16 => true | .s32 => true | .s64 => true | _ => false

/-- Elements per 32-bit lane (R132, R151). -/
def Ty.elems (t : Ty) : Nat := max 1 (32 / t.width)

end Sys2Proof
end

