-- ==== Sys2Proof/WellFormed.lean ====
section
/-! DEFINITION. Which words are instructions: for every operation the operands, types and modifiers that its entry
accepts, on typed operands. The decoder makes these checks in the order of R59. -/

namespace Sys2Proof

/-- The form of a step: a strand word of one of four forms with its class and operation (R46 to R50, R61), a Whorl word
(R386), or an event. -/
inductive Form where
  | o3 (cls op : Nat) (w : O3)
  | i32 (op : Nat) (w : I32)
  | b24 (op : Nat) (w : B24)
  | nop (w : FormN)
  | whorl (op : Nat) (w : WW)
  | event
  deriving DecidableEq, Repr

/-! ### Operand shorthands (R155, R186, R204, R309) -/

/-- A vector register. -/
def Src.isV : Src → Bool
  | .v _ => true | _ => false
/-- A scalar register s0 to s31. -/
def Src.isS : Src → Bool
  | .s _ => true | _ => false
/-- A predicate. -/
def Src.isP : Src → Bool
  | .p _ => true | _ => false
/-- A handle. -/
def Src.isH : Src → Bool
  | .h _ => true | _ => false
/-- STG. -/
def Src.isStg : Src → Bool
  | .stg => true | _ => false
/-- A constant-bank entry. -/
def Src.isCb : Src → Bool
  | .cb _ => true | _ => false
/-- A literal from `lo` to `hi`. -/
def Src.isLit (lo hi : Nat) : Src → Bool
  | .lit i => decide (lo ≤ i.toNat) && decide (i.toNat ≤ hi)
  | _ => false
/-- The value of a literal, 0 for any other source. -/
def Src.litVal : Src → Nat
  | .lit i => i.toNat | _ => 0
/-- The field is zero (R47). -/
def Src.isNone (x : Src) : Bool := x = .v 0
/-- Any source of the scalar ALU (R96). -/
def Src.isScalar (x : Src) : Bool := x.isS || x.isStg || x.isCb || x.isLit 0 255
/-- s, constant bank or literal. -/
def Src.isX (x : Src) : Bool := x.isS || x.isCb || x.isLit 0 255
/-- s or constant bank. -/
def Src.isSC (x : Src) : Bool := x.isS || x.isCb
/-- A source of a vector word (R133). -/
def Src.isVec (x : Src) : Bool := x.isV || x.isX
/-- s, or a literal up to `hi`. -/
def Src.isSL (hi : Nat) (x : Src) : Bool := x.isS || x.isLit 0 hi
/-- s, constant bank, or a literal from `lo`. -/
def Src.isXFrom (lo : Nat) (x : Src) : Bool := x.isS || x.isCb || x.isLit lo 255
/-- A parameter block (R159). -/
def Src.isPB : Src → Bool
  | .s r => decide (r.val ≤ 29) | .cb i => decide (i.toNat ≤ 253) | _ => false

/-- A vector destination. -/
def Dst.isV : Dst → Bool
  | .v _ => true | _ => false
/-- A scalar destination. -/
def Dst.isS : Dst → Bool
  | .s _ => true | _ => false
/-- A predicate destination, p0 never (R51). -/
def Dst.isP : Dst → Bool
  | .p r => decide (r ≠ 0) | _ => false
/-- A handle destination. -/
def Dst.isH : Dst → Bool
  | .h _ => true | _ => false
/-- No destination. -/
def Dst.isNone (d : Dst) : Bool := d = .v 0
/-- s, or none. -/
def Dst.isS0 (d : Dst) : Bool := d.isS || d.isNone

/-! ### Types -/

/-- The eight integer types. -/
def Ty.isInt : Ty → Bool
  | .s8 => true | .s16 => true | .s32 => true | .s64 => true | .n8 => true | .n16 => true | .n32 => true | .n64 => true
  | _ => false
/-- The integer types of a vector element. -/
def Ty.isVInt (t : Ty) : Bool := t.isInt && t.width ≠ 64
/-- An integer type or .b32. -/
def Ty.isIntB (t : Ty) : Bool := t.isInt || t = .b32
/-- An integer type of an element, or .b32. -/
def Ty.isVIntB (t : Ty) : Bool := t.isVInt || t = .b32
/-- .f32, .f16 or .bf16. -/
def Ty.isF3 (t : Ty) : Bool := t = .f32 || t = .f16 || t = .bf16
/-- The floating-point types. -/
def Ty.isF (t : Ty) : Bool := t.isF3 || t = .e4m3 || t = .e5m2 || t = .e2m1
/-- The 32- and 64-bit integer types. -/
def Ty.isAtomInt (t : Ty) : Bool := t = .s32 || t = .n32 || t = .s64 || t = .n64

/-! ### Operand signatures -/

/-- What an operation accepts: `none` where it has no such operand and the field is zero. `tyR` and `modR` are the reasons
of R64 for a TYPE and a MOD it does not accept: 4 where the entry calls the field reserved, else 6 and 7. -/
structure Sig where
  dst : Option (Dst → Bool) := none
  a : Option (Src → Bool) := none
  b : Option (Src → Bool) := none
  c : Option (Src → Bool) := none
  ty : Option (Ty → Bool) := none
  mod : O3 → Bool := fun w => w.mod = 0
  tyR : Nat := 6
  modR : Nat := 7
  x6 : O3 → Bool := fun _ => true
  x7 : O3 → Bool := fun _ => true

/-- MOD is 0, or saturation alone. -/
def modSat (w : O3) : Bool := w.mod = 0 || w.mod = 8
/-- A rounding mode without RSR and saturation (R138). -/
def modRound (w : O3) : Bool := w.mod.toNat % 8 ≤ 3 || w.mod.toNat % 8 = 7
/-- The code RN or S of R156 by TYPE. -/
def modRN (w : O3) : Bool := if w.ty = .f32 then w.mod.toNat ≤ 3 || w.mod = 7 else w.mod = 0 || w.mod = 8
/-- A condition (R99). -/
def modCond (w : O3) : Bool := w.mod.toNat ≤ 5 || (w.mod.toNat ≤ 7 && w.ty = .f32)
/-- Orderings of loads (R188). -/
def modLoad (w : O3) : Bool := w.mod.toNat ≤ 1
/-- Orderings of stores (R188). -/
def modStore (w : O3) : Bool := w.mod = 0 || w.mod = 2
/-- An ATOM operation (R238, R241). -/
def modAtom (w : O3) : Bool := w.mod.toNat ≤ 5 && (w.ty ≠ .f32 || w.mod = 0)
/-- The observer mask of an ordered access, absent in a plain one (R188). -/
def orderMask (w : O3) : Bool := if w.mod.toNat % 4 = 0 then w.c.isNone else w.c.isLit 1 31
/-- The ordering field of class 0x15 with the orderings allowed (R238). -/
def orderField (ords : List Nat) (x : Src) : Bool :=
  (x.isNone && ords.contains 0) ||
    (x.isLit 0 127 && decide (x.litVal / 32 ≠ 0) && ords.contains (x.litVal / 32) && decide (x.litVal % 32 ≠ 0))

/-- The source type that a conversion's literal names (R157). -/
def cvtSrc (w : O3) : Option Ty :=
  [Ty.s8, .s16, .s32, .s64, .n8, .n16, .n32, .n64, .b32, .f32, .f16, .bf16, .e4m3, .e5m2, .e2m1][w.c.litVal % 16]?
/-- The group of a conversion's literal (R157). -/
def cvtGroup (w : O3) : Nat := w.c.litVal / 16 % 4
/-- The group is in range (R157, R158). A type that has no E, and is refused later, leaves it open here, but beside .e2m1 (R151). -/
def cvtGroupOk (w : O3) : Bool :=
  match cvtSrc w with
  | none => decide (w.ty ≠ .e2m1) || decide (cvtGroup w = 0)
  | some t =>
    if t = .e2m1 ∨ w.ty = .e2m1 then cvtGroup w = 0
    else if t.width = 64 ∨ w.ty.width = 64 then true
    else if w.ty.elems < t.elems then decide (cvtGroup w < t.elems / w.ty.elems) else cvtGroup w = 0
/-- The source type is legal for VCVT (R151, R157, R158). -/
def cvtTypeOk (w : O3) : Bool :=
  match cvtSrc w with
  | none => false
  | some t => t ≠ .b32 && t ≠ .s64 && t ≠ .n64 && (t ≠ .e2m1 || w.ty = .f32) && (w.ty ≠ .e2m1 || t = .f32)
/-- The source type is legal for VCVTSR (R160). -/
def cvtsrTypeOk (w : O3) : Bool :=
  match cvtSrc w with
  | none => false
  | some t => t.isF && decide (w.ty.width < t.width) && (w.ty ≠ .e2m1 || t = .f32)

/-- Class 0x01 (R96 to R99). -/
def sig01 (op : Nat) : Sig :=
  let sc := some Src.isScalar
  let s := some Dst.isS
  let int := some Ty.isInt
  let intB := some Ty.isIntB
  match op with
  | 0x01 => { dst := s, a := sc, b := sc, ty := int, mod := modSat }
  | 0x02 => { dst := s, a := sc, b := sc, ty := int, mod := modSat }
  | 0x03 => { dst := s, a := sc, b := sc, ty := int, mod := modSat }
  | 0x04 => { dst := s, a := sc, b := sc, ty := int }
  | 0x05 => { dst := s, a := sc, b := sc, c := sc, ty := int, mod := modSat }
  | 0x0A => { dst := s, a := sc, b := sc, ty := intB, mod := modSat }
  | 0x0E => { dst := s, a := sc, b := sc, ty := some fun t => t.isInt || t = .f32 }
  | 0x0F => { dst := s, a := sc, b := sc, ty := some fun t => t.isInt || t = .f32 }
  | 0x10 => { dst := s, a := sc, ty := some Ty.signed, mod := modSat }
  | 0x11 => { dst := s, a := sc, ty := int, mod := modSat }
  | 0x12 => { dst := s, a := sc, ty := intB }
  | 0x13 => { dst := s, a := sc, ty := intB }
  | 0x14 => { dst := s, a := sc, b := sc, c := sc, ty := intB }
  | 0x15 => { dst := s, a := sc, b := sc, c := sc, ty := intB }
  | 0x16 => { dst := some fun d => d.isS || d.isP, a := sc, b := sc, ty := some fun t => t.isInt || t = .f32,
              mod := modCond }
  | 0x17 => { dst := s, a := sc, b := sc, c := some fun x => x.isScalar || x.isP, ty := intB }
  | 0x18 => { dst := some fun d => d.isS || d.isP, a := some fun x => x.isScalar || x.isP, ty := intB,
              x7 := fun w => (!w.dst.isP && !w.a.isP) || w.ty = .n64 }
  | 0x19 => { dst := s, a := some (Src.isLit 0 3), ty := some fun t => t = .s64 || t = .n64 }
  | _ => { dst := s, a := sc, b := sc, ty := intB }

/-- Form O3 of class 0x03 (R101, R103, R105, R107). -/
def sig03 (op : Nat) : Sig :=
  match op with
  | 0x03 => { a := some Src.isSC, tyR := 4, modR := 4 }
  | 0x05 => { a := some Src.isSC, tyR := 4, modR := 4 }
  | 0x08 => { dst := some fun d => d.isV || d.isS, a := some (Src.isLit 0 5), tyR := 4, modR := 4,
              x6 := fun w => w.dst.isV = decide (w.a.litVal ≤ 3) }
  | _ => { tyR := 4, modR := 4 }

/-- Class 0x04 (R122). -/
def sig04 (op : Nat) : Sig :=
  let s := some Dst.isS
  let x := some Src.isX
  match op with
  | 0x01 => { a := some (Src.isSL 255), modR := 4 }
  | 0x03 => { dst := s, a := some (Src.isSL 0x13), modR := 4 }
  | 0x04 => { a := some (Src.isSL 0x13), b := x, modR := 4 }
  | 0x05 => { a := some (Src.isSL 3), b := some Src.isSC, c := x, modR := 4 }
  | 0x06 => { dst := s, a := some (Src.isSL 15), modR := 4 }
  | 0x07 => { dst := s, modR := 4 }
  | 0x08 => { dst := s, a := x, b := x, modR := 4 }
  | 0x09 => { a := some Src.isH, b := x, modR := 4 }
  | 0x0A => { a := some Src.isH, b := x, modR := 4 }
  | _ => { modR := 4 }

/-- Class 0x08 (R138 to R143). -/
def sig08 (op : Nat) : Sig :=
  let v := some Dst.isV
  let x := some Src.isVec
  let f := some Ty.isF3
  match op with
  | 0x04 => { dst := v, a := x, b := x, c := x, ty := f, mod := modRound }
  | 0x05 => { dst := v, a := x, b := x, c := x, ty := f, mod := modRound }
  | 0x06 => { dst := v, a := x, b := x, c := x, ty := f, mod := modRound }
  | 0x09 => { dst := v, a := x, ty := f, mod := modRound }
  | 0x0A => { dst := v, a := x, ty := f, mod := modRound }
  | 0x0B => { dst := v, a := x, b := some fun y => y.isV || y.isSC, ty := f, mod := modRound }
  | 0x0C => { dst := some Dst.isP, a := x, b := x, c := some (Src.isLit 0 31), ty := f,
              x6 := fun w => decide (w.ty.width = 64) || decide (w.c.litVal / 8 < w.ty.elems) }
  | 0x0D => { dst := v, a := x, ty := f }
  | _ => { dst := v, a := x, b := x, ty := f, mod := modRound }

/-- Class 0x09 (R147 to R150). -/
def sig09 (op : Nat) : Sig :=
  let v := some Dst.isV
  let x := some Src.isVec
  let int := some Ty.isVInt
  let intB := some Ty.isVIntB
  match op with
  | 0x01 => { dst := v, a := x, b := x, ty := int, mod := modSat }
  | 0x02 => { dst := v, a := x, b := x, ty := int, mod := modSat }
  | 0x03 => { dst := v, a := x, b := x, ty := int, mod := modSat }
  | 0x04 => { dst := v, a := x, b := x, ty := int }
  | 0x05 => { dst := v, a := x, b := x, c := x, ty := int, mod := modSat }
  | 0x06 => { dst := v, a := x, b := x, ty := int }
  | 0x07 => { dst := v, a := x, b := x, ty := int }
  | 0x08 => { dst := v, a := x, ty := some fun t => t.isVInt && t.signed, mod := modSat }
  | 0x0D => { dst := v, a := x, ty := intB }
  | 0x0E => { dst := v, a := x, b := x, ty := intB, mod := modSat }
  | 0x12 => { dst := some Dst.isP, a := x, b := x, c := some (Src.isLit 0 31), ty := int,
              x6 := fun w => (decide (w.ty.width = 64) || decide (w.c.litVal / 8 < w.ty.elems)) && decide (w.c.litVal % 8 ≤ 5) }
  | 0x13 => { dst := v, a := x, b := x, c := some Src.isP, ty := some fun t => t = .b32 }
  | 0x14 => { dst := v, a := x, ty := intB }
  | 0x15 => { dst := v, a := x, ty := intB }
  | _ => { dst := v, a := x, b := x, ty := intB }

/-- Class 0x0A (R144 to R146). -/
def sig0A (op : Nat) : Sig :=
  let x := some Src.isVec
  let f := some fun t : Ty => decide (t = .f32)
  let n := some (Src.isLit 0 3)
  match op with
  | 0x01 => { a := x, b := x, c := n, ty := f, mod := modRound }
  | 0x07 => { a := some Src.isX, b := some Src.isX, c := some (Src.isLit 4 5), ty := some Ty.isInt, mod := modSat }
  | 0x08 => { a := some Src.isX, b := some Src.isX, c := some (Src.isLit 4 5), ty := some Ty.isInt }
  | _ => { a := x, c := n, ty := f, mod := modRound }

/-- Class 0x0B (R155 to R167). -/
def sig0B (op : Nat) : Sig :=
  let v := some Dst.isV
  let s := some Dst.isS
  let vr := some Src.isV
  let x := some Src.isX
  let b32 := some fun t : Ty => decide (t = .b32)
  let narrow := some fun t : Ty => decide (t.width ≤ 16)
  let num := some fun t : Ty => t = .f32 || t = .s32 || t = .n32
  match op with
  | 0x01 => { dst := v, a := vr, c := some (Src.isLit 0 63), ty := some fun t => t ≠ .b32 && t.width ≠ 64, mod := modRound,
              x6 := cvtGroupOk, x7 := cvtTypeOk }
  | 0x02 => { dst := v, a := vr, b := some Src.isPB, c := some (Src.isLit 0 63), ty := some fun t => t.isF && t ≠ .f32,
              mod := modSat, x6 := fun w => decide (cvtGroup w = 0) || decide (w.ty ≠ .e2m1) && (decide (w.ty.width = 64) || (cvtSrc w).any fun t => decide (t.width = 64)),
              x7 := cvtsrTypeOk }
  | 0x03 => { dst := v, a := vr, b := vr, c := some (Src.isLit 0 3), ty := narrow,
              x6 := fun w => decide (w.ty.width = 64) || decide (w.c.litVal < w.ty.elems / 2) }
  | 0x04 => { dst := v, a := vr, c := some (Src.isLit 0 7), ty := narrow,
              x6 := fun w => decide (w.ty.width = 64) || decide (w.c.litVal < w.ty.elems) }
  | 0x05 => { dst := v, a := vr, b := x, ty := b32 }
  | 0x06 => { dst := v, a := vr, b := vr, ty := b32 }
  | 0x07 => { dst := v, a := vr, b := vr, c := some (Src.isLit 0 3), ty := b32 }
  | 0x08 => { dst := v, a := vr, b := x, ty := b32 }
  | 0x09 => { dst := v, a := vr, b := some Src.isP, ty := b32 }
  | 0x0A => { dst := v, a := vr, b := some Src.isP, ty := b32 }
  | 0x0B => { dst := v, a := x, b := x, ty := some fun t => t = .s32 || t = .n32 }
  | 0x0C => { dst := v, a := vr, ty := b32 }
  | 0x0D => { dst := s, a := vr, b := x, ty := some fun t => t = .b32 || t = .s32 }
  | 0x0E => { dst := v, a := x, b := x, ty := b32 }
  | 0x0F => { dst := s, a := vr, ty := num, mod := modRN }
  | 0x10 => { dst := s, a := vr, ty := num }
  | 0x11 => { dst := s, a := vr, ty := num }
  | 0x12 => { dst := v, a := vr, ty := num, mod := modRN }
  | 0x13 => { dst := v, a := some Src.isPB, c := some (Src.isLit 0 3), ty := b32 }
  | _ => { dst := v, a := some Src.isPB, c := some (Src.isLit 0 7), ty := some fun t => t = .f32 }

/-- Class 0x0C (R168). -/
def sig0C (op : Nat) : Sig :=
  let p := some Dst.isP
  let ps := some Src.isP
  match op with
  | 0x05 => { dst := p, a := ps }
  | 0x06 => { dst := p, a := some fun x => x.isV || x.isX }
  | 0x07 => { dst := some Dst.isV, a := ps }
  | 0x08 => { dst := some Dst.isS, a := ps }
  | 0x09 => { dst := some Dst.isS, a := ps }
  | 0x0A => { dst := p, a := ps }
  | _ => { dst := p, a := ps, b := ps }

/-- Class 0x10 (R186 to R194). -/
def sig10 (op : Nat) : Sig :=
  let s := some Dst.isS
  let v := some Dst.isV
  let h := some Src.isH
  let off := some Src.isX
  let any := some fun _ : Src => true
  let intB := some Ty.isIntB
  let b32 := some fun t : Ty => decide (t = .b32)
  match op with
  | 0x01 => { dst := s, a := h, b := off, c := any, ty := intB, mod := modLoad, x6 := orderMask }
  | 0x02 => { dst := s, a := h, b := off, c := any, ty := intB, mod := modStore, x6 := orderMask }
  | 0x03 => { dst := v, a := h, b := off, c := any, ty := b32, mod := modLoad, x6 := orderMask }
  | 0x04 => { dst := v, a := h, b := off, c := any, ty := b32, mod := modStore, x6 := orderMask }
  | 0x05 => { dst := v, a := h, b := off, c := some Src.isV, ty := b32 }
  | 0x06 => { dst := v, a := h, b := off, c := some Src.isV, ty := b32 }
  | 0x07 => { dst := v, a := off, c := any, ty := b32, mod := fun w => w.mod.toNat ≤ 1,
              x6 := fun w => if w.mod.toNat % 2 = 1 then w.c.isX else w.c.isNone }
  | 0x08 => { dst := v, a := off, ty := b32 }
  | 0x09 => { dst := s, a := some (Src.isLit 0 255), mod := fun w => w.mod.toNat ≤ 7 }
  | 0x0A => { dst := s, a := some (Src.isLit 0 255), mod := fun w => w.mod.toNat ≤ 7 }
  | _ => { a := some (Src.isLit 0 255), b := some (Src.isLit 0 255),
           x6 := fun w => decide (w.a.litVal + w.b.litVal + 1 ≤ 256) }

/-- Class 0x11 (R195). -/
def sig11 (op : Nat) : Sig :=
  match op with
  | 0x01 => { dst := some Dst.isH, a := some Src.isSC, modR := 4 }
  | 0x02 => { dst := some Dst.isH, modR := 4 }
  | 0x03 => { dst := some Dst.isS, a := some Src.isH, modR := 4 }
  | 0x04 => { a := some Src.isH, b := some Src.isX, c := some Src.isSC, modR := 4 }
  | 0x05 => { a := some (Src.isSL 15), modR := 4 }
  | 0x06 => { a := some (Src.isSL 15), modR := 4 }
  | 0x07 => { a := some (Src.isSL 15), modR := 4 }
  | 0x08 => { dst := some fun d => d.isP || d.isS, modR := 4 }
  | 0x09 => { a := some Src.isH, b := some (Src.isLit 0 63), modR := 4 }
  | _ => { modR := 4 }

/-- Class 0x14 (R203, R204, R214, R221). -/
def sig14 (op : Nat) : Sig :=
  let k := some (Src.isSL 63)
  let sp := some (Src.isSL 15)
  let ph := some (Src.isLit 0 0x4F)
  let e := some (Src.isLit 0 40)
  let s := some Dst.isS
  let s0 := some Dst.isS0
  match op with
  | 0x01 => { a := k, b := some (Src.isXFrom 1), modR := 4 }
  | 0x02 => { a := k, b := some Src.isX, c := e, modR := 4 }
  | 0x03 => { a := k, b := some Src.isX, modR := 4 }
  | 0x04 => { dst := s, a := k, modR := 4 }
  | 0x05 => { a := sp, b := some Src.isSC, modR := 4 }
  | 0x06 => { dst := s, a := sp, c := e, modR := 4 }
  | 0x07 => { dst := s, a := sp, c := e, modR := 4 }
  | 0x08 => { a := sp, modR := 4 }
  | 0x09 => { a := sp, modR := 4 }
  | 0x0A => { a := ph, b := some (Src.isLit 1 3), modR := 4 }
  | 0x0B => { a := ph, modR := 4 }
  | 0x0C => { a := ph, modR := 4 }
  | 0x0D => { dst := s0, a := ph, c := e, modR := 4 }
  | 0x0E => { dst := s0, a := ph, c := e, modR := 4 }
  | _ => { dst := s0, a := some Src.isSC, modR := 4 }

/-- Class 0x15 (R238). -/
def sig15 (op : Nat) : Sig :=
  let s := some Dst.isS
  let h := some Src.isH
  let off := some Src.isX
  let atom := some fun t : Ty => t.isAtomInt || t = .f32
  let cas := some fun t : Ty => t.isAtomInt || t = .b32
  match op with
  | 0x01 => { a := some (Src.isLit 1 3), b := some (Src.isLit 1 31) }
  | 0x02 => { dst := s, a := h, b := off, c := some (orderField [0, 2]), ty := atom, mod := modAtom }
  | 0x03 => { dst := s, a := h, b := off, c := some (orderField [0, 1, 2, 3]), ty := atom, mod := modAtom }
  | 0x04 => { dst := some fun d => d.isS && d ≠ .s 31, a := h, b := off, c := some (orderField [0, 1, 2, 3]), ty := cas }
  | _ => { dst := s, a := h, b := off, c := some (orderField [0, 1, 2, 3]), ty := cas }

/-- Class 0x18 (R255, 13). DESIGN CHOICE (log entry 119): the kind 01 of its columns is s0 to s31; the p, h and STG indices of R52 have
reason 5. -/
def sig18 (op : Nat) : Sig :=
  let x := some Src.isX
  let s0 := some Dst.isS0
  match op with
  | 0x01 => { dst := s0, a := x, b := x, c := x, modR := 4 }
  | 0x02 => { dst := some Dst.isS, a := some (Src.isSL 4), b := some (Src.isLit 0 4), modR := 4 }
  | 0x03 => { dst := s0, a := x, b := x, c := some (Src.isSL 3), modR := 4 }
  | 0x04 => { a := x, modR := 4 }
  | _ => { dst := s0, a := some fun y => y.isS || y.isLit 1 15, c := some (Src.isLit 0 40), modR := 4 }

/-- Class 0x1C (R309). -/
def sig1C (op : Nat) : Sig :=
  let s := some Dst.isS
  let z := some (Src.isSL 15)
  let wn := some (Src.isSL 63)
  let x := some Src.isX
  let sc := some Src.isSC
  let e := some (Src.isLit 0 40)
  match op with
  | 0x01 => { a := z, b := sc, c := some fun y => y.isSC || y.isNone, modR := 4 }
  | 0x02 => { dst := s, a := z, c := e, modR := 4 }
  | 0x03 => { a := z, modR := 4 }
  | 0x04 => { dst := s, a := z, c := e, modR := 4 }
  | 0x05 => { dst := s, a := z, b := some (Src.isLit 0 1), modR := 4 }
  | 0x06 => { dst := s, a := sc, b := x, ty := some fun t => t.isAtomInt || t = .b32, modR := 4 }
  | 0x07 => { dst := s, a := sc, b := x, ty := some fun t => t.isAtomInt || t = .f32, mod := modAtom }
  | 0x08 => { a := x, modR := 4 }
  | 0x09 => { modR := 4 }
  | 0x0A => { dst := s, modR := 4 }
  | 0x0B => { a := wn, b := sc, modR := 4 }
  | 0x0C => { a := wn, b := some Src.isV, c := some Src.isP,
              ty := some fun t => t.isF3 || t = .s32 || t = .n32, modR := 4 }
  | 0x0D => { dst := s, a := wn, b := some (Src.isLit 0 3), modR := 4 }
  | 0x0E => { a := wn, modR := 4 }
  | _ => { dst := s, a := some (Src.isSL 19), modR := 4 }

/-- Class 0x20 (R344, R346). -/
def sig20 (op : Nat) : Sig :=
  let s := some Dst.isS
  let sc := some Src.isSC
  let x := some Src.isX
  match op with
  | 0x01 => { dst := s, a := some (Src.isLit 0 1), modR := 4 }
  | 0x02 => { a := x, modR := 4, x6 := fun w => w.a.litVal % 4 + 32 * (w.a.litVal / 32 % 2) = w.a.litVal }
  | 0x03 => { dst := s, a := sc, c := some (Src.isLit 0 40), modR := 4 }
  | 0x04 => { dst := some Dst.isS0, a := sc, b := x, ty := some fun t => t = .f32, modR := 4 }
  | 0x05 => { dst := s, a := some fun y => y.isSC || y.isNone, modR := 4 }
  | 0x06 => { dst := s, a := some (Src.isLit 0 5), modR := 4 }
  | 0x07 => { a := some fun y => y.isLit 1 2 || y.isLit 4 4, modR := 4 }
  | 0x08 => { a := x, modR := 4 }
  | 0x09 => { a := some Src.isH, modR := 4 }
  | _ => { a := some (Src.isLit 0 15), b := sc, c := sc, modR := 4 }

/-- Class 0x24 (R396). -/
def sig24 (op : Nat) : Sig :=
  match op with
  | 0x01 => { a := some (Src.isLit 0 255), modR := 4 }
  | 0x02 => { a := some (Src.isSL 255), b := some Src.isX, modR := 4 }
  | _ => { dst := some Dst.isS, modR := 4 }

/-- The signature of an operation of form O3. -/
def sig (cls op : Nat) : Sig :=
  match cls with
  | 0x01 => sig01 op
  | 0x03 => sig03 op
  | 0x04 => sig04 op
  | 0x08 => sig08 op
  | 0x09 => sig09 op
  | 0x0A => sig0A op
  | 0x0B => sig0B op
  | 0x0C => sig0C op
  | 0x10 => sig10 op
  | 0x11 => sig11 op
  | 0x14 => sig14 op
  | 0x15 => sig15 op
  | 0x18 => sig18 op
  | 0x1C => sig1C op
  | 0x20 => sig20 op
  | _ => sig24 op

/-! ### Checks on typed words -/

/-- A source an operation may not have is absent, one it has is accepted. -/
def srcOk (f : Option (Src → Bool)) (x : Src) : Bool :=
  match f with
  | none => x.isNone
  | some p => p x

/-- The same for the destination. -/
def dstOk (f : Option (Dst → Bool)) (d : Dst) : Bool :=
  match f with
  | none => d.isNone
  | some p => p d

/-- Step 6 of R59. -/
def ok6 (g : Sig) (w : O3) : Bool :=
  dstOk g.dst w.dst && srcOk g.a w.a && srcOk g.b w.b && srcOk g.c w.c && g.x6 w

/-- Step 7 of R59. -/
def ok7 (g : Sig) (w : O3) : Bool :=
  (match g.ty with | none => w.ty = .s8 | some p => p w.ty) && g.x7 w

/-- The vector registers that a word names, in the order DST, SA, SB, SC, as the number of their cluster (R57). -/
def clustersOf (g : Sig) (w : O3) : List Bool :=
  (match w.dst with | .v r => if g.dst.isSome then [decide (32 ≤ r.val)] else [] | _ => []) ++
  (match w.a with | .v r => if g.a.isSome then [decide (32 ≤ r.val)] else [] | _ => []) ++
  (match w.b with | .v r => if g.b.isSome then [decide (32 ≤ r.val)] else [] | _ => []) ++
  (match w.c with | .v r => if g.c.isSome then [decide (32 ≤ r.val)] else [] | _ => [])

/-- Is the word of a vector category, its registers all of one cluster? (R57, R155, R168). DESIGN CHOICE (log
entry 110): VLDX and VSTX, which issue alone, may name registers of both clusters. -/
def clustersOk (cls op : Nat) (w : O3) : Bool :=
  let cs := clustersOf (sig cls op) w
  if cls = 0x0C then cs.all (fun b => b)
  else if cls = 0x08 ∨ cls = 0x09 ∨ (cls = 0x0A ∧ op ≤ 6) ∨ (cls = 0x0B ∧ op ≠ 0x0C) then
    cs.all (fun b => b) || cs.all (fun b => !b)
  else true

/-- A guard that is not p0 negated (R54). -/
def guardOk (g : Fin 16) (gn : Bool) : Bool := !(decide (g = 0) && gn)

/-- Classes in which V = 1 is legal (R60). -/
def votable (cls : Nat) : Bool := cls = 0x01 || cls = 0x02 || cls = 0x03

/-- A LOOP or LOOPI ends no earlier than its body's first group (R104). -/
def loopEndOk (w : B24) : Bool :=
  let o := w.off.toInt
  if w.p then decide (2 ≤ o) else decide (1 ≤ o)

/-- The 10-bit source field of LOOP in AUX[25:16] (R104): kind 01 s, kind 10 or kind 11. -/
def loopSrcOk (f : Nat) : Bool := (f / 256 = 1 && decide (f % 256 < 32)) || f / 256 = 2 || f / 256 = 3

/-- Is the word of a form legal by every check of R59 that looks at one word? -/
def Form.wf : Form → Bool
  | .o3 cls op w =>
    let g := sig cls op
    (!w.v || votable cls) && ok6 g w && ok7 g w && g.mod w && guardOk w.g w.gn && clustersOk cls op w
  | .i32 op w =>
    w.dst.isS && (if op = 2 then w.ty = .s8 else w.ty.isInt) && guardOk w.g w.gn
  | .b24 op w =>
    guardOk w.g w.gn &&
      (if op = 6 then decide (w.aux.toNat % 8 = 0) && loopSrcOk (w.aux.toNat / 8) && loopEndOk w
       else if op = 7 then loopEndOk w
       else w.aux = 0 && w.lid = 0)
  | .nop _ => true
  | .whorl op w =>
    let d := w.d = 0
    let a := w.a = 0
    let b := w.b = 0
    let i := w.imm = 0
    if op = 0x01 then a && b && decide (w.imm.toNat ≤ 5)
    else if op = 0x02 then a && b
    else if op = 0x03 ∨ op = 0x06 then b
    else if op = 0x0B ∨ op = 0x0C then b && decide (w.imm.toNat ≤ 63)
    else if op = 0x04 ∨ op = 0x0F ∨ op = 0x10 ∨ op = 0x11 ∨ op = 0x12 ∨ op = 0x13 then d
    else if op = 0x14 ∨ op = 0x15 then d && b
    else if op = 0x16 then d && i
    else if op = 0x17 then d && a && b && i
    else i
  | .event => false

/-- The form, class and operation of a step (R61, R386). -/
def Instr.form : Instr → Form
  | .add w => .o3 0x01 0x01 w
  | .sub w => .o3 0x01 0x02 w
  | .mul w => .o3 0x01 0x03 w
  | .mulh w => .o3 0x01 0x04 w
  | .madd w => .o3 0x01 0x05 w
  | .and w => .o3 0x01 0x06 w
  | .or w => .o3 0x01 0x07 w
  | .xor w => .o3 0x01 0x08 w
  | .andn w => .o3 0x01 0x09 w
  | .shl w => .o3 0x01 0x0A w
  | .shr w => .o3 0x01 0x0B w
  | .sra w => .o3 0x01 0x0C w
  | .rotl w => .o3 0x01 0x0D w
  | .min w => .o3 0x01 0x0E w
  | .max w => .o3 0x01 0x0F w
  | .abs w => .o3 0x01 0x10 w
  | .neg w => .o3 0x01 0x11 w
  | .clz w => .o3 0x01 0x12 w
  | .popc w => .o3 0x01 0x13 w
  | .bfx w => .o3 0x01 0x14 w
  | .bfi w => .o3 0x01 0x15 w
  | .cmp w => .o3 0x01 0x16 w
  | .sel w => .o3 0x01 0x17 w
  | .mov w => .o3 0x01 0x18 w
  | .idx w => .o3 0x01 0x19 w
  | .li w => .i32 0x01 w
  | .lih w => .i32 0x02 w
  | .addi w => .i32 0x03 w
  | .muli w => .i32 0x04 w
  | .andi w => .i32 0x05 w
  | .ori w => .i32 0x06 w
  | .xori w => .i32 0x07 w
  | .br w => .b24 0x01 w
  | .call w => .b24 0x02 w
  | .calli w => .o3 0x03 0x03 w
  | .ret w => .o3 0x03 0x04 w
  | .jmpi w => .o3 0x03 0x05 w
  | .loop w => .b24 0x06 w
  | .loopi w => .b24 0x07 w
  | .movl w => .o3 0x03 0x08 w
  | .nop w => .nop w
  | .halt w => .o3 0x03 0x0A w
  | .yield w => .o3 0x03 0x0B w
  | .trap w => .o3 0x04 0x01 w
  | .eret w => .o3 0x04 0x02 w
  | .mfcr w => .o3 0x04 0x03 w
  | .mtcr w => .o3 0x04 0x04 w
  | .strstart w => .o3 0x04 0x05 w
  | .strwait w => .o3 0x04 0x06 w
  | .strid w => .o3 0x04 0x07 w
  | .setfp w => .o3 0x04 0x08 w
  | .ctxsv w => .o3 0x04 0x09 w
  | .ctxld w => .o3 0x04 0x0A w
  | .vadd w => .o3 0x08 0x01 w
  | .vsub w => .o3 0x08 0x02 w
  | .vmul w => .o3 0x08 0x03 w
  | .vfma w => .o3 0x08 0x04 w
  | .vfms w => .o3 0x08 0x05 w
  | .vfnma w => .o3 0x08 0x06 w
  | .vmin w => .o3 0x08 0x07 w
  | .vmax w => .o3 0x08 0x08 w
  | .vabs w => .o3 0x08 0x09 w
  | .vneg w => .o3 0x08 0x0A w
  | .vscale w => .o3 0x08 0x0B w
  | .vcmp w => .o3 0x08 0x0C w
  | .vclass w => .o3 0x08 0x0D w
  | .viadd w => .o3 0x09 0x01 w
  | .visub w => .o3 0x09 0x02 w
  | .vimul w => .o3 0x09 0x03 w
  | .vimulh w => .o3 0x09 0x04 w
  | .vimadd w => .o3 0x09 0x05 w
  | .vimin w => .o3 0x09 0x06 w
  | .vimax w => .o3 0x09 0x07 w
  | .viabs w => .o3 0x09 0x08 w
  | .vand w => .o3 0x09 0x09 w
  | .vor w => .o3 0x09 0x0A w
  | .vxor w => .o3 0x09 0x0B w
  | .vandn w => .o3 0x09 0x0C w
  | .vnot w => .o3 0x09 0x0D w
  | .vshl w => .o3 0x09 0x0E w
  | .vshr w => .o3 0x09 0x0F w
  | .vsra w => .o3 0x09 0x10 w
  | .vrotl w => .o3 0x09 0x11 w
  | .vicmp w => .o3 0x09 0x12 w
  | .vsel w => .o3 0x09 0x13 w
  | .vclz w => .o3 0x09 0x14 w
  | .vpopc w => .o3 0x09 0x15 w
  | .vdiv w => .o3 0x0A 0x01 w
  | .vsqrt w => .o3 0x0A 0x02 w
  | .vrsqrt w => .o3 0x0A 0x03 w
  | .vrcp w => .o3 0x0A 0x04 w
  | .vexp2 w => .o3 0x0A 0x05 w
  | .vlog2 w => .o3 0x0A 0x06 w
  | .div w => .o3 0x0A 0x07 w
  | .rem w => .o3 0x0A 0x08 w
  | .vcvt w => .o3 0x0B 0x01 w
  | .vcvtsr w => .o3 0x0B 0x02 w
  | .vpack w => .o3 0x0B 0x03 w
  | .vunpack w => .o3 0x0B 0x04 w
  | .vbcast w => .o3 0x0B 0x05 w
  | .vperm w => .o3 0x0B 0x06 w
  | .vshuf w => .o3 0x0B 0x07 w
  | .vrot w => .o3 0x0B 0x08 w
  | .vcompress w => .o3 0x0B 0x09 w
  | .vexpand w => .o3 0x0B 0x0A w
  | .viota w => .o3 0x0B 0x0B w
  | .vmovx w => .o3 0x0B 0x0C w
  | .vmovs w => .o3 0x0B 0x0D w
  | .vins w => .o3 0x0B 0x0E w
  | .vredadd w => .o3 0x0B 0x0F w
  | .vredmax w => .o3 0x0B 0x10 w
  | .vredmin w => .o3 0x0B 0x11 w
  | .vscan w => .o3 0x0B 0x12 w
  | .vrng w => .o3 0x0B 0x13 w
  | .vrngf w => .o3 0x0B 0x14 w
  | .pand w => .o3 0x0C 0x01 w
  | .por w => .o3 0x0C 0x02 w
  | .pxor w => .o3 0x0C 0x03 w
  | .pandn w => .o3 0x0C 0x04 w
  | .pnot w => .o3 0x0C 0x05 w
  | .pset w => .o3 0x0C 0x06 w
  | .pget w => .o3 0x0C 0x07 w
  | .pcnt w => .o3 0x0C 0x08 w
  | .pfirst w => .o3 0x0C 0x09 w
  | .pmov w => .o3 0x0C 0x0A w
  | .ld w => .o3 0x10 0x01 w
  | .st w => .o3 0x10 0x02 w
  | .vld w => .o3 0x10 0x03 w
  | .vst w => .o3 0x10 0x04 w
  | .vldx w => .o3 0x10 0x05 w
  | .vstx w => .o3 0x10 0x06 w
  | .vlds w => .o3 0x10 0x07 w
  | .vsts w => .o3 0x10 0x08 w
  | .sld w => .o3 0x10 0x09 w
  | .sst w => .o3 0x10 0x0A w
  | .cbload w => .o3 0x10 0x0B w
  | .trans w => .o3 0x11 0x01 w
  | .hrel w => .o3 0x11 0x02 w
  | .hchk w => .o3 0x11 0x03 w
  | .ldblk w => .o3 0x11 0x04 w
  | .blkwait w => .o3 0x11 0x05 w
  | .wbblk w => .o3 0x11 0x06 w
  | .evblk w => .o3 0x11 0x07 w
  | .reschk w => .o3 0x11 0x08 w
  | .pgreq w => .o3 0x11 0x09 w
  | .replay w => .o3 0x11 0x0A w
  | .semsig w => .o3 0x14 0x01 w
  | .semwait w => .o3 0x14 0x02 w
  | .semset w => .o3 0x14 0x03 w
  | .semrd w => .o3 0x14 0x04 w
  | .spldef w => .o3 0x14 0x05 w
  | .spfillw w => .o3 0x14 0x06 w
  | .spfreew w => .o3 0x14 0x07 w
  | .sppub w => .o3 0x14 0x08 w
  | .spret w => .o3 0x14 0x09 w
  | .phreg w => .o3 0x14 0x0A w
  | .phdrop w => .o3 0x14 0x0B w
  | .pharr w => .o3 0x14 0x0C w
  | .phwait w => .o3 0x14 0x0D w
  | .pharw w => .o3 0x14 0x0E w
  | .tickw w => .o3 0x14 0x0F w
  | .fence w => .o3 0x15 0x01 w
  | .atom w => .o3 0x15 0x02 w
  | .atomr w => .o3 0x15 0x03 w
  | .cas w => .o3 0x15 0x04 w
  | .swap w => .o3 0x15 0x05 w
  | .mqpush w => .o3 0x18 0x01 w
  | .qstatRead w => .o3 0x18 0x02 w
  | .qstatSkip w => .o3 0x18 0x02 w
  | .qstatFlush w => .o3 0x18 0x02 w
  | .qstatMxcap w => .o3 0x18 0x02 w
  | .qstatClear w => .o3 0x18 0x02 w
  | .cqpush w => .o3 0x18 0x03 w
  | .cstage w => .o3 0x18 0x04 w
  | .cdrain w => .o3 0x18 0x05 w
  | .lzdefZone w => .o3 0x1C 0x01 w
  | .lzdefBinding w => .o3 0x1C 0x01 w
  | .lzres w => .o3 0x1C 0x02 w
  | .lzrel w => .o3 0x1C 0x03 w
  | .lzwait w => .o3 0x1C 0x04 w
  | .lzstat w => .o3 0x1C 0x05 w
  | .bst w => .o3 0x1C 0x06 w
  | .batom w => .o3 0x1C 0x07 w
  | .bflush w => .o3 0x1C 0x08 w
  | .bflushall w => .o3 0x1C 0x09 w
  | .bstat w => .o3 0x1C 0x0A w
  | .xwdef w => .o3 0x1C 0x0B w
  | .xadd w => .o3 0x1C 0x0C w
  | .xwread w => .o3 0x1C 0x0D w
  | .xwclr w => .o3 0x1C 0x0E w
  | .lnkstat w => .o3 0x1C 0x0F w
  | .stepid w => .o3 0x20 0x01 w
  | .vote w => .o3 0x20 0x02 w
  | .stepwait w => .o3 0x20 0x03 w
  | .losschk w => .o3 0x20 0x04 w
  | .rqtag w => .o3 0x20 0x05 w
  | .mcread w => .o3 0x20 0x06 w
  | .mcackLog w => .o3 0x20 0x07 w
  | .mcackPoison w => .o3 0x20 0x07 w
  | .mcackSuspect w => .o3 0x20 0x07 w
  | .tagpurge w => .o3 0x20 0x08 w
  | .scrub w => .o3 0x20 0x09 w
  | .verdef w => .o3 0x20 0x0A w
  | .bkpt w => .o3 0x24 0x01 w
  | .tmark w => .o3 0x24 0x02 w
  | .whorlsig w => .o3 0x24 0x03 w
  | .lde w => .whorl 0x01 w
  | .ldi w => .whorl 0x02 w
  | .ldt w => .whorl 0x03 w
  | .stt w => .whorl 0x04 w
  | .whorlAdd w => .whorl 0x05 w
  | .whorlAddi w => .whorl 0x06 w
  | .whorlSub w => .whorl 0x07 w
  | .whorlAnd w => .whorl 0x08 w
  | .whorlOr w => .whorl 0x09 w
  | .whorlXor w => .whorl 0x0A w
  | .whorlShl w => .whorl 0x0B w
  | .whorlShr w => .whorl 0x0C w
  | .whorlMin w => .whorl 0x0D w
  | .whorlMax w => .whorl 0x0E w
  | .beq w => .whorl 0x0F w
  | .bne w => .whorl 0x10 w
  | .blt w => .whorl 0x11 w
  | .hbin w => .whorl 0x12 w
  | .cms w => .whorl 0x13 w
  | .hll w => .whorl 0x14 w
  | .trig w => .whorl 0x15 w
  | .emit w => .whorl 0x16 w
  | .exit w => .whorl 0x17 w
  | .fixedLatencyWriteback _ _ => .event
  | .idleCountEnd _ _ => .event
  | .latchDeposit _ _ => .event
  | .handleDeposit _ _ => .event
  | .takeTrap _ _ => .event
  | .watchdogExpiry _ => .event
  | .waitTimeout _ _ => .event
  | .loadDataReturn _ _ => .event
  | .storeApply _ => .event
  | .atomApply _ => .event
  | .atomicReply _ _ => .event
  | .blockFillDone _ _ => .event
  | .blockWritebackDone _ _ => .event
  | .blockEvictDone _ _ => .event
  | .phaserGatherReceive _ => .event
  | .phaserReleaseReceive _ _ => .event
  | .mma _ => .event
  | .mmaz _ => .event
  | .bload _ => .event
  | .accld _ => .event
  | .accst _ => .event
  | .mxt _ => .event
  | .copy _ _ => .event
  | .copyacc _ _ => .event
  | .fill _ _ => .event
  | .gather _ _ => .event
  | .rput _ _ => .event
  | .engineRecordComplete _ _ => .event
  | .subarrayWakeDone _ _ => .event
  | .subarrayGate _ _ => .event
  | .rputChunkReceive _ => .event
  | .rputChunkAccept _ => .event
  | .slotCreditReceive _ => .event
  | .cancelNoticeReceive _ => .event
  | .bobbinAgeExpiry _ _ => .event
  | .bobbinFlitReceive _ => .event
  | .bobbinCompletionReceive _ => .event
  | .xaddApply _ _ => .event
  | .portTrained _ _ _ => .event
  | .portFailure _ => .event
  | .trainingRetry _ => .event
  | .flitCrcResend _ => .event
  | .peerEntryExchange _ _ => .event
  | .attemptOpen _ => .event
  | .voteDeadline _ => .event
  | .childVoteDeadline _ _ => .event
  | .voteReceive _ => .event
  | .decisionReceive _ => .event
  | .purgeComplete _ _ => .event
  | .scrubberVisit _ => .event
  | .inFieldTest _ _ => .event
  | .containmentLost => .event
  | .notifyWptrWrite _ _ => .event
  | .queuePoll _ => .event
  | .qstsWrite _ _ => .event
  | .queueDescriptorWrite _ _ _ => .event
  | .packetNop _ _ => .event
  | .launch _ _ => .event
  | .graph _ _ => .event
  | .signal _ _ => .event
  | .waitsig _ _ => .event
  | .waitsigReread _ _ => .event
  | .waitsigTimeout _ _ => .event
  | .stepopen _ _ => .event
  | .stepclose _ _ => .event
  | .resync _ _ => .event
  | .taskNode _ _ => .event
  | .condNode _ _ => .event
  | .loopNode _ _ => .event
  | .switchNode _ _ => .event
  | .schedulingRound => .event
  | .preemptSave _ => .event
  | .taskCompletion _ => .event
  | .hostMemoryRead _ _ _ => .event
  | .hostMemoryWrite _ _ _ => .event
  | .objectWindowSemaphoreStore _ _ _ _ => .event
  | .objectWindowSpoolStore _ _ _ _ _ => .event
  | .objectWindowPhaserStore _ _ _ _ _ => .event
  | .partitionEntryWrite _ _ _ => .event
  | .invalidateGo _ _ => .event
  | .invalidationComplete _ => .event
  | .queueBindingWrite _ _ => .event
  | .stepGroupEntryWrite _ _ _ => .event
  | .portEnable _ _ => .event
  | .portRetrain _ => .event
  | .timectlWrite _ => .event
  | .plimsetWrite _ => .event
  | .ipeakClear => .event
  | .powerThrottle _ _ _ => .event
  | .registerWrite _ _ => .event
  | .powerOnReset _ => .event
  | .fundamentalReset _ => .event
  | .pfFunctionLevelReset _ => .event
  | .vfFunctionLevelReset _ => .event
  | .serviceFull => .event
  | .mailboxLoadImage _ => .event
  | .mailboxReadKey _ => .event
  | .mailboxAttest => .event
  | .attachSlotEnable _ _ _ => .event
  | .attachSlotDisable _ _ => .event
  | .irqstsClear _ _ => .event
  | .tenantBudgetWrite _ _ _ => .event
  | .budgetWindowReset => .event
  | .whorlEventOffer _ => .event
  | .whorlRunStart _ _ => .event
  | .debugStopreq _ => .event
  | .debugResume _ => .event
  | .debugStopped _ => .event
  | .allstopRequestReceive _ => .event
  | .scopecntWrite _ _ => .event
  | .scopeadrWrite _ _ => .event
  | .tickTargetReached _ _ => .event
  | .linkLoss _ => .event
  | .tickDiscipline _ _ => .event
  | .thermalLimitChange _ => .event
  | .voteResend _ => .event
  | .cancelNoticeResend _ => .event
  | .resumptionRestoreDone _ => .event
  | .copyReadReturn _ _ => .event
  | .hbmTrainingComplete _ _ _ => .event
/-- Does SB of QSTAT, SC of LZDEF or SA of MCACK stand as its row of the table has it? (R255, R310, R351) -/
def Instr.split : Instr → Bool
  | .qstatRead w => w.b = .lit 0
  | .qstatSkip w => w.b = .lit 1
  | .qstatFlush w => w.b = .lit 2
  | .qstatMxcap w => w.b = .lit 3
  | .qstatClear w => w.b = .lit 4
  | .lzdefZone w => w.c.isNone
  | .lzdefBinding w => !w.c.isNone
  | .mcackLog w => w.a = .lit 1
  | .mcackPoison w => w.a = .lit 2
  | .mcackSuspect w => w.a = .lit 4
  | _ => true

/-- A strand word that decodes: every check of R59 that looks at one word holds. An event has no encoding. -/
def Instr.wf (i : Instr) : Bool := i.form.wf && i.split

end Sys2Proof
end

