-- ==== Sys2Proof/Decode.lean ====
section
/-! DEFINITION. The decoder: total on every word and every group, each refusal by its reason of R64, in the order of
R59; and the encoder, from the same tables (R46 to R52, R61, R386). -/

namespace Sys2Proof

open Sys2Proof.Machine

/-! ### Operand fields -/

/-- The register of a destination code (R51); none for 0x60. -/
def dstOf (n : Nat) : Option Dst :=
  if n < 64 then some (.v (Fin.ofNat 64 n))
  else if n < 96 then some (.s (Fin.ofNat 32 n))
  else if n = 96 then none
  else if n < 112 then some (.p (Fin.ofNat 16 n))
  else if n < 128 then some (.h (Fin.ofNat 16 n))
  else none

/-- The code of a destination (R51). -/
def dstCode : Dst → Nat
  | .v r => r.val
  | .s r => 64 + r.val
  | .p r => 96 + r.val
  | .h r => 112 + r.val

/-- The source of a 10-bit field (R52); none where the index is not legal for the kind. -/
def srcOf (n : Nat) : Option Src :=
  if n < 64 then some (.v (Fin.ofNat 64 n))
  else if n < 256 then none
  else if n < 288 then some (.s (Fin.ofNat 32 n))
  else if n < 304 then some (.p (Fin.ofNat 16 n))
  else if n < 320 then some (.h (Fin.ofNat 16 n))
  else if n = 320 then some .stg
  else if n < 512 then none
  else if n < 768 then some (.cb (BitVec.ofNat 8 n))
  else if n < 1024 then some (.lit (BitVec.ofNat 8 n))
  else none

/-- The field of a source (R52). -/
def srcCode : Src → Nat
  | .v r => r.val
  | .s r => 256 + r.val
  | .p r => 288 + r.val
  | .h r => 304 + r.val
  | .stg => 320
  | .cb i => 512 + i.toNat
  | .lit i => 768 + i.toNat

/-! ### The opcode map (R61) -/

/-- QSTAT by its action (R255). -/
def qstatOf (w : O3) : Instr :=
  if w.b = .lit 1 then .qstatSkip w
  else if w.b = .lit 2 then .qstatFlush w
  else if w.b = .lit 3 then .qstatMxcap w
  else if w.b = .lit 4 then .qstatClear w
  else .qstatRead w

/-- LZDEF: with a zone address it defines a binding (R310). -/
def lzdefOf (w : O3) : Instr := if w.c.isNone then .lzdefZone w else .lzdefBinding w

/-- MCACK by its selector (R351). -/
def mcackOf (w : O3) : Instr :=
  if w.a = .lit 2 then .mcackPoison w else if w.a = .lit 4 then .mcackSuspect w else .mcackLog w

/-- Operations of class 0x01 in the order of R61. -/
def ops01 : List (O3 → Instr) :=
  [.add, .sub, .mul, .mulh, .madd, .and, .or, .xor, .andn, .shl, .shr, .sra, .rotl, .min, .max, .abs, .neg,
   .clz, .popc, .bfx, .bfi, .cmp, .sel, .mov, .idx]

/-- Operations of class 0x04 in the order of R61. -/
def ops04 : List (O3 → Instr) :=
  [.trap, .eret, .mfcr, .mtcr, .strstart, .strwait, .strid, .setfp, .ctxsv, .ctxld]

/-- Operations of class 0x08 in the order of R61. -/
def ops08 : List (O3 → Instr) :=
  [.vadd, .vsub, .vmul, .vfma, .vfms, .vfnma, .vmin, .vmax, .vabs, .vneg, .vscale, .vcmp, .vclass]

/-- Operations of class 0x09 in the order of R61. -/
def ops09 : List (O3 → Instr) :=
  [.viadd, .visub, .vimul, .vimulh, .vimadd, .vimin, .vimax, .viabs, .vand, .vor, .vxor, .vandn, .vnot,
   .vshl, .vshr, .vsra, .vrotl, .vicmp, .vsel, .vclz, .vpopc]

/-- Operations of class 0x0A in the order of R61. -/
def ops0A : List (O3 → Instr) :=
  [.vdiv, .vsqrt, .vrsqrt, .vrcp, .vexp2, .vlog2, .div, .rem]

/-- Operations of class 0x0B in the order of R61. -/
def ops0B : List (O3 → Instr) :=
  [.vcvt, .vcvtsr, .vpack, .vunpack, .vbcast, .vperm, .vshuf, .vrot, .vcompress, .vexpand, .viota, .vmovx,
   .vmovs, .vins, .vredadd, .vredmax, .vredmin, .vscan, .vrng, .vrngf]

/-- Operations of class 0x0C in the order of R61. -/
def ops0C : List (O3 → Instr) :=
  [.pand, .por, .pxor, .pandn, .pnot, .pset, .pget, .pcnt, .pfirst, .pmov]

/-- Operations of class 0x10 in the order of R61. -/
def ops10 : List (O3 → Instr) :=
  [.ld, .st, .vld, .vst, .vldx, .vstx, .vlds, .vsts, .sld, .sst, .cbload]

/-- Operations of class 0x11 in the order of R61. -/
def ops11 : List (O3 → Instr) :=
  [.trans, .hrel, .hchk, .ldblk, .blkwait, .wbblk, .evblk, .reschk, .pgreq, .replay]

/-- Operations of class 0x14 in the order of R61. -/
def ops14 : List (O3 → Instr) :=
  [.semsig, .semwait, .semset, .semrd, .spldef, .spfillw, .spfreew, .sppub, .spret, .phreg, .phdrop,
   .pharr, .phwait, .pharw, .tickw]

/-- Operations of class 0x15 in the order of R61. -/
def ops15 : List (O3 → Instr) :=
  [.fence, .atom, .atomr, .cas, .swap]

/-- Operations of class 0x18 in the order of R61. -/
def ops18 : List (O3 → Instr) :=
  [.mqpush, qstatOf, .cqpush, .cstage, .cdrain]

/-- Operations of class 0x1C in the order of R61. -/
def ops1C : List (O3 → Instr) :=
  [lzdefOf, .lzres, .lzrel, .lzwait, .lzstat, .bst, .batom, .bflush, .bflushall, .bstat, .xwdef, .xadd,
   .xwread, .xwclr, .lnkstat]

/-- Operations of class 0x20 in the order of R61. -/
def ops20 : List (O3 → Instr) :=
  [.stepid, .vote, .stepwait, .losschk, .rqtag, .mcread, mcackOf, .tagpurge, .scrub, .verdef]

/-- Operations of class 0x24 in the order of R61. -/
def ops24 : List (O3 → Instr) :=
  [.bkpt, .tmark, .whorlsig]

/-- Form O3 of class 0x03. -/
def ops03 (op : Nat) : Option (O3 → Instr) :=
  match op with
  | 0x03 => some .calli
  | 0x04 => some .ret
  | 0x05 => some .jmpi
  | 0x08 => some .movl
  | 0x0A => some .halt
  | 0x0B => some .yield
  | _ => none

/-- Operations of class 0x02. -/
def ops02 : List (I32 → Instr) :=
  [.li, .lih, .addi, .muli, .andi, .ori, .xori]

/-- Form B24 of class 0x03. -/
def opsB24 (op : Nat) : Option (B24 → Instr) :=
  match op with
  | 0x01 => some .br
  | 0x02 => some .call
  | 0x06 => some .loop
  | 0x07 => some .loopi
  | _ => none

/-- The operation numbered `op` from 1 in a list. -/
def opAt {α : Type} (l : List α) (op : Nat) : Option α := if op = 0 then none else l[op - 1]?

/-- Is the class assigned? (R61) -/
def classAssigned (cls : Nat) : Bool :=
  [0x01, 0x02, 0x03, 0x04, 0x08, 0x09, 0x0A, 0x0B, 0x0C, 0x10, 0x11, 0x14, 0x15, 0x18, 0x1C, 0x20, 0x24].contains cls

/-- The operation of form O3 with a class and number. -/
def o3Op (cls op : Nat) : Option (O3 → Instr) :=
  match cls with
  | 0x01 => opAt ops01 op
  | 0x03 => ops03 op
  | 0x04 => opAt ops04 op
  | 0x08 => opAt ops08 op
  | 0x09 => opAt ops09 op
  | 0x0A => opAt ops0A op
  | 0x0B => opAt ops0B op
  | 0x0C => opAt ops0C op
  | 0x10 => opAt ops10 op
  | 0x11 => opAt ops11 op
  | 0x14 => opAt ops14 op
  | 0x15 => opAt ops15 op
  | 0x18 => opAt ops18 op
  | 0x1C => opAt ops1C op
  | 0x20 => opAt ops20 op
  | 0x24 => opAt ops24 op
  | _ => none

/-- What a class and operation number stand for. -/
inductive OpForm where
  | o3 (mk : O3 → Instr)
  | i32 (mk : I32 → Instr)
  | b24 (mk : B24 → Instr)
  | nop
  | none

/-- The opcode map (R61). -/
def opForm (cls op : Nat) : OpForm :=
  if cls = 0x02 then
    match opAt ops02 op with
    | some mk => .i32 mk
    | none => .none
  else if cls = 0x03 ∧ op = 0x09 then .nop
  else
    match if cls = 0x03 then opsB24 op else none with
    | some mk => .b24 mk
    | none =>
      match o3Op cls op with
      | some mk => .o3 mk
      | none => .none

/-! ### The checks of R59 -/

/-- Why decode refuses: the failing word's class and operation, the reason of R64, and whether the second word of a pair
fails. -/
structure DecErr where
  cls : Nat
  op : Nat
  reason : Nat
  second : Bool
  deriving DecidableEq, Repr

/-- Class of a word (R46). -/
def wordClass (n : Nat) : Nat := bits n 56 6
/-- Operation of a word (R46). -/
def wordOp (n : Nat) : Nat := bits n 50 6
/-- P of a word (R46). -/
def wordP (n : Nat) : Bool := bitOf n 63
/-- V of a word (R46). -/
def wordV (n : Nat) : Bool := bitOf n 62

/-- Steps 1 to 3 of R59. -/
def headReason (n : Nat) : Option Nat :=
  if !classAssigned (wordClass n) then some 0
  else
    match opForm (wordClass n) (wordOp n) with
    | .none => some 1
    | _ => if wordV n && !votable (wordClass n) then some 2 else none

/-- Steps 5 to 10 for form O3. TYPE 0xF has no element count: like .s64 it leaves literals open at step 6, and stops at step 7 (R55). -/
def decodeO3 (cls op : Nat) (mk : O3 → Instr) (n : Nat) : Except Nat Instr :=
  let g := sig cls op
  let a := bits n 33 10
  let b := bits n 23 10
  let c := bits n 13 10
  let ty := bits n 4 4
  let mod := bits n 0 4
  if (g.a.isNone && a ≠ 0) || (g.b.isNone && b ≠ 0) || (g.c.isNone && c ≠ 0) || (g.tyR = 4 && ty ≠ 0) ||
      (g.modR = 4 && mod ≠ 0 && !(cls = 0x1C && op = 0x07)) then .error 4
  else
    match dstOf (bits n 43 7), srcOf a, srcOf b, srcOf c with
    | some d, some sa, some sb, some sc =>
      let w : O3 := { p := wordP n, v := wordV n, dst := d, a := sa, b := sb, c := sc, g := Fin.ofNat 16 (bits n 9 4),
                      gn := bitOf n 8, ty := (Ty.ofCode ty).getD .s64, mod := BitVec.ofNat 4 mod }
      if !ok6 g w then .error 5
      else if ty = 15 || !ok7 g w then .error 6
      else if !g.mod w then .error 7
      else if !guardOk w.g w.gn then .error 8
      else if !clustersOk cls op w then .error 9
      else .ok (mk w)
    | _, _, _, _ => .error 5

/-- Steps 5 to 9 for form I32. -/
def decodeI32 (op : Nat) (mk : I32 → Instr) (n : Nat) : Except Nat Instr :=
  let ty := bits n 2 4
  if bits n 0 2 ≠ 0 then .error 4
  else
    match dstOf (bits n 43 7) with
    | some d =>
      let w : I32 := { p := wordP n, v := wordV n, dst := d, imm := BitVec.ofNat 32 (bits n 11 32),
                       g := Fin.ofNat 16 (bits n 7 4), gn := bitOf n 6, ty := (Ty.ofCode ty).getD .b32 }
      if !d.isS then .error 5
      else if ty = 15 || !(if op = 2 then w.ty = .s8 else w.ty.isInt) then .error 6
      else if !guardOk w.g w.gn then .error 8
      else .ok (mk w)
    | none => .error 5

/-- Steps 5 to 9 for form B24. -/
def decodeB24 (op : Nat) (mk : B24 → Instr) (n : Nat) : Except Nat Instr :=
  let aux := bits n 13 13
  let w : B24 := { p := wordP n, v := wordV n, off := BitVec.ofNat 24 (bits n 26 24), aux := BitVec.ofNat 13 aux,
                   g := Fin.ofNat 16 (bits n 9 4), gn := bitOf n 8, lid := Fin.ofNat 4 (bits n 6 2) }
  if bits n 0 6 ≠ 0 || (op ≤ 2 && (aux ≠ 0 || w.lid ≠ 0)) || (op = 6 && aux % 8 ≠ 0) then .error 4
  else if (op = 6 && !(loopSrcOk (aux / 8) && loopEndOk w)) || (op = 7 && !loopEndOk w) then .error 5
  else if !guardOk w.g w.gn then .error 8
  else .ok (mk w)

/-- Steps 5 to 10 of R59 for one word whose class and operation are assigned. -/
def decodeBody (n : Nat) : Except Nat Instr :=
  let cls := wordClass n
  let op := wordOp n
  match opForm cls op with
  | .o3 mk => decodeO3 cls op mk n
  | .i32 mk => decodeI32 op mk n
  | .b24 mk => decodeB24 op mk n
  | .nop => if bits n 8 42 ≠ 0 then .error 4 else .ok (.nop { p := wordP n, v := wordV n, count := BitVec.ofNat 8 n })
  | .none => .error 1

/-- Every check of R59 on a word by itself. -/
def decodeWord (n : Nat) : Except Nat Instr :=
  match headReason n with
  | some r => .error r
  | none => decodeBody n

/-! ### Pairs (R57, R58) -/

/-- The categories of R57. -/
inductive Cat where
  | vecA | vecB | scalar | solo
  deriving DecidableEq, Repr

/-- The clusters of the vector registers that the raw fields name, in the order DST, SA, SB, SC. -/
def rawClusters (g : Sig) (n : Nat) : List Bool :=
  (if g.dst.isSome && bits n 43 7 < 64 then [bitOf n 48] else []) ++
  (if g.a.isSome && bits n 41 2 = 0 then [bitOf n 38] else []) ++
  (if g.b.isSome && bits n 31 2 = 0 then [bitOf n 28] else []) ++
  (if g.c.isSome && bits n 21 2 = 0 then [bitOf n 18] else [])

/-- The category of a word whose class and operation are assigned (R57, R131). -/
def catOf (n : Nat) : Cat :=
  let cls := wordClass n
  let op := wordOp n
  let byDst := if bitOf n 48 then Cat.vecB else Cat.vecA
  if cls = 0x01 ∨ cls = 0x02 ∨ (cls = 0x0A ∧ (op = 7 ∨ op = 8)) then .scalar
  else if cls = 0x03 then (if op = 8 ∧ bits n 43 7 < 64 then byDst else .scalar)
  else if cls = 0x0C then .vecB
  else if cls = 0x0B ∧ op = 0x0C then byDst
  else if cls = 0x08 ∨ cls = 0x09 ∨ cls = 0x0A ∨ cls = 0x0B then
    match rawClusters (sig cls op) n with
    | true :: _ => .vecB
    | _ => .vecA
  else .solo

/-- The pairs that R57 allows. -/
def catsPair : Cat → Cat → Bool
  | .vecA, .vecB => true
  | .vecB, .vecA => true
  | .vecA, .scalar => true
  | .vecB, .scalar => true
  | .scalar, .vecA => true
  | .scalar, .vecB => true
  | _, _ => false

/-- The register that a word writes through DST (R58, R51). -/
def destOf (i : Instr) : Option Dst :=
  match i.form with
  | .o3 cls op w => if (sig cls op).dst.isSome then some w.dst else none
  | .i32 _ w => some w.dst
  | _ => none

/-- A refusal of a word. -/
def decErr (n reason : Nat) (second : Bool) : DecErr := ⟨wordClass n, wordOp n, reason, second⟩

/-- Decode of an issue group: one word, or two where P of the first is set, in the order of R59. -/
def decodeGroup (w1 w2 : Nat) : Except DecErr (Instr × Option Instr) :=
  if !wordP w1 then
    match decodeWord w1 with
    | .ok i => .ok (i, none)
    | .error r => .error (decErr w1 r false)
  else
    match headReason w1 with
    | some r => .error (decErr w1 r false)
    | none =>
      if wordV w1 then .error (decErr w1 3 false)
      else
        match decodeBody w1 with
        | .error r => .error (decErr w1 r false)
        | .ok i =>
          match headReason w2 with
          | some r => .error (decErr w2 r true)
          | none =>
            if wordV w2 || wordP w2 || !catsPair (catOf w1) (catOf w2) then .error (decErr w2 3 true)
            else
              match decodeBody w2 with
              | .error r => .error (decErr w2 r true)
              | .ok j =>
                if (destOf i).isSome && destOf i = destOf j then .error (decErr w2 10 true) else .ok (i, some j)

/-! ### Whorl words (R386, R387) -/

/-- The Whorl operations in the order of R387. -/
def whorlOps : List (WW → Instr) :=
  [.lde, .ldi, .ldt, .stt, .whorlAdd, .whorlAddi, .whorlSub, .whorlAnd, .whorlOr, .whorlXor, .whorlShl, .whorlShr, .whorlMin,
   .whorlMax, .beq, .bne, .blt, .hbin, .cms, .hll, .trig, .emit, .exit]

/-- The Whorl instruction of a 32-bit word; none where it is not one (R383, R386, R387). -/
def decodeWhorl (n : Nat) : Option Instr :=
  match opAt whorlOps (bits n 26 6) with
  | none => none
  | some mk =>
    let i := mk { d := Fin.ofNat 16 (bits n 22 4), a := Fin.ofNat 16 (bits n 18 4), b := Fin.ofNat 16 (bits n 14 4),
                  imm := BitVec.ofNat 14 n }
    if i.wf then some i else none

/-! ### The encoder -/

/-- A truth value as a bit. -/
def bit (b : Bool) : Nat := if b then 1 else 0

/-- The number of a word of each form (R46 to R50, R386); an event has none. -/
def Form.number : Form → Option Nat
  | .o3 cls op w =>
    some (((((((((((bit w.p * 2 + bit w.v) * 64 + cls) * 64 + op) * 128 + dstCode w.dst) * 1024 + srcCode w.a) * 1024 +
      srcCode w.b) * 1024 + srcCode w.c) * 16 + w.g.val) * 2 + bit w.gn) * 16 + w.ty.code) * 16 + w.mod.toNat)
  | .i32 op w =>
    some ((((((((bit w.p * 2 + bit w.v) * 64 + 2) * 64 + op) * 128 + dstCode w.dst) * 4294967296 + w.imm.toNat) * 16 +
      w.g.val) * 2 + bit w.gn) * 64 + w.ty.code * 4)
  | .b24 op w =>
    some ((((((((bit w.p * 2 + bit w.v) * 64 + 3) * 64 + op) * 16777216 + w.off.toNat) * 8192 + w.aux.toNat) * 16 +
      w.g.val) * 2 + bit w.gn) * 256 + w.lid.val * 64)
  | .nop w => some (((((bit w.p * 2 + bit w.v) * 64 + 3) * 64 + 9) * 1125899906842624) + w.count.toNat)
  | .whorl op w => some ((((op * 16 + w.d.val) * 16 + w.a.val) * 16 + w.b.val) * 16384 + w.imm.toNat)
  | .event => none

/-- The word of an instruction; none for an event. -/
def encode (i : Instr) : Option Nat := i.form.number

/-- How many bits the word of an instruction has. -/
def wordBits (i : Instr) : Nat :=
  match i.form with
  | .whorl _ _ => 32
  | _ => 64

/-- The instruction read from a word given as a number, its bytes laid out in memory order and read back as the fetch
reads them (R3): 64 bits for a strand word, 32 for a Whorl word. -/
def decodeTableWord (nbits w : Nat) : Option Instr :=
  if nbits = 32 then decodeWhorl (ofBytes (toBytes w 4))
  else if nbits = 64 then
    match decodeWord (ofBytes (toBytes w 8)) with
    | .ok i => some i
    | .error _ => none
  else none

end Sys2Proof
end

