-- ==== Sys2Proof/Machine/Num.lean ====
section
/-! DEFINITION. Numbers of the machine (02): formats, exact values, rounding, the fixed reduction tree, conversions,
exact-sum windows, Twist. Values are exact: a sign, a magnitude and a power of two. -/

namespace Sys2Proof.Machine

/-- The floating-point formats (R22). -/
inductive Fmt where
  | fp32 | fp16 | bf16 | e5m2 | e4m3 | e2m1
  deriving DecidableEq, Repr

/-- Width of the exponent field (R22). -/
def Fmt.ew : Fmt → Nat
  | .fp32 => 8 | .fp16 => 5 | .bf16 => 8 | .e5m2 => 5 | .e4m3 => 4 | .e2m1 => 2

/-- Width of the fraction field (R22). -/
def Fmt.fw : Fmt → Nat
  | .fp32 => 23 | .fp16 => 10 | .bf16 => 7 | .e5m2 => 2 | .e4m3 => 3 | .e2m1 => 1

/-- Exponent bias (R22). -/
def Fmt.bias : Fmt → Nat
  | .fp32 => 127 | .fp16 => 15 | .bf16 => 127 | .e5m2 => 15 | .e4m3 => 7 | .e2m1 => 1

/-- Width of the format (R22). -/
def Fmt.width (f : Fmt) : Nat := 1 + f.ew + f.fw

/-- Has the format infinities? (R22) -/
def Fmt.hasInf : Fmt → Bool
  | .e4m3 => false | .e2m1 => false | _ => true

/-- The encoding of the largest finite magnitude (R22). -/
def Fmt.maxEnc : Fmt → Nat
  | .fp32 => 0x7F7F_FFFF | .fp16 => 0x7BFF | .bf16 => 0x7F7F | .e5m2 => 0x7B | .e4m3 => 0x7E | .e2m1 => 7

/-- The canonical NaN (R26); E2M1 has none. -/
def Fmt.nan : Fmt → Nat
  | .fp32 => 0x7FC0_0000 | .fp16 => 0x7E00 | .bf16 => 0x7FC0 | .e5m2 => 0x7E | .e4m3 => 0x7F | .e2m1 => 0

/-- The sign bit of an encoding. -/
def Fmt.signBit (f : Fmt) (neg : Bool) : Nat := if neg then 2 ^ (f.ew + f.fw) else 0

/-- Infinity, with a sign. -/
def Fmt.inf (f : Fmt) (neg : Bool) : Nat := f.signBit neg + (2 ^ f.ew - 1) * 2 ^ f.fw

/-- Flag bits in the order of CR.FPCTL (R111): ISAT in bit 5, then invalid, divide-by-zero, overflow, underflow, inexact. -/
abbrev Flags := BitVec 6

/-- Integer saturation. -/
def flISAT : Flags := 0x20
/-- Invalid. -/
def flNV : Flags := 0x10
/-- Divide-by-zero. -/
def flDZ : Flags := 0x08
/-- Overflow. -/
def flOF : Flags := 0x04
/-- Underflow. -/
def flUF : Flags := 0x02
/-- Inexact. -/
def flNX : Flags := 0x01

/-- A flag where a condition holds. -/
def flIf (b : Bool) (f : Flags) : Flags := if b then f else 0

/-- An exact value: NaN (signalling or quiet), infinity, or ±m × 2^e. -/
inductive Fp where
  | nan (signalling : Bool)
  | inf (neg : Bool)
  | fin (neg : Bool) (m : Nat) (e : Int)
  deriving DecidableEq, Repr

/-- The value of an encoding (R22, R26). -/
def Fp.decode (f : Fmt) (x : Nat) : Fp :=
  let s := bitOf x (f.ew + f.fw)
  let ex := bits x f.fw f.ew
  let fr := bits x 0 f.fw
  if f.hasInf && decide (ex = 2 ^ f.ew - 1) then
    if fr = 0 then .inf s else .nan (!bitOf fr (f.fw - 1))
  else if decide (f = .e4m3) && decide (ex = 15) && decide (fr = 7) then .nan false
  else if ex = 0 then .fin s fr (1 - f.bias - f.fw)
  else .fin s (2 ^ f.fw + fr) ((ex : Int) - f.bias - f.fw)

/-- Is the value a NaN? -/
def Fp.isNan : Fp → Bool
  | .nan _ => true | _ => false

/-- Is the value a signalling NaN? -/
def Fp.isSig : Fp → Bool
  | .nan s => s | _ => false

/-- Is the value ±∞? -/
def Fp.isInf : Fp → Bool
  | .inf _ => true | _ => false

/-- Is the value ±0? -/
def Fp.isZero : Fp → Bool
  | .fin _ m _ => m = 0 | _ => false

/-- The sign. -/
def Fp.neg? : Fp → Bool
  | .nan _ => false | .inf n => n | .fin n _ _ => n

/-- The value with the other sign. -/
def Fp.negate : Fp → Fp
  | .nan s => .nan s | .inf n => .inf (!n) | .fin n m e => .fin (!n) m e

/-- The magnitude. -/
def Fp.abs : Fp → Fp
  | .nan s => .nan s | .inf _ => .inf false | .fin _ m e => .fin false m e

/-- An exact integer, zero as +0. -/
def Fp.ofInt (v : Int) : Fp := .fin (decide (v < 0)) v.natAbs 0

/-- `m × 2^k` as a natural number for the value's own `m`, `k` not below the value's exponent. -/
def scaleTo (m : Nat) (e lo : Int) : Nat := m * 2 ^ (e - lo).toNat

/-- The signed integer `v` with value `v × 2^lo`. -/
def Fp.at (neg : Bool) (m : Nat) (e lo : Int) : Int :=
  if neg then -(scaleTo m e lo : Int) else scaleTo m e lo

/-- Rounding modes, RSR with its random word (R27, R43). -/
inductive RMode where
  | rne | rtz | rdn | rup | rsr (r : Nat)
  deriving DecidableEq, Repr

/-- The mode of a code 0 to 3; `r` is the word that RSR draws. -/
def RMode.ofCode (c r : Nat) : RMode :=
  if c = 0 then .rne else if c = 1 then .rtz else if c = 2 then .rdn else if c = 3 then .rup else .rsr r

/-- Does a magnitude of `lo` units and `rem / 2^k` of a unit round away from zero? (R28, R43) -/
def roundsUp (rm : RMode) (neg : Bool) (lo rem k : Nat) : Bool :=
  if rem = 0 then false
  else match rm with
    | .rne => decide (2 ^ k < 2 * rem) || (decide (2 * rem = 2 ^ k) && decide (lo % 2 = 1))
    | .rtz => false
    | .rdn => neg
    | .rup => !neg
    | .rsr r => decide (2 ^ 32 ≤ rem * 2 ^ 32 / 2 ^ k + r)

/-- The overflow rule (R29). -/
def overflowResult (f : Fmt) (rm : RMode) (sat neg : Bool) : Nat :=
  let big := f.signBit neg + f.maxEnc
  match f with
  | .e4m3 => if sat then big else f.nan
  | .e2m1 => big
  | _ =>
    if sat then big
    else match rm with
      | .rne => f.inf neg
      | .rtz => big
      | .rdn => if neg then f.inf true else big
      | .rup => if neg then big else f.inf false
      | .rsr _ => f.inf neg

/-- Round for a finite magnitude m × 2^e (R28, R29). -/
def roundFin (f : Fmt) (rm : RMode) (sat neg : Bool) (m : Nat) (e : Int) : Nat × Flags :=
  if m = 0 then (f.signBit neg, 0)
  else
    let emin : Int := 1 - f.bias
    let top : Int := e + Nat.log2 m
    let q : Int := (if top < emin then emin else top) - f.fw
    let k : Nat := (q - e).toNat
    let n := if q ≤ e then m * 2 ^ (e - q).toNat else m / 2 ^ k
    let rem := if q ≤ e then 0 else m % 2 ^ k
    let n' := if roundsUp rm neg n rem k then n + 1 else n
    let enc : Int := (q + f.fw + f.bias) * 2 ^ f.fw + n' - 2 ^ f.fw
    if (f.maxEnc : Int) < enc then (overflowResult f rm sat neg, flOF ||| flNX)
    else
      (f.signBit neg + enc.toNat,
        if rem = 0 then 0 else flNX ||| flIf (decide (0 < enc) && decide (enc < 2 ^ f.fw)) flUF)

/-- Round(x, fmt, rm, sat) (R28, R29). -/
def roundFp (f : Fmt) (rm : RMode) (sat : Bool) : Fp → Nat × Flags
  | .nan s => (f.nan, flIf s flNV)
  | .inf n =>
    if f.hasInf then (f.inf n, 0)
    else if sat then (f.signBit n + f.maxEnc, flOF ||| flNX)
    else (f.nan, flNV)
  | .fin n m e => roundFin f rm sat n m e

/-- An exact result and the flags raised before rounding. -/
abbrev FpF := Fp × Flags

/-- Flags of a set of operands: a signalling NaN sets invalid (R32). -/
def sigFlags (xs : List Fp) : Flags := flIf (xs.any Fp.isSig) flNV

/-- The exact sum, the sign of zero by R34. -/
def addExact : Fp → Fp → FpF
  | .inf a, .inf b => if a = b then (.inf a, 0) else (.nan false, flNV)
  | .inf a, .fin _ _ _ => (.inf a, 0)
  | .fin _ _ _, .inf b => (.inf b, 0)
  | .fin n m e, .fin n' m' e' =>
    if m = 0 ∧ m' = 0 then (.fin (n && n') 0 0, 0)
    else if m = 0 then (.fin n' m' e', 0)
    else if m' = 0 then (.fin n m e, 0)
    else
      let lo := min e e'
      let v := Fp.at n m e lo + Fp.at n' m' e' lo
      (.fin (decide (v < 0)) v.natAbs lo, 0)
  | a, b => (.nan false, sigFlags [a, b])

/-- The exact product (R32). -/
def mulExact : Fp → Fp → FpF
  | .inf a, .inf b => (.inf (a != b), 0)
  | .inf a, .fin n m _ => if m = 0 then (.nan false, flNV) else (.inf (a != n), 0)
  | .fin n m _, .inf b => if m = 0 then (.nan false, flNV) else (.inf (n != b), 0)
  | .fin n m e, .fin n' m' e' => (.fin (n != n') (m * m') (e + e'), 0)
  | a, b => (.nan false, sigFlags [a, b])

/-- a × b + c exactly, the product's sign inverted where `negP` (R33, R139). -/
def fmaExact (negP : Bool) (a b c : Fp) : FpF :=
  let p := mulExact a b
  let r := addExact (if negP then p.1.negate else p.1) c
  (r.1, p.2 ||| r.2 ||| sigFlags [c])

/-- Compare two finite or infinite values: the sign of a − b. NaN counts as equal. -/
def cmpFp : Fp → Fp → Int
  | .inf a, .inf b => if a = b then 0 else if a then -1 else 1
  | .inf a, _ => if a then -1 else 1
  | _, .inf b => if b then 1 else -1
  | .fin n m e, .fin n' m' e' =>
    let lo := min e e'
    Int.sign (Fp.at n m e lo - Fp.at n' m' e' lo)
  | _, _ => 0

/-- Is `a` below `b`, −0 below +0? (R97, R140) -/
def belowFp (a b : Fp) : Bool :=
  decide (cmpFp a b < 0) || (decide (cmpFp a b = 0) && a.neg? && !b.neg?)

/-- The smaller or larger encoding; a NaN operand gives the canonical NaN (R97, R140). -/
def minMaxFp (f : Fmt) (wantMax : Bool) (x y : Nat) : Nat × Flags :=
  let a := Fp.decode f x
  let b := Fp.decode f y
  if a.isNan || b.isNan then (f.nan, sigFlags [a, b])
  else (if belowFp a b = wantMax then y else x, 0)

/-- The condition codes of R99 on values. -/
def condFp (c : Nat) (a b : Fp) : Bool :=
  let un := a.isNan || b.isNan
  let s := cmpFp a b
  if c = 0 then !un && decide (s = 0)
  else if c = 1 then un || decide (s ≠ 0)
  else if c = 2 then !un && decide (s < 0)
  else if c = 3 then !un && decide (s ≤ 0)
  else if c = 4 then !un && decide (0 < s)
  else if c = 5 then !un && decide (0 ≤ s)
  else if c = 6 then un
  else !un

/-- The condition codes of R99 on integers. -/
def condInt (c : Nat) (a b : Int) : Bool :=
  if c = 0 then a = b else if c = 1 then a ≠ b else if c = 2 then a < b
  else if c = 3 then a ≤ b else if c = 4 then b < a else b ≤ a

/-- a × 2^n (R141). The power is cut at ±2000, beyond which no format's result changes. -/
def scaleFp (a : Fp) (n : Int) : FpF :=
  match a with
  | .nan s => (.nan false, flIf s flNV)
  | .inf s => (.inf s, 0)
  | .fin s m e => (.fin s m (e + max (-2000) (min 2000 n)), 0)

/-- The floor of a square root by trying bits `b - 1` down to 0 above `r`. -/
def isqrtFrom (n : Nat) : Nat → Nat → Nat
  | 0, r => r
  | b + 1, r => if (r + 2 ^ b) * (r + 2 ^ b) ≤ n then isqrtFrom n b (r + 2 ^ b) else isqrtFrom n b r

/-- The floor of the square root of a number below 4^bits. -/
def isqrt (n bits : Nat) : Nat := isqrtFrom n bits 0

/-- A magnitude between q and q + 1 units of 2^e, exact where `exact`: one more low bit, odd where something is cut
off. Rounding it once rounds the value once, since q keeps more bits than any format. -/
def sticky (neg exact : Bool) (q : Nat) (e : Int) : Fp := .fin neg (2 * q + b2n (!exact)) (e - 1)

/-- a / b (R145). -/
def divExact : Fp → Fp → FpF
  | .inf _, .inf _ => (.nan false, flNV)
  | .inf a, .fin n _ _ => (.inf (a != n), 0)
  | .fin n _ _, .inf b => (.fin (n != b) 0 0, 0)
  | .fin n m e, .fin n' m' e' =>
    if m' = 0 then (if m = 0 then (.nan false, flNV) else (.inf (n != n'), flDZ))
    else
      let s := 64 + Nat.log2 m'
      (sticky (n != n') (decide (m * 2 ^ s % m' = 0)) (m * 2 ^ s / m') (e - e' - s), 0)
  | a, b => (.nan false, sigFlags [a, b])

/-- √a (R145). -/
def sqrtExact : Fp → FpF
  | .nan s => (.nan false, flIf s flNV)
  | .inf n => if n then (.nan false, flNV) else (.inf false, 0)
  | .fin n m e =>
    if m = 0 then (.fin n 0 0, 0)
    else if n then (.nan false, flNV)
    else
      let odd := (e % 2).toNat
      let x := m * 2 ^ odd * 2 ^ 80
      let r := isqrt x 64
      (sticky false (decide (r * r = x)) r ((e - odd) / 2 - 40), 0)

/-- 1 / √a (R145). -/
def rsqrtExact : Fp → FpF
  | .nan s => (.nan false, flIf s flNV)
  | .inf n => if n then (.nan false, flNV) else (.fin false 0 0, 0)
  | .fin n m e =>
    if m = 0 then (.inf n, flDZ)
    else if n then (.nan false, flNV)
    else
      let odd := (e % 2).toNat
      let x := m * 2 ^ odd
      let r := isqrt (2 ^ 160 / x) 81
      (sticky false (decide (r * r * x = 2 ^ 160)) r (-((e - odd) / 2) - 80), 0)

/-- Working precision of the transcendental functions, in bits after the point. -/
def fxBits : Nat := 256

/-- Σ over j ≤ k of y^j / j! by Horner's scheme, in units of 2^-fxBits. -/
def expSum (y : Nat) : Nat → Nat → Nat
  | 0, acc => acc
  | k + 1, acc => expSum y k (2 ^ fxBits + acc * y / 2 ^ fxBits / (k + 1))

/-- Σ of z^(2j+1) / (2j+1) for the powers from `p` on, in units of 2^-fxBits. -/
def atanhSum (z2 : Nat) : Nat → Nat → Nat → Nat
  | 0, _, _ => 0
  | k + 1, p, j => p / (2 * j + 1) + atanhSum z2 k (p * z2 / 2 ^ fxBits) (j + 1)

/-- ln x for x = num / den in [1, 2], as 2 × artanh((num − den) / (num + den)), in units of 2^-fxBits. -/
def lnFx (num den : Nat) : Nat :=
  let z := (num - den) * 2 ^ fxBits / (num + den)
  2 * atanhSum (z * z / 2 ^ fxBits) 84 z 0

/-- ln 2 in units of 2^-fxBits. -/
def ln2Fx : Nat := lnFx 2 1

/-- 2^a (R145). An integer a is exact; any other a is irrational and so never exact. -/
def exp2Exact : Fp → FpF
  | .nan s => (.nan false, flIf s flNV)
  | .inf n => (if n then .fin false 0 0 else .inf false, 0)
  | .fin n m e =>
    if m = 0 then (.fin false 1 0, 0)
    else
      let v : Int := Fp.at n m e (min e 0)
      let den : Int := 2 ^ (0 - min e 0).toNat
      let int := v / den
      let rem := (v % den).toNat
      if rem = 0 then (.fin false 1 (max (-2000) (min 2000 int)), 0)
      else if 1000 < int then (.fin false 3 2000, 0)
      else if int < -1000 then (.fin false 3 (-2000), 0)
      else if e + Nat.log2 m < -40 then
        (sticky false false (if n then 2 ^ 64 - 1 else 2 ^ 64) (-64), 0)
      else
        let f := rem * 2 ^ fxBits / den.toNat
        let y := f * ln2Fx / 2 ^ fxBits
        (sticky false false (expSum y 70 (2 ^ fxBits) / 2 ^ 128) (int - 128), 0)

/-- log2 a (R145). A power of two is exact; any other logarithm is irrational. -/
def log2Exact : Fp → FpF
  | .nan s => (.nan false, flIf s flNV)
  | .inf n => if n then (.nan false, flNV) else (.inf false, 0)
  | .fin n m e =>
    if m = 0 then (.inf true, flDZ)
    else if n then (.nan false, flNV)
    else
      let l := Nat.log2 m
      if m = 2 ^ l then (Fp.ofInt (e + l), 0)
      else
        let fr := lnFx m (2 ^ l) * 2 ^ fxBits / ln2Fx
        let v : Int := (e + l) * 2 ^ fxBits + fr
        (sticky (decide (v < 0)) false (v.natAbs / 2 ^ 128) (-128), 0)

/-- TreeSum over FP32 encodings (R35): one level after the other. -/
def treeLevel (f : Fmt) (rm : RMode) : List Nat → Flags → List Nat × Flags
  | a :: b :: r, fl =>
    let x := addExact (Fp.decode f a) (Fp.decode f b)
    let y := roundFp f rm false x.1
    let rest := treeLevel f rm r (fl ||| x.2 ||| y.2)
    (y.1 :: rest.1, rest.2)
  | l, fl => (l, fl)

/-- `k` levels of the tree. -/
def treeLevels (f : Fmt) (rm : RMode) : Nat → List Nat → Flags → List Nat × Flags
  | 0, l, fl => (l, fl)
  | k + 1, l, fl => let r := treeLevel f rm l fl; treeLevels f rm k r.1 r.2

/-- TreeSum(val, act, fmt, rm) (R35): inactive lanes are −0, an empty sum is +0. -/
def treeSum (f : Fmt) (rm : RMode) (val : List Nat) (act : Nat → Bool) : Nat × Flags :=
  if (upto 64).any act then
    let leaves := (upto 64).map fun l => if act l then nth 0 val l else f.signBit true
    let r := treeLevels f rm 6 leaves 0
    (nth 0 r.1 0, r.2)
  else (0, 0)

/-- The integer that a finite value rounds to (R30). -/
def roundToInt (rm : RMode) (neg : Bool) (m : Nat) (e : Int) : Int × Bool :=
  let k := (-e).toNat
  let n := if 0 ≤ e then m * 2 ^ e.toNat else m / 2 ^ k
  let rem := if 0 ≤ e then 0 else m % 2 ^ k
  let n' := if roundsUp rm neg n rem k then n + 1 else n
  (if neg then -(n' : Int) else n', decide (rem ≠ 0))

/-- Smallest value of an integer type of width w. -/
def intMin (signed : Bool) (w : Nat) : Int := if signed then -(2 : Int) ^ (w - 1) else 0

/-- Largest value of an integer type of width w. -/
def intMax (signed : Bool) (w : Nat) : Int := if signed then (2 : Int) ^ (w - 1) - 1 else (2 : Int) ^ w - 1

/-- Conversion to an integer type: the field and the flags (R30). -/
def fpToInt (rm : RMode) (signed : Bool) (w : Nat) : Fp → Nat × Flags
  | .nan _ => (0, flNV)
  | .inf n => (wrap (if n then intMin signed w else intMax signed w) w, flNV)
  | .fin n m e =>
    let r := roundToInt rm n m e
    if r.1 < intMin signed w then (wrap (intMin signed w) w, flNV)
    else if intMax signed w < r.1 then (wrap (intMax signed w) w, flNV)
    else (wrap r.1 w, flIf r.2 flNX)

/-- Es of R31 for a largest magnitude: floor(log2) − 2 clamped to ±127. -/
def blockExp : Fp → Int
  | .fin _ m e => max (-127) (min 127 (e + Nat.log2 m - 2))
  | _ => 0

/-- The larger of two magnitudes. -/
def maxMag (a b : Fp) : Fp := if cmpFp a.abs b.abs < 0 then b.abs else a.abs

/-- Conversion of a block into E2M1 (R31): the scale byte, the codes and the flags. `rm i` rounds element i. -/
def toE2M1 (rm : Nat → RMode) (xs : List (Nat × Fp)) : Nat × List (Nat × Nat) × Flags :=
  if xs.any (fun x => x.2.isNan || x.2.isInf) then (0xFF, xs.map (fun x => (x.1, 0)), flNV)
  else
    let amax := xs.foldl (fun a x => maxMag a x.2) (.fin false 0 0)
    let es : Int := if amax.isZero then -127 else blockExp amax
    let rs := xs.map fun x => (x.1, roundFp .e2m1 (rm x.1) true (scaleFp x.2 (-es)).1)
    ((es + 127).toNat, rs.map (fun r => (r.1, r.2.1)), rs.foldl (fun f r => f ||| r.2.2) 0)

/-- E2M1 code times E8M0 scale (R23). -/
def e2m1Value (code scale : Nat) : Fp :=
  if scale = 255 then .nan false
  else (scaleFp (Fp.decode .e2m1 code) ((scale : Int) - 127)).1

/-- ToXW(x, E) (R36). -/
def toXW (x : Fp) (e : Int) : Option Int :=
  match x with
  | .fin n m ex =>
    let v := Fp.at n m ex (min ex e)
    let q := v / 2 ^ (e - min ex e).toNat
    if q < -(2 : Int) ^ 127 then none else if (2 : Int) ^ 127 - 1 < q then none else some q
  | _ => none

/-- The rotation amounts of Twist (R41). -/
def twistRot (rnd : Nat) : Nat × Nat :=
  nth (16, 12) [(16, 12), (8, 7), (13, 19), (24, 5), (9, 21)] (rnd % 5)

/-- One round of Twist (R41). -/
def twistRound (k0 k1 kx : BitVec 32) (rnd : Nat) (x : BitVec 32 × BitVec 32 × BitVec 32 × BitVec 32) :
    BitVec 32 × BitVec 32 × BitVec 32 × BitVec 32 :=
  let x0 := x.1 + x.2.1
  let x3 := (x.2.2.2 ^^^ x0).rotateLeft (twistRot rnd).1
  let x2 := x.2.2.1 + x3
  let x1 := (x.2.1 ^^^ x2).rotateLeft (twistRot rnd).2
  if rnd % 2 = 1 then (x0 + k0, x1 + k1, x2 + kx, x3 + BitVec.ofNat 32 ((rnd + 1) / 2)) else (x0, x1, x2, x3)

/-- Rounds `rnd` and on, `n` of them. -/
def twistRounds (k0 k1 kx : BitVec 32) : Nat → Nat → BitVec 32 × BitVec 32 × BitVec 32 × BitVec 32 →
    BitVec 32 × BitVec 32 × BitVec 32 × BitVec 32
  | 0, _, x => x
  | n + 1, rnd, x => twistRounds k0 k1 kx n (rnd + 1) (twistRound k0 k1 kx rnd x)

/-- TwistWord(key, stream, pos, j) (R41). -/
def twistWord (key : Word) (stream : BitVec 32) (pos j : Nat) : BitVec 32 :=
  let k0 := key.truncate 32
  let k1 := (key >>> 32).truncate 32
  let kx := k0 ^^^ k1
  let x := twistRounds k0 k1 kx 10 0
    (BitVec.ofNat 32 pos + k0, BitVec.ofNat 32 (pos / 2 ^ 32) + k1, stream + kx, 0x9E37_79B9)
  if j = 0 then x.1 else if j = 1 then x.2.1 else if j = 2 then x.2.2.1 else x.2.2.2

/-- Position of lane l in a stream with a base (R42). -/
def lanePos (base : Word) (l : Nat) : Nat := (base.toNat + l * 2 ^ 40) % 2 ^ 64

/-! ### Values by type -/

/-- The format of a floating-point type. -/
def tyFmt : Ty → Option Fmt
  | .f32 => some .fp32 | .f16 => some .fp16 | .bf16 => some .bf16 | .e4m3 => some .e4m3 | .e5m2 => some .e5m2
  | .e2m1 => some .e2m1 | _ => none

/-- Is the type floating-point? -/
def tyIsFp (t : Ty) : Bool := (tyFmt t).isSome

/-- A field read by its type: an integer by its signedness, a floating-point encoding by its format. -/
def tyValue (t : Ty) (x : Nat) : Fp :=
  match tyFmt t with
  | some f => Fp.decode f x
  | none => Fp.ofInt (if t.signed then signedValue x t.width else (x % 2 ^ t.width : Nat))

/-- An integer field by its signedness. -/
def tyInt (t : Ty) (x : Nat) : Int := if t.signed then signedValue x t.width else ((x % 2 ^ t.width : Nat) : Int)

/-! ### Shadow units -/

/-- A value cut to its sign, FP32 exponent and top three fraction bits, as a shadow unit reads an operand (R39). DESIGN CHOICE
(log entry 106): a NaN stays a NaN. -/
def Fp.short : Fp → Fp
  | .fin n m e =>
    let q := max (e + Nat.log2 m - 3) (-129)
    if q ≤ e then .fin n m e else .fin n (m / 2 ^ (q - e).toNat) q
  | x => x

/-- An encoding cut in the same way. -/
def shortEnc (f : Fmt) (x : Nat) : Nat := (roundFp f .rtz false (Fp.decode f x).short).1

/-- Key of an FP32 result (R39). -/
def shadowKey (x : Nat) : Nat := bits x 20 11

/-- The result groups of R39. -/
inductive ShadowRow where
  | product
  | sum (largestExp : Nat)
  deriving DecidableEq, Repr

/-- Exponent field of an FP32 encoding. -/
def expField (x : Nat) : Nat := bits x 23 8

/-- What the comparison of R39 sees of a shadow's result: sign, key, NaN. -/
structure ShadowVal where
  sign : Bool
  key : Nat
  isNan : Bool
  deriving DecidableEq, Repr

/-- The same of an FP32 encoding. -/
def shadowVal (x : Nat) : ShadowVal := ⟨bitOf x 31, shadowKey x, (Fp.decode .fp32 x).isNan⟩

/-- Does the comparison of R39 fail for a main result against a shadow's sign, key and NaN? DESIGN CHOICE (log entry 106): the
result exponent of the last row is the main result's, as in the row before it, so that row never fails. -/
def shadowFails (row : ShadowRow) (main : Nat) (sh : ShadowVal) : Bool :=
  let sign := sh.sign
  let key := sh.key
  let isNan := sh.isNan
  let mnan := (Fp.decode .fp32 main).isNan
  let differs := decide (sign ≠ bitOf main 31) || decide (2 < (shadowKey main : Int) - key) ||
    decide (2 < (key : Int) - shadowKey main)
  if mnan || isNan then mnan != isNan
  else if expField main = 0 then decide (8 ≤ key)
  else match row with
    | .product => differs
    | .sum big =>
      if expField main = 255 ∨ big ≤ expField main + 1 then differs
      else decide (big + 1 < expField main)

end Sys2Proof.Machine
end

