-- ==== Sys2Proof/Machine/State.lean ====
section
/-! DEFINITION. Everything the manual gives the machine to hold, as plain data, and the state right after reset. A field's
comment gives its rule and its value at launch or reset. -/

namespace Sys2Proof.Machine

/-- Why the machine stops. -/
inductive Fault where
  /-- A physical address at or above 768 GiB with PA[51] = 0: no memory is there (R404). Raised by the memory operations.
  Safe: the model stops where the manual names no storage. -/
  | noSuchAddress (pa : Nat)
  deriving DecidableEq, Repr

/-- Why an instruction has no meaning. -/
inductive Refusal where
  /-- The arm of `exec` for an instruction that has no meaning yet. Safe. -/
  | notModelled (mnemonic : String)
  deriving DecidableEq, Repr

/-! ### Strands -/

/-- What a strand is doing (R83, R107, R117); `purged` is stopped by a purge of its tag (R340, R352). -/
inductive RunSt where
  | idle | running | halted | dtrap | purged
  deriving DecidableEq, Repr

/-- Kinds of trap (R114). -/
inductive TrapKind where
  | precise | after | imprecise
  deriving DecidableEq, Repr

/-- A trap raised and not yet entered (R115, R117). `epc` is the address R114 gives for a precise or after trap. -/
structure TrapReq where
  code : BitVec 8
  detail : BitVec 32
  pair2 : Bool
  kind : TrapKind
  epc : Word
  eaddr : Word
  deriving DecidableEq, Repr

/-- Where a write in flight lands (R86). -/
inductive Target where
  | none
  | s (r : Nat) (x : Word)
  | v (r : Nat) (mask : Word) (lanes : List Lane)
  | p (r : Nat) (mask : Word) (x : Word)
  | h (r : Nat) (x : Word)
  /-- the hardware's write of a loop's stage predicates, p8 on: bit j of `x` goes into every lane of p(8 + j), j < `n` (R92) -/
  | stages (n : Nat) (x : Word)
  /-- an FPX or SHADOW found at the landing of an interlocked group (R112, R136, R137) -/
  | trap (t : TrapReq)
  /-- a SHADOW of the other word of such a pair, which only counts in the vote (R39, R137) -/
  | met
  deriving DecidableEq, Repr

/-- A write in flight: it lands at cycle `due` with its flags, ISAT in bit 5 (R86, R111, R134). `shadow` is DETAIL of a
SHADOW that its word has met, `second` that the word is the second of a pair (R63, R137). -/
structure Landing where
  due : Nat
  target : Target
  flags : BitVec 6
  resid : Word
  shadow : Option (BitVec 32)
  addr : Word
  second : Bool
  excl : Bool
  deriving DecidableEq, Repr

/-- States of a result latch (R88). -/
inductive LatchSt where
  | empty | pending | full
  deriving DecidableEq, Repr

/-- A result latch: lanes for 0 to 3, a word for 4 and 5; the flags its deposit raised (R88, R112). -/
structure Latch where
  st : LatchSt
  lanes : List Lane
  word : Word
  flags : BitVec 6
  deriving DecidableEq, Repr

/-- A latch as launch leaves it (R88). -/
def Latch.start : Latch := ⟨.empty, [], 0, 0⟩

/-- A result on its way to a latch (R88, R135). `handler` says that the word issued inside a handler (R116). -/
structure Deposit where
  due : Nat
  latch : Nat
  lanes : List Lane
  word : Word
  flags : BitVec 6
  handler : Bool
  shadow : Option (BitVec 32)
  addr : Word
  second : Bool
  deriving DecidableEq, Repr

/-- A handle on its way (R178, R179). -/
structure HandleDep where
  due : Nat
  h : Nat
  value : Word
  pa : Nat
  va : Word
  killed : Bool
  deriving DecidableEq, Repr

/-- A hardware loop (R90): body start, end, K, i, S, T. -/
structure LoopSt where
  start : Word
  stop : Word
  k : Nat
  i : Nat
  s : Nat
  t : Nat
  deriving DecidableEq, Repr

/-- Where a write to memory comes from (R227 to R233): its number, in the order of issue; the tick of its issue; the class of its
agent, 4 for S down to 0 for H, and the skein, 80 outside the skeins; the writes that happen before it; what it hands on, by 5
times the class of the agent that released it and the class of the reader; the die vector clock that a strand's write carries,
and the value that its own die's entry takes with it (R229). -/
structure Origin where
  num : Nat
  tick : Nat
  cls : Nat
  skein : Nat
  dep : List Nat
  rel : SMap (List Nat)
  clk : SMap Nat
  seq : Nat
  deriving DecidableEq, Repr

/-- What an atomic request carries to its home (R241): the operation (6 SWAP, 7 CAS), the operands read at sending, the
destination, the acquire and release masks, the address of the next group, the handle, and where its write comes from. -/
structure AtomReq where
  op : Nat
  ty : Ty
  x : Word
  y : Word
  dst : Nat
  acq : BitVec 5
  rel : BitVec 5
  next : Word
  hn : Nat
  org : Origin
  deriving DecidableEq, Repr

/-- A request of a word that issues again until the answer is there (R187, R242, R319): when and where it was sent, the
pieces of memory it names as (physical address, virtual address, bytes), its attempt tag, the mask of its acquire, and the
answer; `t0` is the package tick of `c0` (R380). `image` is the virtual and physical address of the context image of a CTXSV or
CTXLD that occupies its strand (R130, R178). -/
structure MemOp where
  c0 : Nat
  t0 : Nat
  at_ : Word
  reqs : List (Nat × Word × Nat)
  att : Option (BitVec 16)
  atom : Option AtomReq
  acq : BitVec 5
  ready : Bool
  data : List Byte
  poison : Option (Nat × Word)
  image : Option (Nat × Nat)
  deriving DecidableEq, Repr

/-- A registration record of a strand (R215). `pend` marks one that has not taken effect, `live` one whose taking effect the
strand's spindle has seen (R216). -/
structure PhReg where
  ph : Nat
  mode : Nat
  arrph : BitVec 32
  wph : BitVec 32
  drop : Bool
  pend : Bool
  live : Bool
  deriving DecidableEq, Repr

/-- Why a strand is not eligible besides a wait of class 0x14 (R85); `launch` until strand 0 of a task that is bound starts (R436). -/
inductive HoldSt where
  | none
  | nop
  | latch (n : Nat)
  | yield (others : List Nat) (stop : Nat)
  | launch
  deriving DecidableEq, Repr

/-- A wait of class 0x14, or of STEPWAIT (R203, R347): what is waited on as DETAIL of TIMEOUT names it, the object, the
package tick from which the limit counts, the literal e, the target of a TICKW, and the cycle of the first issue. -/
structure WaitSt where
  code : Nat
  obj : Nat
  since : Nat
  limit : Nat
  target : Nat
  at_ : Nat
  deriving DecidableEq, Repr

/-- What an agent knows of the writes to memory, each by its number (R228 to R233): those that happen before its next access; its
own, which its releases cover, where they do not order its own reads; the bytes that it has read, as (write, address, length);
what its releases have released to each class; what it has been handed by agents of each class and acquires with it; and the die
vector clock of the writes that it has read (R229). -/
structure View where
  hb : List Nat
  own : List Nat
  seen : List (Nat × Nat × Nat)
  rel : SMap (List Nat)
  pend : SMap (List Nat)
  clk : SMap Nat
  deriving DecidableEq, Repr

/-- A view that follows nothing. -/
def View.start : View := ⟨[], [], [], [], [], []⟩

/-- One hardware thread (01, 05, 06). `hwFlags` are the bits of CR.FPCTL that hardware has set in cycle `hwAt` (R5, R111); `vmark`
holds the marks of the 64-byte units of its vector registers, unit 4r + i of register r (R338). -/
structure Strand where
  run : RunSt
  pc : Word
  sreg : SMap Word
  vreg : SMap Lane
  preg : SMap Word
  hreg : SMap Word
  hpa : SMap Nat
  slab : SMap Word
  rstk : List Word
  depth : Nat
  loops : SMap (Option LoopSt)
  order : List Nat
  latch : SMap Latch
  saved : SMap Latch
  deposits : List Deposit
  landings : List Landing
  handles : List HandleDep
  privm : Bool
  exl : Bool
  fpctl : Word
  hwAt : Nat
  hwFlags : BitVec 6
  tag : BitVec 16
  epc : Word
  cause : Word
  estat : Word
  eaddr : Word
  hscr : SMap Word
  resid : Word
  readyAt : Nat
  hold : HoldSt
  wait : Option WaitSt
  arrived : Bool
  mem : Option MemOp
  trap : Option TrapReq
  trapAt : Nat
  held : List TrapReq
  regs : List PhReg
  bfail : Nat
  lines : SMap Bool
  vmark : SMap Nat
  view : View
  atStop : Bool
  deriving DecidableEq, Repr

/-- A strand as launch leaves it: idle, every register 0, FPCTL 0, stores and loops empty (R83, R89, R111, R126). -/
def Strand.start : Strand :=
  { run := .idle, pc := 0, sreg := [], vreg := [], preg := [], hreg := [], hpa := [], slab := [], rstk := [], depth := 0, loops := [],
    order := [], latch := [], saved := [], deposits := [], landings := [], handles := [], privm := false, exl := false,
    fpctl := 0, hwAt := 0, hwFlags := 0, tag := 0, epc := 0, cause := 0, estat := 0, eaddr := 0, hscr := [], resid := 0, readyAt := 0, hold := .none,
    wait := none, arrived := false, mem := none, trap := none, trapAt := 0, held := [], regs := [], bfail := 0,
    lines := [], vmark := [], view := .start, atStop := false }

/-! ### Objects of a spindle -/

/-- A semaphore: count, OVF and, under determinism mode, its timestamp (R200, R224); the cycle of its last raise and what
was added in it (R207); what its raises hand on, keyed as in `Origin.rel` (R231, R232). -/
structure Sem where
  count : BitVec 32
  ovf : Bool
  vt : SMap Nat
  lastC : Nat
  lastN : Nat
  carry : SMap (List Nat)
  deriving DecidableEq, Repr

/-- A semaphore as launch leaves it (R200). -/
def Sem.start : Sem := ⟨0, false, [], 0, 0, []⟩

/-- A spool (R209): DEF first. -/
structure Spool where
  on : Bool
  base : Nat
  slots : Nat
  bytes : Nat
  tail : Nat
  head : Nat
  pclaim : Nat
  ready : Nat
  cclaim : Nat
  deriving DecidableEq, Repr

/-- A spool as launch leaves it. -/
def Spool.start : Spool := ⟨false, 0, 0, 0, 0, 0, 0, 0, 0⟩

/-- What a neighbour in the commit tree has last counted for a step-group phaser (R216): the neighbour, the phase, the
signallers effective in it on its side of the tree, and their arrivals. -/
structure FarCount where
  pkg : Nat
  phase : BitVec 32
  sigs : Nat
  arrs : Nat
  deriving DecidableEq, Repr

/-- A phaser (R215): the signallers effective in the phase and its arrivals, here and as the neighbours count them; what the
arrivals of the phase have handed on, and what those of each completed phase had, keyed as in `Origin.rel` (R231); the cycle and the
tick of the last completion (R216). -/
structure Phaser where
  phase : BitVec 32
  sigs : Nat
  arrs : Nat
  far : List FarCount
  carry : SMap (List Nat)
  passed : SMap (SMap (List Nat))
  overC : Nat
  overT : Nat
  deriving DecidableEq, Repr

/-- A phaser as launch leaves it (R215). -/
def Phaser.start : Phaser := ⟨0, 0, 0, [], [], [], 0, 0⟩

/-- States of a block descriptor (R185). -/
inductive BlkSt where
  | free | filling | ready | writing | evicting
  deriving DecidableEq, Repr

/-- A block descriptor (R185): its first virtual address, its lines, BSEM, the physical address of its first line, the attempt
tag of its LDBLK (R324), and what the raise of BSEM hands on (R231). -/
structure Block where
  st : BlkSt
  va : Word
  pa : Nat
  lines : Nat
  sem : Nat
  att : Option (BitVec 16)
  carry : SMap (List Nat)
  deriving DecidableEq, Repr

/-- A block descriptor as launch leaves it (R185). -/
def Block.start : Block := ⟨.free, 0, 0, 0, 0, none, []⟩

/-- Slot states that a receiving zone holds (R288). -/
inductive SlotSt where
  | free | inflight | arrived | consumed | broken
  deriving DecidableEq, Repr

/-- A slot of a zone: state, uses, chunk bytes applied in this use, the ports that carried them, and what its arrival hands on
(R231, R287 to R289, R292). -/
structure Slot where
  st : SlotSt
  uses : Nat
  got : List Nat
  ports : List Nat
  seq : Nat
  carry : SMap (List Nat)
  deriving DecidableEq, Repr

/-- A slot as the zone's definition leaves it (R310). -/
def Slot.start : Slot := ⟨.free, 0, [], [], 0, []⟩

/-- A receive zone (R287). `owner` is the strand that defined it, `binder` the package of the binding that fills it. -/
structure Zone where
  base : Nat
  slots : Nat
  bytes : Nat
  sem : Nat
  tags : Bool
  head : Nat
  taken : Nat
  slot : SMap Slot
  flags : BitVec 5
  owner : Nat
  binder : Option Nat
  deriving DecidableEq, Repr

/-- A send binding (R287). `resv` holds the reserved slots not yet attached, oldest first, as (slot, SEQ). -/
structure Binding where
  za : Word
  slots : Nat
  bytes : Nat
  next : Nat
  credits : Nat
  resv : List (Nat × Nat)
  att : Nat
  kr : Nat
  cancels : List CancelMsg
  deriving DecidableEq, Repr

/-- An engine record in a queue (R65, R247, R268, R294): its words, request tag, number, pushing strand and scratchpad
offset; the biases of its push in 16-byte units and in rows; the handles attached, by descriptor; the zone address, slot
and SEQ of an RPUT; the strands' entry last issued before the push (R224). Then how far it is: wait met, head since,
first issue no earlier than `start`, next issue `n`, cycle of its first issue, rows written, timestamp, parameter block, a
memory read that is out, since which tick and at which address, or has returned, a parked access as (address, store, entered in the ring), chunks accepted, the
ports that chunks have left through (R292), whether a chunk waits for a task of another device that is away (R308), and what the record knows of the writes to memory once it is past its last issue, before
its start what its push has handed it (R231, R233). -/
structure Rec where
  w : List Word
  tag : BitVec 16
  seq : Nat
  strand : Nat
  off : Nat
  sbias : Int
  abias : Int
  handles : List (Nat × Word)
  za : Word
  slot : Nat
  sseq : Nat
  push : Nat
  met : Bool
  headAt : Nat
  start : Nat
  n : Nat
  first : Nat
  rows : List Nat
  vt : SMap Nat
  pb : List Word
  sent : Bool
  sentAt : Nat
  src : Nat
  data : Option (List Byte)
  parked : Option (Nat × Bool × Bool)
  acks : Nat
  ports : List Nat
  away : Bool
  view : View
  deriving DecidableEq, Repr

/-- A record past its last issue, and the cycle of its completion (R250, R271). -/
structure Done where
  r : Rec
  due : Nat
  deriving DecidableEq, Repr

/-- An engine queue (R251, R257). `view` is its head's (R233), `prev` the number of the last record that has completed and what it
has released, keyed as in `Origin.rel` (R231). -/
structure Queue where
  recs : List Rec
  faulted : Bool
  flags : BitVec 6
  next : Nat
  lastPC : Nat
  done : List Done
  busyUntil : Nat
  vt : SMap Nat
  view : View
  prev : Nat × SMap (List Nat)
  deriving DecidableEq, Repr

/-- An engine queue as launch leaves it (R256, R257). -/
def Queue.start : Queue := ⟨[], false, 0, 1, 0, [], 0, [], .start, (0, [])⟩

/-- The matrix engine's own stores (R244, R245, R261). Rows are FP32 or .s32 elements by `64 * row + column`. `bload`
marks the B columns, and from 64 on the B scale rows, that BLOAD has written since launch; the others hold what `seed`
names. Sub-arrays: awake, cycle of the wake's end, cycle of last use. The shadow sums S and T are mantissa and exponent;
`unchecked` marks rows that are not checked, `wrote` counts the written columns of the others, `ints` marks rows that hold
integers. -/
structure Matrix where
  acc : SMap Lane
  bcol : SMap Byte
  bscale : SMap Byte
  bload : SMap Bool
  seed : Nat
  btype : Option Ty
  awake : SMap Bool
  waking : SMap Nat
  used : SMap Nat
  shS : SMap (Int × Int)
  shT : SMap (Int × Int)
  unchecked : SMap Bool
  wrote : SMap Nat
  ints : SMap Bool
  deriving DecidableEq, Repr

/-- The matrix engine as launch leaves it: rows +0, no B type, all gated, every row checked (R244, R245, R261). -/
def Matrix.start : Matrix := ⟨[], [], [], [], 0, none, [], [], [], [], [], [], [], []⟩

/-- The overlap checker's records of one 64-byte unit (R225): last write and, per queue, last read, as (queue, number). -/
structure UnitRec where
  write : Option (Nat × Nat)
  reads : SMap Nat
  deriving DecidableEq, Repr

/-- A unit as launch leaves it. -/
def UnitRec.start : UnitRec := ⟨none, []⟩

/-- A word that software and hardware both change, in this spindle cycle: the bits that hardware has updated in it, and the word as it
stood before software wrote it (R5). -/
structure Race where
  hw : Word
  was : Word
  deriving DecidableEq, Repr

/-- Debug and accounting words of a spindle (R390, R394, R395). `stopIn` says that a stop request of another spindle is on
its way. -/
structure Debug where
  ctl : Word
  state : Nat
  scode : Nat
  bcode : Nat
  acct : SMap Nat
  semk : SMap Nat
  scopecnt : Word
  scopeadr : Word
  stopIn : Bool
  deriving DecidableEq, Repr

/-- The debug words at reset (R390, R395). -/
def Debug.start : Debug := ⟨0, 0, 0, 0, [], [], 0, 0, false⟩

/-- One spindle (01, 05, 06, 09, 10, 12, 13, 14, 17). `last` is the strand that issued last, `issued` 1 + the strand of
which a group has issued in this cycle, 5 + the strand whose word issued again, 0 for none (R85, R393). Of this cycle too:
`banks` the banks of the pool that are taken, `served` the queues whose turn at the banks has come, `denied` those that were
denied a bank (R172, R271), `met` the strands whose wait was met, `waited` says that the waits have had their turns (R203, R393).
`up` is the first cycle of its task's residence, none before strand 0 starts and while the task is being restored (R393, R436, R438). -/
structure Spindle where
  task : Option Nat
  lcode : Nat
  part : Nat
  sg : Nat
  ag : Nat
  strands : SMap Strand
  last : Nat
  banks : List Nat
  served : List Nat
  denied : List Nat
  scratch : SMap Byte
  tileTag : SMap (BitVec 16)
  poison : SMap Nat
  accPoison : SMap Nat
  cbank : SMap Word
  sems : SMap Sem
  spools : SMap Spool
  phasers : SMap Phaser
  blocks : SMap Block
  queues : SMap Queue
  matrix : Matrix
  zones : SMap (Option Zone)
  binds : SMap (Option Binding)
  units : SMap UnitRec
  q5 : Nat
  q5vt : SMap Nat
  q5in : SMap Nat
  issued : Nat
  tvec : Word
  det : Bool
  prio : Nat
  step : Word
  dom : Word
  wdog : Word
  wdlim : Word
  wdArmed : Bool
  wdDue : Bool
  cvotes : Nat
  corr : List (Nat × Word)
  whorlSig : Word
  phView : SMap (BitVec 32)
  dbg : Debug
  stopping : Bool
  up : Option Nat
  met : List Nat
  waited : Bool
  deriving DecidableEq, Repr

/-- A spindle with no task (R83, R121, R200, R209). -/
def Spindle.start : Spindle :=
  { task := none, lcode := 0, part := 0, sg := 0, ag := 0, strands := [], last := 3, banks := [], served := [], denied := [], scratch := [], tileTag := [], poison := [],
    accPoison := [], cbank := [], sems := [], spools := [], phasers := [], blocks := [], queues := [], matrix := .start,
    zones := [], binds := [], units := [], q5 := 0, q5vt := [], q5in := [], issued := 0, tvec := 0, det := false, prio := 0, step := 0, dom := 0,
    wdog := 0, wdlim := 0, wdArmed := true, wdDue := false, cvotes := 0, corr := [], whorlSig := 0, phView := [], dbg := .start,
    stopping := false, up := none, met := [], waited := false }

/-! ### Memory, fabric and steps -/

/-- A posted write or ATOM on its way to its home (R187, R242). `grp` is the cycle in which its word issued, `att` the
attempt tag of R324, `rel` the mask of a release, `hn` the handle that it names, `exl` says that it issued inside a
handler, `whole` that it is a piece of one write that covers its whole line, `marked` that its data are poisoned (R338),
`lane` the lane of a VSTX (R186). -/
structure Posted where
  spn : Nat
  strand : Nat
  va : Word
  pa : Nat
  data : List Byte
  atom : Option (BitVec 4 × Ty)
  part : Nat
  tag : BitVec 16
  grp : Nat
  att : Option (BitVec 16)
  exl : Bool
  rel : BitVec 5
  hn : Nat
  whole : Bool
  lane : Nat
  marked : Bool
  org : Origin
  deriving DecidableEq, Repr

/-- A write that has been applied at its home, while an older value of its bytes can still be read (R228 to R230): where it comes
from, the place of its bytes in storage, and what they held before. -/
structure WriteRec where
  org : Origin
  pa : Nat
  old : List Byte
  deriving DecidableEq, Repr

/-- That the next read by an agent of the bytes at a place in storage is served before some writes, given by their numbers: 0 to 3
the strands of a spindle, 4 on its queues (R233). -/
structure OldRead where
  spn : Nat
  agent : Nat
  pa : Nat
  hide : List Nat
  deriving DecidableEq, Repr

/-- An invalidation on its way from a home to the L2 of a skein (R235): the key of the copy in `State.l2`, the skein, and the
number, the class and the tick of the write that it is sent for. -/
structure Inval where
  key : Nat
  skein : Nat
  num : Nat
  cls : Nat
  tick : Nat
  deriving DecidableEq, Repr

/-- What an L2 or a memory-side cache keeps of a copy of a line besides its bytes: whether it holds it, scope tag, kind and
attempt, whether it is dirty, whether a block holds it (R185, R236, R329). -/
structure L2Line where
  here : Bool
  scope : BitVec 5
  kind : Nat
  att : BitVec 16
  dirty : Bool
  held : Bool
  deriving DecidableEq, Repr

/-- A bobbin (R296): its key, the step and attempt of its elements, their partition, the elements, the cycles of its first
and last append, and the age at which it leaves. Once it has left as a flit: the flit's number and port (R297). -/
structure Bobbin where
  tag : BitVec 16
  pkg : Nat
  page : Nat
  grp : Nat
  step : Word
  att : Option (BitVec 16)
  part : Nat
  elems : List BobElem
  born : Nat
  last : Nat
  bage : Nat
  id : Nat
  port : Nat
  deriving DecidableEq, Repr

/-- A posted XADD, with the request tag that it carries, and where its write comes from (R301, R318, R324). -/
structure XAddOp where
  spn : Nat
  strand : Nat
  tag : BitVec 16
  xs : List Lane
  ty : Ty
  att : Option (BitVec 16)
  org : Origin
  deriving DecidableEq, Repr

/-- An exact-sum window (R25, R37, R301). `owner` is the task it is bound to, `deps` holds the writes that a read of it follows, and
`clk` the die vector clock of those it returns (R229, R301); `step` is the attempt, with its step group, in which the task of a step bound
it (R306, R425). -/
structure Window where
  owner : Option Nat
  e : Int
  acc : BitVec 160
  cnt : BitVec 32
  ovf : Bool
  queue : List XAddOp
  deps : List Nat
  clk : SMap Nat
  step : Option (Nat × BitVec 16)
  deriving DecidableEq, Repr

/-- A window as start leaves it. -/
def Window.start : Window := ⟨none, 0, 0, 0, false, [], [], [], none⟩

/-- A port (R320, R302, R408). -/
structure Port where
  en : Bool
  st : Nat
  peerPort : Nat
  peers : List PeerEntry
  retry : Nat
  lost : Nat
  since : Nat
  down : Bool
  deriving DecidableEq, Repr

/-- A port at reset (R320, R408). -/
def Port.start : Port := ⟨false, 0, 0, [], 0, 0, 0, false⟩

/-- A message between devices or base dies. -/
inductive NetMsg where
  | chunk (m : ChunkMsg)
  | accept (m : AcceptMsg)
  | credit (m : CreditMsg)
  | cancel (m : CancelMsg)
  | flit (m : FlitMsg)
  | flitDone (m : FlitDone)
  | vote (dst : Nat) (m : VoteMsg)
  | decision (dst : Nat) (m : DecisionMsg)
  | gather (dst : Nat) (m : GatherMsg)
  deriving DecidableEq, Repr

/-- A decision recorded in HIST (R321, R336). -/
structure Hist where
  step : Nat
  commit : Bool
  flags : BitVec 6
  first : Option Nat
  seqno : Nat
  deriving DecidableEq, Repr

/-- A step context (R321). The four base dies hold identical copies; the model holds the one they agree on. `cast` and
`first` are the vote cast and its FIRSTPKG, `kids` the votes held of children, `decided` that the root has decided,
`opened` counts the attempts opened (R333 to R335). -/
structure Ctx where
  used : Bool
  grp : Nat
  tag : BitVec 16
  stepno : Nat
  isOpen : Bool
  att : BitVec 16
  ord : Nat
  td : Nat
  vflags : BitVec 6
  bitmap : SMap Bool
  hist : List Hist
  cast : Option (BitVec 6)
  first : Option Nat
  kids : List (Nat × BitVec 6 × Option Nat)
  decided : Bool
  purging : Bool
  opened : Nat
  phasers : SMap Phaser
  deriving DecidableEq, Repr

/-- A context at start. -/
def Ctx.start : Ctx :=
  { used := false, grp := 0, tag := 0, stepno := 0, isOpen := false, att := 0, ord := 0, td := 0, vflags := 0, bitmap := [],
    hist := [], cast := none, first := none, kids := [], decided := true, purging := false, opened := 0, phasers := [] }

/-- A versioned region (R325, R354). -/
structure Region where
  base : Nat
  len : Nat
  ctx : Nat
  deriving DecidableEq, Repr

/-- The metadata of a version block (R325). -/
structure VMeta where
  w : Bool
  v : Bool
  a : BitVec 16
  deriving DecidableEq, Repr

/-- What makes a 2 MiB frame versioned: its context and the offset of its twin frame (R325). -/
structure VPage where
  ctx : Nat
  twin : Nat
  deriving DecidableEq, Repr

/-- Metadata as VERDEF leaves it (R354). -/
def VMeta.start : VMeta := ⟨false, false, 0⟩

/-! ### Command processor -/

/-- A packet taken from a queue, until it has completed (R356, R358): its number, its words, whether it has started and when,
its task or graph store. `span` names the STEPOPEN that starts it in an attempt. A STEPOPEN keeps the packets of its span, its
ORD, and where it is: 0 taking its span, 1 not started, 2 to open an attempt, 3 in an attempt (R367). -/
structure Pkt where
  idx : Nat
  w : List Word
  started : Bool
  since : Nat
  span : Option Nat
  task : Option Nat
  graph : Option Nat
  kept : List (List Word)
  ord : Nat
  phase : Nat
  deriving DecidableEq, Repr

/-- A queue of the command processor (R355 to R357). `gone` holds the slots that a purge took out of the ring before their
turn (R379); `base` is what the numbers of its packets have come to before it was last enabled (R357). -/
structure CmdQ where
  d0 : Word
  d1 : Word
  bind : BitVec 16
  wptr : Word
  rptr : Nat
  state : Nat
  reason : Nat
  pkts : List Pkt
  gone : List Nat
  base : Nat
  deriving DecidableEq, Repr

/-- A queue at reset: DISABLED (R355, R357). -/
def CmdQ.start : CmdQ := ⟨0, 0, 0, 0, 0, 0, 0, [], [], 0⟩

/-- Where a task is in its life (R363, R376, R378, R119). -/
inductive TaskSt where
  | ready | resident | stopping | away | restoring
  deriving DecidableEq, Repr

/-- A task (R13, R83, R359 to R363, R376, R377). `binding` pairs logical codes with physical spindles; `entry`, `consts`, `scr`
and `descs` are what the loader takes from the image: start address, constant bank, scratchpad contents, descriptor values.
`saved`, `bobs` and `wins` hold what pre-emption saves (R119, R308). -/
structure Task where
  st : TaskSt
  rqtag : BitVec 16
  part : Nat
  grp : Nat
  instep : Bool
  det : Bool
  prio : Nat
  image : Nat
  place : List Nat
  pword : Word
  eest : Nat
  wdlim : Word
  csig : Nat
  crec : Nat
  q : Nat
  pkt : Nat
  node : Option (Nat × Nat)
  binding : List (Nat × Nat)
  rank : Nat
  skips : Nat
  tstart : Nat
  ndt : Nat
  nfault : Nat
  dt : Option (Word × Word × Nat × Nat)
  ef : Option (Nat × Nat × Nat)
  cbva : Option Word
  sched : List (List (Nat × Nat))
  entry : Word
  consts : List Word
  scr : List Byte
  descs : List (Nat × Nat)
  phasers : SMap Phaser
  saved : List (Nat × Spindle)
  bage : Nat
  agelim : Nat
  purged : Option (BitVec 16)
  purgeDt : Option (Word × Word × Nat × Nat)
  bobs : List Bobbin
  wins : List (Nat × Window)
  deriving DecidableEq, Repr

/-- A node of a running graph: arrived edges, live ones; 0 waiting, 1 running, 2 done, 3 skipped; the iterations that a LOOP
still has to end, 0 before its count has been read; the task (R373, R374); whether a purge has taken the node (R379). -/
structure NodeSt where
  arrived : Nat
  live : Nat
  st : Nat
  iter : Nat
  task : Option Nat
  gone : Bool
  deriving DecidableEq, Repr

/-- A node before any edge has arrived. -/
def NodeSt.start : NodeSt := ⟨0, 0, 0, 0, none, false⟩

/-- A graph store in use (R370); `purged` says that a purge has taken the GRAPH's tag. -/
structure GraphSt where
  q : Nat
  pkt : Nat
  part : Nat
  tag : BitVec 16
  nodes : List (List Word)
  launches : List (List Word)
  st : SMap NodeSt
  csig : Nat
  crec : Nat
  bad : Nat
  tstart : Nat
  purged : Bool
  deriving DecidableEq, Repr

/-- An outstanding page request (R182, R183): where its entry lies, 1 for PGREQ or 2 for a parked access, the logical
spindle, the semaphore, the task, and what the raise hands on (R231). -/
structure PgReq where
  pa : Nat
  src : Nat
  spn : Nat
  sem : Nat
  task : Option Nat
  carry : SMap (List Nat)
  deriving DecidableEq, Repr

/-- A partition entry: its 16 words, and the regions, records and invalidation it owns (R325, R350, R403, R405). `suspect` is
skein, first and last committed step and their number. -/
structure Part where
  w : SMap Word
  regions : SMap (Option Region)
  poison : Option (Nat × Word × BitVec 16 × Nat)
  suspect : Option (Nat × Nat × Nat × Nat)
  suspectVote : Bool
  requests : List PgReq
  go : Bool
  deriving DecidableEq, Repr

/-- A partition entry at reset; AGELIM 1 and BAGE 256 in word 0 (R403). -/
def Part.start : Part :=
  { w := [(0, 0x0001_0100_0000_0000)], regions := [], poison := none, suspect := none, suspectVote := false, requests := [], go := false }

/-! ### Whorl -/

/-- An attach slot: its three words and its queue of events (R382, R384). -/
structure Attach where
  w0 : Word
  w1 : Word
  w2 : Word
  queue : List TapEvent
  deriving DecidableEq, Repr

/-- An attach slot at reset (R382). -/
def Attach.start : Attach := ⟨0, 0, 0, []⟩

/-- A run of a slot's program (R384): the registers w0 to w15 and the next program word. -/
structure WRun where
  slot : Nat
  ev : TapEvent
  pc : Nat
  regs : SMap Word
  due : Nat
  deriving DecidableEq, Repr

/-- The Whorl of a base die (R382, R384, R385). `next` is the tick from which its next word may execute. -/
structure Whorl where
  slots : SMap Attach
  prog : SMap (BitVec 32)
  cells : SMap Word
  irqsts : BitVec 32
  tenants : SMap Word
  run : Option WRun
  last : Nat
  next : Nat
  deriving DecidableEq, Repr

/-- A Whorl at start: program words and cells 0 (R382). -/
def Whorl.start : Whorl := ⟨[], [], [], 0, [], none, 31, 0⟩

/-! ### Device -/

/-- The device block, mailbox and power words (R402, R409 to R417). `wakeHold` says that the power controller holds sub-array
wakes, `surge` is the tick since which its reports have the core rails at their limit, `lastCorr` is the tick of the last correction of the package tick. -/
structure Device where
  stage : Nat
  svc : Nat
  lock : Bool
  fail : Nat
  dieok : BitVec 4
  hbmok : BitVec 12
  devcap : Word
  skeinsOff : SMap Bool
  apbase : Word
  timectl : Nat
  vfmap : SMap (BitVec 8)
  plimset : Nat
  thermal : Nat
  imageLim : Nat
  pnow : Nat
  icore : Nat
  ipeak : Nat
  throt : Nat
  wakeHold : Bool
  surge : Option Nat
  lastCorr : Option Nat
  svn : Nat
  image : List Byte
  mboxCmd : Word
  mboxSts : Nat
  mboxArg : Word
  mbox : SMap Byte
  msix : List (Nat × Nat)
  hostRead : List Byte
  commits : SMap (Nat × Nat × Nat)
  deriving DecidableEq, Repr

/-- The device block before the ROM has run (R402, R411, R416). -/
def Device.start : Device :=
  { stage := 0, svc := 0, lock := false, fail := 0, dieok := 0, hbmok := 0, devcap := 0, skeinsOff := [], apbase := 0,
    timectl := 0, vfmap := [], plimset := 0, thermal := 4095, imageLim := 0, pnow := 0, icore := 0, ipeak := 0, throt := 0,
    wakeHold := false, surge := none, lastCorr := none, svn := 0, image := [], mboxCmd := 0, mboxSts := 0, mboxArg := 0, mbox := [], msix := [], hostRead := [], commits := [] }

/-- A step-group entry (R406): words 0 to 7. -/
abbrev GroupEntry := SMap Word

/-- What goes wrong on its own in the hardware, in the order in which it is met: the result of a shadow unit that does not
follow the main unit, or voted copies that differ (R39, R93). -/
inductive Upset where
  | shadow (spn strand lane elem : Nat) (sign : Bool) (key : BitVec 11) (isNan : Bool)
  | voteOne (spn strand : Nat)
  | voteAll (spn strand : Nat)
  /-- an uncorrectable error of HBM, of a memory-side cache or of a skein's L2 in the line of an address, or of the pool in a
  64-byte unit, counted from granule 0 on (R10, R338) -/
  | hbmError (pa : Nat)
  | cacheError (pa : Nat)
  | l2Error (skein pa : Nat)
  | poolError (spn unit : Nat)
  /-- a skein's L2, or a memory-side cache, gives a line up for want of room (R185, R329) -/
  | l2Evict (skein pa : Nat)
  | cacheEvict (pa : Nat)
  /-- an uncorrectable error in the metadata of the version block of an address (R343) -/
  | metaError (pa : Nat)
  /-- an element of an accumulator row that has gone wrong (R40, R261) -/
  | accError (spn row col : Nat) (x : Lane)
  deriving DecidableEq, Repr

/-- For which agent `exec` runs a word: the strand, the address of the word and of its group, the next address in sequence,
the place in a pair, and the strand as it stood when the group issued (R58). Then what the words of the group have asked
of it: a trap raised, to issue again, a transfer, the earliest next issue, the cycle of an interlock (`holdTo`, 0 for none,
R136), flags to OR although the group has no effect (R112), a trap found now that is raised at a landing (R136, R154), the
SHADOW of the other word at such a landing, a VOTE3 or SHADOW met, as its kind, address and DETAIL (R39, R93), the loops of which a kernel iteration starts (R390). -/
structure Focus where
  spn : Nat
  strand : Nat
  addr : Word
  group : Word
  next : Word
  second : Bool
  pair : Bool
  pre : Option Strand
  raised : Option TrapReq
  again : Bool
  target : Option Word
  lock : Nat
  holdTo : Nat
  flags : BitVec 6
  late : Option Landing
  met : Option Landing
  corrupt : Option (Nat × Word × BitVec 32)
  started : List Nat
  whorl : Nat
  deriving DecidableEq, Repr

/-- A focus on nothing. -/
def Focus.start : Focus :=
  { spn := 0, strand := 0, addr := 0, group := 0, next := 0, second := false, pair := false, pre := none, raised := none,
    again := false, target := none, lock := 0, holdTo := 0, flags := 0, late := none, met := none, corrupt := none, started := [], whorl := 0 }

/-- What moves next by plan: a given event, the machine's next own move, or its next own move of those that come at a time the
manual fixes. -/
inductive Turn where
  | event (i : Instr)
  | timed
  | held
  deriving DecidableEq, Repr

/-- The machine: one package, its memory, and what is under way. `frac` is the part of a package tick that has passed, in
1/`den` of a tick, `den` a multiple of `mhz`; it is negative after an increment is withheld (R12, R409). `unacked` holds the votes and decisions that are sent again
until they are acknowledged (R334), `early` counts of phasers for an attempt that is yet to open (R216, R324). `writes` counts the writes to memory that have been issued, and `wlog` keeps the latest of those
applied, the last first; `olds` says which reads return an older value, `invals` are the invalidations on their way, `views` are what
the agents outside the spindles know, and `dieClk` holds the die vector clocks, by 4 times the die and the entry (R228 to R235). `races` holds the words that software and
hardware have changed in this spindle cycle, by `raceKey` (R5). `l2` holds the copies of lines in the L2s of the skeins and in the memory-side
caches, `l2Marks` the marks of those that have gone wrong there (R329, R338). -/
structure State where
  cycle : Nat
  tick : Nat
  frac : Int
  mhz : Nat
  den : Nat
  agenda : List Turn
  cur : Focus
  free : Nat
  upsets : List Upset
  mem : List Host.Cell
  memPoison : SMap Nat
  writes : Nat
  wlog : List WriteRec
  olds : List OldRead
  early : List GatherMsg
  invals : List Inval
  views : SMap View
  dieClk : SMap Nat
  posted : List Posted
  l2 : SMap L2Line
  l2Marks : SMap Nat
  vmeta : SMap VMeta
  vpage : SMap (Option VPage)
  spindles : SMap Spindle
  bobbins : SMap (Option Bobbin)
  flits : List Bobbin
  bobSeq : Nat
  windows : SMap Window
  ports : SMap Port
  net : List NetMsg
  unacked : List NetMsg
  ctxs : SMap Ctx
  lastAtt : SMap (BitVec 16)
  purges : List (Nat × BitVec 16)
  queues : SMap CmdQ
  tasks : SMap (Option Task)
  nextTask : Nat
  graphs : SMap (Option GraphSt)
  roundAt : Nat
  rounds : Nat
  launched : List (Nat × Nat)
  parts : SMap Part
  groups : SMap GroupEntry
  whorls : SMap Whorl
  races : SMap (Option Race)
  dev : Device
  deriving DecidableEq, Repr

/-- Power-on: the ROM has not run, nothing is resident, nothing is listed in memory (R410, R411). -/
def State.reset : State :=
  { cycle := 0, tick := 0, frac := 0, mhz := 1100, den := 1100, agenda := [], cur := .start, free := 0, upsets := [], mem := [],
    memPoison := [], writes := 0, wlog := [], olds := [], early := [], invals := [], views := [], dieClk := [], posted := [], l2 := [], l2Marks := [], vmeta := [], vpage := [], spindles := [], bobbins := [], flits := [], bobSeq := 0, windows := [],
    ports := [], net := [], unacked := [], ctxs := [], lastAtt := [], purges := [], queues := [], tasks := [], nextTask := 1, graphs := [], roundAt := 0, rounds := 0,
    launched := [], parts := [], groups := [], whorls := [], races := [], dev := .start }

end Sys2Proof.Machine
end

