-- ==== Sys2Proof/Machine/Ops.lean ====
section
/-! DEFINITION. The named operations over strands and spindles: access, registers, writes in flight, the return-address
store, hardware loops, taking a trap and returning from one. -/

namespace Sys2Proof.Machine

/-! ### Access to spindles and strands -/

/-- Spindle `n` (R9). -/
def spindleAt (s : State) (n : Nat) : Spindle := SMap.get .start s.spindles n

/-- Replace spindle `n`. -/
def setSpindle (n : Nat) (p : Spindle) (s : State) : State := { s with spindles := SMap.set .start s.spindles n p }

/-- Change spindle `n`. -/
def updSpindle (n : Nat) (f : Spindle → Spindle) (s : State) : State := setSpindle n (f (spindleAt s n)) s

/-- Strand `k` of a spindle. -/
def strandOf (p : Spindle) (k : Nat) : Strand := SMap.get .start p.strands k

/-- Change strand `k` of a spindle. -/
def updStrandOf (k : Nat) (f : Strand → Strand) (p : Spindle) : Spindle :=
  { p with strands := SMap.set .start p.strands k (f (strandOf p k)) }

/-- Strand `k` of spindle `n`. -/
def strandAt (s : State) (n k : Nat) : Strand := strandOf (spindleAt s n) k

/-- Change strand `k` of spindle `n`. -/
def updStrand (n k : Nat) (f : Strand → Strand) (s : State) : State := updSpindle n (updStrandOf k f) s

/-- The spindle of the strand that issues. -/
def mySpindle (s : State) : Spindle := spindleAt s s.cur.spn

/-- The strand that issues. -/
def me (s : State) : Strand := strandAt s s.cur.spn s.cur.strand

/-- Change the strand that issues. -/
def updMe (f : Strand → Strand) (s : State) : State := updStrand s.cur.spn s.cur.strand f s

/-- Change the spindle of the strand that issues. -/
def updMySpindle (f : Spindle → Spindle) (s : State) : State := updSpindle s.cur.spn f s

/-- The strand whose registers the words of the group read: as it stood when the group issued (R58). -/
def rd (s : State) : Strand := s.cur.pre.getD (me s)

/-- Change the focus. -/
def updCur (f : Focus → Focus) (s : State) : State := { s with cur := f s.cur }

/-! ### Registers -/

/-- All 64 lanes. -/
def allLanes : Word := BitVec.allOnes 64

/-- Scalar register `r`. -/
def sregOf (st : Strand) (r : Nat) : Word := SMap.get 0 st.sreg r

/-- Predicate `r`; p0 is always true (R51, R54). -/
def pregOf (st : Strand) (r : Nat) : Word := if r = 0 then allLanes else SMap.get 0 st.preg r

/-- Handle `r`. -/
def hregOf (st : Strand) (r : Nat) : Word := SMap.get 0 st.hreg r

/-- Lane `l` of vector register `r`. -/
def laneOf (st : Strand) (r l : Nat) : Lane := SMap.get 0 st.vreg (64 * r + l)

/-- The 64 lanes of vector register `r`. -/
def lanesOf (st : Strand) (r : Nat) : List Lane := SMap.getList 0 st.vreg (64 * r) 64

/-- Write scalar register `r`. -/
def setS (r : Nat) (x : Word) (st : Strand) : Strand := { st with sreg := SMap.set 0 st.sreg r x }

/-- Write the masked lanes of predicate `r`; p0 is never written (R51). -/
def setP (r : Nat) (mask x : Word) (st : Strand) : Strand :=
  if r = 0 then st
  else { st with preg := SMap.set 0 st.preg r ((pregOf st r &&& ~~~mask) ||| (x &&& mask)) }

/-- Write handle `r`. -/
def setH (r : Nat) (x : Word) (st : Strand) : Strand := { st with hreg := SMap.set 0 st.hreg r x }

/-- Write the masked lanes of a register file from register `r`, lane `l` on. -/
def setLanes (mask : Word) (r : Nat) : Nat → List Lane → SMap Lane → SMap Lane
  | _, [], m => m
  | l, x :: xs, m => setLanes mask r (l + 1) xs (if mask.getLsbD l then SMap.set 0 m (64 * r + l) x else m)

/-- The mark of unit `i` of vector register `r`, 0 for good data (R338). -/
def vmarkOf (st : Strand) (r i : Nat) : Nat := SMap.get 0 st.vmark (4 * r + i)

/-- A write of all 16 lanes of a unit of a vector register clears its mark (R338). -/
def clearMarks (r : Nat) (mask : Word) (m : SMap Nat) : SMap Nat :=
  (upto 4).foldl (fun m i => if bits mask.toNat (16 * i) 16 = 0xFFFF then SMap.set 0 m (4 * r + i) 0 else m) m

/-- Write the masked lanes of vector register `r`. -/
def setV (r : Nat) (mask : Word) (xs : List Lane) (st : Strand) : Strand :=
  { st with vreg := setLanes mask r 0 xs st.vreg, vmark := clearMarks r mask st.vmark }

/-- Do what a landing's target says. -/
def writeTarget (t : Target) (st : Strand) : Strand :=
  match t with
  | .none => st
  | .s r x => setS r x st
  | .v r mask xs => setV r mask xs st
  | .p r mask x => setP r mask x st
  | .h r x => setH r x st
  | .stages n x => (upto n).foldl (fun a j => setP (8 + j) allLanes (if x.getLsbD j then allLanes else 0) a) st
  | .trap _ => st
  | .met => st

/-- Trap enables of the floating-point flags (R111). -/
def tenOf (st : Strand) : BitVec 6 := BitVec.ofNat 6 (bits st.fpctl.toNat 15 5)

/-- CR.MODE.INTLK (R110). -/
def intlk (st : Strand) : Bool := tenOf st ≠ 0

/-- Hardware ORs flags into CR.FPCTL (R111, R134). -/
def orFlags (f : Flags) (st : Strand) : Strand := { st with fpctl := st.fpctl ||| f.zeroExtend 64 }

/-- A landing or a deposit ORs its flags into CR.FPCTL in cycle `c` (R5, R111). -/
def orFlagsIn (c : Nat) (f : Flags) (st : Strand) : Strand :=
  { orFlags f st with hwAt := c, hwFlags := (if st.hwAt = c then st.hwFlags else 0) ||| f }

/-- The bits of CR.FPCTL that a software write of cycle `c` leaves set, since a landing or a deposit sets them in it (R5, R111). DEDUCED
(log entry 37): the wait of R125 for a landing ends in the cycle of the landing. -/
def keptFlags (c : Nat) (st : Strand) : Word := if st.hwAt = c then st.hwFlags.zeroExtend 64 else 0

/-! ### Writes in flight (R86) -/

/-- Schedule a write that lands `n` cycles after this one, with its flags. -/
def landAt (n : Nat) (t : Target) (f : Flags) (s : State) : State :=
  updMe (fun st => { st with landings := st.landings ++
    [{ due := s.cycle + n, target := t, flags := f, resid := 0, shadow := none, addr := s.cur.addr, second := s.cur.second, excl := st.exl }] }) s

/-- Is a fixed-latency write of the strand in flight? -/
def inFlight (st : Strand) : Bool := !st.landings.isEmpty

/-- The cycle of the last landing in flight. -/
def lastDue (ls : List Landing) : Nat := ls.foldl (fun m l => max m l.due) 0

/-! ### The return-address store (R89) -/

/-- Slab index of spilled entry `j`. -/
def spillAt (j : Nat) : Nat := 0x3E00 / 8 + j

/-- Push a return address: the oldest on-chip entry spills when 16 are held. -/
def rasPush (x : Word) (st : Strand) : Strand :=
  { st with
    rstk := (x :: st.rstk).take 16
    depth := st.depth + 1
    slab := if 16 ≤ st.depth then SMap.set 0 st.slab (spillAt (st.depth - 16)) (nth 0 st.rstk 15) else st.slab }

/-- The newest return address. -/
def rasTop (st : Strand) : Word := nth 0 st.rstk 0

/-- Pop: an entry refills from the slab when more than 16 are held. -/
def rasPop (st : Strand) : Strand :=
  { st with
    rstk := st.rstk.drop 1 ++ (if 17 ≤ st.depth then [SMap.get 0 st.slab (spillAt (st.depth - 17))] else [])
    depth := st.depth - 1 }

/-! ### Hardware loops (R90 to R92) -/

/-- Loop `x` of a strand. -/
def loopAt (st : Strand) (x : Nat) : Option LoopSt := SMap.get none st.loops x

/-- Is the stage `j` of a loop on in its current iteration? (R92) -/
def stageOn (l : LoopSt) (j : Nat) : Bool := decide (j ≤ l.i) && decide (l.i - j < l.t)

/-- The loop's field of STG (R92). -/
def stgField (l : LoopSt) : Nat := if l.s = 1 then 1 else maskOf (fun j => decide (j < l.s) && stageOn l j) 8

/-- STG (R92). -/
def stgOf (st : Strand) : Word :=
  BitVec.ofNat 64 ((upto 4).foldl (fun a x => match loopAt st x with | some l => a + stgField l * 2 ^ (8 * x) | none => a) 0)

/-- The loop that drives predicates: the active one with S ≥ 2 (R92). -/
def modLoop (st : Strand) : Option Nat := (upto 4).find? fun x => match loopAt st x with | some l => 2 ≤ l.s | none => false

/-- The write of the stage predicates at the start of an iteration, in cycle `due`, behind the program's writes that land
with it (R92, R169). -/
def driveStages (due : Nat) (l : LoopSt) (st : Strand) : Strand :=
  if l.s < 2 then st
  else
    { st with landings := st.landings ++
        [{ due := due, target := .stages l.s (BitVec.ofNat 64 (maskOf (stageOn l) l.s)), flags := 0, resid := 0, shadow := none,
           addr := 0, second := false, excl := false }] }

/-- Enter loop `x` in cycle `c` (R90). -/
def enterLoop (c x : Nat) (l : LoopSt) (st : Strand) : Strand :=
  driveStages (c + 1) l { st with loops := SMap.set none st.loops x (some l), order := x :: st.order.filter (· ≠ x) }

/-- Make loop `x` inactive. -/
def dropLoop (x : Nat) (st : Strand) : Strand :=
  { st with loops := SMap.set none st.loops x none, order := st.order.filter (· ≠ x) }

/-- Advance the loops whose end lies in a completed group, the most recently entered first (R91): the strand and the
address of the next group. An iteration that starts writes its stage predicates in cycle `due`. -/
def advanceLoops (due : Nat) (ends : List Word) (next : Word) : List Nat → Strand → Strand × Word
  | [], st => (st, next)
  | x :: xs, st =>
    match loopAt st x with
    | none => advanceLoops due ends next xs st
    | some l =>
      if ends.contains l.stop then
        if l.i + 1 < l.k then
          let l' := { l with i := l.i + 1 }
          (driveStages due l' { st with loops := SMap.set none st.loops x (some l') }, l.start)
        else advanceLoops due ends next xs (dropLoop x st)
      else advanceLoops due ends next xs st

/-- The addresses of the words of the group in focus. -/
def groupWords (f : Focus) : List Word := if f.pair then [f.group, f.group + 8] else [f.group]

/-- The loops that have come to another kernel iteration. -/
def advanced (a b : Strand) : List Nat :=
  (upto 4).filter fun x => (loopAt b x).isSome && decide ((loopAt a x).map LoopSt.i ≠ (loopAt b x).map LoopSt.i)

/-- Complete the group in focus in sequence: the loops advance and the next group is chosen (R91). -/
def completeSeq (s : State) : State :=
  let r := advanceLoops (max (s.cycle + 1) s.cur.holdTo) (groupWords s.cur) s.cur.next (me s).order (me s)
  updCur (fun f => { f with started := f.started ++ advanced (me s) r.1 })
    (updMe (fun _ => { r.1 with pc := r.2, readyAt := max (s.cycle + 1) s.cur.lock }) s)

/-- Complete the group in focus: a taken transfer beats every loop (R91, R95). -/
def completeGroup (s : State) : State :=
  match s.cur.target with
  | some t => updMe (fun st => { st with pc := t, readyAt := max (s.cycle + 2) s.cur.lock }) s
  | none => completeSeq s

/-! ### Events for the Whorl (R380, R384) -/

/-- Field f1 of an event: the agent, the spindle, the partition, the tap. -/
def tapF1 (agent : Nat) (spn part : Option Nat) (tap : Nat) : Word :=
  BitVec.ofNat 64 (agent * 2 ^ 26 + (match spn with | some n => n * 2 ^ 15 | none => 2 ^ 25) +
    (match part with | some p => p * 2 ^ 8 | none => 2 ^ 14) + tap)

/-- Slot `i` of a Whorl. -/
def attachAt (w : Whorl) (i : Nat) : Attach := SMap.get .start w.slots i

/-- Does an enabled slot take an event? (R382, R384) -/
def slotTakes (a : Attach) (e : TapEvent) : Bool :=
  let w := a.w0.toNat
  let f := e.f1.toNat
  bitOf w 63 && decide (bits w 40 8 = bits f 0 8) &&
    (if bitOf f 14 then bitOf w 62 else !bitOf w 62 && decide (bits w 50 6 = bits f 8 6)) &&
    (decide (bits w 35 5 = 31) || (!bitOf f 25 && decide (bits w 35 5 = bits f 15 10 % 160 / 8))) &&
    (!bitOf w 34 || decide (bits e.f3.toNat 0 8 = bits w 26 8)) &&
    (!bitOf w 61 || decide (bits e.f2.toNat 0 16 = bits a.w1.toNat 48 16))

/-- Add `n` to a 16-bit field of a word, saturating. -/
def bumpField (lo : Nat) (x : Word) : Word :=
  if bits x.toNat lo 16 = 2 ^ 16 - 1 then x else x + BitVec.ofNat 64 (2 ^ lo)

/-! ### Words that software and hardware both change (R5) -/

/-- Number of a shared word: kind 0 is SCOPECNT and 1 SCOPEADR of spindle `i`, 2 and 3 are words 1 and 3 of the tenant block `i`,
counted over the Whorls, 4 is IRQSTS of Whorl `i`, 5 is IPEAK. -/
def raceKey (kind i : Nat) : Nat := 8 * i + kind

/-- What has changed a shared word in this cycle; `old` is the word as it stands. -/
def raceAt (s : State) (key : Nat) (old : Word) : Race := (SMap.get none s.races key).getD ⟨0, old⟩

/-- The bits `mask` of a shared word as hardware finds them: without a write of software of this cycle. -/
def hardSees (s : State) (key : Nat) (mask old : Word) : Word :=
  let r := raceAt s key old
  (old &&& ~~~(mask &&& ~~~r.hw)) ||| (r.was &&& (mask &&& ~~~r.hw))

/-- Software writes a shared word: the bits that hardware has updated in this cycle stay. The word then, and the state. -/
def softWrite (key : Nat) (old new : Word) (s : State) : Word × State :=
  let r := raceAt s key old
  ((new &&& ~~~r.hw) ||| (old &&& r.hw), { s with races := SMap.set none s.races key (some r) })

/-- Hardware updates the bits `mask` of a shared word: they prevail over a write of software of this cycle. -/
def hardWrite (key : Nat) (mask old : Word) (f : Word → Word) (s : State) : Word × State :=
  let r := raceAt s key old
  ((f (hardSees s key mask old) &&& mask) ||| (old &&& ~~~mask),
    { s with races := SMap.set none s.races key (some { r with hw := r.hw ||| mask }) })

/-- Tenant block word `i` of partition `p` (R385). -/
def tenantWord (w : Whorl) (p i : Nat) : Nat := (SMap.get 0 w.tenants (8 * p + i)).toNat

/-- Change a word of a tenant block. -/
def updTenant (p i : Nat) (f : Word → Word) (w : Whorl) : Whorl := { w with tenants := SMap.modify 0 w.tenants (8 * p + i) f }

/-- The Whorl of a base die. -/
def whorlAt (s : State) (d : Nat) : Whorl := SMap.get .start s.whorls d

/-- Change the Whorl of a base die. -/
def updWhorl (d : Nat) (f : Whorl → Whorl) (s : State) : State := { s with whorls := SMap.modify .start s.whorls d f }

/-- Hardware updates bits of word 1, or of word 3, of a tenant block (R5, R385). -/
def hardTenant (d p i : Nat) (mask : Word) (f : Word → Word) (s : State) : State :=
  let r := hardWrite (raceKey (if i = 1 then 2 else 3) (64 * d + p)) mask (SMap.get 0 (whorlAt s d).tenants (8 * p + i)) f s
  updWhorl d (updTenant p i fun _ => r.1) r.2

/-- Count in the 16-bit field at `lo` of word 1 of a tenant block. -/
def countDrop (d p lo : Nat) (s : State) : State := hardTenant d p 1 (BitVec.ofNat 64 (0xFFFF * 2 ^ lo)) (bumpField lo) s

/-- Offer an event to slot `i` of the Whorl of its die: a full queue drops it, and DROPQ of the tenant counts (R384). -/
def offerSlot (e : TapEvent) (s : State) (i : Nat) : State :=
  let a := attachAt (whorlAt s e.die) i
  if !slotTakes a e then s
  else if a.queue.length < 16 then updWhorl e.die (fun w => { w with slots := SMap.set .start w.slots i { a with queue := a.queue ++ [e] } }) s
  else countDrop e.die (bits a.w0.toNat 50 6) 48 s

/-- Offer an event to the Whorl of its base die (R384). -/
def offerEvent (e : TapEvent) (s : State) : State :=
  if s.whorls.isEmpty then s else (upto 32).foldl (offerSlot e) s

/-- Offer an event of an agent of spindle `n` (R380). -/
def tap (t n agent : Nat) (tag : BitVec 16) (f3 f4 f5 : Word) (s : State) : State :=
  if s.whorls.isEmpty then s
  else offerEvent { die := n / 160, f0 := BitVec.ofNat 64 s.tick, f1 := tapF1 agent (some n) (some (spindleAt s n).part) t,
                    f2 := tag.zeroExtend 64, f3 := f3, f4 := f4, f5 := f5, task := (spindleAt s n).task.map fun t => (t, (spindleAt s n).lcode) } s

/-! ### Votes and corrections -/

/-- The context of an open attempt with a request tag (R324, R332). -/
def openCtx (s : State) (tag : BitVec 16) : Option Nat :=
  (upto 16).find? fun c => let x := SMap.get .start s.ctxs c; x.used && x.isOpen && decide (x.tag = tag)

/-- Is a purge of a request tag under way in a partition? Its strands and records have stopped (R253, R278, R340). -/
def purging (s : State) (part : Nat) (tag : BitVec 16) : Bool := s.purges.contains (part, tag)

/-- A flag raised by an agent with a request tag enters VFLAGS of the open attempt of that tag (R332). -/
def voteFlags (tag : BitVec 16) (f : BitVec 6) (s : State) : State :=
  match openCtx s tag with
  | none => s
  | some c => { s with ctxs := SMap.modify .start s.ctxs c fun x => { x with vflags := x.vflags ||| f } }

/-- F.CORRUPT (R332). -/
def fCorrupt : BitVec 6 := 0x04

/-- A corrected vote: counted, and logged while the log has room (R93, R341). -/
def logCorrection (n k : Nat) (addr : Word) (s : State) : State :=
  tap 0x0C n k (strandAt s n k).tag 0 addr 0 (updSpindle n (fun p => { p with
    cvotes := min (2 ^ 32 - 1) (p.cvotes + 1)
    corr := if p.corr.length < 16 then p.corr ++ [(k, addr)] else p.corr }) s)

/-- A VOTE3 or SHADOW of a strand: F.CORRUPT enters the vote of its step, and the Whorl is told (R39, R93, R332, R380). -/
def noteCorrupt (n k kind : Nat) (addr : Word) (detail : BitVec 32) (s : State) : State :=
  tap 0x0C n k (strandAt s n k).tag (BitVec.ofNat 64 kind) addr (detail.zeroExtend 64)
    (voteFlags (strandAt s n k).tag fCorrupt s)

/-! ### Taking a trap (R114 to R117) -/

/-- The cause value that trap entry writes (R63). -/
def causeValue (r : TrapReq) : Word :=
  BitVec.ofNat 64 (r.detail.toNat * 2 ^ 32 + (if r.pair2 then 2 ^ 15 else 0) + r.code.toNat)

/-- CR.ESTAT as trap entry writes it (R113, R115). -/
def estatValue (privm : Bool) (k : TrapKind) : Word :=
  (if privm then 0x80 else 0) ||| (if k = .after then 0x40 else 0) ||| (if k = .imprecise then 0x20 else 0)

/-- Enter the handler: the saved registers, the handler's bank of latches, the mode, the next group (R115, R116). -/
def enterTrap (n k : Nat) (r : TrapReq) (raisedAt : Nat) (s : State) : State :=
  let s1 := updSpindle n (fun p => updStrandOf k (fun st => { st with
    epc := if r.kind = .imprecise then st.pc else r.epc
    cause := causeValue r
    estat := estatValue st.privm r.kind
    eaddr := r.eaddr
    saved := st.latch
    latch := []
    privm := true
    exl := true
    trap := none
    hold := .none
    wait := none
    arrived := false
    mem := none
    pc := p.tvec
    readyAt := max (raisedAt + 2) (s.cycle + 1) }) p) s
  let st := strandAt s1 n k
  tap 0x03 n k st.tag st.cause st.epc st.estat s1

/-- The task's record of a double trap: its number, and of the first one the cause, CR.EPC of the strand and its place
(R117, R360). -/
def noteDouble (d : Word × Word × Nat × Nat) (t : Task) : Task :=
  { t with ndt := t.ndt + 1, dt := some (t.dt.getD d) }

/-- A second trap of the strand's own while in a handler: it stops as at HALT and keeps the first trap's values; the second
cause goes into the task's completion status (R117). -/
def doubleTrap (n k : Nat) (r : TrapReq) (s : State) : State :=
  let s1 := updStrand n k (fun st => { st with
    run := .dtrap, trap := none, mem := none, wait := none, loops := [], order := [], rstk := [], depth := 0 }) s
  match (spindleAt s n).task with
  | none => s1
  | some t =>
    { s1 with tasks := SMap.modify none s1.tasks t (Option.map (noteDouble (causeValue r, (strandAt s n k).epc, (spindleAt s n).lcode, k))) }

/-- Keep a trap from outside for after ERET; one of a cause already held is merged and its detail kept (R117). -/
def holdTrap (r : TrapReq) (hs : List TrapReq) : List TrapReq :=
  if hs.any (fun h => h.code = r.code) then hs.map fun h => if h.code = r.code then r else h else hs ++ [r]

/-- An imprecise trap whose entry still waits for landings is held, as another trap is taken before it (R117). -/
def holdPending (st : Strand) : Strand :=
  match st.trap with
  | some x => { st with trap := none, held := holdTrap x st.held }
  | none => st

/-- Start of trap entry: at once where no fixed-latency write is in flight, else after the last landing (R115). -/
def beginTrap (n k : Nat) (r : TrapReq) (s : State) : State :=
  let s1 := updStrand n k holdPending s
  if inFlight (strandAt s1 n k) then updStrand n k (fun st => { st with trap := some r, trapAt := s.cycle }) s1
  else enterTrap n k r s.cycle s1

/-- TakeTrap for a trap that a word of the strand raises (R115, R117). -/
def takeTrap (n k : Nat) (r : TrapReq) (s : State) : State :=
  if (strandAt s n k).exl then doubleTrap n k r s else beginTrap n k r s

/-- An imprecise trap. `own` says that a word of the strand raised it, and whether that word issued inside a handler
(R117). One that cannot be taken yet is held. DESIGN CHOICE (log entry 105): one for a strand that does not run is dropped,
whoever raises it. -/
def deliverReq (n k : Nat) (r : TrapReq) (own : Option Bool) (s : State) : State :=
  let st := strandAt s n k
  if st.run ≠ .running then s
  else if own = some true then doubleTrap n k r s
  else if st.exl || st.trap.isSome then updStrand n k (fun st => { st with held := holdTrap r st.held }) s
  else updStrand n k (fun st => { st with trap := some r, trapAt := s.cycle }) s

/-- An imprecise trap with a cause, DETAIL and an address, of a word that is not the second of a pair (R63, R114). -/
def deliverTrap (n k : Nat) (code : Nat) (detail : BitVec 32) (eaddr : Word) (own : Option Bool) (s : State) : State :=
  deliverReq n k ⟨BitVec.ofNat 8 code, detail, false, .imprecise, 0, eaddr⟩ own s

/-- DETAIL with bits [63:56] and [55:48] given. -/
def det (a b : Nat) : Nat := a * 2 ^ 24 + b * 2 ^ 16

/-- A trap of the word in focus. -/
def trapOf (code detail : Nat) (kind : TrapKind) (epc eaddr : Word) (s : State) : TrapReq :=
  ⟨BitVec.ofNat 8 code, BitVec.ofNat 32 detail, s.cur.second, kind, epc, eaddr⟩

/-- Say to the group what the word in focus raised. -/
def noteRaised (r : TrapReq) (s : State) : State := updCur (fun f => { f with raised := some r }) s

/-- A trap that the word in focus raises. In a pair it waits for the end of the group, where neither word has had an
effect (R114); else it is taken here. -/
def raiseReq (r : TrapReq) (s : State) : State :=
  if s.cur.pair then noteRaised r s else takeTrap s.cur.spn s.cur.strand r (noteRaised r s)

/-- The word in focus has met a VOTE3 or SHADOW. In a pair, whose words may be undone, it is noted at the end of the group
(R39, R93, R332). -/
def meetCorrupt (kind : Nat) (detail : BitVec 32) (s : State) : State :=
  if s.cur.pair then updCur (fun f => { f with corrupt := some (kind, f.addr, detail) }) s
  else noteCorrupt s.cur.spn s.cur.strand kind s.cur.addr detail s

/-- Raise a precise trap with a cause, DETAIL and an address (R114). -/
def raise (code detail : Nat) (eaddr : Word) (s : State) : State :=
  raiseReq (trapOf code detail .precise s.cur.group eaddr s) s

/-- Raise an after trap: the group completes first, and CR.EPC holds the group that issues next (R114, R123). -/
def raiseAfter (code detail : Nat) (s : State) : State :=
  if s.cur.pair then noteRaised (trapOf code detail .after 0 0 s) s
  else
    let s1 := completeGroup s
    let r := trapOf code detail .after (me s1).pc 0 s
    takeTrap s.cur.spn s.cur.strand r (noteRaised r s1)

/-- ILLEGAL found when the word executes, with the word's class and operation (R59, R64). -/
def raiseIllegal (cls op reason : Nat) (s : State) : State :=
  raise 0x01 (cls * 2 ^ 26 + op * 2 ^ 20 + reason * 2 ^ 16) 0 s

/-- PRIV (R59, R108). -/
def raisePriv (s : State) : State := raise 0x02 0 0 s
/-- ALIGN. -/
def raiseAlign (eaddr : Word) (s : State) : State := raise 0x03 0 eaddr s
/-- SCHED with DETAIL[63:56] and [55:48]. -/
def raiseSched (a b : Nat) (s : State) : State := raise 0x05 (det a b) 0 s
/-- NONDET with DETAIL[63:56] and [55:48]. -/
def raiseNondet (a b : Nat) (s : State) : State := raise 0x08 (det a b) 0 s

/-- The word issues again in the strand's next eligible cycle (R187, R203). -/
def again (s : State) : State := updCur (fun f => { f with again := true }) s

/-- A taken transfer to an address (R95). -/
def transfer (t : Word) (s : State) : State := updCur (fun f => { f with target := some t }) s

/-- The next group issues no earlier than cycle `c`. -/
def lockUntil (c : Nat) (s : State) : State := updCur (fun f => { f with lock := max f.lock c }) s

/-- Low 57 bits: an address (R89, R103). -/
def addr57 (x : Word) : Word := BitVec.ofNat 64 (x.toNat % 2 ^ 57)

/-- Return from a handler: mode, latches and next group (R116, R124). A held trap of the lowest cause is then taken, before
the group at CR.EPC issues (R117). -/
def returnTrap (s : State) : State :=
  let st := me s
  let low := st.held.foldl (fun (m : Option TrapReq) h =>
    match m with
    | none => some h
    | some x => if h.code.toNat < x.code.toNat then some h else m) none
  transfer st.epc (updMe (fun st => { st with
    privm := bitOf st.estat.toNat 7
    exl := false
    latch := st.saved
    saved := []
    deposits := (st.deposits.filter (fun d => !d.handler))
    trap := low
    trapAt := s.cycle
    held := match low with | none => [] | some x => st.held.filter (fun h => h.code ≠ x.code) }) s)

end Sys2Proof.Machine
end

