-- ==== Sys2Proof/Machine/Operands.lean ====
section
/-! DEFINITION. Operand forms: what a source field supplies, the guard, and how a meaning waits on guard, privilege and
the vote of its copies (R52 to R54, R59, R93, R133). -/

namespace Sys2Proof.Machine

/-! ### Literals (R53) -/

/-- A literal in an integer or .b32 operation. -/
def litSigned (i : BitVec 8) : Word := signExtend i.toNat 8

/-- A literal that names an object or a count, or is zero-extended by its entry. -/
def litZero (i : BitVec 8) : Word := zeroExtend i.toNat 8

/-- A literal in a floating-point operation: E4M3, widened exactly. -/
def litFloat (f : Fmt) (i : BitVec 8) : Nat := (roundFp f .rne false (Fp.decode .e4m3 i.toNat)).1

/-- A literal of a scalar operation of a type. -/
def litScalar (t : Ty) (i : BitVec 8) : Word :=
  match tyFmt t with
  | some f => BitVec.ofNat 64 (litFloat f i)
  | none => litSigned i

/-- A literal as an element of a type. -/
def litElem (t : Ty) (i : BitVec 8) : Nat :=
  match tyFmt t with
  | some f => litFloat f i
  | none => wrap (signedValue i.toNat 8) t.width

/-! ### Sources (R52, R133) -/

/-- Entry `i` of the spindle's copy of the constant bank (R176). -/
def cbankAt (p : Spindle) (i : Nat) : Word := SMap.get 0 p.cbank i

/-- The 64-bit value of a source, literals by a rule. A vector register supplies none. -/
def srcWord (lit : BitVec 8 → Word) (s : State) : Src → Word
  | .v _ => 0
  | .s r => sregOf (rd s) r.val
  | .p r => pregOf (rd s) r.val
  | .h r => hregOf (rd s) r.val
  | .stg => stgOf (rd s)
  | .cb i => cbankAt (mySpindle s) i.toNat
  | .lit i => lit i

/-- A source whose literals are zero-extended. -/
def srcZero (s : State) (x : Src) : Word := srcWord litZero s x

/-- The number that a source names, from its low `n` bits. -/
def srcNum (s : State) (x : Src) (n : Nat) : Nat := (srcZero s x).toNat % 2 ^ n

/-- One value in every element of a lane. -/
def splat (v w : Nat) : Nat → Nat
  | 0 => 0
  | n + 1 => splat v w n + v * 2 ^ (w * n)

/-- Lane `l` of a vector source (R133). -/
def srcLane (t : Ty) (s : State) (x : Src) (l : Nat) : Lane :=
  match x with
  | .v r => laneOf (rd s) r.val l
  | .lit i => BitVec.ofNat 32 (splat (litElem t i) t.width t.elems)
  | y => (srcZero s y).truncate 32

/-- Element `e` of a lane for a type (R132). -/
def elemOf (t : Ty) (x : Lane) (e : Nat) : Nat := bits x.toNat (t.width * e) t.width

/-- A lane from its elements, the lowest first. -/
def packElems (t : Ty) : List Nat → Nat
  | [] => 0
  | v :: vs => v % 2 ^ t.width + 2 ^ t.width * packElems t vs

/-! ### Guards (R54) -/

/-- The lanes that a guard names. -/
def guardMask (s : State) (g : Fin 16) (gn : Bool) : Word :=
  if gn then ~~~pregOf (rd s) g.val else pregOf (rd s) g.val

/-- Lane 0 of a guard. -/
def guard0 (s : State) (g : Fin 16) (gn : Bool) : Bool := (guardMask s g gn).getLsbD 0

/-- Does the strand in focus wait in a word that it issued before: was its guard true then? -/
def resuming (s : State) : Bool := (me s).wait.isSome || (me s).mem.isSome

/-- Have an effect only where lane 0 of the guard is true (R54). DESIGN CHOICE (log entry 121): a word that waits or issues again reads its
guard at its first issue alone. -/
def whenGuard (g : Fin 16) (gn : Bool) (k : State → State) (s : State) : State :=
  if guard0 s g gn || resuming s then k s else s

/-- PRIV unless the strand is privileged (R59, R108). -/
def whenPriv (k : State → State) (s : State) : State := if (me s).privm then k s else raisePriv s

/-! ### Voted issue (R93) -/

/-- How the three copies of a voted word fare: all agree, two agree, all differ. -/
inductive Vote3 where
  | agree | two | none
  deriving DecidableEq, Repr

/-- What goes wrong for a voted word of a strand, as the first upset says, and the upsets that remain. -/
def takeVote (n k : Nat) : List Upset → Vote3 × List Upset
  | .voteOne a b :: r => if a = n ∧ b = k then (.two, r) else (.agree, .voteOne a b :: r)
  | .voteAll a b :: r => if a = n ∧ b = k then (.none, r) else (.agree, .voteAll a b :: r)
  | l => (.agree, l)

/-- Run the effect of a word of classes 0x01 to 0x03. With V = 1 its three copies vote: two that agree prevail and the
correction is counted and logged; when all differ nothing changes and VOTE3 is raised (R93). -/
def voted (v : Bool) (k : State → State) (s : State) : State :=
  if v then
    let r := takeVote s.cur.spn s.cur.strand s.upsets
    let s1 := { s with upsets := r.2 }
    match r.1 with
    | .agree => k s1
    | .two => logCorrection s.cur.spn s.cur.strand s.cur.addr (k s1)
    | .none => meetCorrupt 1 0 (raise 0x0B 0 0 s1)
  else k s

/-- Write latency of a word of classes 0x01 to 0x03: one more when voted (R86). -/
def voteLat (v : Bool) (n : Nat) : Nat := if v then n + 1 else n

/-! ### Destinations -/

/-- The target of a scalar destination code. -/
def dstScalar (d : Dst) (x : Word) : Target :=
  match d with
  | .s r => .s r.val x
  | .p r => .p r.val allLanes x
  | _ => .none

/-- Deliver a word to a scalar destination after `n` cycles. -/
def landS (n : Nat) (d : Dst) (x : Word) (f : Flags) (s : State) : State := landAt n (dstScalar d x) f s

/-- The target of the masked lanes of a vector destination. -/
def dstVector (d : Dst) (mask : Word) (xs : List Lane) : Target :=
  match d with
  | .v r => .v r.val mask xs
  | _ => .none

/-- The target of the masked lanes of a predicate destination. -/
def dstPred (d : Dst) (mask x : Word) : Target :=
  match d with
  | .p r => .p r.val mask x
  | _ => .none

/-- The scalar register that DST names, read as a source (R98, R186). -/
def dstRead (s : State) (d : Dst) : Word :=
  match d with
  | .s r => sregOf (rd s) r.val
  | _ => 0

/-- The vector register that DST names, read as a source. -/
def dstLane (s : State) (d : Dst) (l : Nat) : Lane :=
  match d with
  | .v r => laneOf (rd s) r.val l
  | _ => 0

end Sys2Proof.Machine
end

