-- ==== Sys2Proof/Machine/Mem.lean ====
section
/-! DEFINITION. Memory: page tables, the home memory with its version blocks and poison marks, posted writes, and what a
strand's read returns (R228, R324 to R330, R338, R403, R404). -/

namespace Sys2Proof.Machine

/-! ### Bytes -/

/-- What a byte that nothing has written reads as. -/
def memDefault : Byte := 0

/-- The byte at a physical address. -/
def memByte (s : State) (pa : Nat) : Byte := SMap.get memDefault s.mem pa

/-- Bytes from a physical address on. -/
def memBytes (s : State) (pa n : Nat) : List Byte := SMap.getList memDefault s.mem pa n

/-- Store bytes at a physical address. -/
def setMemBytes (pa : Nat) (bs : List Byte) (s : State) : State := { s with mem := SMap.setList memDefault s.mem pa bs }

/-- The bytes of HBM (R404). -/
def hbmBytes : Nat := 768 * 2 ^ 30

/-- Does storage answer at a physical address: HBM, or the host's bus? (R404) -/
def paExists (pa : Nat) : Bool := pa < hbmBytes || (decide (2 ^ 51 ≤ pa) && decide (pa < 2 ^ 52))

/-- A little-endian 64-bit word of physical memory. -/
def memWord (s : State) (pa : Nat) : Nat := ofBytes (memBytes s pa 8)

/-! ### Partitions and translation -/

/-- Partition entry `p` (R403). -/
def partAt (s : State) (p : Nat) : Part := SMap.get .start s.parts p

/-- Word `i` of a partition entry. -/
def partWord (s : State) (p i : Nat) : Nat := (SMap.get 0 (partAt s p).w i).toNat

/-- A translation: physical address of the page, page size, residency, store permission, and the device region (R404). -/
structure Xlat where
  pa : Nat
  big : Bool
  nr : Bool
  wr : Bool
  dev : Bool
  deriving DecidableEq, Repr

/-- Bytes of the page. -/
def Xlat.size (x : Xlat) : Nat := if x.big then 2 ^ 21 else 2 ^ 16

/-- Base of the partition's device region (R403). -/
def devBase (s : State) (p : Nat) : Nat := bits (partWord s p 5) 23 34 * 2 ^ 23

/-- Does a virtual address lie in the partition's device region? (R404) -/
def inDevice (s : State) (p va : Nat) : Bool := va / 2 ^ 23 = devBase s p / 2 ^ 23

/-- May the partition map a frame: HBM within MEMLO to MEMHI, on trained stacks under reduced service, or the host's bus? A
frame of 64 KiB or more lies on all twelve stacks (R403, R404, R412). -/
def frameOk (s : State) (p pa : Nat) : Bool :=
  if 2 ^ 51 ≤ pa then true
  else decide (pa < hbmBytes) && decide (bits (partWord s p 13) 30 10 ≤ pa / 2 ^ 30) &&
    decide (pa / 2 ^ 30 < bits (partWord s p 14) 30 10) &&
    (decide (s.dev.svc ≠ 1) || (upto 12).all fun i => s.dev.hbmok.getLsbD i)

/-- Address of a table or frame that an entry names (R404). -/
def entryPa (e : Nat) : Nat := bits e 12 40 * 4096

/-- Are an entry's reserved fields zero and is it valid? (R404) -/
def entryOk (e : Nat) : Bool := bitOf e 63 && decide (bits e 52 8 = 0) && decide (bits e 0 12 = 0)

/-- The entry of a table; a table outside storage holds none. -/
def tableEntry (s : State) (table i : Nat) : Nat := if paExists (table + 8 * i) then memWord s (table + 8 * i) else 0

/-- A leaf as a translation, where its frame is aligned and allowed (R404). -/
def leafOf (s : State) (p e : Nat) (big : Bool) : Option Xlat :=
  if aligned (entryPa e) (if big then 2 ^ 21 else 2 ^ 16) && frameOk s p (entryPa e) then
    some { pa := entryPa e, big := big, nr := bitOf e 61, wr := bitOf e 60, dev := false }
  else none

/-- The walk from a table, `lv` levels above level 3 (R404). -/
def walk (s : State) (p va : Nat) : Nat → Nat → Option Xlat
  | 0, table =>
    let e := tableEntry s table (bits va 21 9)
    if !entryOk e then none
    else if bitOf e 62 then leafOf s p e true
    else
      let f := tableEntry s (entryPa e) (bits va 16 5)
      if entryOk f && bitOf f 62 then leafOf s p f false else none
  | lv + 1, table =>
    let e := tableEntry s table (bits va (21 + 9 * (lv + 1)) 9)
    if entryOk e && !bitOf e 62 then walk s p va lv (entryPa e) else none

/-- The translation of a virtual address in a partition; none where it is unmapped (R404). -/
def translate (s : State) (p va : Nat) : Option Xlat :=
  let v := va % 2 ^ 57
  if inDevice s p v then some { pa := v / 2 ^ 16 * 2 ^ 16, big := false, nr := false, wr := true, dev := true }
  else walk s p v 3 (entryPa (partWord s p 3))

/-- The physical address of a virtual address whose page is mapped and resident; none else, and none in the device
region. -/
def physOf (s : State) (p va : Nat) : Option Nat :=
  match translate s p va with
  | some x => if x.nr || x.dev then none else some (x.pa + va % x.size)
  | none => none

/-- The region of a partition that holds a virtual address (R325). -/
def regionOf (s : State) (p va : Nat) : Option Region :=
  (upto 16).findSome? fun r =>
    match SMap.get none (partAt s p).regions r with
    | some g => if g.base ≤ va ∧ va < g.base + g.len then some g else none
    | none => none

/-! ### Step contexts and version blocks (R324 to R327) -/

/-- Step context `c`. -/
def ctxAt (s : State) (c : Nat) : Ctx := SMap.get .start s.ctxs c

/-- Change step context `c`. -/
def updCtx (c : Nat) (f : Ctx → Ctx) (s : State) : State := { s with ctxs := SMap.modify .start s.ctxs c f }

/-- The attempt tag that the fabric attaches to a request (R324). -/
def attOf (s : State) (tag : BitVec 16) : Option (BitVec 16) := (openCtx s tag).map fun c => (ctxAt s c).att

/-- Is a request stale: does it carry the tag of an attempt that is no longer open? (R324) -/
def stale (s : State) (tag : BitVec 16) (att : Option (BitVec 16)) : Bool :=
  match att with
  | none => false
  | some a => attOf s tag ≠ some a

/-- CurrentSlot(b, g, x) (R326): true is slot 1. -/
def currentSlot (g : Ctx) (b : VMeta) (x : Option (BitVec 16)) : Bool :=
  if !b.v then b.w
  else if g.isOpen && b.a = g.att then (if x = some g.att then b.w else !b.w)
  else if SMap.get false g.bitmap (b.a.toNat % 4096) then b.w else !b.w

/-- Metadata of the version block that holds a byte of a slot-0 frame. -/
def vmetaAt (s : State) (pa : Nat) : VMeta := SMap.get .start s.vmeta (pa / 256)

/-- What makes the frame of a byte versioned. -/
def vpageAt (s : State) (pa : Nat) : Option VPage := SMap.get none s.vpage (pa / 2 ^ 21)

/-- Where a byte of a page is read: its own frame, or the slot that R326 gives. -/
def readAt (s : State) (x : Option (BitVec 16)) (pa : Nat) : Nat :=
  match vpageAt s pa with
  | none => pa
  | some v => if currentSlot (ctxAt s v.ctx) (vmetaAt s pa) x then pa + v.twin else pa

/-- A byte as the home returns it for a request with an attempt tag. -/
def homeByte (s : State) (x : Option (BitVec 16)) (pa : Nat) : Byte := memByte s (readAt s x pa)

/-- Bytes as the home returns them. -/
def homeBytes (s : State) (x : Option (BitVec 16)) (pa : Nat) : Nat → List Byte
  | 0 => []
  | n + 1 => homeByte s x pa :: homeBytes s x (pa + 1) n

/-! ### Copies of lines in the L2s and memory-side caches (R9, R185, R329, R330) -/

/-- A copy of a line that a cache does not hold; a fill sets the scope tag to 0x1F (R236). -/
def L2Line.fresh : L2Line := ⟨false, 0x1F, 0, 0, false, false⟩

/-- Package skein of a physical spindle (R9). -/
def skeinOf (n : Nat) : Nat := n / 8

/-- The memory-side caches, behind the L2s of the skeins 0 to 79: each line has one, at its home. -/
def memSide : Nat := 80

/-- Key of a copy of a line: the cache, the line, and whether it is the copy of kind 1 beside the other. -/
def copyKey (c pa : Nat) (tent : Bool) : Nat := (c * 2 ^ 46 + pa / 128) * 2 + b2n tent

/-- A copy of a line in a cache. -/
def copyAt (s : State) (c pa : Nat) (tent : Bool) : L2Line := SMap.get .fresh s.l2 (copyKey c pa tent)

/-- Change a copy of a line in a cache. -/
def updCopy (c pa : Nat) (tent : Bool) (f : L2Line → L2Line) (s : State) : State :=
  { s with l2 := SMap.modify .fresh s.l2 (copyKey c pa tent) f }

/-- Change both copies of a line in a cache, so far as it holds them. -/
def updCopies (c pa : Nat) (f : L2Line → L2Line) (s : State) : State :=
  let g := fun (l : L2Line) => if l.here then f l else l
  updCopy c pa true g (updCopy c pa false g s)

/-- Is a copy of a line present for a request, as the table of R329 has it? -/
def present (s : State) (x : Option (BitVec 16)) (pa : Nat) (l : L2Line) : Bool :=
  l.here && (decide (l.kind = 0) ||
    match vpageAt s pa with
    | none => true
    | some v =>
      let g := ctxAt s v.ctx
      if g.isOpen && g.att = l.att then decide (l.kind = 1) == decide (x = some l.att)
      else decide (l.kind = 1) == SMap.get false g.bitmap (l.att.toNat % 4096))

/-- The copy that a lookup in a cache finds: true is the one of kind 1. -/
def lookup (s : State) (c : Nat) (x : Option (BitVec 16)) (pa : Nat) : Option Bool :=
  if present s x pa (copyAt s c pa true) then some true
  else if present s x pa (copyAt s c pa false) then some false else none

/-- The copy that a lookup finds; a fresh one where it finds none. -/
def foundCopy (s : State) (c : Nat) (x : Option (BitVec 16)) (pa : Nat) : L2Line :=
  match lookup s c x pa with | some t => copyAt s c pa t | none => .fresh

/-- The kind and attempt that a fill for a request takes (R330). -/
def lineKind (s : State) (x : Option (BitVec 16)) (pa : Nat) : Nat × BitVec 16 :=
  match vpageAt s pa with
  | none => (0, 0)
  | some v =>
    let g := ctxAt s v.ctx
    let b := vmetaAt s pa
    if g.isOpen && b.v && b.a = g.att then (if x = some g.att then 1 else 2, g.att) else (0, 0)

/-- The first tentative write of an attempt to a block turns every copy of kind 0 of its lines into kind 2 (R330). -/
def turnCopies (pa : Nat) (att : BitVec 16) (s : State) : State :=
  { s with l2 := s.l2.map fun x =>
      (x.1, if x.1 / 4 % 2 ^ 45 = pa / 256 ∧ x.2.here ∧ x.2.kind = 0 then { x.2 with kind := 2, att := att } else x.2) }

/-! ### Marks (R338) -/

/-- The mark of the line that holds a byte of storage: 0 for good data, else the source of R338. -/
def linePoison (s : State) (pa : Nat) : Nat := SMap.get 0 s.memPoison (pa / 128)

/-- The first byte of each line that a range of `n` bytes touches. -/
def lineStarts (pa n : Nat) : List Nat :=
  pa :: (upto ((pa + (n - 1)) / 128 - pa / 128)).map fun i => (pa / 128 + 1 + i) * 128

/-- The mark of the copy of a line that a lookup in a cache finds, where it finds one. -/
def copyMark (s : State) (c : Nat) (x : Option (BitVec 16)) (pa : Nat) : Option Nat :=
  (lookup s c x pa).map fun t => SMap.get 0 s.l2Marks (copyKey c pa t)

/-- The mark of a line as a request meets it at its home: the memory-side cache's, or storage's. -/
def homeMark (s : State) (x : Option (BitVec 16)) (pa : Nat) : Nat :=
  (copyMark s memSide x pa).getD (linePoison s (readAt s x pa))

/-- The mark of a line as a read by an agent of a skein meets it: its L2's, or the home's. -/
def skeinMark (s : State) (skein : Nat) (x : Option (BitVec 16)) (pa : Nat) : Nat := (copyMark s skein x pa).getD (homeMark s x pa)

/-- The mark that a read at the home meets first, 0 for none. -/
def readPoison (s : State) (x : Option (BitVec 16)) (pa n : Nat) : Nat :=
  (lineStarts pa n).foldl (fun m a => if m = 0 then homeMark s x a else m) 0

/-- The source of R338 for propagated data. -/
def propagated : Nat := 5

/-- The mark of a unit after a store: poisoned data sets it, a good write of the whole unit clears it. -/
def storeMark (poisoned whole : Bool) (m : Nat) : Nat := if poisoned then propagated else if whole then 0 else m

/-- Set or clear the mark of a line of storage. -/
def markLine (pa src : Nat) (s : State) : State := { s with memPoison := SMap.set 0 s.memPoison (pa / 128) src }

/-- Set or clear the mark of a copy of a line in a cache. -/
def markCopy (key src : Nat) (s : State) : State := { s with l2Marks := SMap.set 0 s.l2Marks key src }

/-- Set or clear the mark of a line at its home: of storage, and of the memory-side cache's copy. -/
def markHome (x : Option (BitVec 16)) (pa src : Nat) (s : State) : State :=
  let s1 := markLine (readAt s x pa) src s
  match lookup s memSide x pa with | some t => markCopy (copyKey memSide pa t) src s1 | none => s1

/-- A dirty copy is written back, where it is present for anyone (R329). One that has gone wrong taints its line's home; what a
memory-side cache writes is a whole line of storage (R338). -/
def homeTaint (key : Nat) (s : State) : State :=
  let l := SMap.get .fresh s.l2 key
  let x := if l.kind = 1 then some l.att else none
  let pa := key / 2 % 2 ^ 46 * 128
  let m := SMap.get 0 s.l2Marks key
  if !(l.here && l.dirty && present s x pa l) then s
  else if key / 2 ^ 47 = memSide then markLine (readAt s x pa) (if m = 0 then 0 else propagated) s
  else if m = 0 then s else markHome x pa propagated s

/-- A copy of a line that a cache holds goes wrong (R338). -/
def markCopies (c pa src : Nat) (s : State) : State :=
  [false, true].foldl (fun s t => if (copyAt s c pa t).here then markCopy (copyKey c pa t) src s else s) s

/-- A cache gives a copy up. -/
def dropCopy (key : Nat) (s : State) : State :=
  let s1 := homeTaint key s
  markCopy key 0 { s1 with l2 := SMap.set .fresh s1.l2 key .fresh }

/-- A cache gives up the copies of a line, but for those that a block holds (R185, R329). -/
def evictCopies (c pa : Nat) (s : State) : State :=
  [false, true].foldl (fun s t => if (copyAt s c pa t).held then s else dropCopy (copyKey c pa t) s) s

/-- A cache takes a line in for a request, with the mark of what it is filled from (R236, R330, R338). -/
def fillLine (c : Nat) (x : Option (BitVec 16)) (pa : Nat) (s : State) : State :=
  let k := lineKind s x pa
  let t := decide (k.1 = 1)
  markCopy (copyKey c pa t) (if c = memSide then linePoison s (readAt s x pa) else homeMark s x pa)
    (updCopy c pa t (fun l => { L2Line.fresh with here := true, kind := k.1, att := k.2, held := l.held }) s)

/-- A request looks a line up in a cache, which takes it in where it is not present. -/
def fillMiss (c : Nat) (x : Option (BitVec 16)) (pa : Nat) (s : State) : State :=
  if (lookup s c x pa).isSome then s else fillLine c x pa s

/-- A read of a line by an agent of a skein: its L2, and where that misses the memory-side cache, hold it from then on (R9). -/
def touchLine (skein : Nat) (x : Option (BitVec 16)) (pa : Nat) (s : State) : State :=
  if (lookup s skein x pa).isSome then s else fillLine skein x pa (fillMiss memSide x pa s)

/-- The mark of the data that a store by a skein's agent falls into: of the copy that it finds, of the committed copy of which it makes
a tentative one, or of the home's (R330, R338). -/
def storeBase (s : State) (skein : Nat) (x : Option (BitVec 16)) (pa : Nat) : Nat :=
  let k := lineKind s x pa
  let l := copyAt s skein pa false
  match copyMark s skein x pa with
  | some m => m
  | none =>
    if k.1 = 1 ∧ l.here ∧ (l.kind = 0 ∨ (l.kind = 2 ∧ l.att = k.2)) then SMap.get 0 s.l2Marks (copyKey skein pa false)
    else homeMark s x pa

/-- The line of a store becomes dirty; a release store sets its scope tag. A store of the open attempt keeps a copy of kind 0 as
kind 2, with a copy of kind 1 beside it. A store of poisoned data marks the copy (R185, R236, R330, R338). -/
def dirtyLine (skein : Nat) (x : Option (BitVec 16)) (rel : BitVec 5) (poisoned : Bool) (pa : Nat) (s : State) : State :=
  let k := lineKind s x pa
  let t := decide (k.1 = 1)
  let m := storeMark poisoned false (storeBase s skein x pa)
  let s1 := if t then
      updCopy skein pa false (fun l => if l.here && decide (l.kind = 0) then { l with kind := 2, att := k.2 } else l) s
    else s
  markCopy (copyKey skein pa t) m (updCopy skein pa t (fun l => { l with
    here := true, kind := k.1, att := k.2, dirty := true, scope := if rel = 0 then l.scope else rel }) s1)

/-- A line of storage takes bytes of a store (R338). -/
def storeLine (pa : Nat) (bs : List Byte) (poisoned : Bool) (s : State) : State :=
  let s1 := setMemBytes pa bs s
  markLine pa (storeMark poisoned (decide (bs.length = 128) && decide (pa % 128 = 0)) (linePoison s pa)) s1

/-- The memory-side cache takes a store's line in, with the store's mark, and holds it dirty until it gives it up. -/
def cacheHome (x : Option (BitVec 16)) (pa n : Nat) (poisoned : Bool) (s : State) : State :=
  let s1 := fillMiss memSide x pa s
  match lookup s1 memSide x pa with
  | none => s1
  | some t =>
    let key := copyKey memSide pa t
    markCopy key (storeMark poisoned (decide (n = 128) && decide (pa % 128 = 0)) (SMap.get 0 s1.l2Marks key))
      (updCopy memSide pa t (fun l => { l with dirty := true }) s1)

/-- What the kept writes of one version block say of its copy in the other slot: the writes of the copy's old bytes are
forgotten, those of the block that is copied stand in both. -/
def moveLog (src dst : Nat) (log : List WriteRec) : List WriteRec :=
  (log.filter fun e => decide (e.pa / 256 ≠ dst / 256)).flatMap fun e =>
    if e.pa / 256 = src / 256 then [e, { e with pa := dst + (e.pa - src) }] else [e]

/-- Copy a version block from one slot to the other, with the marks that the home's reads of its two lines meet (R327, R338). -/
def copyBlock (src dst m0 m1 : Nat) (s : State) : State :=
  let s1 := storeLine (dst + 128) (memBytes s (src + 128) 128) (decide (m1 ≠ 0)) (storeLine dst (memBytes s src 128) (decide (m0 ≠ 0)) s)
  { s1 with wlog := moveLog src dst s1.wlog }

/-- Would the home refuse a write to the block of a byte? (R327, R328) -/
def refuses (s : State) (x : Option (BitVec 16)) (pa : Nat) : Bool :=
  match vpageAt s pa with
  | none => false
  | some v => let g := ctxAt s v.ctx; g.isOpen && x ≠ some g.att

/-- Prepare the block of a byte for a write that is not refused, and the byte's place in the slot to write (R327). -/
def prepBlock (x : Option (BitVec 16)) (pa : Nat) (s : State) : State × Nat :=
  match vpageAt s pa with
  | none => (s, pa)
  | some v =>
    let g := ctxAt s v.ctx
    let b := vmetaAt s pa
    let base := pa / 256 * 256
    if g.isOpen && x = some g.att then
      if b.v && b.a = g.att then (s, if b.w then pa + v.twin else pa)
      else
        let c := currentSlot g b none
        let s1 := copyBlock (if c then base + v.twin else base) (if c then base else base + v.twin) (homeMark s none base)
          (homeMark s none (base + 128)) s
        (turnCopies pa g.att { s1 with vmeta := SMap.set .start s1.vmeta (pa / 256) ⟨!c, true, g.att⟩ }, if c then pa else pa + v.twin)
    else
      let c := currentSlot g b none
      ({ s with vmeta := SMap.set .start s.vmeta (pa / 256) ⟨c, false, 0⟩ }, if c then pa + v.twin else pa)

/-- Keep what the bytes of a write to storage held. Writes that were issued 4,000 ticks ago are forgotten: every agent sees them
(R228, R230). -/
def noteWrite (o : Origin) (pa n : Nat) (s : State) : State :=
  { s with wlog := ⟨o, pa, memBytes s pa n⟩ :: s.wlog.filter fun e => decide (s.tick < e.org.tick + 4000) }

/-- The home sends invalidations for a write: to the L2 of every other skein that holds a copy which the writer's request would find
(R235). -/
def sendInvals (o : Origin) (x : Option (BitVec 16)) (pa : Nat) (s : State) : State :=
  { s with invals := s.invals ++ s.l2.filterMap fun y =>
      let c := y.1 / 2 ^ 47
      if y.2.here && decide (y.1 / 2 % 2 ^ 46 = pa / 128) && decide (c < memSide) && decide (c ≠ o.skein) &&
          decide (lookup s c x pa = some (decide (y.1 % 2 = 1)))
      then some { key := y.1, skein := c, num := o.num, cls := o.cls, tick := o.tick } else none }

/-- Write bytes that lie in one line at their home (R327). -/
def homeWriteLine (o : Origin) (x : Option (BitVec 16)) (pa : Nat) (bs : List Byte) (poisoned : Bool) (s : State) : State :=
  let r := prepBlock x pa s
  sendInvals o x pa (storeLine r.2 bs poisoned (cacheHome x pa bs.length poisoned (noteWrite o r.2 bs.length r.1)))

/-- Write bytes at their home, line by line; `k` bounds the number of lines. -/
def homeWriteLines (o : Origin) (x : Option (BitVec 16)) (poisoned : Bool) : Nat → Nat → List Byte → State → State
  | 0, _, _, s => s
  | k + 1, pa, bs, s =>
    let n := 128 - pa % 128
    if bs.isEmpty then s
    else homeWriteLines o x poisoned k (pa + n) (bs.drop n) (homeWriteLine o x pa (bs.take n) poisoned s)

/-- Write bytes at their home (R327). -/
def homeWrite (o : Origin) (x : Option (BitVec 16)) (pa : Nat) (bs : List Byte) (poisoned : Bool) (s : State) : State :=
  homeWriteLines o x poisoned (bs.length / 128 + 2) pa bs s

/-- Does the home refuse any byte of a write? -/
def refusesAny (s : State) (x : Option (BitVec 16)) (pa n : Nat) : Bool := (lineStarts pa n).any (refuses s x)

/-! ### What agents know of writes (R227 to R233) -/

/-- Class of an agent, as the masks have it: S, C, M, H or D (R227). Agents 0 to 3 are the strands of a spindle, 4 on its engine
queues; the others are numbered below. -/
def agentClass (a : Nat) : Nat := if a < 4 then 4 else if a = 4 then 2 else if a < 2 ^ 17 then 3 else if a < 2 ^ 18 then 0 else 1

/-- The agent that writes the page request rings and the rings of the tenants. -/
def ringAgent : Nat := 2 ^ 16 - 1

/-- The command processor, for its queue `q`. DESIGN CHOICE (log entry 18): its class is C. -/
def cpAgent (q : Nat) : Nat := 2 ^ 16 + q

/-- The host, through its function `f`. -/
def hostAgent (f : Nat) : Nat := 2 ^ 17 + f

/-- The agents of another package. -/
def farAgent (pkg : Nat) : Nat := 2 ^ 18 + pkg

/-- What an agent knows. A queue's view is its head's. -/
def viewOf (s : State) (n a : Nat) : View :=
  if a < 4 then (strandAt s n a).view
  else if a < 16 then (SMap.get Queue.start (spindleAt s n).queues (a - 4)).view else SMap.get .start s.views a

/-- Change what an agent knows. -/
def updView (n a : Nat) (f : View → View) (s : State) : State :=
  if a < 4 then updStrand n a (fun st => { st with view := f st.view }) s
  else if a < 16 then updSpindle n (fun p => { p with queues := SMap.modify .start p.queues (a - 4) fun q => { q with view := f q.view } }) s
  else { s with views := SMap.modify .start s.views a f }

/-- Numbers of either list, each once. -/
def joinNums (a b : List Nat) : List Nat := a ++ b.filter fun x => !a.contains x

/-- What either of two maps lists, number by number. -/
def joinRel (a b : SMap (List Nat)) : SMap (List Nat) := b.foldl (fun m x => SMap.modify [] m x.1 (fun y => joinNums y x.2)) a

/-- The component-wise maximum of two clocks (R229). -/
def clkMax (a b : SMap Nat) : SMap Nat := b.foldl (fun m x => SMap.modify 0 m x.1 (max x.2)) a

/-- What an agent of class `c` hands on with an act of it: what it has released to each class. -/
def View.handsOn (c : Nat) (v : View) : SMap (List Nat) := v.rel.map fun x => (5 * c + x.1, x.2)

/-- An agent of class `c` is handed what a hand-off carries for its class (R231, R232). -/
def View.handed (c : Nat) (rel : SMap (List Nat)) (v : View) : View :=
  { v with pend := (upto 5).foldl (fun m f => SMap.modify [] m f (fun y => joinNums y (SMap.get [] rel (5 * f + c)))) v.pend }

/-- A release: the classes of the mask are given the writes that happen before it and the agent's own (R232, R233). -/
def View.release (mask : BitVec 5) (v : View) : View :=
  { v with rel := (upto 5).foldl (fun m c => if mask.getLsbD c then SMap.set [] m c (joinNums v.hb v.own) else m) v.rel }

/-- An acquire: what agents of the mask's classes have handed on happens before the next access (R232, R233). -/
def View.acquire (mask : BitVec 5) (v : View) : View :=
  { v with hb := (upto 5).foldl (fun h f => if mask.getLsbD f then joinNums h (SMap.get [] v.pend f) else h) v.hb }

/-- Forget writes of numbers below `lo`. -/
def View.prune (lo : Nat) (v : View) : View :=
  let f := fun (x : List Nat) => x.filter fun i => decide (lo ≤ i)
  let g := fun (m : SMap (List Nat)) => m.filterMap fun x => if (f x.2).isEmpty then none else some (x.1, f x.2)
  { v with hb := f v.hb, own := f v.own, seen := v.seen.filter fun x => decide (lo ≤ x.1), rel := g v.rel, pend := g v.pend }

/-- The least number of a write that is still on its way, or of which an older value can still be read. -/
def leastNum (s : State) : Nat :=
  let a := s.wlog.foldl (fun m e => min m e.org.num) (s.writes + 1)
  let b := s.posted.foldl (fun m w => min m w.org.num) a
  let c := s.invals.foldl (fun m i => min m i.num) b
  s.windows.foldl (fun m x => x.2.queue.foldl (fun m o => min m o.org.num) m) c

/-- An agent's release. -/
def noteRelease (n a : Nat) (mask : BitVec 5) (s : State) : State := updView n a (View.release mask) s

/-- An agent's acquire. -/
def noteAcquire (n a : Nat) (mask : BitVec 5) (s : State) : State := updView n a (View.acquire mask) s

/-- Has every invalidation reached a skein that an acquire there waits for, `hb` being what happens before it? With C it waits for
those of all writes, with D for those of writes by other devices, with H for those of the host's (R235). -/
def acquireClear (s : State) (skein : Nat) (mask : BitVec 5) (hb : List Nat) : Bool :=
  !s.invals.any fun i => decide (i.skein = skein) && hb.contains i.num &&
    (mask.getLsbD 3 || (mask.getLsbD 1 && decide (i.cls = 1)) || (mask.getLsbD 0 && decide (i.cls = 0)))

/-- An invalidation reaches its L2, which gives its copy up; a copy that a block holds is filled anew (R185, R235). -/
def deliverInval (i : Inval) (s : State) : State :=
  let l := SMap.get .fresh s.l2 i.key
  let pa := i.key / 2 % 2 ^ 46 * 128
  let s1 := { s with invals := s.invals.erase i }
  if !l.here then s1
  else if l.held then
    markCopy i.key (homeMark s (if l.kind = 1 then some l.att else none) pa)
      { s1 with l2 := SMap.set .fresh s1.l2 i.key { l with scope := 0x1F } }
  else dropCopy i.key s1

/-! ### The numbers and clocks of writes (R228, R229) -/

/-- Base die of a physical spindle. -/
def dieOf (n : Nat) : Nat := n / 160

/-- The base die that is the home of a byte of storage (R404). -/
def homeDie (pa : Nat) : Nat := pa / 4096 % 12 / 3

/-- The die vector clock of a base die. -/
def dieClock (s : State) (d : Nat) : SMap Nat := (upto 4).foldl (fun m e => SMap.set 0 m e (SMap.get 0 s.dieClk (4 * d + e))) []

/-- Where an agent's next write comes from. A strand's carries the clock of its die, merged with those of the writes that the strand
has read (R229). -/
def originOf (s : State) (n a : Nat) : Origin :=
  let v := viewOf s n a
  let clk := if a < 4 then clkMax (dieClock s (dieOf n)) v.clk else []
  { num := s.writes + 1, tick := s.tick, cls := agentClass a, skein := if a < 16 then skeinOf n else memSide, dep := v.hb,
    rel := v.handsOn (agentClass a), clk := clk, seq := SMap.get 0 clk (dieOf n) + 1 }

/-- A write of an agent is issued: it has its number, and it happens before a strand's later accesses. -/
def issueWrite (n a : Nat) (s : State) : State :=
  let i := s.writes + 1
  let lo := leastNum s
  updView n a (fun v => let v := v.prune lo; if a < 4 then { v with hb := i :: v.hb } else { v with own := i :: v.own }) { s with writes := i }

/-- A write of a strand moves the clock of its die: its own entry, and the others to what the write carries. DESIGN CHOICE (log
entry 18): what moves the clocks. -/
def tickDie (n a : Nat) (o : Origin) (s : State) : State :=
  if a < 4 then
    { s with dieClk := (upto 4).foldl (fun m e =>
        SMap.set 0 m (4 * dieOf n + e) (if e = dieOf n then o.seq else SMap.get 0 o.clk e)) s.dieClk }
  else s

/-- An agent's write to memory that is applied as it is issued. -/
def writeNow (n a : Nat) (x : Option (BitVec 16)) (pa : Nat) (bs : List Byte) (s : State) : State :=
  homeWrite (originOf s n a) x pa bs false (issueWrite n a s)

/-! ### What a read returns (R228 to R234) -/

/-- Lay bytes `d` that lie at `a` over the bytes that a read at `pa` returns, from its byte `i` on. -/
def layOver (a : Nat) (d : List Byte) (pa : Nat) : Nat → List Byte → List Byte
  | _, [] => []
  | i, b :: bs => (if a ≤ pa + i ∧ pa + i < a + d.length then nth b d (pa + i - a) else b) :: layOver a d pa (i + 1) bs

/-- Does a kept write reach a byte? -/
def WriteRec.has (e : WriteRec) (a : Nat) : Bool := decide (e.pa ≤ a) && decide (a < e.pa + e.old.length)

/-- Does it reach a range? -/
def WriteRec.meets (e : WriteRec) (pa len : Nat) : Bool := decide (e.pa < pa + len) && decide (pa < e.pa + e.old.length)

/-- Does it reach all of a range? -/
def WriteRec.covers (e : WriteRec) (pa len : Nat) : Bool := decide (e.pa ≤ pa) && decide (pa + len ≤ e.pa + e.old.length)

/-- The writes that the next read of a place by an agent is to be served before. -/
def hiddenFrom (s : State) (n a pa : Nat) : List Nat :=
  match s.olds.find? fun o => decide (o.spn = n) && decide (o.agent = a) && decide (o.pa = pa) with | some o => o.hide | none => []

/-- Must a read of a place return a kept write or one after it? It must where the write is not to be hidden, happens before the
read, has been read there, or was issued 4,000 ticks ago (R228, R230, R233). -/
def mustSee (s : State) (v : View) (hide : List Nat) (pa len : Nat) (e : WriteRec) : Bool :=
  !hide.contains e.org.num || v.hb.contains e.org.num || decide (e.org.tick + 4000 ≤ s.tick) ||
    v.seen.any fun x => decide (x.1 = e.org.num) && decide (x.2.1 < pa + len) && decide (pa < x.2.1 + x.2.2)

/-- The kept writes that a read of a place is served after, the last first, each with whether the read returns a byte of it. A
read behind a write is behind the earlier ones of its bytes too; a strand that reads a strand's write is behind what happens
before that (R228, R229). -/
def servedAfter (must : WriteRec → Bool) (strand : Bool) (pa len : Nat) : List (WriteRec × Bool) → List WriteRec → List (WriteRec × Bool)
  | acc, [] => acc
  | acc, e :: es =>
    let under := acc.any fun x => x.1.meets e.pa e.old.length
    let before := acc.any fun x => x.2 && strand && decide (x.1.org.cls = 4) && x.1.org.dep.contains e.org.num
    if e.meets pa len && (must e || under || before) then
      servedAfter must strand pa len (acc ++ [(e, (upto len).any fun i => e.has (pa + i) && !acc.any fun x => x.1.has (pa + i))]) es
    else servedAfter must strand pa len acc es

/-- The kept writes that an agent's next read of a place in storage is served after. -/
def serveRead (s : State) (n a pa len : Nat) : List (WriteRec × Bool) :=
  servedAfter (mustSee s (viewOf s n a) (hiddenFrom s n a pa) pa len) (decide (a < 4)) pa len [] s.wlog

/-- The bytes at a place in storage without the writes that a read of them is served before. -/
def bytesAfter (s : State) (sv : List (WriteRec × Bool)) (pa len : Nat) : List Byte :=
  s.wlog.foldl (fun bs e =>
    if e.meets pa len && !(sv.any fun x => decide (x.1.org.num = e.org.num) && decide (x.1.pa = e.pa)) then layOver e.pa e.old pa 0 bs
    else bs) (memBytes s pa len)

/-- A strand has read bytes of a strand's write: that, and what happens before it, happens before the strand's next access, and the
write's clock is merged (R229). -/
def View.causal (v : View) (o : Origin) : View :=
  if o.cls = 4 then
    { v with hb := joinNums v.hb (o.num :: o.dep), clk := clkMax (clkMax v.clk o.clk) [(o.skein / 20, o.seq)] }
  else v

/-- What an agent gains by a read of a place. It is handed what a write carries only where the write has all the bytes that it
returns (R229, R231, R234). -/
def View.gain (a pa len : Nat) (sv : List (WriteRec × Bool)) (v : View) : View :=
  let es := (sv.filter (·.2)).map (·.1)
  let v1 := { v with seen := es.map (fun e => (e.org.num, pa, len)) ++ v.seen }
  let v2 := if a < 4 then es.foldl (fun v e => v.causal e.org) v1 else v1
  match es with
  | [e] => if e.covers pa len then v2.handed (agentClass a) e.org.rel else v2
  | _ => v2

/-- An agent's read of a unit of memory that is served at one point: the bytes, and what the agent knows afterwards. A stated older
read is spent. -/
def readUnit (n a : Nat) (x : Option (BitVec 16)) (pa len : Nat) (s : State) : List Byte × State :=
  if s.wlog.isEmpty then (homeBytes s x pa len, s)
  else
    let q := readAt s x pa
    let sv := serveRead s n a q len
    (bytesAfter s sv q len, updView n a (View.gain a q len sv)
      { s with olds := s.olds.eraseP fun o => decide (o.spn = n) && decide (o.agent = a) && decide (o.pa = q) })

/-! ### Posted writes and own reads (R184, R187, R228) -/

/-- An agent's posted stores to bytes of a unit that it may not read past: a strand's own all, a channel's but those to be hidden. -/
def ownOver (s : State) (n a : Nat) (x : Option (BitVec 16)) (pa len : Nat) : List Posted :=
  s.posted.filter fun w => decide (w.spn = n) && decide (w.strand = a) && w.atom.isNone && decide (w.pa < pa + len) &&
    decide (pa < w.pa + w.data.length) && (decide (a < 4) || !(hiddenFrom s n a (readAt s x pa)).contains w.org.num)

/-- The bytes of a unit that an agent's last posted store to it holds, where that has them all. -/
def forwarded (s : State) (n a : Nat) (x : Option (BitVec 16)) (pa len : Nat) : Option (List Byte) :=
  (ownOver s n a x pa len).getLast?.bind fun w =>
    if w.pa ≤ pa ∧ pa + len ≤ w.pa + w.data.length then some ((w.data.drop (pa - w.pa)).take len) else none

/-- An agent's read of a unit, behind its own posted stores. -/
def readOwn (n a : Nat) (x : Option (BitVec 16)) (pa len : Nat) (s : State) : List Byte × State :=
  match forwarded s n a x pa len with | some bs => (bs, s) | none => readUnit n a x pa len s

/-- The units of `u` bytes of a range. -/
def unitList (u pa len : Nat) : List (Nat × Nat) := (upto ((len + u - 1) / u)).map fun i => (pa + u * i, min u (len - u * i))

/-- An agent's read of a range in units of `u` bytes. -/
def readRange (n a : Nat) (x : Option (BitVec 16)) (u pa len : Nat) (s : State) : List Byte × State :=
  (unitList u pa len).foldl (fun r y => let q := readOwn n a x y.1 y.2 r.2; (r.1 ++ q.1, q.2)) ([], s)

/-- The unit of a load of `len` bytes: it is served as one up to 8 bytes, else lane by lane (R184, R228). -/
def loadUnit (len : Nat) : Nat := if len ≤ 8 then len else 4

/-- Must a load of a range wait for its strand's own writes? For an ATOM of the strand, which reads before it, and for stores of
which one holds only part of a unit of it (R184, R228, R229). -/
def awaitsOwn (s : State) (n k : Nat) (x : Option (BitVec 16)) (u pa len : Nat) : Bool :=
  (s.posted.any fun w => decide (w.spn = n) && decide (w.strand = k) && w.atom.isSome) ||
    (unitList u pa len).any fun y => !(ownOver s n k x y.1 y.2).isEmpty && (forwarded s n k x y.1 y.2).isNone

/-- Is the invalidation of a write that happens before a read still on its way to the reader's copy of a line of it? (R229, R233) -/
def awaitsInval (s : State) (n a pa len : Nat) : Bool :=
  s.invals.any fun i => decide (i.skein = skeinOf n) && (viewOf s n a).hb.contains i.num &&
    (lineStarts pa len).any fun l => decide (i.key / 2 % 2 ^ 46 = l / 128)

/-- The bytes that a strand's fetch of an instruction reads: the home's, under the strand's own stores that are still on their way. -/
def strandBytes (s : State) (n k : Nat) (x : Option (BitVec 16)) (pa len : Nat) : List Byte :=
  s.posted.foldl (fun bs w => if w.spn = n ∧ w.strand = k ∧ w.atom = none then layOver w.pa w.data pa 0 bs else bs) (homeBytes s x pa len)

/-- Does a write of `len` bytes at `start` cover the whole line of a byte? -/
def coversOf (start len pa : Nat) : Bool := decide (start ≤ pa / 128 * 128) && decide (pa / 128 * 128 + 128 ≤ start + len)

/-- A good write that covers a whole line clears the line's mark, at the home and in the writer's L2, once the last of its pieces has
been applied (R338). -/
def clearWhole (w : Posted) (s : State) : State :=
  if w.whole && !(s.posted.any fun e => decide (e.spn = w.spn) && decide (e.strand = w.strand) && decide (e.grp = w.grp) && e.whole &&
      decide (e.pa / 128 = w.pa / 128)) then
    let s1 := markHome w.att w.pa 0 s
    match lookup s1 (skeinOf w.spn) w.att w.pa with | some t => markCopy (copyKey (skeinOf w.spn) w.pa t) 0 s1 | none => s1
  else s

/-- The mark of the line of a byte as a strand's read meets it: behind the strand's own stores that are still on their way. One
of poisoned data marks it, one that covers the whole line clears it (R187, R338). -/
def strandPoison (s : State) (n k : Nat) (x : Option (BitVec 16)) (pa : Nat) : Nat :=
  s.posted.foldl (fun m w =>
    if w.spn = n ∧ w.strand = k ∧ w.atom = none ∧ w.pa / 128 = pa / 128 then (if w.marked then propagated else if w.whole then 0 else m) else m)
    (skeinMark s (skeinOf n) x pa)

/-- Where the next write of the strand in focus comes from: the writes of one word are issued together (R191, R229, R234). -/
def wordOrigin (s : State) : Origin :=
  match s.posted.getLast? with
  | some e =>
    if e.spn = s.cur.spn ∧ e.strand = s.cur.strand ∧ e.grp = s.cycle then { e.org with num := s.writes + 1 }
    else originOf s s.cur.spn s.cur.strand
  | none => originOf s s.cur.spn s.cur.strand

/-- Post a write or an ATOM of the strand in focus. `lane` is the lane of a VSTX, `marked` says that its data are poisoned, `whole`
that it is a piece of a good write of its whole line. -/
def postAny (atom : Option (BitVec 4 × Ty)) (whole : Bool) (lane : Nat) (marked : Bool) (hn : Nat) (va : Word) (pa : Nat) (bs : List Byte)
    (rel : BitVec 5) (s : State) : State :=
  let o := wordOrigin s
  let s1 := tickDie s.cur.spn s.cur.strand o (issueWrite s.cur.spn s.cur.strand s)
  { s1 with posted := s.posted ++
      [{ spn := s.cur.spn, strand := s.cur.strand, va := va, pa := pa, data := bs, atom := atom, part := (mySpindle s).part,
         tag := (me s).tag, grp := s.cycle, att := attOf s (me s).tag, exl := (me s).exl, rel := rel, hn := hn,
         whole := whole, lane := lane, marked := marked, org := o }] }

/-- Post an ATOM of the strand in focus. -/
def postAtom (atom : Option (BitVec 4 × Ty)) (hn : Nat) (va : Word) (pa : Nat) (bs : List Byte) (rel : BitVec 5) (s : State) :
    State :=
  postAny atom false 0 false hn va pa bs rel s

/-- Post a write of the strand in focus. -/
def postWrite (hn : Nat) (va : Word) (pa : Nat) (bs : List Byte) (rel : BitVec 5) (s : State) : State :=
  postAny none false 0 false hn va pa bs rel s

/-- Post the write of one lane of a VSTX of the strand in focus. -/
def postLane (lane : Nat) (marked : Bool) (hn : Nat) (va : Word) (pa : Nat) (bs : List Byte) (s : State) : State :=
  postAny none false lane marked hn va pa bs 0 s

/-- Post a piece of a write of `len` bytes at `start` of the strand in focus; `spoilt` says that data for its line are poisoned. -/
def postPiece (start len : Nat) (marked spoilt : Bool) (hn : Nat) (va : Word) (pa : Nat) (bs : List Byte) (rel : BitVec 5) (s : State) : State :=
  postAny none (coversOf start len pa && !spoilt) 0 marked hn va pa bs rel s

/-- Has the strand a write on its way? -/
def hasPosted (s : State) (n k : Nat) : Bool := s.posted.any fun w => decide (w.spn = n) && decide (w.strand = k)

/-! ### Instruction fetch (R45, R338) -/

/-- What the fetch of a word gives: the word, poison, or a page that is not there. -/
inductive Fetch where
  | word (w : Nat)
  | poison (src : Nat)
  | stall
  deriving DecidableEq, Repr

/-- Fetch the instruction word at a virtual address for a strand. -/
def fetchWord (s : State) (n k : Nat) (va : Word) : Fetch :=
  match physOf s (spindleAt s n).part va.toNat with
  | none => .stall
  | some pa =>
    let x := attOf s (strandAt s n k).tag
    if strandPoison s n k x pa ≠ 0 then .poison (strandPoison s n k x pa) else .word (ofBytes (strandBytes s n k x pa 8))

/-- The address of the group after the one that holds the word at an address: two words on where that word starts a pair
(R45, R90). DESIGN CHOICE (log entry 116): a word that cannot be fetched counts as a group of one word. -/
def afterGroup (s : State) (n k : Nat) (va : Word) : Word :=
  match fetchWord s n k va with
  | .word w => if bitOf w 63 then addr57 (va + 16) else addr57 (va + 8)
  | _ => addr57 (va + 8)

end Sys2Proof.Machine
end

