-- ==== Sys2Proof/Machine/Flags.lean ====
section
/-! DEFINITION. How floating-point words deliver: flags, FPX, the interlocked mode, and the check against the shadow units
(R32, R39, R112, R134 to R137, R154). -/

namespace Sys2Proof.Machine

/-- What an upset does to a checked word: its lane and element, and what their shadow unit gives in place of its result. -/
structure ShadowHit where
  lane : Nat
  elem : Nat
  val : ShadowVal
  deriving DecidableEq, Repr

/-- What the check of a result element takes: its group, its result and its shadow's, both widened to FP32 (R39, R137). -/
structure Checked where
  row : ShadowRow
  main : Nat
  shadow : Nat
  deriving DecidableEq, Repr

/-- The shadow upset that meets the strand's checked word, and the upsets that remain. -/
def takeShadow (n k : Nat) : List Upset → Option ShadowHit × List Upset
  | .shadow a b l e sg key nn :: r =>
    if a = n ∧ b = k then (some ⟨l, e, sg, key.toNat, nn⟩, r) else (none, .shadow a b l e sg key nn :: r)
  | l => (none, l)

/-- DETAIL of SHADOW: lane, element and unit (R137). -/
def shadowDetail (lane elem unit : Nat) : BitVec 32 := BitVec.ofNat 32 (lane * 2 ^ 24 + elem * 2 ^ 16 + unit * 2 ^ 8)

/-- Does an element fail its check, the shadow's result being its own or what an upset makes of it? -/
def elemFails (hit : Option ShadowHit) (l e : Nat) (x : Checked) : Bool :=
  shadowFails x.row x.main (match hit with
    | some h => if h.lane = l ∧ h.elem = e then h.val else shadowVal x.shadow
    | none => shadowVal x.shadow)

/-- The first element of a lane, from element `e` on, that fails its check. -/
def laneFails (hit : Option ShadowHit) (l : Nat) : Nat → List (Option Checked) → Option Nat
  | _, [] => none
  | e, x :: xs => if x.any (elemFails hit l e) then some e else laneFails hit l (e + 1) xs

/-- The first lane, from lane `l` on, that fails its check, and its element. -/
def wordFails (hit : Option ShadowHit) : Nat → List (List (Option Checked)) → Option (Nat × Nat)
  | _, [] => none
  | l, x :: xs => match laneFails hit l 0 x with | some e => some (l, e) | none => wordFails hit (l + 1) xs

/-- DETAIL of the SHADOW that a word's results raise, `rows` holding the elements of each lane that are checked (R39, R137). -/
def shadowOf (unit : Nat) (rows : List (List (Option Checked))) (hit : Option ShadowHit) : Option (BitVec 32) :=
  (wordFails hit 0 rows).map fun x => shadowDetail x.1 x.2 unit

/-- Check a word's results against its shadow (R39, R137). -/
def checkShadow (unit : Nat) (rows : List (List (Option Checked))) (s : State) : Option (BitVec 32) × State :=
  let r := takeShadow s.cur.spn s.cur.strand s.upsets
  (shadowOf unit rows r.1, { s with upsets := r.2 })

/-- The flags among `f` that TEN enables (R112). -/
def enabled (st : Strand) (f : Flags) : Flags := f &&& tenOf st

/-- DETAIL of FPX: the flags in [36:32] (R112). -/
def fpxDetail (f : Flags) : Nat := f.toNat % 32

/-- OR flags now although the group has no effect: a precise FPX leaves its flags set (R112). -/
def keepFlags (f : Flags) (s : State) : State :=
  if s.cur.pair then updCur (fun c => { c with flags := c.flags ||| f }) s else updMe (orFlags f) s

/-- The word has met a SHADOW: F.CORRUPT is set, whatever trap it raises (R39, R137). -/
def meetShadow (shadow : Option (BitVec 32)) (s : State) : State :=
  match shadow with
  | some dt => meetCorrupt 2 dt s
  | none => s

/-- Deliver a scalar floating-point result: FPX and SHADOW are precise in either mode (R97, R112, R137). -/
def deliverScalarFp (n : Nat) (d : Dst) (x : Word) (f : Flags) (shadow : Option (BitVec 32)) (s : State) : State :=
  if enabled (me s) f ≠ 0 then meetShadow shadow (raise 0x09 (fpxDetail f) 0 (keepFlags f s))
  else
    match shadow with
    | some dt => meetShadow shadow (raise 0x0A dt.toNat 0 s)
    | none => landS n d x f s

/-- A trap that an interlocked word will raise in cycle c + n: until then the group has no effect, and then its flags are
ORed in, a SHADOW that it has met is noted, and the trap is taken (R136, R154). -/
def raiseLate (n : Nat) (r : TrapReq) (f : Flags) (shadow : Option (BitVec 32)) (s : State) : State :=
  let g : Landing := { due := s.cycle + n, target := .trap r, flags := f, resid := 0, shadow := shadow, addr := s.cur.addr,
                       second := s.cur.second, excl := (me s).exl }
  let s1 := updCur (fun c => { c with late := some g }) s
  if s.cur.pair then s1
  else updMe (fun st => { st with landings := st.landings ++ [g], readyAt := max st.readyAt g.due }) s1

/-- Deliver a floating-point word of class 0x08 or 0x0B after `n` cycles (R112, R134 to R137, R154). DESIGN CHOICE (log entry 124): of
an enabled flag and a failed shadow check of one word, FPX is raised and the other dropped. -/
def deliverFp (n : Nat) (t : Target) (f : Flags) (shadow : Option (BitVec 32)) (s : State) : State :=
  if intlk (rd s) then
    if enabled (rd s) f ≠ 0 then raiseLate n (trapOf 0x09 (fpxDetail f) .precise s.cur.group 0 s) f shadow s
    else
      match shadow with
      | some dt => raiseLate n (trapOf 0x0A dt.toNat .precise s.cur.group 0 s) 0 shadow s
      | none => lockUntil (s.cycle + n) (updCur (fun c => { c with holdTo := max c.holdTo (s.cycle + n) }) (landAt n t f s))
  else
    updMe (fun st => { st with landings := st.landings ++
      [{ due := s.cycle + n, target := t, flags := f, resid := 0, shadow := shadow, addr := s.cur.addr, second := s.cur.second,
         excl := st.exl }] }) s

/-- Unit code of a word's pipe or latch unit by its cluster (R137). -/
def unitCode (clusterB latch : Bool) : Nat := b2n clusterB + (if latch then 2 else 0)

/-- Is the word of cluster B? The first vector register it names decides (R57, R131). -/
def inClusterB (cls op : Nat) (w : O3) : Bool := (clustersOf (sig cls op) w).headD false

/-- A rounding mode from MOD[2:0], DYN read from CR.FPCTL (R27, R138). -/
def roundMode (st : Strand) (mod : BitVec 4) : Nat :=
  if mod.toNat % 8 = 7 then bits st.fpctl.toNat 20 3 else mod.toNat % 8

/-- Saturation bit of MOD (R56). -/
def modSatBit (mod : BitVec 4) : Bool := bitOf mod.toNat 3

/-- Refuse DYN while CR.FPCTL names RSR (R56), else go on. -/
def whenMode (cls op : Nat) (w : O3) (k : State → State) (s : State) : State :=
  if w.mod.toNat % 8 = 7 ∧ bits (rd s).fpctl.toNat 20 3 = 4 then raiseIllegal cls op 7 s else k s

/-- Floating-point types that reduced service offers (R412). -/
def servedType (s : State) (t : Ty) : Bool := !t.isF || t = .f32 || t = .bf16 || decide (s.dev.svc ≠ 1)

/-- Refuse a floating-point type that reduced service does not offer (R412), else go on. -/
def whenServed (cls op : Nat) (ts : List Ty) (k : State → State) (s : State) : State :=
  if ts.all (servedType s) then k s else raiseIllegal cls op 6 s

end Sys2Proof.Machine
end

