-- ==== Sys2Proof/Machine/Scalar.lean ====
section
/-! DEFINITION. Scalar ALU and immediate words, classes 0x01 and 0x02 (R96 to R100). -/

namespace Sys2Proof.Machine

/-- The common write of R96: the exact result wrapped, or clamped under .sat, and extended by the type's signedness;
clamping sets ISAT. -/
def commonWrite (t : Ty) (sat : Bool) (res : Int) : Word × Flags :=
  let r := if sat then (if t.signed then satS res t.width else satU res t.width) else (wrap res t.width, false)
  (if t.signed then signExtend r.1 t.width else zeroExtend r.1 t.width, flIf r.2 flISAT)

/-- The 64-bit value of a scalar operation's source. -/
def scalarSrc (t : Ty) (s : State) (x : Src) : Word := srcWord (litScalar t) s x

/-- The source's field of the type's width. -/
def scalarBits (t : Ty) (s : State) (x : Src) : Nat := (scalarSrc t s x).toNat % 2 ^ t.width

/-- The source as an integer, by the type's signedness. -/
def scalarVal (t : Ty) (s : State) (x : Src) : Int := tyInt t (scalarSrc t s x).toNat

/-- Run a scalar word: its copies vote where V = 1, and lane 0 of the guard decides (R54, R93). DESIGN
CHOICE (log entry 111): the copies vote before the guard is looked at. -/
def scalarWord (v : Bool) (g : Fin 16) (gn : Bool) (k : State → State) (s : State) : State :=
  voted v (whenGuard g gn k) s

/-- A scalar operation on exact integers: `f a b c` goes through the common write (R96). -/
def scalarInt (w : O3) (f : Int → Int → Int → Int) (s : State) : State :=
  scalarWord w.v w.g w.gn (fun s =>
    let r := commonWrite w.ty (modSatBit w.mod) (f (scalarVal w.ty s w.a) (scalarVal w.ty s w.b) (scalarVal w.ty s w.c))
    landS (voteLat w.v 1) w.dst r.1 r.2 s) s

/-- A scalar operation on the fields of the type's width. -/
def scalarField (w : O3) (f : Nat → Nat → Nat → Int) (s : State) : State :=
  scalarWord w.v w.g w.gn (fun s =>
    let r := commonWrite w.ty (modSatBit w.mod) (f (scalarBits w.ty s w.a) (scalarBits w.ty s w.b) (scalarBits w.ty s w.c))
    landS (voteLat w.v 1) w.dst r.1 r.2 s) s

/-! ### Results shared by the scalar and the vector words (R97, R148) -/

/-- SHL: a × 2^k with k = b mod 64. -/
def shlRes (a b : Int) : Int := a * (2 : Int) ^ (b % 64).toNat

/-- SHR of a field. -/
def shrRes (a b : Nat) : Int := (a / 2 ^ (b % 64) : Nat)

/-- SRA of a field of width w: the sign is bit w − 1 for every type. -/
def sraRes (w a b : Nat) : Int := signedValue a w / (2 : Int) ^ (min (b % 64) (w - 1))

/-- ROTL of a field of width w. -/
def rotlRes (w a b : Nat) : Int := (rotl a (b % w) w : Nat)

/-- BFX (R98): the field of `len` bits at `pos` of the value extended by the type. -/
def bfxRes (t : Ty) (a : Int) (b c : Nat) : Int :=
  let len := min (c % 128) 64
  let f := (a / (2 : Int) ^ (b % 64) % (2 : Int) ^ len).toNat
  if len = 0 then 0 else if t.signed then signedValue f len else (f : Int)

/-- BFI (R98): the field of `len` bits of a at `pos`, laid over the base d. -/
def bfiRes (w d a b c : Nat) : Int :=
  let len := min (c % 128) 64
  let pos := b % 64
  let m := (2 ^ len - 1) * 2 ^ pos % 2 ^ w
  ((d % 2 ^ w) &&& (2 ^ w - 1 - m)) ||| ((a * 2 ^ pos) &&& m) |> Int.ofNat

/-! ### Class 0x01 -/

/-- ADD: a + b (R97). -/
def execAdd (w : O3) (s : State) : Host.Outcome State Fault Refusal :=
  .next (scalarInt w (fun a b _ => a + b) s)

/-- SUB: a − b (R97). -/
def execSub (w : O3) (s : State) : Host.Outcome State Fault Refusal :=
  .next (scalarInt w (fun a b _ => a - b) s)

/-- MUL: a × b (R97). -/
def execMul (w : O3) (s : State) : Host.Outcome State Fault Refusal :=
  .next (scalarInt w (fun a b _ => a * b) s)

/-- MULH: the high half of the product (R97). -/
def execMulh (w : O3) (s : State) : Host.Outcome State Fault Refusal :=
  .next (scalarInt w (fun a b _ => a * b / (2 : Int) ^ w.ty.width) s)

/-- MADD: a × b + c, clamped or wrapped once (R97). -/
def execMadd (w : O3) (s : State) : Host.Outcome State Fault Refusal :=
  .next (scalarInt w (fun a b c => a * b + c) s)

/-- AND (R97). -/
def execAnd (w : O3) (s : State) : Host.Outcome State Fault Refusal :=
  .next (scalarField w (fun a b _ => (a &&& b : Nat)) s)

/-- OR (R97). -/
def execOr (w : O3) (s : State) : Host.Outcome State Fault Refusal :=
  .next (scalarField w (fun a b _ => (a ||| b : Nat)) s)

/-- XOR (R97). -/
def execXor (w : O3) (s : State) : Host.Outcome State Fault Refusal :=
  .next (scalarField w (fun a b _ => (a ^^^ b : Nat)) s)

/-- ANDN: a and not b (R97). -/
def execAndn (w : O3) (s : State) : Host.Outcome State Fault Refusal :=
  .next (scalarField w (fun a b _ => (a &&& (2 ^ w.ty.width - 1 - b) : Nat)) s)

/-- SHL (R97). -/
def execShl (w : O3) (s : State) : Host.Outcome State Fault Refusal :=
  .next (scalarInt w (fun a b _ => shlRes a b) s)

/-- SHR (R97). -/
def execShr (w : O3) (s : State) : Host.Outcome State Fault Refusal :=
  .next (scalarField w (fun a b _ => shrRes a b) s)

/-- SRA (R97). -/
def execSra (w : O3) (s : State) : Host.Outcome State Fault Refusal :=
  .next (scalarField w (fun a b _ => sraRes w.ty.width a b) s)

/-- ROTL (R97). -/
def execRotl (w : O3) (s : State) : Host.Outcome State Fault Refusal :=
  .next (scalarField w (fun a b _ => rotlRes w.ty.width a b) s)

/-- MIN and MAX on .f32: FPX and SHADOW are precise (R97, R112). -/
def scalarMinMax (w : O3) (wantMax : Bool) (s : State) : State :=
  scalarWord w.v w.g w.gn (fun s =>
    let a := scalarBits .f32 s w.a
    let b := scalarBits .f32 s w.b
    let r := minMaxFp .fp32 wantMax a b
    let h := checkShadow 4 [[some ⟨.product, r.1, (minMaxFp .fp32 wantMax (shortEnc .fp32 a) (shortEnc .fp32 b)).1⟩]] s
    deliverScalarFp (voteLat w.v 1) w.dst (BitVec.ofNat 64 r.1) r.2 h.1 h.2) s

/-- MIN (R97). -/
def execMin (w : O3) (s : State) : Host.Outcome State Fault Refusal :=
  .next (if w.ty = .f32 then scalarMinMax w false s else scalarInt w (fun a b _ => min a b) s)

/-- MAX (R97). -/
def execMax (w : O3) (s : State) : Host.Outcome State Fault Refusal :=
  .next (if w.ty = .f32 then scalarMinMax w true s else scalarInt w (fun a b _ => max a b) s)

/-- ABS (R97). -/
def execAbs (w : O3) (s : State) : Host.Outcome State Fault Refusal :=
  .next (scalarInt w (fun a _ _ => a.natAbs) s)

/-- NEG (R97). -/
def execNeg (w : O3) (s : State) : Host.Outcome State Fault Refusal :=
  .next (scalarInt w (fun a _ _ => -a) s)

/-- CLZ (R97). -/
def execClz (w : O3) (s : State) : Host.Outcome State Fault Refusal :=
  .next (scalarField w (fun a _ _ => (leadingZeros a w.ty.width : Nat)) s)

/-- POPC (R97). -/
def execPopc (w : O3) (s : State) : Host.Outcome State Fault Refusal :=
  .next (scalarField w (fun a _ _ => (ones a w.ty.width : Nat)) s)

/-- BFX (R98). -/
def execBfx (w : O3) (s : State) : Host.Outcome State Fault Refusal :=
  .next (scalarWord w.v w.g w.gn (fun s =>
    let r := commonWrite w.ty false (bfxRes w.ty (scalarVal w.ty s w.a) (scalarSrc w.ty s w.b).toNat (scalarSrc w.ty s w.c).toNat)
    landS (voteLat w.v 1) w.dst r.1 r.2 s) s)

/-- BFI: the destination is read as the base (R98). -/
def execBfi (w : O3) (s : State) : Host.Outcome State Fault Refusal :=
  .next (scalarWord w.v w.g w.gn (fun s =>
    let r := commonWrite w.ty false (bfiRes w.ty.width (dstRead s w.dst).toNat (scalarBits w.ty s w.a)
      (scalarSrc w.ty s w.b).toNat (scalarSrc w.ty s w.c).toNat)
    landS (voteLat w.v 1) w.dst r.1 r.2 s) s)

/-- The word that a comparison delivers: 1 or 0 to a scalar register, all lanes to a predicate (R99). -/
def condWord (d : Dst) (b : Bool) : Word := if b then (match d with | .p _ => allLanes | _ => 1) else 0

/-- CMP (R99). On .f32 a signalling NaN sets invalid, and there is no shadow. -/
def execCmp (w : O3) (s : State) : Host.Outcome State Fault Refusal :=
  .next (scalarWord w.v w.g w.gn (fun s =>
    if w.ty = .f32 then
      let a := Fp.decode .fp32 (scalarBits .f32 s w.a)
      let b := Fp.decode .fp32 (scalarBits .f32 s w.b)
      deliverScalarFp (voteLat w.v 1) w.dst (condWord w.dst (condFp w.mod.toNat a b)) (sigFlags [a, b]) none s
    else
      landS (voteLat w.v 1) w.dst (condWord w.dst (condInt w.mod.toNat (scalarVal w.ty s w.a) (scalarVal w.ty s w.b))) 0 s) s)

/-- The condition of SEL: lane 0 of a predicate, or a field that is not zero (R99). -/
def selCond (w : O3) (s : State) : Bool :=
  match w.c with
  | .p r => (pregOf (rd s) r.val).getLsbD 0
  | x => decide (scalarBits w.ty s x ≠ 0)

/-- SEL (R99). -/
def execSel (w : O3) (s : State) : Host.Outcome State Fault Refusal :=
  .next (scalarWord w.v w.g w.gn (fun s =>
    let r := commonWrite w.ty false (scalarVal w.ty s (if selCond w s then w.a else w.b))
    landS (voteLat w.v 1) w.dst r.1 r.2 s) s)

/-- MOV; a predicate moves as its 64-lane mask (R97). -/
def execMov (w : O3) (s : State) : Host.Outcome State Fault Refusal :=
  .next (scalarInt w (fun a _ _ => a) s)

/-- IDX: the kernel iteration index of a hardware loop, 0 where it is inactive (R97). -/
def execIdx (w : O3) (s : State) : Host.Outcome State Fault Refusal :=
  .next (scalarWord w.v w.g w.gn (fun s =>
    let i := match loopAt (rd s) w.a.litVal with | some l => l.i | none => 0
    landS (voteLat w.v 1) w.dst (commonWrite w.ty false (i : Int)).1 0 s) s)

/-! ### Class 0x02 (R100) -/

/-- The immediate read by the type (R100). -/
def immVal (t : Ty) (x : BitVec 32) : Int :=
  tyInt t (if t.signed then (signExtend x.toNat 32).toNat else x.toNat)

/-- An immediate operation: DST := DST op IMM through the common write (R100). -/
def immOp (w : I32) (f : Int → Int → Int) (s : State) : State :=
  scalarWord w.v w.g w.gn (fun s =>
    let r := commonWrite w.ty false (f (tyInt w.ty (dstRead s w.dst).toNat) (immVal w.ty w.imm))
    landS (voteLat w.v 1) w.dst r.1 r.2 s) s

/-- A bitwise immediate operation on fields of the type's width. -/
def immBits (w : I32) (f : Nat → Nat → Nat) (s : State) : State :=
  immOp w (fun d x => (f (wrap d w.ty.width) (wrap x w.ty.width) : Nat)) s

/-- LI: the immediate (R100). -/
def execLi (w : I32) (s : State) : Host.Outcome State Fault Refusal :=
  .next (immOp w (fun _ x => x) s)

/-- LIH: the immediate into bits [63:32]; bits [31:0] stay (R100). -/
def execLih (w : I32) (s : State) : Host.Outcome State Fault Refusal :=
  .next (scalarWord w.v w.g w.gn (fun s =>
    landS (voteLat w.v 1) w.dst (BitVec.ofNat 64 (w.imm.toNat * 2 ^ 32 + (dstRead s w.dst).toNat % 2 ^ 32)) 0 s) s)

/-- ADDI: d + x (R100). -/
def execAddi (w : I32) (s : State) : Host.Outcome State Fault Refusal :=
  .next (immOp w (fun d x => d + x) s)

/-- MULI: d × x (R100). -/
def execMuli (w : I32) (s : State) : Host.Outcome State Fault Refusal :=
  .next (immOp w (fun d x => d * x) s)

/-- ANDI (R100). -/
def execAndi (w : I32) (s : State) : Host.Outcome State Fault Refusal :=
  .next (immBits w (fun d x => d &&& x) s)

/-- ORI (R100). -/
def execOri (w : I32) (s : State) : Host.Outcome State Fault Refusal :=
  .next (immBits w (fun d x => d ||| x) s)

/-- XORI (R100). -/
def execXori (w : I32) (s : State) : Host.Outcome State Fault Refusal :=
  .next (immBits w (fun d x => d ^^^ x) s)

end Sys2Proof.Machine
end

