-- ==== Sys2Proof/Machine/Control.lean ====
section
/-! DEFINITION. Control words, class 0x03 (R88 to R92, R95, R101 to R107). -/

namespace Sys2Proof.Machine

/-- An address moved by a count of words (R49). -/
def offsetAddr (a : Word) (off : BitVec 24) : Word := addr57 (a + BitVec.ofInt 64 (off.toInt * 8))

/-- BR (R102). -/
def execBr (w : B24) (s : State) : Host.Outcome State Fault Refusal :=
  .next (scalarWord w.v w.g w.gn (fun s => transfer (offsetAddr s.cur.addr w.off) s) s)

/-- Push the return address and move control, or raise RSTK when the store is full (R89, R102, R103). -/
def callTo (t : Word) (s : State) : State :=
  if (rd s).depth = 80 then raise 0x0C (det 0x01 0) 0 s
  else transfer t (updMe (rasPush (addr57 s.cur.next)) s)

/-- CALL (R102). -/
def execCall (w : B24) (s : State) : Host.Outcome State Fault Refusal :=
  .next (scalarWord w.v w.g w.gn (fun s => callTo (offsetAddr s.cur.addr w.off) s) s)

/-- Go on with a target that is aligned, else raise ALIGN (R45, R103). -/
def whenTarget (t : Word) (k : Word → State → State) (s : State) : State :=
  if aligned t.toNat 8 then k (addr57 t) s else raiseAlign 0 s

/-- CALLI: ALIGN comes before RSTK (R103). -/
def execCalli (w : O3) (s : State) : Host.Outcome State Fault Refusal :=
  .next (scalarWord w.v w.g w.gn (fun s => whenTarget (srcZero s w.a) callTo s) s)

/-- JMPI (R103). -/
def execJmpi (w : O3) (s : State) : Host.Outcome State Fault Refusal :=
  .next (scalarWord w.v w.g w.gn (fun s => whenTarget (srcZero s w.a) transfer s) s)

/-- RET: an empty store raises RSTK, a target that is not aligned ALIGN, and neither pops (R89, R103). -/
def execRet (w : O3) (s : State) : Host.Outcome State Fault Refusal :=
  .next (scalarWord w.v w.g w.gn (fun s =>
    if (rd s).depth = 0 then raise 0x0C (det 0x02 0) 0 s
    else whenTarget (rasTop (rd s)) (fun t s => transfer t (updMe rasPop s)) s) s)

/-- Enter a loop with trip count T and stage count S (R90, R92). -/
def enterWith (lid : Fin 4) (off : BitVec 24) (t stages : Nat) (s : State) : State :=
  let e := offsetAddr s.cur.addr off
  if 2 ≤ stages ∧ (modLoop (rd s)).any (fun x => x ≠ lid.val) then raiseSched 0xE1 lid.val s
  else if t = 0 then
    updCur (fun f => { f with next := afterGroup s s.cur.spn s.cur.strand e }) (updMe (dropLoop lid.val) s)
  else
    updCur (fun f => { f with started := lid.val :: f.started }) (updMe (enterLoop s.cycle lid.val
      { start := addr57 s.cur.next, stop := e, k := t + stages - 1, i := 0, s := stages, t := t }) s)

/-- The source that LOOP names in AUX[25:16] (R104). -/
def loopSource (aux : BitVec 13) : Src :=
  let f := aux.toNat / 8
  if f / 256 = 1 then .s (Fin.ofNat 32 f) else if f / 256 = 2 then .cb (BitVec.ofNat 8 f) else .lit (BitVec.ofNat 8 f)

/-- LOOP: T in bits [31:0] and S − 1 in bits [34:32] of its source (R104). -/
def execLoop (w : B24) (s : State) : Host.Outcome State Fault Refusal :=
  .next (scalarWord w.v w.g w.gn (fun s =>
    let x := (srcZero s (loopSource w.aux)).toNat
    enterWith w.lid w.off (bits x 0 32) (bits x 32 3 + 1) s) s)

/-- LOOPI: T in AUX and S = 1 (R104). -/
def execLoopi (w : B24) (s : State) : Host.Outcome State Fault Refusal :=
  .next (scalarWord w.v w.g w.gn (fun s => enterWith w.lid w.off w.aux.toNat 1 s) s)

/-- Latch `n` of the current bank. -/
def latchAt (st : Strand) (n : Nat) : Latch := SMap.get .start st.latch n

/-- Change latch `n` of the current bank. -/
def setLatch (n : Nat) (l : Latch) (st : Strand) : Strand := { st with latch := SMap.set .start st.latch n l }

/-- A latch that MOVL has read becomes EMPTY. DESIGN CHOICE (log entry 112): where a latch-unit word of the same group deposits
into it, it is PENDING after the group, whichever word comes first (R58, R88). -/
def emptyLatch (n : Nat) (st : Strand) : Strand := if (latchAt st n).st = .full then setLatch n .start st else st

/-- The copy of a full latch to its destination (R105). -/
def moveLatch (w : O3) (n : Nat) (s : State) : State :=
  let l := latchAt (rd s) n
  let t := if n ≤ 3 then dstVector w.dst allLanes l.lanes else dstScalar w.dst l.word
  let s1 := updMe (emptyLatch n) (landAt (voteLat w.v (if n ≤ 3 then 2 else 1)) t 0 s)
  if enabled (rd s) l.flags ≠ 0 then raiseAfter 0x09 (fpxDetail (l.flags &&& 0x1F)) s1 else s1

/-- MOVL: it waits while the latch is PENDING, and raises SCHED on an EMPTY one; an enabled flag of the deposit raises FPX
after the write (R105, R112). DESIGN CHOICE (log entry 111): the guard is looked at before a vote. -/
def execMovl (w : O3) (s : State) : Host.Outcome State Fault Refusal :=
  let n := w.a.litVal
  .next (if !guard0 s w.g w.gn then s
    else if (latchAt (rd s) n).st = .pending then again (updMe (fun st => { st with hold := .latch n }) s)
    else voted w.v (fun s => if (latchAt (rd s) n).st = .full then moveLatch w n s else raiseSched 0xE0 n s) s)

/-- NOP: the next group issues no earlier than COUNT + 1 cycles on (R106). -/
def execNop (w : FormN) (s : State) : Host.Outcome State Fault Refusal :=
  .next (voted w.v (fun s =>
    if w.count = 0 then s
    else lockUntil (s.cycle + w.count.toNat + 1) (updMe (fun st => { st with hold := .nop }) s)) s)

/-- Stop a strand: loops inactive, latches EMPTY, return-address store empty (R107). -/
def haltStrand (st : Strand) : Strand :=
  { st with run := .halted, loops := [], order := [], latch := [], saved := [], rstk := [], depth := 0, hold := .none,
            wait := none, arrived := false, mem := none }

/-- HALT (R107). -/
def execHalt (w : O3) (s : State) : Host.Outcome State Fault Refusal :=
  .next (scalarWord w.v w.g w.gn (updMe haltStrand) s)

/-- May the strand issue in this cycle, as far as it stands by itself? (R85) -/
def ready (c : Nat) (st : Strand) : Bool :=
  decide (st.run = .running) && st.trap.isNone && decide (st.readyAt ≤ c) && decide (st.hold = .none) && st.wait.isNone && !st.atStop &&
    st.landings.all (fun l => decide (c < l.due)) && (match st.mem with | some m => m.atom.isNone || m.ready | none => true)

/-! ### The next group of a strand (R45, R85, R338) -/

/-- What the fetch of a group gives: the page of a word is not there, a word is poisoned, or the words; the second is 0 for
a single word. -/
inductive GroupFetch where
  | stall
  | poison (src : Nat) (va : Word)
  | words (w1 w2 : Nat)
  deriving DecidableEq, Repr

/-- Fetch the next group of a strand. -/
def fetchGroup (s : State) (n k : Nat) : GroupFetch :=
  let pc := (strandAt s n k).pc
  match fetchWord s n k pc with
  | .stall => .stall
  | .poison src => .poison src pc
  | .word w1 =>
    if wordP w1 then
      match fetchWord s n k (addr57 (pc + 8)) with
      | .stall => .stall
      | .poison src => .poison src (addr57 (pc + 8))
      | .word w2 => .words w1 w2
    else .words w1 0

/-- Does a word wait, as MOVL does under a true guard on a latch that is PENDING? (R85, R105) -/
def awaitsLatch (st : Strand) : Instr → Bool
  | .movl w => (pregOf st w.g.val).getLsbD 0 != w.gn && decide ((latchAt st w.a.litVal).st = .pending)
  | _ => false

/-- Is a strand eligible in this cycle: ready, its tag not being purged, its next group there and not to wait in MOVL? (R85, R340) -/
def eligible (s : State) (n k : Nat) : Bool :=
  let st := strandAt s n k
  ready s.cycle st && !purging s (spindleAt s n).part st.tag &&
    match fetchGroup s n k with
    | .stall => false
    | .poison _ _ => true
    | .words w1 w2 =>
      match decodeGroup w1 w2 with
      | .error _ => true
      | .ok (i, j) => !(awaitsLatch st i || j.any (awaitsLatch st))

/-- YIELD: the strand is not eligible until every strand that is eligible now has issued a group, or three cycles have
passed (R107). -/
def execYield (w : O3) (s : State) : Host.Outcome State Fault Refusal :=
  .next (scalarWord w.v w.g w.gn (fun s =>
    let others := (upto 4).filter fun k =>
      k ≠ s.cur.strand && eligible s s.cur.spn k
    if others.isEmpty then s else updMe (fun st => { st with hold := .yield others (s.cycle + 4) }) s) s)

end Sys2Proof.Machine
end

