-- ==== Sys2Proof/Machine/System.lean ====
section
/-! DEFINITION. Control registers and system words, class 0x04 (R94, R108 to R130). -/

namespace Sys2Proof.Machine

/-! ### Control registers (R94, R109 to R113, R323) -/

/-- CR.MODE (R110). -/
def crMode (p : Spindle) (st : Strand) : Word :=
  BitVec.ofNat 64 (b2n st.privm * 2 ^ 7 + b2n st.exl * 2 ^ 6 + b2n p.det * 2 ^ 5 + p.prio % 4 * 4 + b2n (intlk st))

/-- Code of a latch's state (R94). -/
def latchCode (l : Latch) : Nat :=
  match l.st with | .empty => 0 | .pending => 1 | .full => 2

/-- The states of a bank of latches as CR.SEQ.LST gives them (R94). -/
def latchStates (m : SMap Latch) : Nat := (upto 6).foldl (fun a n => a + latchCode (SMap.get .start m n) * 4 ^ n) 0

/-- CR.SEQ (R94). -/
def crSeq (st : Strand) : Word :=
  let lact := maskOf (fun x => (loopAt st x).isSome) 4
  let m := match modLoop st with
    | some x => 2 ^ 35 + x * 2 ^ 33 + (match loopAt st x with | some l => l.s - 1 | none => 0) * 2 ^ 30
    | none => 0
  BitVec.ofNat 64 (lact * 2 ^ 36 + m + latchStates st.latch * 2 ^ 16 + st.depth % 128)

/-- CR.CAP (R109). -/
def crCap : Word := 0x0140_0400

/-- CR.DOM: logical coordinates in the unprivileged view, physical ones in the privileged (R9, R15). -/
def crDom (p : Spindle) (n : Nat) (priv : Bool) : Word :=
  if priv then BitVec.ofNat 64 (p.dom.toNat / 2 ^ 10 * 2 ^ 10 + n / 160 * 2 ^ 8 + n % 160 / 8 * 8 + n % 8) else p.dom

/-- A control register as a strand of spindle `n` reads it; none where the number is not assigned (R109). -/
def crRead (s : State) (n : Nat) (p : Spindle) (st : Strand) (r : Nat) : Option Word :=
  match r with
  | 0x00 => some (crMode p st)
  | 0x01 => some st.fpctl
  | 0x02 => some (st.tag.zeroExtend 64)
  | 0x03 => some p.step
  | 0x04 => some (BitVec.ofNat 64 (p.part % 64))
  | 0x05 => some (crDom p n st.privm)
  | 0x06 => some (crSeq st)
  | 0x07 => some crCap
  | 0x08 => some st.epc
  | 0x09 => some st.cause
  | 0x0A => some st.estat
  | 0x0B => some st.eaddr
  | 0x0C => some p.tvec
  | 0x0D => some (SMap.get 0 st.hscr 0)
  | 0x0E => some (SMap.get 0 st.hscr 1)
  | 0x0F => some (SMap.get 0 st.hscr 2)
  | 0x10 => some (SMap.get 0 st.hscr 3)
  | 0x11 => some p.wdog
  | 0x12 => some p.wdlim
  | 0x13 => some (BitVec.ofNat 64 s.tick)
  | _ => none

/-- The registers that the unprivileged view does not read (R109). -/
def crHidden (r : Nat) : Bool := 0x08 ≤ r && r ≤ 0x10

/-- The registers that hold an S field: a write through the unprivileged view raises PRIV (R108, R109). -/
def crSystem (r : Nat) : Bool := r = 0x02 || (0x08 ≤ r && r ≤ 0x12)

/-- The writable bits of CR.FPCTL (R129). -/
def fpctlMask : Word := 0x7F_803F

/-- CR.FPCTL after a write of some of its bits; RM of 5 to 7 leaves RM unchanged (R111, R129). -/
def fpctlWrite (old x mask : Word) : Word :=
  let w := mask &&& fpctlMask
  let new := (old &&& ~~~w) ||| (x &&& w)
  if 4 < bits new.toNat 20 3 then (new &&& ~~~(0x70_0000 : Word)) ||| (old &&& 0x70_0000) else new

/-- Write a control register of the strand in focus: S and U fields change, H fields do not (R108, R109). -/
def crWrite (r : Nat) (x : Word) (s : State) : State :=
  match r with
  | 0x01 => updMe (fun st => { st with fpctl := fpctlWrite st.fpctl x (BitVec.allOnes 64) ||| keptFlags s.cycle st }) s
  | 0x02 => updMe (fun st => { st with tag := x.truncate 16 }) s
  | 0x08 => updMe (fun st => { st with epc := addr57 x }) s
  | 0x09 => updMe (fun st => { st with cause := x &&& 0xFFFF_FFFF_0000_80FF }) s
  | 0x0A => updMe (fun st => { st with estat := x &&& 0xE0 }) s
  | 0x0B => updMe (fun st => { st with eaddr := x }) s
  | 0x0C => updMySpindle (fun p => { p with tvec := addr57 x &&& ~~~(7 : Word) }) s
  | 0x0D => updMe (fun st => { st with hscr := SMap.set 0 st.hscr 0 x }) s
  | 0x0E => updMe (fun st => { st with hscr := SMap.set 0 st.hscr 1 x }) s
  | 0x0F => updMe (fun st => { st with hscr := SMap.set 0 st.hscr 2 x }) s
  | 0x10 => updMe (fun st => { st with hscr := SMap.set 0 st.hscr 3 x }) s
  | 0x11 => updMySpindle (fun p => { p with wdog := x, wdArmed := true }) s
  | 0x12 => updMySpindle (fun p => { p with wdlim := x, wdArmed := true }) s
  | _ => s

/-- Is a word in flight that sets bits of CR.FPCTL when it lands? (R125) -/
def flagsInFlight (st : Strand) : Bool := st.landings.any fun l => decide (l.flags ≠ 0)

/-- Wait for the words in flight that set bits of CR.FPCTL, else go on (R125). -/
def afterFlags (k : State → State) (s : State) : State := if flagsInFlight (me s) then again s else k s

/-! ### The system words -/

/-- TRAP (R123). -/
def execTrap (w : O3) (s : State) : Host.Outcome State Fault Refusal :=
  .next (whenGuard w.g w.gn (fun s => raiseAfter 0x80 (det (srcNum s w.a 8) 0) s) s)

/-- ERET (R124). -/
def execEret (w : O3) (s : State) : Host.Outcome State Fault Refusal :=
  .next (whenGuard w.g w.gn (whenPriv fun s =>
    if !(me s).exl then raiseSched 0xE2 0 s
    else if !aligned (me s).epc.toNat 8 then raiseAlign 0 s
    else returnTrap s) s)

/-- MFCR (R108, R125). -/
def execMfcr (w : O3) (s : State) : Host.Outcome State Fault Refusal :=
  .next (whenGuard w.g w.gn (fun s =>
    let r := srcNum s w.a 8
    match crRead s s.cur.spn (mySpindle s) (me s) r with
    | none => raiseIllegal 0x04 0x03 5 s
    | some x =>
      if crHidden r && !(me s).privm then raisePriv s
      else if r = 0x01 then afterFlags (fun s => landS 1 w.dst x 0 s) s
      else landS 1 w.dst x 0 s) s)

/-- MTCR (R108, R125). -/
def execMtcr (w : O3) (s : State) : Host.Outcome State Fault Refusal :=
  .next (whenGuard w.g w.gn (fun s =>
    let r := srcNum s w.a 8
    if 0x13 < r then raiseIllegal 0x04 0x04 5 s
    else if crSystem r && !(me s).privm then raisePriv s
    else if r = 0x01 then afterFlags (fun s => crWrite r (srcZero s w.b) s) s
    else crWrite r (srcZero s w.b) s) s)

/-- A strand as STRSTART starts it (R126). -/
def startStrand (issuer : Strand) (t arg : Word) (c : Nat) (st : Strand) : Strand :=
  setS 0 arg { st with
    run := .running, pc := t, tag := issuer.tag, fpctl := issuer.fpctl &&& 0x70_0000, rstk := [], depth := 0, loops := [],
    order := [], latch := [], saved := [], deposits := [], privm := false, exl := false, readyAt := c, hold := .none,
    wait := none, arrived := false, mem := none, trap := none, held := [] }

/-- STRSTART (R126). DESIGN CHOICE (log entry 123): a strand that a purge has stopped is neither idle nor halted. -/
def execStrstart (w : O3) (s : State) : Host.Outcome State Fault Refusal :=
  .next (whenGuard w.g w.gn (fun s =>
    let n := srcNum s w.a 2
    let t := srcZero s w.b
    let r := (strandOf (mySpindle s) n).run
    if r ≠ .idle ∧ r ≠ .halted then raiseSched 0xE3 n s
    else if !aligned t.toNat 8 then raiseAlign 0 s
    else updStrand s.cur.spn n (startStrand (me s) (addr57 t) (srcZero s w.c) (s.cycle + 2)) s) s)

/-- STRWAIT (R127). -/
def execStrwait (w : O3) (s : State) : Host.Outcome State Fault Refusal :=
  .next (whenGuard w.g w.gn (fun s =>
    let m := srcNum s w.a 4
    let run := fun k => (strandOf (mySpindle s) k).run
    if (upto 4).any (fun k => bitOf m k && k ≠ s.cur.strand && (run k = .running || run k = .purged)) then again s
    else landS 1 w.dst (BitVec.ofNat 64 (maskOf (fun k => bitOf m k && k ≠ s.cur.strand && run k = .dtrap) 4)) 0 s) s)

/-- STRID (R128). -/
def execStrid (w : O3) (s : State) : Host.Outcome State Fault Refusal :=
  .next (whenGuard w.g w.gn (fun s => landS 1 w.dst (BitVec.ofNat 64 s.cur.strand) 0 s) s)

/-- SETFP (R129). -/
def execSetfp (w : O3) (s : State) : Host.Outcome State Fault Refusal :=
  .next (whenGuard w.g w.gn (afterFlags fun s =>
    let old := (me s).fpctl
    landS 1 w.dst old 0 (updMe (fun st => { st with
      fpctl := fpctlWrite old (srcZero s w.a) (srcZero s w.b) ||| keptFlags s.cycle st }) s)) s)

/-! ### Handles and context images (R120, R130, R177, R179) -/

/-- V of a handle. -/
def hV (h : Word) : Bool := bitOf h.toNat 63
/-- NR of a handle. -/
def hNR (h : Word) : Bool := bitOf h.toNat 62
/-- WR of a handle. -/
def hWR (h : Word) : Bool := bitOf h.toNat 60
/-- VERS of a handle. -/
def hVers (h : Word) : Bool := bitOf h.toNat 59
/-- Bytes of a handle's page. -/
def hSize (h : Word) : Nat := if bitOf h.toNat 61 then 2 ^ 21 else 2 ^ 16
/-- Virtual address of a handle's page. -/
def hBase (h : Word) : Nat := bits h.toNat 16 41 * 2 ^ 16

/-- The number of a handle source. -/
def hNum : Src → Nat
  | .h r => r.val | _ => 0

/-- The handle that TRANS deposits for a virtual address, and its page's physical address (R177, R196). -/
def handleFor (s : State) (p va : Nat) : Word × Nat :=
  let v := va % 2 ^ 57
  match translate s p v with
  | none => (0, 0)
  | some x =>
    (BitVec.ofNat 64 (2 ^ 63 + b2n x.nr * 2 ^ 62 + b2n x.big * 2 ^ 61 + b2n x.wr * 2 ^ 60 +
      b2n (!x.dev && (regionOf s p v).isSome) * 2 ^ 59 + v / x.size * x.size), x.pa)

/-- Raise HANDLE with a reason (R180). -/
def raiseHandle (reason h lane : Nat) (eaddr : Word) (s : State) : State :=
  raise 0x04 (reason * 2 ^ 24 + h * 2 ^ 20 + lane * 2 ^ 14) eaddr s

/-- Bytes of a context image. -/
def ctxBytes : Nat := 0x9000

/-- The words of a loop in an image (R120). -/
def loopWords (l : Option LoopSt) : List Word :=
  match l with
  | none => [0, 0, 0, 0]
  | some l => [l.start, l.stop, BitVec.ofNat 64 l.k, BitVec.ofNat 64 (2 ^ 63 + (l.s - 1) * 2 ^ 60 + l.i)]

/-- The bytes of words in memory order. -/
def wordBytes (ws : List Word) : List Byte := ws.flatMap fun w => toBytes w.toNat 8

/-- The bytes of lanes in memory order. -/
def laneBytes (ls : List Lane) : List Byte := ls.flatMap fun l => toBytes l.toNat 4

/-- The 64 lanes of a latch. -/
def latchLanes (l : Latch) : List Lane := if l.lanes.isEmpty then List.replicate 64 0 else l.lanes

/-- The states of a bank of latches and its latches 4 and 5: 64 bytes of an image (R120). -/
def bankWords (m : SMap Latch) : List Word :=
  [BitVec.ofNat 64 (latchStates m), (SMap.get .start m 4).word, (SMap.get .start m 5).word, 0, 0, 0, 0, 0]

/-- Latches 0 to 3 of a bank: 1024 bytes of an image. -/
def bankLanes (m : SMap Latch) : List Byte := laneBytes ((upto 4).flatMap fun n => latchLanes (SMap.get .start m n))

/-- The image of a strand with a resume address, the words from 0x250 to 0x26F, the bank of latches that it keeps, and what
stands from 0x8800 on (R120). -/
def strandImage (k : Nat) (st : Strand) (resume : Word) (cr : List Word) (bank : SMap Latch) (tail : List Byte) : List Byte :=
  wordBytes ([BitVec.ofNat 64 (2 ^ 48 + 64 * 2 ^ 40 + 0x9000), BitVec.ofNat 64 k] ++ List.replicate 6 0) ++
  wordBytes ((upto 32).map (sregOf st)) ++
  wordBytes ((upto 16).map (pregOf st)) ++
  wordBytes ((upto 16).map (hregOf st)) ++
  wordBytes ([resume, st.fpctl] ++ cr ++ [BitVec.ofNat 64 (st.depth * 2 ^ 16 + st.tag.toNat), 0]) ++
  wordBytes ((upto 4).flatMap fun x => loopWords (loopAt st x)) ++
  wordBytes (st.rstk.reverse ++ List.replicate (16 - st.rstk.length) 0) ++
  wordBytes (bankWords bank ++ List.replicate 8 0) ++
  bankLanes bank ++
  laneBytes (SMap.getList 0 st.vreg 0 4096) ++
  wordBytes (SMap.getList 0 st.slab 0 2048) ++
  tail

/-- The image of the interrupted context: of the byte of CR.MODE, PRIVM is PPRIV, EXL is 0 and the rest is as it is
(R120, R130). -/
def ctxImage (k : Nat) (p : Spindle) (st : Strand) : List Byte :=
  strandImage k st st.epc [0, 0, (crMode p st &&& 0x3F) ||| (st.estat &&& 0x80), 0] st.saved (List.replicate 0x800 0)

/-- The part of an image for a strand in a handler: CR.HSCR and the handler's bank of latches (R120). -/
def handlerPart (st : Strand) : List Byte :=
  wordBytes ((upto 4).map (SMap.get 0 st.hscr) ++ List.replicate 4 0 ++ bankWords st.latch) ++ bankLanes st.latch ++
    List.replicate 0x380 0

/-- The image of a strand as it stands at a group boundary (R120). -/
def wholeImage (k : Nat) (p : Spindle) (st : Strand) : List Byte :=
  strandImage k st st.pc [st.epc, st.cause, (st.estat <<< 8) ||| crMode p st, st.eaddr] (if st.exl then st.saved else st.latch)
    (if st.exl then handlerPart st else List.replicate 0x800 0)

/-- The word at a byte offset of an image. -/
def imgWord (img : List Byte) (off : Nat) : Nat := ofBytes ((img.drop off).take 8)

/-- The words from a byte offset of an image. -/
def imgWords (img : List Byte) (off n : Nat) : List Word :=
  (pieces 8 n (img.drop off)).map fun b => BitVec.ofNat 64 (ofBytes b)

/-- The lanes from a byte offset of an image. -/
def imgLanes (img : List Byte) (off n : Nat) : List Lane :=
  (pieces 4 n (img.drop off)).map fun b => BitVec.ofNat 32 (ofBytes b)

/-- Is a range of an image all zero? -/
def imgZero (img : List Byte) (off n : Nat) : Bool := ((img.drop off).take n).all (· = 0)

/-- May the image be loaded? The answer is DETAIL[63:56] of CTXSHAPE, 0 where it may (R130). -/
def ctxRefusal (img : List Byte) : Nat :=
  let w0 := imgWord img 0
  let st := imgWord img 0x380
  if bits w0 40 8 ≠ 64 then 1
  else if bits w0 48 16 ≠ 1 || bits w0 32 8 ≠ 0 || bits w0 0 32 ≠ 0x9000 || imgWord img 8 / 256 ≠ 0 || !imgZero img 0x10 48 ||
      imgWord img 0x260 / 2 ^ 16 ≠ 0 || bitOf (imgWord img 0x260) 6 || imgWord img 0x270 / 2 ^ 23 ≠ 0 || !imgZero img 0x278 8 ||
      (upto 4).any (fun x => bits (imgWord img (0x298 + 32 * x)) 33 27 ≠ 0) ||
      st / 2 ^ 12 ≠ 0 || (upto 6).any (fun n => st / 4 ^ n % 2 = 1) || !imgZero img 0x398 0x68 || !imgZero img 0x8820 32 ||
      !imgZero img 0x8C80 0x380 then 2
  else 0

/-- A loop of an image. -/
def imgLoop (img : List Byte) (x : Nat) : Option LoopSt :=
  let o := 0x280 + 32 * x
  let w := imgWord img (o + 24)
  if bitOf w 63 then
    some { start := BitVec.ofNat 64 (imgWord img o), stop := BitVec.ofNat 64 (imgWord img (o + 8)), k := imgWord img (o + 16),
           i := bits w 0 33, s := bits w 60 3 + 1, t := imgWord img (o + 16) - bits w 60 3 }
  else none

/-- The saved bank of latches of an image. -/
def imgLatch (img : List Byte) (n : Nat) : Latch :=
  if bits (imgWord img 0x380) (2 * n) 2 = 2 then
    { st := .full, lanes := if n < 4 then imgLanes img (0x400 + 256 * n) 64 else [],
      word := if n < 4 then 0 else BitVec.ofNat 64 (imgWord img (0x380 + 8 * (n - 3))), flags := 0 }
  else .start

/-- The fields of a handle; its reserved bits read as zero (R177). -/
def handleBits (h : Word) : Word := h &&& 0xF9FF_FFFF_FFFF_0000

/-- A saved handle translated again: it takes the page as TRANS would find it now, and loses V where there is none (R179). -/
def retranslate (s : State) (p : Nat) (h : Word) : Word × Nat :=
  if !hV h then (handleBits h, 0)
  else if (translate s p (hBase h)).isNone then (handleBits h &&& 0x7FFF_FFFF_FFFF_FFFF, 0)
  else handleFor s p (hBase h)

/-- Load an image into a strand (R130, R179, R181). -/
def loadImage (s : State) (p : Nat) (img : List Byte) (st : Strand) : Strand :=
  let hs := (imgWords img 0x1C0 16).map (retranslate s p)
  let dt := imgWord img 0x270
  let d := bits dt 16 7
  { st with
    sreg := SMap.setList 0 [] 0 (imgWords img 0x40 32)
    preg := SMap.setList 0 [] 1 ((imgWords img 0x140 16).drop 1)
    hreg := SMap.setList 0 [] 0 (hs.map (·.1))
    hpa := SMap.setList 0 [] 0 (hs.map (·.2))
    epc := addr57 (BitVec.ofNat 64 (imgWord img 0x240))
    fpctl := fpctlWrite st.fpctl (BitVec.ofNat 64 (imgWord img 0x248)) (BitVec.allOnes 64)
    cause := BitVec.ofNat 64 (imgWord img 0x258) &&& 0xFFFF_FFFF_0000_80FF
    estat := BitVec.ofNat 64 (bits (imgWord img 0x260) 13 2 * 2 ^ 5 + b2n (bitOf (imgWord img 0x260) 7) * 2 ^ 7)
    eaddr := BitVec.ofNat 64 (imgWord img 0x268)
    tag := BitVec.ofNat 16 dt
    depth := d
    rstk := ((imgWords img 0x300 16).take (min d 16)).reverse
    loops := (upto 4).foldl (fun m x => SMap.set none m x (imgLoop img x)) []
    order := (upto 4).filter fun x => (imgLoop img x).isSome
    saved := (upto 6).foldl (fun m n => SMap.set .start m n (imgLatch img n)) []
    vreg := SMap.setList 0 [] 0 (imgLanes img 0x800 4096)
    vmark := []
    slab := SMap.setList 0 [] 0 (imgWords img 0x4800 2048)
    resid := 0 }

end Sys2Proof.Machine
end

