-- ==== Sys2Proof/Machine/Objects.lean ====
section
/-! DEFINITION. The hardware objects of a spindle as every agent reaches them: semaphores, spools, phasers, the overlap
checker, and the start of a purge (R200 to R225, R339). -/

namespace Sys2Proof.Machine

/-! ### Semaphores (R200, R201, R224) -/

/-- Semaphore `k` of a spindle. -/
def semAt (p : Spindle) (k : Nat) : Sem := SMap.get .start p.sems k

/-- Change semaphore `k`. -/
def updSem (k : Nat) (f : Sem → Sem) (p : Spindle) : Spindle := { p with sems := SMap.modify .start p.sems k f }

/-- The component-wise maximum of two timestamps (R224). -/
def vtMax (a b : SMap Nat) : SMap Nat := (upto 6).foldl (fun m q => SMap.set 0 m q (max (SMap.get 0 a q) (SMap.get 0 b q))) []

/-- The largest count. -/
def semTop : Nat := 2 ^ 32 - 1

/-- Add a raise of `n` with a timestamp in cycle `c` (R200). -/
def addSem (c n : Nat) (vt : SMap Nat) (x : Sem) : Sem :=
  if n = 0 then x
  else
    { count := BitVec.ofNat 32 (min semTop (x.count.toNat + n)), ovf := x.ovf || decide (semTop < x.count.toNat + n),
      vt := vtMax x.vt vt, lastC := c, lastN := if x.lastC = c then x.lastN + n else n, carry := x.carry }

/-- Raise semaphore `k` of spindle `n`. -/
def raiseSem (n k amount : Nat) (vt : SMap Nat) (s : State) : State :=
  updSpindle n (fun p => updSem k (addSem s.cycle amount (if p.det then vt else [])) p) s

/-- A raise of semaphore `k` hands on what its agent has released (R231). DESIGN CHOICE (log entry 18): all raises since the count was
last used up contribute to the waits that are met. -/
def carrySem (n k : Nat) (rel : SMap (List Nat)) (s : State) : State :=
  updSpindle n (updSem k fun x => { x with carry := joinRel x.carry rel }) s

/-- What strand `k` of a spindle hands on with an act of it (R231). -/
def strandHands (s : State) (n k : Nat) : SMap (List Nat) := (strandAt s n k).view.handsOn 4

/-- A met wait of agent `a` on semaphore `k` of its spindle takes what the raises have handed on (R231). -/
def takeCarry (n a k : Nat) (s : State) : State := updView n a (View.handed (agentClass a) (semAt (spindleAt s n) k).carry) s

/-- Set a count and clear OVF; raises of the same cycle come after it (R207). -/
def setSem (c v : Nat) (vt : SMap Nat) (x : Sem) : Sem :=
  let r := if x.lastC = c then x.lastN else 0
  { count := BitVec.ofNat 32 (min semTop (v + r)), ovf := decide (semTop < v + r), vt := vtMax x.vt vt, lastC := x.lastC,
    lastN := x.lastN, carry := if x.lastC = c then x.carry else [] }

/-- Take `v` from a count (R201). -/
def consumeSem (v : Nat) (x : Sem) : Sem :=
  { x with count := x.count - BitVec.ofNat 32 v, carry := if v = x.count.toNat then [] else x.carry }

/-! ### Records that name semaphores (R65) -/

/-- Word `i` of a record. -/
def Rec.word (r : Rec) (i : Nat) : Nat := (nth 0 r.w i).toNat
/-- KIND. -/
def Rec.kind (r : Rec) : Nat := bits (r.word 0) 58 6
/-- WSEM. -/
def Rec.wsem (r : Rec) : Nat := bits (r.word 0) 51 6
/-- SSEM. -/
def Rec.ssem (r : Rec) : Nat := bits (r.word 0) 45 6
/-- WVAL. -/
def Rec.wval (r : Rec) : Nat := bits (r.word 0) 29 16
/-- SINC. -/
def Rec.sinc (r : Rec) : Nat := bits (r.word 0) 25 4
/-- ACQ. -/
def Rec.acq (r : Rec) : Nat := bits (r.word 0) 20 5
/-- REL. -/
def Rec.rel (r : Rec) : Nat := bits (r.word 0) 15 5
/-- KFLAGS. -/
def Rec.kflags (r : Rec) : Nat := bits (r.word 0) 0 15

/-- Engine queue `q` of a spindle: 0 the matrix engine's, 1 to 4 the copy channels'. -/
def queueAt (p : Spindle) (q : Nat) : Queue := SMap.get .start p.queues q

/-- Change engine queue `q`. -/
def updQueue (q : Nat) (f : Queue → Queue) (p : Spindle) : Spindle := { p with queues := SMap.modify .start p.queues q f }

/-- The records that an engine queue holds, those that are completing included. -/
def queueRecs (q : Queue) : List Rec := q.recs ++ q.done.map (·.r)

/-- Would determinism mode refuse to set a semaphore: does a record name it, or a strand wait on it? (R207) -/
def semNamed (p : Spindle) (k : Nat) : Bool :=
  (upto 5).any (fun q => (queueAt p q).recs.any fun r => r.wsem = k || r.ssem = k) ||
  (upto 4).any (fun j => match (strandOf p j).wait with | some w => decide (w.code = 1) && decide (w.obj = k) | none => false)

/-! ### Spools (R209 to R212) -/

/-- Spool `n` of a spindle. -/
def spoolAt (p : Spindle) (n : Nat) : Spool := SMap.get .start p.spools n

/-- Replace spool `n`. -/
def setSpool (n : Nat) (x : Spool) (p : Spindle) : Spindle := { p with spools := SMap.set .start p.spools n x }

/-- FREE. -/
def Spool.free (x : Spool) : Nat := x.slots - x.pclaim - x.ready - x.cclaim

/-- No slot is claimed, published or taken. -/
def Spool.idle (x : Spool) : Bool := x.pclaim = 0 && x.ready = 0 && x.cclaim = 0

/-- The spool that a descriptor value defines (R210). -/
def Spool.ofDesc (d : Nat) : Spool := ⟨true, bits d 32 32, bits d 24 8, bits d 0 24, 0, 0, 0, 0, 0⟩

/-- May a descriptor value define a spool in a scratchpad of `sg` granules? (R210) -/
def spoolOk (d sg : Nat) : Bool :=
  let x := Spool.ofDesc d
  decide (x.slots ≠ 0) && aligned x.base 64 && aligned x.bytes 64 && decide (x.bytes ≠ 0) &&
    decide (x.base + x.slots * x.bytes ≤ sg * 65536)

/-! ### Phasers (R214 to R220) -/

/-- Level of a phaser's literal. -/
def phLevel (lit : Nat) : Nat := lit / 16 % 8

/-- The task of a spindle. -/
def taskOf (s : State) (p : Spindle) : Option Task := p.task.bind fun t => SMap.get none s.tasks t

/-- The instance of a level that holds a spindle (R214). -/
def phInst (p : Spindle) (level : Nat) : Nat :=
  if level = 1 then bits p.dom.toNat 3 7 else if level = 2 then bits p.dom.toNat 8 2 else 0

/-- The number of a phaser among its task's. -/
def phKey (p : Spindle) (lit : Nat) : Nat := phLevel lit * 2 ^ 12 + phInst p (phLevel lit) * 16 + lit % 16

/-- The context of the step that a task belongs to. -/
def stepCtx (s : State) (t : Task) : Option Nat :=
  if t.instep then (upto 16).find? fun c => let x := ctxAt s c; x.used && x.grp = t.grp && x.tag = t.rqtag else none

/-- The phaser that a literal names on a spindle. -/
def phaserAt (s : State) (p : Spindle) (lit : Nat) : Phaser :=
  if phLevel lit = 0 then SMap.get .start p.phasers (lit % 16)
  else
    match taskOf s p with
    | none => .start
    | some t =>
      if phLevel lit = 4 then
        match stepCtx s t with
        | some c => SMap.get .start (ctxAt s c).phasers (lit % 16)
        | none => .start
      else SMap.get .start t.phasers (phKey p lit)

/-- Replace the phaser that a literal names on spindle `n`. -/
def setPhaser (n lit : Nat) (x : Phaser) (s : State) : State :=
  let p := spindleAt s n
  if phLevel lit = 0 then updSpindle n (fun p => { p with phasers := SMap.set .start p.phasers (lit % 16) x }) s
  else
    match p.task, taskOf s p with
    | some i, some t =>
      if phLevel lit = 4 then
        match stepCtx s t with
        | some c => updCtx c (fun g => { g with phasers := SMap.set .start g.phasers (lit % 16) x }) s
        | none => s
      else { s with tasks := SMap.set none s.tasks i (some { t with phasers := SMap.set .start t.phasers (phKey p lit) x }) }
    | _, _ => s

/-- Do two spindles share the phaser that a literal names? (R214) -/
def phShared (s : State) (p q : Spindle) (lit : Nat) : Bool :=
  let same := p.task.isSome && decide (p.task = q.task)
  if phLevel lit = 0 then false
  else if phLevel lit = 4 then
    match taskOf s p, taskOf s q with
    | some t, some u => t.instep && u.instep && decide (t.grp = u.grp) && decide (t.rqtag = u.rqtag)
    | _, _ => false
  else same && decide (phInst p (phLevel lit) = phInst q (phLevel lit))

/-- The spindles that share the phaser of a literal with spindle `n`. -/
def phMembers (s : State) (n lit : Nat) : List Nat :=
  n :: (s.spindles.filter fun x => decide (x.1 ≠ n) && phShared s (spindleAt s n) x.2 lit).map (·.1)

/-- PHASE as a spindle sees it. -/
def phSeen (p : Spindle) (lit : Nat) : BitVec 32 := SMap.get 0 p.phView lit

/-- x is later than y (R215). -/
def later (x y : BitVec 32) : Bool := let d := (x - y).toNat; decide (1 ≤ d) && decide (d < 2 ^ 31)

/-- The strand's record of a phaser. -/
def regOf (st : Strand) (lit : Nat) : Option PhReg := st.regs.find? fun r => r.ph = lit

/-- Change the strand's record of a phaser. -/
def updReg (lit : Nat) (f : PhReg → PhReg) (st : Strand) : Strand :=
  { st with regs := st.regs.map fun r => if r.ph = lit then f r else r }

/-- A record after the completion of a phase: none where it was dropping (R216). -/
def regNext (r : PhReg) : Option PhReg := if r.drop then none else some { r with pend := false }

/-- A spindle's records of a phaser after a completion. -/
def regsNext (lit : Nat) (p : Spindle) : Spindle :=
  (upto 4).foldl (fun p k => updStrandOf k (fun st =>
    { st with regs := st.regs.filterMap fun r => if r.ph = lit then regNext r else some r }) p) p

/-- Signallers among a spindle's records of a phaser. -/
def sigsOf (lit : Nat) (p : Spindle) : Nat :=
  (upto 4).foldl (fun a k => a + ((strandOf p k).regs.filter fun r => r.ph = lit && bitOf r.mode 0).length) 0

/-- The counts of a neighbour that are known, as those of the next phase: its signallers stay. -/
def FarCount.next (phase : BitVec 32) (f : FarCount) : FarCount := if f.phase = phase then { f with phase := phase + 1, arrs := 0 } else f

/-- A phaser at the completion of its phase, with the signallers that are effective from then on (R216). What its arrivals have handed
on is kept for the waits that the completion releases (R231), while it names a write from number `lo` on. -/
def Phaser.next (cycle tick lo sigs : Nat) (x : Phaser) : Phaser :=
  { phase := x.phase + 1, sigs := sigs, arrs := 0, far := x.far.map (FarCount.next x.phase), carry := [],
    passed := SMap.set [] (x.passed.filter fun y => y.2.any fun z => z.2.any fun i => decide (lo ≤ i)) x.phase.toNat x.carry, overC := cycle, overT := tick }

/-- The phase of a phaser is over on its member spindles: their records move on. With the signallers that are left. -/
def endPhase (lit : Nat) (ms : List Nat) (s : State) : State × Nat :=
  let s1 := ms.foldl (fun s m => updSpindle m (regsNext lit) s) s
  (s1, ms.foldl (fun a m => a + sigsOf lit (spindleAt s1 m)) 0)

/-- Complete the phase of a phaser on all its members (R216): the spindles see it at their release. -/
def completePhase (n lit : Nat) (s : State) : State :=
  let r := endPhase lit (phMembers s n lit) s
  setPhaser n lit ((phaserAt s (spindleAt s n) lit).next s.cycle s.tick (leastNum s) r.2) r.1

/-- The signallers of the phase on the other side of the neighbours. -/
def Phaser.farSigs (x : Phaser) : Nat := x.far.foldl (fun a f => if f.phase = x.phase then a + f.sigs else a) 0

/-- Have all signallers of the phase arrived? A neighbour that counts for the next phase has completed this one. -/
def Phaser.full (x : Phaser) : Bool :=
  decide (x.arrs = x.sigs) && x.far.all (fun f => decide (f.phase ≠ x.phase) || decide (f.arrs = f.sigs)) &&
    (decide (0 < x.sigs + x.farSigs) || x.far.any fun f => decide (f.phase ≠ x.phase))

/-- Complete the phase where every effective signaller has arrived (R216). -/
def tryComplete (n lit : Nat) (s : State) : State :=
  if (phaserAt s (spindleAt s n) lit).full then completePhase n lit s else s

/-- Count an arrival, which hands on what its strand has released (R219, R231). -/
def arrive (n lit : Nat) (rel : SMap (List Nat)) (s : State) : State :=
  let x := phaserAt s (spindleAt s n) lit
  tryComplete n lit (setPhaser n lit { x with arrs := x.arrs + 1, carry := joinRel x.carry rel } s)

/-! ### The overlap checker (R223 to R225) -/

/-- The 64-byte units of a scratchpad range. -/
def unitsOf (off len : Nat) : List Nat :=
  if len = 0 then [] else (upto ((off + len - 1) / 64 - off / 64 + 1)).map fun i => off / 64 + i

/-- The unordered entry that an access to a unit meets: its queue and number (R225). -/
def unitFault (q : Nat) (vt : SMap Nat) (wr : Bool) (u : UnitRec) : Option (Nat × Nat) :=
  let bad := fun (o : Nat) (num : Nat) => decide (o ≠ q) && decide (SMap.get 0 vt o < num)
  match u.write with
  | some w => if bad w.1 w.2 then some w else if wr then (u.reads.find? fun r => bad r.1 r.2) else none
  | none => if wr then (u.reads.find? fun r => bad r.1 r.2) else none

/-- The first unit of an access that faults, and what it meets. -/
def overlapFault (p : Spindle) (q : Nat) (vt : SMap Nat) (wr : Bool) (us : List Nat) : Option (Nat × Nat × Nat) :=
  us.findSome? fun u => (unitFault q vt wr (SMap.get .start p.units u)).map fun f => (u, f.1, f.2)

/-- Record an access of queue `q`, entry `num`. -/
def noteUnits (q num : Nat) (wr : Bool) (us : List Nat) (p : Spindle) : Spindle :=
  { p with units := us.foldl (fun m u => SMap.modify .start m u fun x =>
      if wr then { x with write := some (q, num) } else { x with reads := SMap.set 0 x.reads q num }) p.units }

/-- DETAIL of OVERLAP (R225). -/
def overlapDetail (oq q num : Nat) : Nat := oq * 2 ^ 24 + q * 2 ^ 16 + num % 2 ^ 16

/-- The timestamp of the next entry of the strands' queue. -/
def nextEntry (p : Spindle) : SMap Nat := SMap.set 0 (vtMax p.q5vt p.q5in) 5 (p.q5 + 1)

/-- Count a scratchpad word of the strands as an entry that touches some units. -/
def noteEntry (wr : Bool) (us : List Nat) (p : Spindle) : Spindle :=
  { noteUnits 5 (p.q5 + 1) wr us p with q5 := p.q5 + 1, q5vt := nextEntry p, q5in := [] }

/-- Check an entry of the strands' queue that touches some units under determinism mode, then go on (R225). -/
def whenOrdered (wr : Bool) (us : List Nat) (k : State → State) (s : State) : State :=
  let p := mySpindle s
  if !p.det then k s
  else
    match overlapFault p 5 (nextEntry p) wr us with
    | some f => raise 0x07 (overlapDetail f.2.1 5 f.2.2) (BitVec.ofNat 64 (64 * f.1)) s
    | none => k (updMySpindle (noteEntry wr us) s)

/-- A slot of a zone whose arrival is still to come (R291). -/
def slotOpen (z : Zone) (j : Nat) : Bool :=
  let x := SMap.get Slot.start z.slot j
  decide (x.st = .free) || decide (x.st = .inflight)

/-- The first unit of a range that lies in an open slot of a zone, and the zone (R291). -/
def zoneFault (p : Spindle) (us : List Nat) : Option (Nat × Nat) :=
  us.findSome? fun u => (upto 16).findSome? fun z =>
    match SMap.get none p.zones z with
    | none => none
    | some x =>
      if (upto x.slots).any (fun j => slotOpen x j && decide (x.base + j * x.bytes ≤ 64 * u) &&
          decide (64 * u < x.base + (j + 1) * x.bytes)) then some (u, z) else none

/-- The bank of the pool that holds a 64-byte unit of scratchpad (R10, R170). -/
def unitBank (u : Nat) : Nat := (1 + u / 1024) / 2

/-- Take banks for the rest of the cycle (R172). -/
def takeBanks (bs : List Nat) (p : Spindle) : Spindle := { p with banks := p.banks ++ bs.filter fun b => !p.banks.contains b }

/-- Go on unless an access of the strands' queue meets an open slot of a zone or an unordered entry under determinism mode
(R225, R291). -/
def whenFree (wr : Bool) (us : List Nat) (k : State → State) (s : State) : State :=
  let p := mySpindle s
  if !p.det then k s
  else
    match zoneFault p us with
    | some f => raise 0x07 (overlapDetail 6 5 f.2) (BitVec.ofNat 64 (64 * f.1)) s
    | none =>
      match overlapFault p 5 (nextEntry p) wr us with
      | some f => raise 0x07 (overlapDetail f.2.1 5 f.2.2) (BitVec.ofNat 64 (64 * f.1)) s
      | none => k s

/-- An entry of the strands' queue: the zones and the overlap checker see it, and it takes its banks (R172, R225, R254,
R291). -/
def whenEntry (wr : Bool) (us : List Nat) (k : State → State) (s : State) : State :=
  match if (mySpindle s).det then zoneFault (mySpindle s) us else none with
  | some f => raise 0x07 (overlapDetail 6 5 f.2) (BitVec.ofNat 64 (64 * f.1)) s
  | none => whenOrdered wr us k (updMySpindle (takeBanks (us.map unitBank)) s)

/-! ### Purges and poison (R339, R340, R350) -/

/-- F.PURGE (R332). -/
def fPurge : BitVec 6 := 0x08

/-- Start a purge of a request tag in a partition: the open attempt of the tag votes F.PURGE (R340). -/
def startPurge (part : Nat) (tag : BitVec 16) (s : State) : State :=
  let s1 := voteFlags tag fPurge s
  if s.purges.contains (part, tag) then s1 else { s1 with purges := s1.purges ++ [(part, tag)] }

/-- A consumption of poison: source, address and tag enter the partition's record, and the tag's purge starts (R339). -/
def consume (part src : Nat) (addr : Word) (tag : BitVec 16) (s : State) : State :=
  startPurge part tag { s with parts := SMap.modify .start s.parts part fun x =>
    { x with poison := match x.poison with
                       | none => some (src, addr, tag, 0)
                       | some d => some (d.1, d.2.1, d.2.2.1, min 255 (d.2.2.2 + 1)) } }

/-- DETAIL of POISON (R338). -/
def poisonDetail (src : Nat) (tag : BitVec 16) : Nat := src * 2 ^ 24 + tag.toNat

/-- The word in focus consumes poison: POISON is precise (R338). -/
def raisePoison (src : Nat) (addr : Word) (s : State) : State :=
  let tag := (me s).tag
  consume (mySpindle s).part src addr tag (raise 0x0E (poisonDetail src tag) addr s)

end Sys2Proof.Machine
end

