-- ==== Sys2Proof/Machine/Window.lean ====
section
/-! DEFINITION. The device region of a partition as strands and the host reach it: notify pages and the object window
(R222, R356, R357, R401, R404). -/

namespace Sys2Proof.Machine

/-! ### Queues as their notify pages show them (R356, R357) -/

/-- Queue `q` of the command processor. -/
def cmdqAt (s : State) (q : Nat) : CmdQ := SMap.get .start s.queues q

/-- Change queue `q`. -/
def updCmdq (q : Nat) (f : CmdQ → CmdQ) (s : State) : State := { s with queues := SMap.modify .start s.queues q f }

/-- QSTS (R357). -/
def qstsWord (x : CmdQ) : Word := BitVec.ofNat 64 (x.state * 2 ^ 62 + x.reason % 64 * 2 ^ 56 + x.rptr % 2 ^ 48)

/-- A write of WPTR: one below the current value is ignored (R356). -/
def writeWptr (q : Nat) (v : Word) (s : State) : State :=
  updCmdq q (fun x => if v.toNat < x.wptr.toNat then x else { x with wptr := v }) s

/-- A write of QSTS: STATE = 1 restarts a STOPPED queue, and nothing else does anything (R357). -/
def writeQsts (q : Nat) (v : Word) (s : State) : State :=
  updCmdq q (fun x => if bits v.toNat 62 2 = 1 ∧ x.state = 2 then { x with state := 1 } else x) s

/-! ### The object window (R222) -/

/-- Is spindle `n` on a skein of the partition? (R403) -/
def inPartition (s : State) (p n : Nat) : Bool :=
  let k := skeinOf n
  if k < 64 then bitOf (partWord s p 1) k else bitOf (partWord s p 2) (k - 64)

/-- The state word of a spool. -/
def spoolWord (x : Spool) : Word :=
  BitVec.ofNat 64 (b2n x.on * 2 ^ 56 + x.tail % 256 * 2 ^ 48 + x.head % 256 * 2 ^ 40 + x.pclaim % 256 * 2 ^ 32 +
    x.ready % 256 * 2 ^ 24 + x.cclaim % 256 * 2 ^ 16)

/-- The descriptor of a spool. -/
def spoolDesc (x : Spool) : Word := BitVec.ofNat 64 (x.base % 2 ^ 32 * 2 ^ 32 + x.slots % 256 * 2 ^ 24 + x.bytes % 2 ^ 24)

/-- The 8-byte word at an offset of a spindle's page. -/
def windowWord (p : Spindle) (off : Nat) : Word :=
  if off < 0x200 then
    let x := semAt p (off / 8)
    BitVec.ofNat 64 (b2n x.ovf * 2 ^ 32 + x.count.toNat)
  else if off < 0x400 then
    let x := spoolAt p (off / 32 % 16)
    if off % 32 / 8 = 0 then spoolDesc x else if off % 32 / 8 = 1 then spoolWord x else 0
  else if off < 0x600 then
    if off % 32 / 8 = 0 then (SMap.get .start p.phasers (off / 32 % 16)).phase.zeroExtend 64 else 0
  else 0

/-- A refusal of a store: the cause code, DETAIL[63:56] and DETAIL[55:48]. -/
abbrev WinErr := Nat × Nat × Nat

/-- A spool after a store of its descriptor or its state word. -/
def spoolStore (w : Nat) (v : Word) (x : Spool) : Spool :=
  let n := v.toNat
  if w = 0 then { x with base := bits n 32 32, slots := bits n 24 8, bytes := bits n 0 24 }
  else if w = 1 then { x with on := bitOf n 56, tail := bits n 48 8, head := bits n 40 8, pclaim := bits n 32 8,
                              ready := bits n 24 8, cclaim := bits n 16 8 }
  else x

/-- Has the spindle a registration on its phaser `i`, or a release on its way? -/
def phaserBusy (p : Spindle) (i : Nat) : Bool :=
  let x := SMap.get Phaser.start p.phasers i
  decide (x.sigs ≠ 0) || decide (phSeen p i ≠ x.phase) ||
    (upto 4).any fun k => (regOf (strandOf p k) i).isSome

/-- A privileged store of an 8-byte word of a spindle's page, or why it is refused. -/
def windowStore (n off : Nat) (v : Word) (s : State) : Except WinErr State :=
  let p := spindleAt s n
  if off < 0x200 then
    let k := off / 8
    if p.det && semNamed p k then .error (0x08, 0x12, k)
    else .ok (updSpindle n (updSem k (setSem s.cycle (v.toNat % 2 ^ 32) (if p.det then p.q5vt else []))) s)
  else if off < 0x400 then
    let i := off / 32 % 16
    if off % 32 / 8 ≤ 1 then
      if (spoolAt p i).idle then .ok (updSpindle n (setSpool i (spoolStore (off % 32 / 8) v (spoolAt p i))) s)
      else .error (0x05, 0xEA, i)
    else .ok s
  else if off < 0x600 then
    let i := off / 32 % 16
    if off % 32 / 8 ≠ 0 then .ok s
    else if phaserBusy p i then .error (0x05, 0xEA, i)
    else .ok (updSpindle n (fun p => { p with
      phasers := SMap.set .start p.phasers i { (SMap.get Phaser.start p.phasers i) with phase := v.truncate 32 }
      phView := SMap.set 0 p.phView i (v.truncate 32) }) s)
  else .ok s

/-! ### The device region (R401, R404) -/

/-- Is queue `q` bound to the partition? -/
def boundTo (s : State) (p q : Nat) : Bool :=
  let b := (cmdqAt s q).bind.toNat
  bitOf b 15 && decide (b % 64 = p)

/-- The 8-byte word at an offset of a partition's device region. -/
def devWord (s : State) (p off : Nat) : Word :=
  if off < 2 ^ 22 then
    if boundTo s p (off / 4096) then
      if off % 4096 / 8 = 0 then (cmdqAt s (off / 4096)).wptr
      else if off % 4096 / 8 = 1 then qstsWord (cmdqAt s (off / 4096)) else 0
    else 0
  else
    let n := (off - 2 ^ 22) / 4096
    if n < 640 ∧ inPartition s p n then windowWord (spindleAt s n) (off % 4096) else 0

/-- Bytes of a device region. -/
def devBytes (s : State) (p off : Nat) : Nat → List Byte
  | 0 => []
  | n + 1 => nth 0 (toBytes (devWord s p (off / 8 * 8)).toNat 8) (off % 8) :: devBytes s p (off + 1) n

/-- Store an 8-byte word of a device region, or why it is refused. -/
def devStoreWord (p off : Nat) (v : Word) (s : State) : Except WinErr State :=
  if off < 2 ^ 22 then
    if boundTo s p (off / 4096) then
      if off % 4096 / 8 = 0 then .ok (writeWptr (off / 4096) v s)
      else if off % 4096 / 8 = 1 then .ok (writeQsts (off / 4096) v s) else .ok s
    else .ok s
  else
    let n := (off - 2 ^ 22) / 4096
    if n < 640 ∧ inPartition s p n then windowStore n (off % 4096) v s else .ok s

/-- Bytes laid over a word of a device region from byte `i` on. -/
def mergeWord (w : Word) (i : Nat) (bs : List Byte) : Word :=
  let old := toBytes w.toNat 8
  BitVec.ofNat 64 (ofBytes (old.take i ++ bs ++ old.drop (i + bs.length)))

/-- Store bytes in a device region word by word, or why the first refused word is refused; `k` bounds the words. A store of
part of a word acts as a store of the word with its other bytes as they stand. -/
def devStore (p : Nat) : Nat → Nat → List Byte → State → Except WinErr State
  | 0, _, _, s => .ok s
  | k + 1, off, bs, s =>
    if bs.isEmpty then .ok s
    else
      let i := off % 8
      match devStoreWord p (off - i) (mergeWord (devWord s p (off - i)) i (bs.take (8 - i))) s with
      | .error e => .error e
      | .ok s1 => devStore p k (off + (8 - i)) (bs.drop (8 - i)) s1

/-- Offset of a virtual address in the partition's device region. -/
def devOff (va : Nat) : Nat := va % 2 ^ 23

/-- Does a range of the device region touch the object window? -/
def touchesWindow (va n : Nat) : Bool := decide (2 ^ 22 ≤ devOff va + (n - 1))

/-- Go on with an access of the device region: the object window is for privileged strands (R222). -/
def whenWindow (va n : Nat) (k : State → State) (s : State) : State :=
  if touchesWindow va n && !(me s).privm then raise 0x02 0 (BitVec.ofNat 64 va) s else k s

/-- A strand's store to the device region: what is refused traps and changes nothing (R222). -/
def devWrite (va : Nat) (bs : List Byte) (s : State) : State :=
  whenWindow va bs.length (fun s =>
    match devStore (mySpindle s).part (bs.length + 1) (devOff va) bs s with
    | .error e => raise e.1 (det e.2.1 e.2.2) 0 s
    | .ok s1 => s1) s

end Sys2Proof.Machine
end

