-- ==== Sys2Proof/Machine/Creel.lean ====
section
/-! DEFINITION. Names of other devices, routes, and the bobbins of a base die (R284, R286, R296, R297, R299, R300, R407). -/

namespace Sys2Proof.Machine

/-! ### Step groups, routes and headers -/

/-- CR.DOM.STEPGRP of a spindle. -/
def domGrp (p : Spindle) : Nat := bits p.dom.toNat 32 16

/-- CR.DOM.PKG of a spindle. -/
def domPkg (p : Spindle) : Nat := bits p.dom.toNat 16 15

/-- Word `i` of step-group entry `e` (R406). -/
def groupWord (s : State) (e i : Nat) : Nat := (SMap.get 0 (SMap.get [] s.groups e) i).toNat

/-- The valid entry of a step group. -/
def groupEntry (s : State) (grp : Nat) : Option Nat :=
  (upto 16).find? fun e => bitOf (groupWord s e 0) 63 && decide (bits (groupWord s e 0) 32 16 = grp)

/-- This device's PKG in a step group. -/
def ownPkg (s : State) (grp : Nat) : Nat :=
  match groupEntry s grp with
  | some e => bits (groupWord s e 0) 16 15
  | none => 0

/-- Port `i`. -/
def portAt (s : State) (i : Nat) : Port := SMap.get .start s.ports i

/-- A port in state UP on the way to a package: the lowest of the route's mask (R407). -/
def routePort (s : State) (grp pkg : Nat) : Option Nat :=
  match groupEntry s grp with
  | none => none
  | some e =>
    let r := ofBytes (memBytes s (bits (groupWord s e 4) 12 40 * 4096 + 4 * pkg) 4)
    if bitOf r 31 then (upto 20).find? fun p => bitOf r p && decide ((portAt s p).st = 2) else none

/-- The context that serves a step group. -/
def groupCtx (s : State) (grp : Nat) : Option Nat := (upto 16).find? fun c => let x := ctxAt s c; x.used && decide (x.grp = grp)

/-- PARENT of a group's entry; a device without an entry is a root. -/
def treeParent (s : State) (grp : Nat) : Nat :=
  match groupEntry s grp with | some e => bits (groupWord s e 1) 0 15 | none => ownPkg s grp

/-- Is the device the root of a group's tree? -/
def treeRoot (s : State) (grp : Nat) : Bool := decide (treeParent s grp = ownPkg s grp)

/-- The children of a group's entry. -/
def treeKids (s : State) (grp : Nat) : List Nat :=
  match groupEntry s grp with
  | some e => (upto (min 8 (bits (groupWord s e 0) 4 4))).map fun i => bits (groupWord s e (2 + i / 4)) (16 * (i % 4)) 15
  | none => []

/-- The header of a packet of spindle `n` (R286). -/
def hdrFor (s : State) (n dst cseq : Nat) (tag : BitVec 16) : PktHdr :=
  let p := spindleAt s n
  { src := domPkg p, dst := dst, grp := domGrp p, tag := tag, step := p.step, cseq := cseq, att := attOf s tag }

/-! ### Bobbins -/

/-- Bobbin `i` of all dies: 64 to a die. -/
def bobbinAt (s : State) (i : Nat) : Option Bobbin := SMap.get none s.bobbins i

/-- Replace bobbin `i`. -/
def setBobbin (i : Nat) (b : Option Bobbin) (s : State) : State := { s with bobbins := SMap.set none s.bobbins i b }

/-- The bobbins in use. -/
def usedBobbins (s : State) : List (Nat × Bobbin) := s.bobbins.filterMap fun x => x.2.map fun b => (x.1, b)

/-- Does a bobbin hold an element of a strand? -/
def holdsOf (b : Bobbin) (n k : Nat) : Bool := b.elems.any fun e => decide (e.spn = n) && decide (e.strand = k)

/-- Report a failed element to its writer (R300, R305). -/
def failElem (tag : BitVec 16) (pkg page idx reason : Nat) (e : BobElem) (s : State) : State :=
  let s1 := updStrand e.spn e.strand (fun st => { st with bfail := min 0xFFFF (st.bfail + 1) }) s
  deliverTrap e.spn e.strand 0x10 (BitVec.ofNat 32 (reason * 2 ^ 24 + idx * 2 ^ 20 + pkg))
    (BitVec.ofNat 64 (page * 2 ^ 16 + e.off)) none (voteFlags tag fCorrupt s1)

/-- Report the failed elements among a flit's, by their status, from index `i` on. -/
def failElems (tag : BitVec 16) (pkg page : Nat) : Nat → List BobElem → List Nat → State → State
  | i, e :: es, r :: rs, s =>
    failElems tag pkg page (i + 1) es rs (if r = 0 then s else failElem tag pkg page i r e s)
  | _, _, _, s => s

/-- The flit of a bobbin that leaves through a port. -/
def flitOf (s : State) (b : Bobbin) : FlitMsg :=
  { hdr := { src := ownPkg s b.grp, dst := b.pkg, grp := b.grp, tag := b.tag, step := b.step, cseq := 0, att := b.att },
    page := b.page, elems := b.elems, id := b.id, port := b.port }

/-- A bobbin leaves as one flit, and its buffer is free (R296, R297); where no port leads on, its elements fail (R407).
`why` is as BOBLEAVE has it. -/
def leaveBobbin (i why : Nat) (s : State) : State :=
  match bobbinAt s i with
  | none => s
  | some b =>
    let s1 := offerEvent { die := i / 64, f0 := BitVec.ofNat 64 s.tick, f1 := tapF1 15 none (some b.part) 0x05,
                           f2 := b.tag.zeroExtend 64, f3 := BitVec.ofNat 64 b.elems.length, f4 := BitVec.ofNat 64 why,
                           f5 := BitVec.ofNat 64 b.pkg, task := none } (setBobbin i none s)
    match routePort s1 b.grp b.pkg with
    | none => failElems b.tag b.pkg b.page 0 b.elems (b.elems.map fun _ => 5) s1
    | some p =>
      let f := { b with id := s1.bobSeq, port := p }
      { s1 with bobSeq := s1.bobSeq + 1, flits := s1.flits ++ [f], net := s1.net ++ [.flit (flitOf s1 f)] }

/-- Make every bobbin that a test names leave. -/
def leaveAll (why : Nat) (f : Nat → Bobbin → Bool) (s : State) : State :=
  (usedBobbins s).foldl (fun s x => if f x.1 x.2 then leaveBobbin x.1 why s else s) s

/-! ### Releases (R235, R239, R299) -/

/-- What a release of a strand sets going: with D its bobbins leave. -/
def beginRelease (n k : Nat) (mask : BitVec 5) (s : State) : State :=
  if mask.getLsbD 1 then leaveAll 3 (fun _ b => holdsOf b n k) s else s

/-- Has a strand an XADD that its window has not added? (R301) -/
def hasAddend (s : State) (n k : Nat) : Bool := s.windows.any fun x => x.2.queue.any fun o => decide (o.spn = n) && decide (o.strand = k)

/-- Is a release of a strand complete? Its stores are applied; with C, D or H its addends too, and with D none of its bobbins is still
out. With S and M alone a read of a window waits for the addends that happen before it (R229, R235, R239, R301). -/
def releaseDone (s : State) (n k : Nat) (mask : BitVec 5) : Bool :=
  !hasPosted s n k && (decide (mask &&& 0x0B = 0) || !hasAddend s n k) && (!mask.getLsbD 1 || !(((usedBobbins s).map (·.2) ++ s.flits).any fun b => holdsOf b n k))

/-- The dirty L2 lines of a skein are written back (R235, R338). -/
def writeBack (skein : Nat) (s : State) : State :=
  let s1 := s.l2Marks.foldl (fun s x => if x.1 / 2 ^ 47 = skein then homeTaint x.1 s else s) s
  { s1 with l2 := s1.l2.map fun x => (x.1, if x.1 / 2 ^ 47 = skein then { x.2 with dirty := false } else x.2) }

/-- The end of a release: with C, D or H the skein's dirty lines are written back; what it has released is noted (R235). -/
def endRelease (n k : Nat) (mask : BitVec 5) (s : State) : State :=
  noteRelease n k mask (if mask &&& 0x0B = 0 then s else writeBack (skeinOf n) s)

/-- Go on once the release of the strand in focus is complete, else issue again. -/
def afterRelease (mask : BitVec 5) (k : State → State) (s : State) : State :=
  if mask = 0 then k s
  else
    let s1 := beginRelease s.cur.spn s.cur.strand mask s
    if releaseDone s1 s.cur.spn s.cur.strand mask then k (endRelease s.cur.spn s.cur.strand mask s1) else again s1

/-! ### Scope events (R236, R395) -/

/-- SCOPECNT grows, saturating (R5, R395). -/
def scopeCount (n : Nat) (s : State) : State :=
  let r := hardWrite (raceKey 0 n) (BitVec.allOnes 64) (spindleAt s n).dbg.scopecnt (fun x => if x = BitVec.allOnes 64 then x else x + 1) s
  updSpindle n (fun p => { p with dbg := { p.dbg with scopecnt := r.1 } }) r.2

/-- SCOPEADR takes an address where it is not VALID (R5, R395). -/
def scopeAddress (n va : Nat) (s : State) : State :=
  let d := (spindleAt s n).dbg
  if (hardSees s (raceKey 1 n) (BitVec.allOnes 64) d.scopeadr).getLsbD 63 then s
  else
    let r := hardWrite (raceKey 1 n) (BitVec.allOnes 64) d.scopeadr (fun _ => BitVec.ofNat 64 (2 ^ 63 + va % 2 ^ 57)) s
    updSpindle n (fun p => { p with dbg := { p.dbg with scopeadr := r.1 } }) r.2

/-- Count a scope event of spindle `n` at a line, and offer it. -/
def noteScope (n agent : Nat) (tag : BitVec 16) (va scope bit : Nat) (s : State) : State :=
  tap 0x09 n agent tag (BitVec.ofNat 64 va) (BitVec.ofNat 64 scope) (BitVec.ofNat 64 bit)
    (scopeAddress n va (scopeCount n s))

/-- An acquiring read of the lines of a range, by an agent whose class has mask bit `bit`, for a request with attempt tag `x`. -/
def acquireLines (n agent : Nat) (tag : BitVec 16) (x : Option (BitVec 16)) (bit va pa len : Nat) (s : State) : State :=
  (lineStarts pa len).foldl (fun s a =>
    let l := foundCopy s (skeinOf n) x a
    if l.scope.getLsbD bit then s else noteScope n agent tag ((va + (a - pa)) / 128 * 128) l.scope.toNat bit s) s

end Sys2Proof.Machine
end

