-- ==== Sys2Proof/Machine/VectorFloat.lean ====
section
/-! DEFINITION. Floating-point vector words, class 0x08 (R131 to R143). -/

namespace Sys2Proof.Machine

/-- What one element delivers: its encoding, its flags, and where it is checked the result group of R39 and the shadow's
result in the type of the element. -/
structure ElemRes where
  enc : Nat
  fl : Flags
  row : Option (ShadowRow × Nat)
  deriving DecidableEq, Repr

/-- The result of a lane that takes no part. -/
def ElemRes.off : ElemRes := ⟨0, 0, none⟩

/-- The elements of every active lane, lane by lane (R132, R134). -/
def overLanes (mask : Word) (n : Nat) (f : Nat → Nat → ElemRes) : List (List ElemRes) :=
  (upto 64).map fun l => if mask.getLsbD l then (upto n).map (f l) else []

/-- The flags of all elements. -/
def flagsOf (rs : List (List ElemRes)) : Flags := rs.foldl (fun a r => r.foldl (fun b x => b ||| x.fl) a) 0

/-- The lanes of all elements of a type. -/
def lanesFrom (t : Ty) (rs : List (List ElemRes)) : List Lane :=
  rs.map fun r => BitVec.ofNat 32 (packElems t (r.map ElemRes.enc))

/-- An encoding widened exactly to FP32 (R137, R154). -/
def widen (t : Ty) (x : Nat) : Nat := (roundFp .fp32 .rne false (tyValue t x)).1

/-- The checked elements of a word, results and shadows widened to FP32 (R39, R137). -/
def shadowRows (t : Ty) (rs : List (List ElemRes)) : List (List (Option Checked)) :=
  rs.map fun r => r.map fun x => x.row.map fun y => ⟨y.1, widen t x.enc, widen t y.2⟩

/-- The execution checks of a word with floating-point types: they are made where a lane is active (R56, R59, R412). -/
def whenLanes (cls op : Nat) (w : O3) (ts : List Ty) (dyn : Bool) (k : State → State) (s : State) : State :=
  if guardMask s w.g w.gn = 0 then k s
  else whenServed cls op ts (if dyn then whenMode cls op w k else k) s

/-- Format of a type of class 0x08. -/
def fmtOf (t : Ty) : Fmt := (tyFmt t).getD .fp32

/-- Rounding mode of a word (R27, R138). -/
def rmOf (s : State) (w : O3) : RMode := RMode.ofCode (roundMode (rd s) w.mod) 0

/-- The encoding of element `e` of lane `l` of a source. -/
def encAt (t : Ty) (s : State) (x : Src) (l e : Nat) : Nat := elemOf t (srcLane t s x l) e

/-- The value of element `e` of lane `l` of a source. -/
def fpAt (t : Ty) (s : State) (x : Src) (l e : Nat) : Fp := Fp.decode (fmtOf t) (encAt t s x l e)

/-- Run a word of class 0x08 that writes a vector register, element by element. -/
def vecFp (op : Nat) (w : O3) (dyn : Bool) (f : State → Nat → Nat → ElemRes) (s : State) : State :=
  whenLanes 0x08 op w [w.ty] dyn (fun s =>
    let m := guardMask s w.g w.gn
    let rs := overLanes m w.ty.elems (f s)
    let h := checkShadow (unitCode (inClusterB 0x08 op w) false) (shadowRows w.ty rs) s
    deliverFp 4 (dstVector w.dst m (lanesFrom w.ty rs)) (flagsOf rs) h.1 h.2) s

/-- Round an exact result under a word's mode and MOD[3] (R138). DESIGN CHOICE (log entry 106): its shadow's result `sh` is
rounded like it. -/
def roundElem (s : State) (w : O3) (y sh : FpF) (row : ShadowRow) : ElemRes :=
  let round := fun x : FpF => roundFp (fmtOf w.ty) (rmOf s w) (modSatBit w.mod) x.1
  ⟨(round y).1, y.2 ||| (round y).2, some (row, (round sh).1)⟩

/-- An element that a function of two operands gives; its shadow's operands are cut (R39). -/
def elemOf2 (s : State) (w : O3) (f : Fp → Fp → FpF) (row : Fp → Fp → ShadowRow) (a b : Fp) : ElemRes :=
  roundElem s w (f a b) (f a.short b.short) (row a b)

/-- FP32 exponent field that an addend would have (R39). -/
def addendExp : Fp → Nat
  | .fin _ m e => if m = 0 then 0 else (e + Nat.log2 m + 127).toNat
  | .inf _ => 255
  | .nan _ => 255

/-- The group of a sum of two addends (R39). -/
def sumRow (a b : Fp) : ShadowRow := .sum (max (addendExp a) (addendExp b))

/-- VADD (R139). -/
def execVadd (w : O3) (s : State) : Host.Outcome State Fault Refusal :=
  .next (vecFp 0x01 w true (fun s l e => elemOf2 s w addExact sumRow (fpAt w.ty s w.a l e) (fpAt w.ty s w.b l e)) s)

/-- VSUB (R139). -/
def execVsub (w : O3) (s : State) : Host.Outcome State Fault Refusal :=
  .next (vecFp 0x02 w true (fun s l e =>
    elemOf2 s w (fun a b => addExact a b.negate) sumRow (fpAt w.ty s w.a l e) (fpAt w.ty s w.b l e)) s)

/-- VMUL (R139). -/
def execVmul (w : O3) (s : State) : Host.Outcome State Fault Refusal :=
  .next (vecFp 0x03 w true (fun s l e =>
    elemOf2 s w mulExact (fun _ _ => .product) (fpAt w.ty s w.a l e) (fpAt w.ty s w.b l e)) s)

/-- A fused multiply-add with the signs of the product and of the addend (R33, R139). -/
def fmaElem (s : State) (w : O3) (negP negC : Bool) (l e : Nat) : ElemRes :=
  let a := fpAt w.ty s w.a l e
  let b := fpAt w.ty s w.b l e
  let c := fpAt w.ty s w.c l e
  let f := fun a b c : Fp => fmaExact negP a b (if negC then c.negate else c)
  roundElem s w (f a b c) (f a.short b.short c.short) (sumRow (mulExact a b).1 c)

/-- VFMA: a × b + c (R139). -/
def execVfma (w : O3) (s : State) : Host.Outcome State Fault Refusal :=
  .next (vecFp 0x04 w true (fun s => fmaElem s w false false) s)

/-- VFMS: a × b − c (R139). -/
def execVfms (w : O3) (s : State) : Host.Outcome State Fault Refusal :=
  .next (vecFp 0x05 w true (fun s => fmaElem s w false true) s)

/-- VFNMA: c − a × b (R139). -/
def execVfnma (w : O3) (s : State) : Host.Outcome State Fault Refusal :=
  .next (vecFp 0x06 w true (fun s => fmaElem s w true false) s)

/-- The smaller or larger element (R140). -/
def minMaxElem (s : State) (w : O3) (wantMax : Bool) (l e : Nat) : ElemRes :=
  let f := fmtOf w.ty
  let a := encAt w.ty s w.a l e
  let b := encAt w.ty s w.b l e
  let r := minMaxFp f wantMax a b
  ⟨r.1, r.2, some (.product, (minMaxFp f wantMax (shortEnc f a) (shortEnc f b)).1)⟩

/-- VMIN (R140). -/
def execVmin (w : O3) (s : State) : Host.Outcome State Fault Refusal :=
  .next (vecFp 0x07 w true (fun s => minMaxElem s w false) s)

/-- VMAX (R140). -/
def execVmax (w : O3) (s : State) : Host.Outcome State Fault Refusal :=
  .next (vecFp 0x08 w true (fun s => minMaxElem s w true) s)

/-- An element with its sign bit as given; a NaN becomes canonical (R140). -/
def signElem (f : Fmt) (x : Nat) (neg : Bool) : ElemRes :=
  let a := Fp.decode f x
  let y := fun x : Nat => x % 2 ^ (f.width - 1) + f.signBit neg
  if a.isNan then ⟨f.nan, sigFlags [a], some (.product, f.nan)⟩ else ⟨y x, 0, some (.product, y (shortEnc f x))⟩

/-- VABS (R140). -/
def execVabs (w : O3) (s : State) : Host.Outcome State Fault Refusal :=
  .next (vecFp 0x09 w true (fun s l e => signElem (fmtOf w.ty) (encAt w.ty s w.a l e) false) s)

/-- VNEG (R140). -/
def execVneg (w : O3) (s : State) : Host.Outcome State Fault Refusal :=
  .next (vecFp 0x0A w true (fun s l e =>
    let x := encAt w.ty s w.a l e
    signElem (fmtOf w.ty) x (!bitOf x (w.ty.width - 1))) s)

/-- VSCALE: a × 2^n with n the signed element of b (R141). -/
def execVscale (w : O3) (s : State) : Host.Outcome State Fault Refusal :=
  .next (vecFp 0x0B w true (fun s l e =>
    let n := signedValue (encAt w.ty s w.b l e) w.ty.width
    let a := fpAt w.ty s w.a l e
    roundElem s w (scaleFp a n) (scaleFp a.short n) .product) s)

/-- VCMP: the condition on the chosen element of each active lane (R142). -/
def execVcmp (w : O3) (s : State) : Host.Outcome State Fault Refusal :=
  .next (whenLanes 0x08 0x0C w [w.ty] false (fun s =>
    let m := guardMask s w.g w.gn
    let e := w.c.litVal / 8
    let c := w.c.litVal % 8
    let x := maskOf (fun l => condFp c (fpAt w.ty s w.a l e) (fpAt w.ty s w.b l e)) 64
    let f := (upto 64).foldl (fun f l =>
      if m.getLsbD l then f ||| sigFlags [fpAt w.ty s w.a l e, fpAt w.ty s w.b l e] else f) (0 : Flags)
    deliverFp 4 (dstPred w.dst m (BitVec.ofNat 64 x)) f none s) s)

/-- The class of an encoding as a bit number (R143). -/
def classBit (f : Fmt) (x : Nat) : Nat :=
  match Fp.decode f x with
  | .nan sig => if sig then 0 else 1
  | .inf n => if n then 2 else 9
  | .fin n m _ =>
    if m = 0 then (if n then 5 else 6)
    else if bits x f.fw f.ew = 0 then (if n then 4 else 7)
    else if n then 3 else 8

/-- VCLASS (R143). -/
def execVclass (w : O3) (s : State) : Host.Outcome State Fault Refusal :=
  .next (vecFp 0x0D w false (fun s l e => ⟨2 ^ classBit (fmtOf w.ty) (encAt w.ty s w.a l e), 0, none⟩) s)

end Sys2Proof.Machine
end

