-- ==== Sys2Proof/Machine/VectorInt.lean ====
section
/-! DEFINITION. Integer vector words, class 0x09 (R147 to R150). -/

namespace Sys2Proof.Machine

/-- A field as the common write of R96 stores it in an element: clamped under .sat, else wrapped. -/
def narrowField (t : Ty) (sat : Bool) (res : Int) : ElemRes :=
  let r := if sat then (if t.signed then satS res t.width else satU res t.width) else (wrap res t.width, false)
  ⟨r.1, flIf r.2 flISAT, none⟩

/-- Run a word of class 0x09 that writes a vector register, element by element: `f a b c` on the elements' bits. -/
def vecInt (w : O3) (f : Nat → Nat → Nat → Int) (s : State) : State :=
  let m := guardMask s w.g w.gn
  let rs := overLanes m w.ty.elems fun l e =>
    narrowField w.ty (modSatBit w.mod) (f (encAt w.ty s w.a l e) (encAt w.ty s w.b l e) (encAt w.ty s w.c l e))
  landAt 2 (dstVector w.dst m (lanesFrom w.ty rs)) (flagsOf rs) s

/-- The same on the elements read by the type's signedness. -/
def vecIntVal (w : O3) (f : Int → Int → Int → Int) (s : State) : State :=
  vecInt w (fun a b c => f (tyInt w.ty a) (tyInt w.ty b) (tyInt w.ty c)) s

/-- VIADD (R148). -/
def execViadd (w : O3) (s : State) : Host.Outcome State Fault Refusal := .next (vecIntVal w (fun a b _ => a + b) s)

/-- VISUB (R148). -/
def execVisub (w : O3) (s : State) : Host.Outcome State Fault Refusal := .next (vecIntVal w (fun a b _ => a - b) s)

/-- VIMUL (R148). -/
def execVimul (w : O3) (s : State) : Host.Outcome State Fault Refusal := .next (vecIntVal w (fun a b _ => a * b) s)

/-- VIMULH (R148). -/
def execVimulh (w : O3) (s : State) : Host.Outcome State Fault Refusal :=
  .next (vecIntVal w (fun a b _ => a * b / (2 : Int) ^ w.ty.width) s)

/-- VIMADD (R148). -/
def execVimadd (w : O3) (s : State) : Host.Outcome State Fault Refusal := .next (vecIntVal w (fun a b c => a * b + c) s)

/-- VIMIN (R148). -/
def execVimin (w : O3) (s : State) : Host.Outcome State Fault Refusal := .next (vecIntVal w (fun a b _ => min a b) s)

/-- VIMAX (R148). -/
def execVimax (w : O3) (s : State) : Host.Outcome State Fault Refusal := .next (vecIntVal w (fun a b _ => max a b) s)

/-- VIABS (R148). -/
def execViabs (w : O3) (s : State) : Host.Outcome State Fault Refusal := .next (vecIntVal w (fun a _ _ => a.natAbs) s)

/-- VAND (R148). -/
def execVand (w : O3) (s : State) : Host.Outcome State Fault Refusal := .next (vecInt w (fun a b _ => (a &&& b : Nat)) s)

/-- VOR (R148). -/
def execVor (w : O3) (s : State) : Host.Outcome State Fault Refusal := .next (vecInt w (fun a b _ => (a ||| b : Nat)) s)

/-- VXOR (R148). -/
def execVxor (w : O3) (s : State) : Host.Outcome State Fault Refusal := .next (vecInt w (fun a b _ => (a ^^^ b : Nat)) s)

/-- VANDN: a and not b (R148). -/
def execVandn (w : O3) (s : State) : Host.Outcome State Fault Refusal :=
  .next (vecInt w (fun a b _ => (a &&& (2 ^ w.ty.width - 1 - b) : Nat)) s)

/-- VNOT (R148). -/
def execVnot (w : O3) (s : State) : Host.Outcome State Fault Refusal :=
  .next (vecInt w (fun a _ _ => (2 ^ w.ty.width - 1 - a : Nat)) s)

/-- VSHL: the amount is bits [5:0] of the element of b (R148). -/
def execVshl (w : O3) (s : State) : Host.Outcome State Fault Refusal :=
  .next (vecInt w (fun a b _ => shlRes (tyInt w.ty a) b) s)

/-- VSHR (R148). -/
def execVshr (w : O3) (s : State) : Host.Outcome State Fault Refusal := .next (vecInt w (fun a b _ => shrRes a b) s)

/-- VSRA (R148). -/
def execVsra (w : O3) (s : State) : Host.Outcome State Fault Refusal :=
  .next (vecInt w (fun a b _ => sraRes w.ty.width a b) s)

/-- VROTL (R148). -/
def execVrotl (w : O3) (s : State) : Host.Outcome State Fault Refusal :=
  .next (vecInt w (fun a b _ => rotlRes w.ty.width a (b % 64)) s)

/-- VICMP (R149). -/
def execVicmp (w : O3) (s : State) : Host.Outcome State Fault Refusal :=
  let m := guardMask s w.g w.gn
  let e := w.c.litVal / 8
  let x := maskOf (fun l => condInt (w.c.litVal % 8) (tyInt w.ty (encAt w.ty s w.a l e)) (tyInt w.ty (encAt w.ty s w.b l e))) 64
  .next (landAt 2 (dstPred w.dst m (BitVec.ofNat 64 x)) 0 s)

/-- The predicate that a source names. -/
def srcPred (s : State) : Src → Word
  | .p r => pregOf (rd s) r.val | _ => 0

/-- VSEL: lane by lane, a where the predicate is 1, else b (R150). -/
def execVsel (w : O3) (s : State) : Host.Outcome State Fault Refusal :=
  let xs := (upto 64).map fun l => if (srcPred s w.c).getLsbD l then srcLane w.ty s w.a l else srcLane w.ty s w.b l
  .next (landAt 2 (dstVector w.dst (guardMask s w.g w.gn) xs) 0 s)

/-- VCLZ (R148). -/
def execVclz (w : O3) (s : State) : Host.Outcome State Fault Refusal :=
  .next (vecInt w (fun a _ _ => (leadingZeros a w.ty.width : Nat)) s)

/-- VPOPC (R148). -/
def execVpopc (w : O3) (s : State) : Host.Outcome State Fault Refusal :=
  .next (vecInt w (fun a _ _ => (ones a w.ty.width : Nat)) s)

end Sys2Proof.Machine
end

