-- ==== Sys2Proof/Machine/VectorData.lean ====
section
/-! DEFINITION. Conversion, movement, reduction and random words, class 0x0B (R151 to R167), and predicate words, class
0x0C (R168, R169). -/

namespace Sys2Proof.Machine

/-- Deliver after `n` cycles: a floating-point word as R154 says, any other plainly. -/
def deliverData (n : Nat) (fp : Bool) (t : Target) (f : Flags) (shadow : Option (BitVec 32)) (s : State) : State :=
  if fp then deliverFp n t f shadow s else landAt n t f s

/-- Unit code of a class 0x0B word (R137, R154). -/
def unit0B (op : Nat) (w : O3) : Nat := unitCode (inClusterB 0x0B op w) false

/-! ### Conversion (R157, R158, R160) -/

/-- The source type of a conversion. -/
def cvtFrom (w : O3) : Ty := (cvtSrc w).getD .b32

/-- Convert one value of type `t` into type `d` (R30, R157). -/
def cvtElem (t d : Ty) (rm : RMode) (sat : Bool) (x : Nat) : ElemRes :=
  match tyFmt d with
  | some f =>
    let r := roundFp f rm sat (tyValue t x)
    ⟨r.1, r.2, some (.product, (roundFp f rm sat (tyValue t x).short).1)⟩
  | none =>
    if tyIsFp t then let r := fpToInt rm d.signed d.width (tyValue t x); ⟨r.1, r.2, none⟩
    else narrowField d sat (tyInt t x)

/-- A lane converted element by element; the destination's further elements are 0 (R157). -/
def cvtLane (w : O3) (rm : Nat → RMode) (x : Lane) : List ElemRes :=
  let t := cvtFrom w
  let g := if w.ty.elems < t.elems then cvtGroup w * w.ty.elems else 0
  (upto (min t.elems w.ty.elems)).map fun e => cvtElem t w.ty (rm e) (modSatBit w.mod) (elemOf t x (g + e))

/-- The lanes of block `b` that take part (R158). -/
def blockLanes (m : Word) (b : Nat) : List Nat := (upto 64).filter fun l => m.getLsbD l && decide (l / 32 = b)

/-- The lanes of one block converted into E2M1, their values read by `f`: the scale, the code of each lane, the flags (R31,
R158). -/
def toBlock (s : State) (w : O3) (rm : Nat → RMode) (f : Fp → Fp) (b : Nat) : Nat × List (Nat × Nat) × Flags :=
  toE2M1 rm ((blockLanes (guardMask s w.g w.gn) b).map fun l => (l, f (Fp.decode .fp32 (srcLane .f32 s w.a l).toNat)))

/-- The code of a lane and its scale, as a lane holds them. -/
def blockEntry (r : Nat × List (Nat × Nat) × Flags) (l : Nat) : Option Nat :=
  (r.2.1.find? fun x => x.1 = l).map fun x => r.1 * 256 + x.2

/-- The E2M1 value of a lane, widened to FP32. -/
def blockValue (x : Nat) : Nat := (roundFp .fp32 .rne false (e2m1Value (x % 256) (x / 256))).1

/-- A conversion into E2M1, whole blocks at a time (R158). -/
def convertToBlock (op : Nat) (w : O3) (rm : Nat → RMode) (s : State) : State :=
  let m := guardMask s w.g w.gn
  let conv := fun f : Fp → Fp => (upto 2).map (toBlock s w rm f)
  let main := conv id
  let cut := conv Fp.short
  let at_ := fun (rs : List (Nat × List (Nat × Nat) × Flags)) (l : Nat) => blockEntry (nth (0, [], 0) rs (l / 32)) l
  let xs := (upto 64).map fun l => BitVec.ofNat 32 ((at_ main l).getD 0)
  let h := checkShadow (unit0B op w) ((upto 64).map fun l =>
    [(at_ main l).bind fun x => (at_ cut l).map fun y => ⟨.product, blockValue x, blockValue y⟩]) s
  let fl := (upto 2).foldl (fun f b => if (blockLanes m b).isEmpty then f else f ||| (nth (0, [], 0) main b).2.2) (0 : Flags)
  deliverFp 4 (dstVector w.dst m xs) fl h.1 h.2

/-- A lane that holds an E2M1 code and its scale, converted to FP32 (R158). Its shadow cuts nothing off a code. -/
def fromBlock (rm : RMode) (sat : Bool) (x : Lane) : ElemRes :=
  let sc := bits x.toNat 8 8
  if sc = 255 then ⟨Fmt.fp32.nan, 0, some (.product, Fmt.fp32.nan)⟩
  else let r := roundFp .fp32 rm sat (e2m1Value (bits x.toNat 0 4) sc); ⟨r.1, r.2, some (.product, r.1)⟩

/-- A conversion with the mode of each lane and element (R157, R158, R160). -/
def convert (op : Nat) (w : O3) (rm : Nat → Nat → RMode) (s : State) : State :=
  if w.ty = .e2m1 then convertToBlock op w (fun l => rm l 0) s
  else
    let m := guardMask s w.g w.gn
    let rs := (upto 64).map fun l =>
      if !m.getLsbD l then []
      else if cvtFrom w = .e2m1 then [fromBlock (rm l 0) (modSatBit w.mod) (srcLane .b32 s w.a l)]
      else cvtLane w (rm l) (srcLane .b32 s w.a l)
    let h := checkShadow (unit0B op w) (shadowRows w.ty rs) s
    deliverData 4 (tyIsFp w.ty || tyIsFp (cvtFrom w)) (dstVector w.dst m (lanesFrom w.ty rs)) (flagsOf rs) h.1 h.2

/-- VCVT (R157, R158). -/
def execVcvt (w : O3) (s : State) : Host.Outcome State Fault Refusal :=
  .next (whenLanes 0x0B 0x01 w [w.ty, cvtFrom w] true (fun s => convert 0x01 w (fun _ _ => rmOf s w) s) s)

/-- Word `i` of a parameter block (R159). -/
def pbWord (s : State) (x : Src) (i : Nat) : Word :=
  match x with
  | .s r => sregOf (rd s) (r.val + i)
  | .cb j => cbankAt (mySpindle s) (j.toNat + i)
  | _ => 0

/-- The word that a draw at a position gives, from a parameter block (R41, R159). -/
def draw (s : State) (x : Src) (pos j : Nat) : Nat :=
  (twistWord (pbWord s x 0) ((pbWord s x 1).truncate 32) (pos % 2 ^ 64) j).toNat

/-- VCVTSR: every inexact element rounds by its own draw (R160). -/
def execVcvtsr (w : O3) (s : State) : Host.Outcome State Fault Refusal :=
  .next (whenLanes 0x0B 0x02 w [w.ty, cvtFrom w] false (fun s =>
    convert 0x02 w (fun l e => .rsr (draw s w.b (lanePos (pbWord s w.b 2) l + e) 0)) s) s)

/-! ### Movement (R161 to R164) -/

/-- Lane `l` of a vector source, as whole bits. -/
def laneBits (s : State) (x : Src) (l : Nat) : Lane := srcLane .b32 s x l

/-- Deliver the lanes that a rule gives, under the guard. -/
def moveLanes (n : Nat) (w : O3) (f : Nat → Lane) (s : State) : State :=
  deliverData n (tyIsFp w.ty) (dstVector w.dst (guardMask s w.g w.gn) ((upto 64).map f)) 0 none s

/-- The 128 lanes that VPACK gathers from. -/
def packSource (s : State) (w : O3) (k : Nat) : Lane := if k < 64 then laneBits s w.a k else laneBits s w.b (k - 64)

/-- A lane that VPACK delivers: elements outside the gathered run keep the destination's (R161). -/
def packLane (s : State) (w : O3) (l : Nat) : Lane :=
  let t := w.ty
  BitVec.ofNat 32 (packElems t ((upto t.elems).map fun e =>
    let k := l * t.elems + e
    let lo := 128 * w.c.litVal
    if lo ≤ k ∧ k < lo + 128 then bits (packSource s w (k - lo)).toNat 0 t.width else elemOf t (dstLane s w.dst l) e))

/-- VPACK (R161). -/
def execVpack (w : O3) (s : State) : Host.Outcome State Fault Refusal :=
  .next (whenLanes 0x0B 0x03 w [w.ty] false (fun s => moveLanes 2 w (packLane s w) s) s)

/-- VUNPACK (R161). -/
def execVunpack (w : O3) (s : State) : Host.Outcome State Fault Refusal :=
  .next (whenLanes 0x0B 0x04 w [w.ty] false (fun s => moveLanes 2 w (fun l =>
    let k := 64 * w.c.litVal + l
    let f := elemOf w.ty (laneBits s w.a (k / w.ty.elems)) (k % w.ty.elems)
    (if w.ty.signed then signExtend f w.ty.width else zeroExtend f w.ty.width).truncate 32) s) s)

/-- The lane number in bits [5:0] of a source. -/
def laneNum (s : State) (x : Src) : Nat := (srcWord litSigned s x).toNat % 64

/-- VBCAST (R162). -/
def execVbcast (w : O3) (s : State) : Host.Outcome State Fault Refusal :=
  .next (moveLanes 2 w (fun _ => laneBits s w.a (laneNum s w.b)) s)

/-- VPERM (R162). -/
def execVperm (w : O3) (s : State) : Host.Outcome State Fault Refusal :=
  .next (moveLanes 2 w (fun l => laneBits s w.a ((laneBits s w.b l).toNat % 64)) s)

/-- The lane that VSHUF delivers, by pattern (R162). -/
def shufLane (s : State) (w : O3) (pat l : Nat) : Lane :=
  if pat = 0 then (if l % 2 = 0 then laneBits s w.a (l / 2) else laneBits s w.b ((l - 1) / 2))
  else if pat = 1 then (if l % 2 = 0 then laneBits s w.a (32 + l / 2) else laneBits s w.b (32 + (l - 1) / 2))
  else if pat = 2 then (if l < 32 then laneBits s w.a (2 * l) else laneBits s w.b (2 * (l - 32)))
  else (if l < 32 then laneBits s w.a (2 * l + 1) else laneBits s w.b (2 * (l - 32) + 1))

/-- VSHUF (R162). -/
def execVshuf (w : O3) (s : State) : Host.Outcome State Fault Refusal :=
  .next (moveLanes 2 w (shufLane s w w.c.litVal) s)

/-- VROT (R162). -/
def execVrot (w : O3) (s : State) : Host.Outcome State Fault Refusal :=
  .next (moveLanes 2 w (fun l => laneBits s w.a ((l + laneNum s w.b) % 64)) s)

/-- The lane of the `k`-th one of a predicate, counted from 0 (R163). -/
def oneAt (x : Word) (k : Nat) : Option Nat := ((upto 64).filter fun l => x.getLsbD l)[k]?

/-- VCOMPRESS (R163). -/
def execVcompress (w : O3) (s : State) : Host.Outcome State Fault Refusal :=
  .next (moveLanes 3 w (fun l => match oneAt (srcPred s w.b) l with | some j => laneBits s w.a j | none => 0) s)

/-- VEXPAND (R163). -/
def execVexpand (w : O3) (s : State) : Host.Outcome State Fault Refusal :=
  .next (moveLanes 3 w (fun l =>
    if (srcPred s w.b).getLsbD l then laneBits s w.a (ones (srcPred s w.b).toNat l) else 0) s)

/-- VIOTA: a + l × b (R162). -/
def execViota (w : O3) (s : State) : Host.Outcome State Fault Refusal :=
  .next (moveLanes 2 w (fun l =>
    ((srcWord litSigned s w.a) + BitVec.ofNat 64 l * (srcWord litSigned s w.b)).truncate 32) s)

/-- VMOVX (R162). -/
def execVmovx (w : O3) (s : State) : Host.Outcome State Fault Refusal :=
  .next (moveLanes 2 w (laneBits s w.a) s)

/-- VMOVS: lane 0 of the guard decides (R152, R164). -/
def execVmovs (w : O3) (s : State) : Host.Outcome State Fault Refusal :=
  .next (whenGuard w.g w.gn (fun s =>
    let x := (laneBits s w.a (laneNum s w.b)).toNat
    landS 2 w.dst (if w.ty = .s32 then signExtend x 32 else zeroExtend x 32) 0 s) s)

/-- VINS: one lane, where its guard bit is 1; the other lanes under the guard are those of the destination as the word reads it
at issue (R153, R164). -/
def execVins (w : O3) (s : State) : Host.Outcome State Fault Refusal :=
  let n := laneNum s w.b
  let x : Lane := (srcWord litSigned s w.a).truncate 32
  .next (landAt 2 (dstVector w.dst (guardMask s w.g w.gn) ((upto 64).map fun l =>
    if l = n then x else dstLane s w.dst l)) 0 s)

/-! ### Reductions and scans (R165, R166) -/

/-- The active lanes up to lane `hi`. -/
def actUpTo (m : Word) (hi l : Nat) : Bool := m.getLsbD l && decide (l ≤ hi)

/-- The largest exponent among active leaves (R39, R154). -/
def leafExp (s : State) (x : Src) (act : Nat → Bool) : Nat :=
  (upto 64).foldl (fun a l => if act l then max a (addendExp (fpAt .f32 s x l 0)) else a) 0

/-- The sum over the active lanes as one element (R165, R166). -/
def sumElem (s : State) (w : O3) (act : Nat → Bool) : ElemRes :=
  if w.ty = .f32 then
    let sum := fun f : Nat → Nat => treeSum .fp32 (rmOf s w) ((upto 64).map fun l => f (encAt .f32 s w.a l 0)) act
    ⟨(sum id).1, (sum id).2, some (.sum (leafExp s w.a act), (sum (shortEnc .fp32)).1)⟩
  else
    narrowField w.ty (modSatBit w.mod)
      ((upto 64).foldl (fun (a : Int) l => if act l then a + tyInt w.ty (encAt w.ty s w.a l 0) else a) 0)

/-- Write a reduction's result: zero-extended, or sign-extended for .s32 (R165). -/
def reduceWord (w : O3) (r : ElemRes) (s : State) : State :=
  let h := checkShadow (unit0B 0x0F w) (shadowRows .f32 [[r]]) s
  let x := if w.ty = .s32 then signExtend r.enc 32 else zeroExtend r.enc 32
  deliverData 6 (w.ty = .f32) (dstScalar w.dst x) r.fl h.1 h.2

/-- VREDADD (R165). -/
def execVredadd (w : O3) (s : State) : Host.Outcome State Fault Refusal :=
  .next (whenLanes 0x0B 0x0F w [] (w.ty = .f32) (fun s =>
    reduceWord w (sumElem s w (actUpTo (guardMask s w.g w.gn) 63)) s) s)

/-- The largest or smallest active value (R165). -/
def extremeElem (s : State) (w : O3) (wantMax : Bool) : ElemRes :=
  let m := guardMask s w.g w.gn
  let ls := (upto 64).filter fun l => m.getLsbD l
  let xs := ls.map fun l => encAt w.ty s w.a l 0
  if w.ty = .f32 then
    let vs := xs.map (Fp.decode .fp32)
    let pick := fun ys : List Nat => ys.foldl (fun a x => (minMaxFp .fp32 wantMax a x).1) (Fmt.fp32.inf wantMax)
    if vs.any Fp.isNan then ⟨Fmt.fp32.nan, sigFlags vs, some (.product, Fmt.fp32.nan)⟩
    else ⟨pick xs, 0, some (.product, pick (xs.map (shortEnc .fp32)))⟩
  else
    let e := if wantMax then intMin w.ty.signed 32 else intMax w.ty.signed 32
    ⟨wrap (xs.foldl (fun a x => if wantMax then max a (tyInt w.ty x) else min a (tyInt w.ty x)) e) 32, 0, none⟩

/-- VREDMAX (R165). -/
def execVredmax (w : O3) (s : State) : Host.Outcome State Fault Refusal := .next (reduceWord w (extremeElem s w true) s)

/-- VREDMIN (R165). -/
def execVredmin (w : O3) (s : State) : Host.Outcome State Fault Refusal := .next (reduceWord w (extremeElem s w false) s)

/-- VSCAN: each active lane sums the active lanes at or below it (R166). -/
def execVscan (w : O3) (s : State) : Host.Outcome State Fault Refusal :=
  .next (whenLanes 0x0B 0x12 w [] (w.ty = .f32) (fun s =>
    let m := guardMask s w.g w.gn
    let rs := overLanes m 1 fun l _ => sumElem s w (actUpTo m l)
    let h := checkShadow (unit0B 0x12 w) (shadowRows w.ty rs) s
    deliverData 6 (w.ty = .f32) (dstVector w.dst m (lanesFrom w.ty rs)) (flagsOf rs) h.1 h.2) s)

/-! ### Random numbers (R167) -/

/-- The word that lane `l` draws. -/
def laneDraw (s : State) (w : O3) (l : Nat) : Nat := draw s w.a (lanePos (pbWord s w.a 2) l) (w.c.litVal % 4)

/-- VRNG (R167). -/
def execVrng (w : O3) (s : State) : Host.Outcome State Fault Refusal :=
  let m := guardMask s w.g w.gn
  let rs := overLanes m 1 fun l _ => ⟨laneDraw s w l, 0, none⟩
  .next (landAt 4 (dstVector w.dst m (lanesFrom .b32 rs)) 0 s)

/-- The fraction n × 2^−24 as an element. -/
def drawElem (n : Nat) : ElemRes :=
  let x := Fp.fin false n (-24)
  ⟨(roundFp .fp32 .rne false x).1, 0, some (.product, (roundFp .fp32 .rne false x.short).1)⟩

/-- VRNGF: (w / 2^8 + F) × 2^−24, which FP32 holds exactly (R167). -/
def execVrngf (w : O3) (s : State) : Host.Outcome State Fault Refusal :=
  let m := guardMask s w.g w.gn
  let rs := overLanes m 1 fun l _ => drawElem (laneDraw s w l / 256 + w.c.litVal / 4)
  let h := checkShadow (unit0B 0x14 w) (shadowRows .f32 rs) s
  .next (deliverFp 5 (dstVector w.dst m (lanesFrom .f32 rs)) 0 h.1 h.2)

/-! ### Predicates (R168) -/

/-- Write a predicate under the guard. -/
def writePred (w : O3) (x : Word) (s : State) : State := landAt 1 (dstPred w.dst (guardMask s w.g w.gn) x) 0 s

/-- PAND (R168). -/
def execPand (w : O3) (s : State) : Host.Outcome State Fault Refusal := .next (writePred w (srcPred s w.a &&& srcPred s w.b) s)

/-- POR (R168). -/
def execPor (w : O3) (s : State) : Host.Outcome State Fault Refusal := .next (writePred w (srcPred s w.a ||| srcPred s w.b) s)

/-- PXOR (R168). -/
def execPxor (w : O3) (s : State) : Host.Outcome State Fault Refusal := .next (writePred w (srcPred s w.a ^^^ srcPred s w.b) s)

/-- PANDN (R168). -/
def execPandn (w : O3) (s : State) : Host.Outcome State Fault Refusal := .next (writePred w (srcPred s w.a &&& ~~~srcPred s w.b) s)

/-- PNOT (R168). -/
def execPnot (w : O3) (s : State) : Host.Outcome State Fault Refusal := .next (writePred w (~~~srcPred s w.a) s)

/-- PSET: lanes that are not zero, or the lanes below a count (R168). -/
def execPset (w : O3) (s : State) : Host.Outcome State Fault Refusal :=
  let n := min ((srcZero s w.a).toNat % 2 ^ 32) 64
  .next (writePred w (BitVec.ofNat 64 (maskOf (fun l => if w.a.isV then decide (laneBits s w.a l ≠ 0) else decide (l < n)) 64)) s)

/-- PGET (R168). -/
def execPget (w : O3) (s : State) : Host.Outcome State Fault Refusal :=
  .next (landAt 2 (dstVector w.dst (guardMask s w.g w.gn)
    ((upto 64).map fun l => if (srcPred s w.a).getLsbD l then BitVec.allOnes 32 else 0)) 0 s)

/-- PCNT (R152, R168). -/
def execPcnt (w : O3) (s : State) : Host.Outcome State Fault Refusal :=
  .next (landS 2 w.dst (BitVec.ofNat 64 (ones (srcPred s w.a &&& guardMask s w.g w.gn).toNat 64)) 0 s)

/-- PFIRST: the lowest lane, or 64 (R152, R168). -/
def execPfirst (w : O3) (s : State) : Host.Outcome State Fault Refusal :=
  .next (landS 2 w.dst (BitVec.ofNat 64 ((lowestOne (srcPred s w.a &&& guardMask s w.g w.gn).toNat 0 64).getD 64)) 0 s)

/-- PMOV (R168). -/
def execPmov (w : O3) (s : State) : Host.Outcome State Fault Refusal := .next (writePred w (srcPred s w.a) s)

end Sys2Proof.Machine
end

