-- ==== Sys2Proof/Machine/Memory.lean ====
section
/-! DEFINITION. Loads and stores, class 0x10 (R170 to R194), and the context image words of class 0x04 (R130). -/

namespace Sys2Proof.Machine

/-! ### Waiting loads (R187) -/

/-- A request as it is sent. -/
def MemOp.sent (c t : Nat) (addr : Word) (att : Option (BitVec 16)) (acq : BitVec 5) (reqs : List (Nat × Word × Nat)) : MemOp :=
  { c0 := c, t0 := t, at_ := addr, reqs := reqs, att := att, atom := none, acq := acq, ready := false, data := [], poison := none,
    image := none }

/-- Send the requests of a load, with the mask of its acquire, and issue again. -/
def sendLoad (acq : BitVec 5) (reqs : List (Nat × Word × Nat)) (s : State) : State :=
  again (updMe (fun st => { st with mem := some (.sent s.cycle s.tick s.cur.addr (attOf s st.tag) acq reqs) }) s)

/-- A load: the first issue sends its requests, it issues again until the data are there, and then `fin` takes them.
Poisoned data raise POISON (R187, R338). -/
def memLoad (acq : BitVec 5) (reqs : List (Nat × Word × Nat)) (fin : List Byte → State → State) (s : State) : State :=
  match (me s).mem with
  | none => sendLoad acq reqs s
  | some m =>
    if !m.ready then again s
    else
      let s1 := updMe (fun st => { st with mem := none }) s
      match m.poison with
      | some q => raisePoison q.1 q.2 s1
      | none => fin m.data s1

/-- The first request of a read at the home that meets poison: source and address. -/
def loadPoison (s : State) (x : Option (BitVec 16)) (reqs : List (Nat × Word × Nat)) : Option (Nat × Word) :=
  reqs.findSome? fun r =>
    (lineStarts r.1 r.2.2).findSome? fun a =>
      let m := homeMark s x a
      if m = 0 then none else some (m, r.2.1 + BitVec.ofNat 64 (a - r.1))

/-- The same for a load of a strand, which reads behind its own stores. -/
def ownPoison (s : State) (n k : Nat) (x : Option (BitVec 16)) (reqs : List (Nat × Word × Nat)) : Option (Nat × Word) :=
  reqs.findSome? fun r =>
    (lineStarts r.1 r.2.2).findSome? fun a =>
      let m := strandPoison s n k x a
      if m = 0 then none else some (m, r.2.1 + BitVec.ofNat 64 (a - r.1))

/-- An agent's read of one request, in units of `u` bytes: of the device region, or of memory behind the agent's own stores. -/
def readRequest (n a : Nat) (x : Option (BitVec 16)) (u : Nat) (r : Nat × Word × Nat) (s : State) : List Byte × State :=
  let p := (spindleAt s n).part
  if inDevice s p r.2.1.toNat then (devBytes s p (devOff r.2.1.toNat) r.2.2, s) else readRange n a x u r.1 r.2.2 s

/-- A strand's read of the requests of a load: the bytes, and what the strand knows afterwards. -/
def readRequests (n k : Nat) (x : Option (BitVec 16)) (reqs : List (Nat × Word × Nat)) (s : State) : List Byte × State :=
  reqs.foldl (fun r q => let y := readRequest n k x (loadUnit q.2.2) q r.2; (r.1 ++ y.1, y.2)) ([], s)

/-- Must a load of a strand wait: for the strand's own writes, or for an invalidation? (R184, R228, R229) -/
def loadWaits (s : State) (n k : Nat) (x : Option (BitVec 16)) (reqs : List (Nat × Word × Nat)) : Bool :=
  reqs.any fun r => !inDevice s (spindleAt s n).part r.2.1.toNat &&
    (awaitsOwn s n k x (loadUnit r.2.2) r.1 r.2.2 || awaitsInval s n k r.1 r.2.2)

/-- A read of a line by a strand or a channel: a miss of the L2 is told to the Whorl, with the ticks since the request was sent at
tick `t0`, and the line is filled (R330, R380). DESIGN CHOICE (log entry 91): one event for each line. -/
def readLine (n agent : Nat) (tag : BitVec 16) (t0 : Nat) (x : Option (BitVec 16)) (va a : Nat) (s : State) : State :=
  if (lookup s (skeinOf n) x a).isSome then s
  else touchLine (skeinOf n) x a (tap 0x04 n agent tag (BitVec.ofNat 64 va) (BitVec.ofNat 64 (s.tick - t0)) 0 s)

/-- Do the lines of a request all lie in the L2 of its skein? (R9, R187) -/
def requestHits (s : State) (n : Nat) (m : MemOp) (r : Nat × Word × Nat) : Bool :=
  !inDevice s (spindleAt s n).part r.2.1.toNat && (lineStarts r.1 r.2.2).all fun a => (lookup s (skeinOf n) m.att a).isSome

/-- When a load has its answer at the earliest: an L2 hit answers 20 cycles on, other paths later (R187). -/
def loadTime (s : State) (n : Nat) (m : MemOp) : Nat := if m.reqs.all (requestHits s n m) then m.c0 + 20 else m.c0 + 21

/-- What a load's request does to the lines it reads: they are filled, and an acquiring read reports scope events (R236). An
atomic request reads at the home. -/
def requestLines (n k : Nat) (m : MemOp) (r : Nat × Word × Nat) (s : State) : State :=
  if inDevice s (spindleAt s n).part r.2.1.toNat then s
  else
    let tag := (strandAt s n k).tag
    let s1 := if m.atom.isSome then s
      else (lineStarts r.1 r.2.2).foldl (fun s a => readLine n k tag m.t0 m.att (r.2.1.toNat + (a - r.1)) a s) s
    if m.acq ≠ 0 then acquireLines n k tag m.att 4 r.2.1.toNat r.1 r.2.2 s1 else s1

/-- What the answer to a load finds: the data, and the state with what the strand knows after its acquire (R232, R235). -/
def loadAnswer (n k : Nat) (m : MemOp) (s : State) : List Byte × State :=
  let r := readRequests n k m.att m.reqs (m.reqs.foldl (fun s r => requestLines n k m r s) s)
  (r.1, noteAcquire n k m.acq r.2)

/-- May a load be answered now: is it time, and has it nothing to wait for? (R187, R235) -/
def loadReady (s : State) (n k : Nat) (m : MemOp) : Bool :=
  decide (loadTime s n m ≤ s.cycle) && !loadWaits s n k m.att m.reqs &&
    (decide (m.acq = 0) || acquireClear s (skeinOf n) m.acq (viewOf (loadAnswer n k m s).2 n k).hb)

/-- The answer to a strand's load (R187). A request of an attempt that is closed has no answer (R324); DESIGN CHOICE (log
entry 107): its word then sends it again. -/
def execLoadDataReturn (n k : Nat) (s : State) : Host.Outcome State Fault Refusal :=
  .next (match (strandAt s n k).mem with
    | none => s
    | some m =>
      if m.ready || m.atom.isSome || m.reqs.isEmpty then s
      else if stale s (strandAt s n k).tag m.att then updStrand n k (fun st => { st with mem := none }) s
      else if !loadReady s n k m then s
      else
        let r := loadAnswer n k m s
        let m' := { m with ready := true, data := r.1, poison := ownPoison s n k m.att m.reqs }
        updStrand n k (fun st => { st with mem := some m' }) r.2)

/-! ### Checks (R180, R186) -/

/-- The offset of an access: a 64-bit unsigned value. -/
def offsetOf (s : State) (x : Src) : Nat := (srcZero s x).toNat

/-- The checks of an access through a handle: V, alignment, range, WR. Then go on with the virtual and physical address and
NR (R186). -/
def whenAccess (w : O3) (al len : Nat) (store : Bool) (k : Nat → Nat → Bool → State → State) (s : State) : State :=
  let h := hregOf (rd s) (hNum w.a)
  let off := offsetOf s w.b
  let va := hBase h + off
  if !hV h then raiseHandle 1 (hNum w.a) 0 (BitVec.ofNat 64 off) s
  else if !aligned off al then raiseAlign (BitVec.ofNat 64 va) s
  else if hSize h < off + len then raiseHandle 2 (hNum w.a) 0 (BitVec.ofNat 64 (hBase h + max off (hSize h))) s
  else if store && !hWR h then raiseHandle 4 (hNum w.a) 0 (BitVec.ofNat 64 va) s
  else k va (SMap.get 0 (rd s).hpa (hNum w.a) + off) (hNR h) s

/-- Continue a waiting load, or make its checks. -/
def resumeOr (fin : List Byte → State → State) (k : State → State) (s : State) : State :=
  if (me s).mem.isSome then memLoad 0 [] fin s else k s

/-- A load that does not read memory: zero, and residency flags when it lands (R181). -/
def landAbsent (n : Nat) (t : Target) (resid : Word) (s : State) : State :=
  updMe (fun st => { st with landings := st.landings ++
    [{ due := s.cycle + n, target := t, flags := 0, resid := resid, shadow := none, addr := s.cur.addr, second := s.cur.second,
       excl := st.exl }] }) s

/-- The observer mask of an ordered access (R188). -/
def accessMask (w : O3) : BitVec 5 := if w.mod.toNat % 4 = 0 then 0 else BitVec.ofNat 5 w.c.litVal

/-- Is the load an acquire? -/
def isAcquire (w : O3) : Bool := w.mod.toNat % 4 = 1

/-- A load of a strand: its checks, then the waiting load, or nothing read where the page is absent. -/
def loadWord (w : O3) (al len : Nat) (absent : State → State) (fin : List Byte → State → State) (s : State) : State :=
  resumeOr fin (whenAccess w al len false fun va pa nr s =>
    if nr then absent s
    else
      let go := memLoad (if isAcquire w then accessMask w else 0) [(pa, BitVec.ofNat 64 va, len)] fin
      if inDevice s (mySpindle s).part va then whenWindow va len go s else go s) s

/-- Are data poisoned that a store of `n` units of `unit` bytes at `pa` brings into the line of its unit `i`, `mk` saying which units
are? -/
def lineSpoilt (pa unit n : Nat) (mk : Nat → Bool) (i : Nat) : Bool :=
  (upto n).any fun j => mk j && decide ((pa + unit * j) / 128 = (pa + unit * i) / 128)

/-- A store of a strand: its checks, the release it carries, then the bytes, in units of `unit` bytes of which `mk` says which are
poisoned (R184, R187, R338). -/
def storeWord (w : O3) (al unit : Nat) (mk : Nat → Bool) (bs : List Byte) (s : State) : State :=
  whenAccess w al bs.length true (fun va pa nr s =>
    if nr then raiseHandle 3 (hNum w.a) 0 (BitVec.ofNat 64 va) s
    else if inDevice s (mySpindle s).part va then
      whenWindow va bs.length (afterRelease (accessMask w) (devWrite va bs)) s
    else
      afterRelease (accessMask w) (fun s =>
        (upto (bs.length / unit)).foldl (fun s i =>
          postPiece pa bs.length (mk i) (lineSpoilt pa unit (bs.length / unit) mk i) (hNum w.a) (BitVec.ofNat 64 (va + unit * i)) (pa + unit * i) ((bs.drop (unit * i)).take unit)
            (accessMask w) s) s) s) s

/-! ### LD, ST, VLD, VST (R190, R191) -/

/-- The value that LD delivers. -/
def loadValue (t : Ty) (bs : List Byte) : Word :=
  if t.signed then signExtend (ofBytes bs) t.width else zeroExtend (ofBytes bs) t.width

/-- LD (R190). -/
def execLd (w : O3) (s : State) : Host.Outcome State Fault Refusal :=
  let n := w.ty.width / 8
  .next (whenGuard w.g w.gn (loadWord w n n (landAbsent 2 (dstScalar w.dst 0) 1)
    fun bs s => landS 2 w.dst (loadValue w.ty bs) 0 s) s)

/-- ST (R190). -/
def execSt (w : O3) (s : State) : Host.Outcome State Fault Refusal :=
  let n := w.ty.width / 8
  .next (whenGuard w.g w.gn (storeWord w n n (fun _ => false) (toBytes (dstRead s w.dst).toNat n)) s)

/-- Lanes from bytes. -/
def lanesOfBytes (bs : List Byte) : List Lane := (pieces 4 64 bs).map fun b => BitVec.ofNat 32 (ofBytes b)

/-- Write all lanes of a vector destination. -/
def landLanes (n : Nat) (w : O3) (bs : List Byte) (s : State) : State :=
  landAt n (dstVector w.dst allLanes (lanesOfBytes bs)) 0 s

/-- A vector load of an absent page: zeros, and every residency flag. -/
def absentLanes (w : O3) (s : State) : State :=
  landAbsent 2 (dstVector w.dst allLanes (List.replicate 64 0)) allLanes s

/-- VLD (R191). -/
def execVld (w : O3) (s : State) : Host.Outcome State Fault Refusal :=
  .next (whenGuard w.g w.gn (loadWord w 4 256 (absentLanes w) (landLanes 2 w)) s)

/-- The bytes of the vector register that a store names. -/
def storedLanes (s : State) (w : O3) : List Byte := laneBytes ((upto 64).map (dstLane s w.dst))

/-- The mark of unit `i` of the vector register that a store names. -/
def storedMark (s : State) (w : O3) (i : Nat) : Nat := match w.dst with | .v r => vmarkOf (rd s) r.val i | _ => 0

/-- VST: each lane is a write of its own (R191, R234). -/
def execVst (w : O3) (s : State) : Host.Outcome State Fault Refusal :=
  .next (whenGuard w.g w.gn (storeWord w 4 4 (fun l => decide (storedMark s w (l / 16) ≠ 0)) (storedLanes s w)) s)

/-! ### VLDX, VSTX (R191) -/

/-- Offset of lane `l` of an indexed access. -/
def laneOff (s : State) (w : O3) (l : Nat) : Nat := offsetOf s w.b + 4 * (laneBits s w.c l).toNat

/-- The lowest lane whose bytes do not lie within a page. -/
def laneOut (s : State) (w : O3) (size : Nat) : Option Nat := (upto 64).find? fun l => decide (size < laneOff s w l + 4)

/-- The checks of an indexed access, then go on with the page's addresses and NR. -/
def whenIndexed (w : O3) (store : Bool) (k : Nat → Nat → Bool → State → State) (s : State) : State :=
  let h := hregOf (rd s) (hNum w.a)
  let off := offsetOf s w.b
  if !hV h then raiseHandle 1 (hNum w.a) 0 (BitVec.ofNat 64 off) s
  else if !aligned off 4 then raiseAlign (BitVec.ofNat 64 (hBase h + off)) s
  else
    match laneOut s w (hSize h) with
    | some l => raiseHandle 2 (hNum w.a) l (BitVec.ofNat 64 (hBase h + max (laneOff s w l) (hSize h))) s
    | none =>
      if store && !hWR h then raiseHandle 4 (hNum w.a) 0 (BitVec.ofNat 64 (hBase h + laneOff s w 0)) s
      else k (hBase h) (SMap.get 0 (rd s).hpa (hNum w.a)) (hNR h) s

/-- The object window is for privileged strands, whichever lane names it first (R222). -/
def whenLanesWindow (w : O3) (base : Nat) (k : State → State) (s : State) : State :=
  match (upto 64).find? fun l => touchesWindow (base + laneOff s w l) 4 with
  | some l => whenWindow (base + laneOff s w l) 4 k s
  | none => k s

/-- VLDX (R191). -/
def execVldx (w : O3) (s : State) : Host.Outcome State Fault Refusal :=
  .next (whenGuard w.g w.gn (resumeOr (landLanes 2 w) (whenIndexed w false fun base pa nr s =>
    if nr then absentLanes w s
    else
      let go := memLoad 0 ((upto 64).map fun l => (pa + laneOff s w l, BitVec.ofNat 64 (base + laneOff s w l), 4)) (landLanes 2 w)
      if inDevice s (mySpindle s).part base then whenLanesWindow w base go s else go s)) s)

/-- The lanes of a VSTX stored in the device region one by one; the first that is refused traps, and nothing changes. -/
def devLanes (w : O3) (base : Nat) (s : State) : State :=
  let r := (upto 64).foldl (fun (r : Except WinErr State) l =>
    match r with
    | .error e => .error e
    | .ok s1 => devStore (mySpindle s).part 5 (devOff (base + laneOff s w l)) (toBytes (dstLane s w.dst l).toNat 4) s1) (.ok s)
  match r with
  | .error e => raise e.1 (det e.2.1 e.2.2) 0 s
  | .ok s1 => s1

/-- VSTX: where lanes name one address the highest-numbered one is stored last (R191). -/
def execVstx (w : O3) (s : State) : Host.Outcome State Fault Refusal :=
  .next (whenGuard w.g w.gn (whenIndexed w true fun base pa nr s =>
    if nr then raiseHandle 3 (hNum w.a) 0 (BitVec.ofNat 64 (base + laneOff s w 0)) s
    else if inDevice s (mySpindle s).part base then whenLanesWindow w base (devLanes w base) s
    else
      (upto 64).foldl (fun s' l =>
        postLane l (decide (storedMark s w (l / 16) ≠ 0)) (hNum w.a) (BitVec.ofNat 64 (base + laneOff s w l)) (pa + laneOff s w l)
          (toBytes (dstLane s w.dst l).toNat 4) s') s) s)

/-! ### Scratchpad (R170 to R174, R192) -/

/-- Scratchpad bytes of a spindle. -/
def scratchBytes (p : Spindle) (off n : Nat) : List Byte := SMap.getList 0 p.scratch off n

/-- Mark the 64-byte units of a scratchpad write: poisoned data set their units' marks, a write of a whole unit clears its
mark (R338). -/
def markUnits (off len : Nat) (poisoned : Bool) (p : Spindle) : Spindle :=
  { p with poison := (unitsOf off len).foldl (fun m u =>
      if poisoned then SMap.set 0 m u propagated
      else if off ≤ 64 * u ∧ 64 * u + 64 ≤ off + len then SMap.set 0 m u 0 else m) p.poison }

/-- Write scratchpad bytes. -/
def scratchWrite (off : Nat) (bs : List Byte) (poisoned : Bool) (p : Spindle) : Spindle :=
  markUnits off bs.length poisoned { p with scratch := SMap.setList 0 p.scratch off bs }

/-- The first poisoned unit of a scratchpad range: its source and offset. -/
def scratchPoison (p : Spindle) (off len : Nat) : Option (Nat × Nat) :=
  (unitsOf off len).findSome? fun u =>
    let m := SMap.get 0 p.poison u
    if m = 0 then none else some (m, max off (64 * u))

/-- A scratchpad access of a strand: alignment, range, the zones and the overlap checker, `check`, then the entry (R171, R186,
R225, R291, R432). -/
def whenScratch (wr : Bool) (off len : Nat) (check : (State → State) → State → State) (k : State → State) (s : State) : State :=
  if !aligned off 4 then raiseAlign (BitVec.ofNat 64 off) s
  else if (mySpindle s).sg * 65536 < off + len then raise 0x06 (det 1 0) (BitVec.ofNat 64 off) s
  else whenFree wr (unitsOf off len) (check (whenEntry wr (unitsOf off len) k)) s

/-- Tag of tile `t`. -/
def tileTag (p : Spindle) (t : Nat) : BitVec 16 := SMap.get 0 p.tileTag t

/-- The tiles of a scratchpad range. -/
def tilesOf (off len : Nat) : List Nat := (upto ((off + len - 1) / 4096 - off / 4096 + 1)).map fun i => off / 4096 + i

/-- Compare tile tags (R174). -/
def whenTagged (off len : Nat) (tag : BitVec 16) (k : State → State) (s : State) : State :=
  match (tilesOf off len).find? fun t => tileTag (mySpindle s) t ≠ tag with
  | some t => raise 0x05 (det 0xE4 0 + (tileTag (mySpindle s) t).toNat) (BitVec.ofNat 64 (4096 * t)) s
  | none => k s

/-- VLDS (R174, R192). -/
def execVlds (w : O3) (s : State) : Host.Outcome State Fault Refusal :=
  let off := offsetOf s w.a
  .next (whenGuard w.g w.gn (whenScratch false off 256
    (fun k => if w.mod.toNat % 2 = 1 then whenTagged off 256 ((srcZero s w.c).truncate 16) k else k)
    fun s =>
      match scratchPoison (mySpindle s) off 256 with
      | some q => raisePoison q.1 (BitVec.ofNat 64 q.2) s
      | none => landLanes 4 w (scratchBytes (mySpindle s) off 256) s) s)

/-- The four 64-byte pieces of a vector store at a scratchpad offset carry the marks of their units on (R338). -/
def markStored (off : Nat) (f : Nat → Bool) (p : Spindle) : Spindle :=
  (upto 4).foldl (fun p i => if f i then markUnits (off + 64 * i) 64 true p else p) p

/-- VSTS (R192). -/
def execVsts (w : O3) (s : State) : Host.Outcome State Fault Refusal :=
  let off := offsetOf s w.a
  .next (whenGuard w.g w.gn (whenScratch true off 256 (fun k => k)
    fun s => updMySpindle (fun p => markStored off (fun i => storedMark s w i ≠ 0) (scratchWrite off (storedLanes s w) false p)) s) s)

/-! ### Spill slab and constant bank (R175, R176, R193, R194) -/

/-- Slab index of SLD and SST. -/
def slabIndex (w : O3) : Nat := w.mod.toNat % 8 * 256 + w.a.litVal

/-- SLD (R175, R193). -/
def execSld (w : O3) (s : State) : Host.Outcome State Fault Refusal :=
  .next (whenGuard w.g w.gn (fun s => landS 1 w.dst (SMap.get 0 (rd s).slab (slabIndex w)) 0 s) s)

/-- SST (R175, R193). -/
def execSst (w : O3) (s : State) : Host.Outcome State Fault Refusal :=
  .next (whenGuard w.g w.gn (fun s =>
    updMe (fun st => { st with slab := SMap.set 0 st.slab (slabIndex w) (dstRead s w.dst) }) s) s)

/-- The requests of CBLOAD, none where a page is not there. -/
def cbRequests (s : State) (p base first : Nat) : Nat → Option (List (Nat × Word × Nat))
  | 0 => some []
  | n + 1 =>
    match physOf s p (base + 8 * first), cbRequests s p base (first + 1) n with
    | some pa, some r => some ((pa, BitVec.ofNat 64 (base + 8 * first), 8) :: r)
    | _, _ => none

/-- Refill entries of the constant bank. -/
def cbRefill (first : Nat) (ws : List Word) (s : State) : State :=
  updMySpindle (fun p => { p with cbank := SMap.setList 0 p.cbank first ws }) s

/-- CBLOAD (R176, R194). -/
def execCbload (w : O3) (s : State) : Host.Outcome State Fault Refusal :=
  let first := w.a.litVal
  let count := w.b.litVal + 1
  let fin := fun bs => cbRefill first ((pieces 8 count bs).map fun b => BitVec.ofNat 64 (ofBytes b))
  .next (whenGuard w.g w.gn (resumeOr fin fun s =>
    match (taskOf s (mySpindle s)).bind Task.cbva with
    | none => cbRefill first (List.replicate count 0) s
    | some base =>
      match cbRequests s (mySpindle s).part base.toNat first count with
      | some r => memLoad 0 r fin s
      | none => again s) s)

/-! ### Context images (R130) -/

/-- The checks of CTXSV and CTXLD in their order, then go on with the image's addresses. -/
def whenCtx (w : O3) (store : Bool) (k : Nat → Nat → State → State) (s : State) : State :=
  if !(me s).exl then raiseSched 0xE2 0 s
  else
    let h := hregOf (rd s) (hNum w.a)
    let off := offsetOf s w.b
    let va := hBase h + off
    if !aligned off 64 then raiseAlign (BitVec.ofNat 64 va) s
    else whenAccess w 64 ctxBytes store (fun va pa nr s =>
      if nr then raiseHandle 3 (hNum w.a) 0 (BitVec.ofNat 64 va) s
      else if inDevice s (mySpindle s).part va then whenWindow va ctxBytes (k va pa) s
      else k va pa s) s

/-- CTXSV or CTXLD occupies the strand: its first issue makes its checks and takes the image's addresses, and it issues again for `n`
cycles and while `wait` holds; then it goes on with those addresses (R130, R178). DESIGN CHOICE (log entry 35): an invalidation of the
handle in between changes nothing for it (R179). -/
def occupy (n : Nat) (checks : (Nat → Nat → State → State) → State → State) (wait : Nat → Nat → State → Bool)
    (k : Nat → Nat → State → State) (s : State) : State :=
  match (me s).mem with
  | none =>
    checks (fun va pa s => again (updMe (fun st => { st with
      mem := some { MemOp.sent s.cycle s.tick s.cur.addr (attOf s st.tag) 0 [] with image := some (va, pa) } }) s)) s
  | some m =>
    match m.image with
    | some (va, pa) =>
      if s.cycle + 1 < m.c0 + n || wait va pa s then again s else k va pa s
    | none => again s

/-- The mark of the 64-byte unit of a context image at an offset: the vector register's that it holds (R120, R338). -/
def imageMark (st : Strand) (off : Nat) : Bool :=
  decide (0x800 ≤ off) && decide (off < 0x4800) && decide (SMap.get 0 st.vmark ((off - 0x800) / 64) ≠ 0)

/-- Post a context image as 8-byte stores from its byte `i` on; `k` bounds their number. -/
def postImage (mk : Nat → Bool) (hn va pa : Nat) : Nat → Nat → List Byte → State → State
  | 0, _, _, s => s
  | k + 1, i, bs, s =>
    if bs.isEmpty then s
    else
      let line := (pa + i) / 128 * 128
      let spoilt := (upto 16).any fun j => decide (pa ≤ line + 8 * j) && mk (line + 8 * j - pa)
      postImage mk hn va pa k (i + 8) (bs.drop 8)
        (postPiece pa ctxBytes (mk i) spoilt hn (BitVec.ofNat 64 (va + i)) (pa + i) (bs.take 8) 0 s)

/-- Is a latch of the saved bank PENDING, or a handle on its way? -/
def ctxBusy (s : State) : Bool :=
  (upto 6).any (fun n => (SMap.get .start (me s).saved n).st = .pending) || !(me s).handles.isEmpty

/-- The word of a context image is no longer under way. -/
def endImage (s : State) : State := updMe (fun st => { st with mem := none }) s

/-- CTXSV: it waits for the saved bank's latches and for handles on their way (R130, R178). Poisoned registers are stored with their
marks (R338). -/
def execCtxsv (w : O3) (s : State) : Host.Outcome State Fault Refusal :=
  .next (whenGuard w.g w.gn (whenPriv (occupy 576 (whenCtx w true) (fun _ _ => ctxBusy) fun va pa s =>
    let img := ctxImage s.cur.strand (mySpindle s) (me s)
    if inDevice s (mySpindle s).part va then devWrite va img (endImage s)
    else postImage (imageMark (me s)) (hNum w.a) va pa (ctxBytes / 8) 0 img (endImage s))) s)

/-- The request of a CTXLD, as a load. -/
def imageReq (va pa : Nat) : Nat × Word × Nat := (pa, BitVec.ofNat 64 va, ctxBytes)

/-- The bytes of an image are read as a strand's load reads them, 8 by 8, its lines too (R130, R380). -/
def readCtxImage (va pa : Nat) (s : State) : List Byte × State :=
  let n := s.cur.spn
  let k := s.cur.strand
  let s1 := match (me s).mem with | some m => requestLines n k m (imageReq va pa) s | none => s
  readRequest n k (attOf s (me s).tag) 8 (imageReq va pa) s1

/-- CTXLD (R130): its loads wait as any do (R184, R228); poisoned bytes raise POISON (R338). -/
def execCtxld (w : O3) (s : State) : Host.Outcome State Fault Refusal :=
  .next (whenGuard w.g w.gn (whenPriv (occupy 576 (whenCtx w false)
    (fun va pa s => !inDevice s (mySpindle s).part va && (awaitsOwn s s.cur.spn s.cur.strand (attOf s (me s).tag) 8 pa ctxBytes ||
      awaitsInval s s.cur.spn s.cur.strand pa ctxBytes)) fun va pa s =>
      match ownPoison s s.cur.spn s.cur.strand (attOf s (me s).tag) [imageReq va pa] with
      | some q => raisePoison q.1 q.2 (endImage s)
      | none =>
        let img := readCtxImage va pa s
        let s1 := endImage img.2
        let r := ctxRefusal img.1
        if r ≠ 0 then raise 0x11 (det r 0) 0 s1
        else updMe (loadImage s (mySpindle s).part img.1) s1)) s)

end Sys2Proof.Machine
end

