-- ==== Sys2Proof/Machine/Order.lean ====
section
/-! DEFINITION. Fences and atomics, class 0x15 (R238 to R243), and what the homes do with stores, ATOMs and atomic requests
(R228, R230, R236, R327, R328, R338). -/

namespace Sys2Proof.Machine

/-- A release fence sets the tag of every line that its strand has written, in its skein's L2 (R236). -/
def tagLines (n k : Nat) (mask : BitVec 5) (s : State) : State :=
  (strandAt s n k).lines.foldl (fun s l => updCopies (skeinOf n) (128 * l.1) (fun x => { x with scope := mask }) s) s

/-- The acquire of the strand in focus: the word issues again until the invalidations that it waits for have arrived, then it goes on
(R232, R235). -/
def afterAcquire (mask : BitVec 5) (k : State → State) (s : State) : State :=
  let s1 := noteAcquire s.cur.spn s.cur.strand mask s
  if acquireClear s (skeinOf s.cur.spn) mask (me s1).view.hb then k s1 else again s

/-- FENCE (R239). A release that is over and an acquire that still waits issue again as one. -/
def execFence (w : O3) (s : State) : Host.Outcome State Fault Refusal :=
  let m := BitVec.ofNat 5 w.b.litVal
  .next (whenGuard w.g w.gn (fun s =>
    if w.a.litVal = 1 then afterAcquire m id s
    else afterRelease m (fun s => (if w.a.litVal = 3 then afterAcquire m else id) (tagLines s.cur.spn s.cur.strand m) s) s) s)

/-! ### What an operation writes (R241) -/

/-- The field that ATOM operation `op` writes. -/
def atomNew (op : Nat) (t : Ty) (old x : Nat) : Nat :=
  if op = 0 then
    if t = .f32 then
      let r := addExact (Fp.decode .fp32 old) (Fp.decode .fp32 x)
      (roundFp .fp32 .rne false r.1).1
    else (old + x) % 2 ^ t.width
  else if op = 1 then (if tyInt t x < tyInt t old then x else old)
  else if op = 2 then (if tyInt t old < tyInt t x then x else old)
  else if op = 3 then old &&& x
  else if op = 4 then old ||| x
  else old ^^^ x

/-- The field that an atomic request writes, none where a CAS finds another value. -/
def requestNew (a : AtomReq) (old : Nat) : Option Nat :=
  if a.op = 7 then (if old = a.x.toNat % 2 ^ a.ty.width then some (a.y.toNat % 2 ^ a.ty.width) else none)
  else if a.op = 6 then some (a.x.toNat % 2 ^ a.ty.width)
  else some (atomNew a.op a.ty old (a.x.toNat % 2 ^ a.ty.width))

/-- The mask of an ordering field with a given order bit: 1 acquire, 2 release (R238). -/
def orderMaskOf (bit : Nat) (x : Src) : BitVec 5 :=
  if bitOf (x.litVal / 32) (bit - 1) then BitVec.ofNat 5 x.litVal else 0

/-- The checks of an atomic operation (R240, R243), then go on with its addresses. -/
def whenAtomic (w : O3) (op : Nat) (k : Nat → Nat → State → State) (s : State) : State :=
  let n := w.ty.width / 8
  if (mySpindle s).det && op ≠ 2 then raiseNondet 0x21 op s
  else if (mySpindle s).det && w.ty = .f32 then raiseNondet 0x22 2 s
  else whenAccess w n n true (fun va pa nr s =>
    if nr then raiseHandle 3 (hNum w.a) 0 (BitVec.ofNat 64 va) s
    else if inDevice s (mySpindle s).part va && touchesWindow va n then
      if (me s).privm then raiseSched 0xEA 0 s else raise 0x02 0 (BitVec.ofNat 64 va) s
    else k va pa s) s

/-- ATOM: posted, after its release part (R242). -/
def execAtom (w : O3) (s : State) : Host.Outcome State Fault Refusal :=
  let rel := orderMaskOf 2 w.c
  .next (whenGuard w.g w.gn (whenAtomic w 0x02 fun va pa =>
    afterRelease rel (postAtom (some (w.mod, w.ty)) (hNum w.a) (BitVec.ofNat 64 va) pa
      (toBytes (dstRead s w.dst).toNat (w.ty.width / 8)) rel)) s)

/-- The number of a scalar destination. -/
def dstNum : Dst → Nat
  | .s r => r.val | _ => 0

/-- ATOMR, CAS and SWAP: after the release part the request is sent, and the word is issued until its reply (R242). -/
def sendAtomic (w : O3) (opw op : Nat) (y : Word) (s : State) : State :=
  if (me s).mem.isSome then again s
  else whenAtomic w opw (fun va pa =>
    afterRelease (orderMaskOf 2 w.c) (fun s =>
      let a : AtomReq := { op := op, ty := w.ty, x := dstRead s w.dst, y := y, dst := dstNum w.dst, acq := orderMaskOf 1 w.c,
                           rel := orderMaskOf 2 w.c, next := s.cur.next, hn := hNum w.a, org := originOf s s.cur.spn s.cur.strand }
      let m := MemOp.sent s.cycle s.tick s.cur.addr (attOf s (me s).tag) a.acq [(pa, BitVec.ofNat 64 va, w.ty.width / 8)]
      again (updMe (fun st => { st with mem := some { m with atom := some a } })
        (tickDie s.cur.spn s.cur.strand a.org (issueWrite s.cur.spn s.cur.strand s))))) s

/-- ATOMR (R241, R242). -/
def execAtomr (w : O3) (s : State) : Host.Outcome State Fault Refusal :=
  .next (whenGuard w.g w.gn (sendAtomic w 0x03 w.mod.toNat 0) s)

/-- CAS (R241, R242): the new value is in the register after the destination. -/
def execCas (w : O3) (s : State) : Host.Outcome State Fault Refusal :=
  .next (whenGuard w.g w.gn (fun s => sendAtomic w 0x04 7 (sregOf (rd s) (dstNum w.dst + 1)) s) s)

/-- SWAP (R241, R242). -/
def execSwap (w : O3) (s : State) : Host.Outcome State Fault Refusal :=
  .next (whenGuard w.g w.gn (sendAtomic w 0x05 6 0) s)

/-! ### At the homes -/

/-- Do two posted writes share a byte? -/
def sharesByte (a b : Posted) : Bool := decide (a.pa < b.pa + b.data.length) && decide (b.pa < a.pa + a.data.length)

/-- Does the die vector clock that a write of a strand carries name a posted write of a strand, and has that the same home? (R229) -/
def names (o : Origin) (pa : Nat) (e : Posted) : Bool :=
  decide (e.strand < 4) && decide (homeDie e.pa = homeDie pa) && decide (e.org.seq ≤ SMap.get 0 o.clk (dieOf e.spn))

/-- Does it name an addend on its way to a window of base die `d`? -/
def namesAddend (s : State) (o : Origin) (d : Nat) : Bool :=
  s.windows.any fun x => decide (x.1 / 64 = d) && x.2.queue.any fun q =>
    decide (q.org.num ≠ o.num) && decide (q.org.seq ≤ SMap.get 0 o.clk (dieOf q.spn))

/-- Does it name an atomic request that base die `d` has yet to perform? -/
def namesRequest (s : State) (o : Origin) (d : Nat) : Bool :=
  s.spindles.any fun x => x.2.strands.any fun y =>
    match y.2.mem with
    | some m =>
      (match m.atom with
        | some a => decide (a.org.num ≠ o.num) && decide (a.org.seq ≤ SMap.get 0 o.clk (dieOf x.1)) && m.reqs.any fun r => decide (homeDie r.1 = d)
        | none => false)
    | none => false

/-- May a home perform a strand's write, `before` being the posted writes before it: does its clock name none that the home has yet to
apply? (R229) -/
def homeReady (s : State) (o : Origin) (pa : Nat) (before : List Posted) : Bool :=
  before.all (fun e => !names o pa e) && !namesAddend s o (homeDie pa) && !namesRequest s o (homeDie pa)

/-- May entry `n` of the posted writes be applied: no earlier entry of its strand stands before it, and its clock names none that its
home has yet to apply? The lanes of one word may be applied in any order where they share no byte (R191, R229, R234). -/
def mayApply (s : State) (n : Nat) (w : Posted) : Bool :=
  ((s.posted.take n).all fun e =>
    decide (e.spn ≠ w.spn) || decide (e.strand ≠ w.strand) || (decide (e.grp = w.grp) && !sharesByte e w)) &&
    (decide (4 ≤ w.strand) || homeReady s w.org w.pa (s.posted.take n))

/-- Remove entry `n` of the posted writes. -/
def dropPosted (n : Nat) (s : State) : State := { s with posted := s.posted.take n ++ s.posted.drop (n + 1) }

/-- HANDLE with reason 0x05 to the writer (R180, R328). -/
def refuseWrite (w : Posted) (s : State) : State :=
  deliverTrap w.spn w.strand 0x04 (BitVec.ofNat 32 (5 * 2 ^ 24 + w.hn * 2 ^ 20 + w.lane * 2 ^ 14)) w.va (some w.exl) s

/-- Are two posted writes pieces of the store of one word? -/
def sameStore (a b : Posted) : Bool :=
  decide (a.spn = b.spn) && decide (a.strand = b.strand) && decide (a.grp = b.grp) && a.atom.isNone && b.atom.isNone

/-- The pieces of a word's store on their way that the home would refuse. -/
def refusedPieces (s : State) (w : Posted) : List Posted :=
  s.posted.filter fun e => sameStore w e && refusesAny s e.att e.pa e.data.length

/-- Of two pieces of a word's store, the one of the lower lane, or of the lower address. -/
def lowerPiece (a b : Posted) : Posted := if b.lane < a.lane ∨ (b.lane = a.lane ∧ b.va < a.va) then b else a

/-- A piece of a word's store is refused: no refused piece of the word is written, and one trap names the lowest (R180, R328). -/
def refuseStore (w : Posted) (s : State) : State :=
  let gone := refusedPieces s w
  refuseWrite (gone.foldl lowerPiece w) { s with posted := s.posted.filter fun e => !gone.contains e }

/-- Note that a strand has written a range of lines. -/
def noteLines (n k : Nat) (att : Option (BitVec 16)) (rel : BitVec 5) (poisoned : Bool) (pa len : Nat) (s : State) : State :=
  (lineStarts pa len).foldl (fun s a =>
    updStrand n k (fun st => { st with lines := SMap.set false st.lines (a / 128) true }) (dirtyLine (skeinOf n) att rel poisoned a s)) s

/-- Apply a write of a strand at its home, or refuse it. -/
def applyWrite (w : Posted) (bs : List Byte) (s : State) : State :=
  if refusesAny s w.att w.pa bs.length then refuseStore w s
  else clearWhole w (noteLines w.spn w.strand w.att w.rel w.marked w.pa bs.length (homeWrite w.org w.att w.pa bs w.marked s))

/-- The kept writes that an atomic operation's read at the home is served after: all (R228). -/
def serveLast (s : State) (x : Option (BitVec 16)) (pa len : Nat) : List (WriteRec × Bool) :=
  servedAfter (fun _ => true) false (readAt s x pa) len [] s.wlog

/-- What a strand gains by an atomic operation's read (R229, R234). -/
def gainLast (n k : Nat) (x : Option (BitVec 16)) (pa len : Nat) (s : State) : State :=
  updView n k (View.gain k (readAt s x pa) len (serveLast s x pa len)) s

/-- Where the write of an atomic operation of a strand comes from: it follows the strands' writes that the operation has read, and hands on
what a write carries that it read whole, for the release sequence (R229, R232). -/
def atomOrigin (s : State) (x : Option (BitVec 16)) (pa len : Nat) (o : Origin) : Origin :=
  let es := ((serveLast s x pa len).filter (·.2)).map (·.1)
  let v := (es.foldl (fun v e => v.causal e.org) { View.start with hb := o.dep, clk := o.clk })
  { o with
    dep := v.hb
    clk := v.clk
    rel := match es with | [e] => if e.covers (readAt s x pa) len then joinRel o.rel e.org.rel else o.rel | _ => o.rel }

/-- A posted ATOM is performed at its home (R241). Poison stops it and raises POISON (R242). -/
def execAtomApply (n : Nat) (s : State) : Host.Outcome State Fault Refusal :=
  .next (match s.posted[n]? with
    | none => s
    | some w =>
      match w.atom with
      | none => s
      | some a =>
        let s1 := dropPosted n s
        let len := w.data.length
        if !mayApply s n w then s
        else if stale s w.tag w.att then s1
        else if inDevice s w.part w.va.toNat then
          let new := atomNew a.1.toNat a.2 (ofBytes (devBytes s w.part (devOff w.va.toNat) len)) (ofBytes w.data)
          match devStore w.part (len + 1) (devOff w.va.toNat) (toBytes new len) s1 with
          | .ok s2 => s2
          | .error _ => s1
        else
          match loadPoison s w.att [(w.pa, w.va, len)] with
          | some q =>
            consume w.part q.1 w.va w.tag
              (deliverTrap w.spn w.strand 0x0E (BitVec.ofNat 32 (poisonDetail q.1 w.tag)) w.va (some w.exl) s1)
          | none =>
            applyWrite { w with org := atomOrigin s w.att w.pa len w.org }
              (toBytes (atomNew a.1.toNat a.2 (ofBytes (homeBytes s w.att w.pa len)) (ofBytes w.data)) len)
              (gainLast w.spn w.strand w.att w.pa len s1))

/-- A write of the host or of another package: it releases what that agent has written before (R227, R235). One that is an atomic
operation, as `rmw` says, carries on what it has read (R232). DESIGN CHOICE (log entry 18). -/
def outsideWrite (a : Nat) (rmw : Bool) (x : Option (BitVec 16)) (pa : Nat) (bs : List Byte) (s : State) : State :=
  let s1 := noteRelease 0 a 0x1F s
  let o := originOf s1 0 a
  homeWrite (if rmw then atomOrigin s1 x pa bs.length o else o) x pa bs false (issueWrite 0 a s1)

/-- The focus on a word whose request is out. -/
def focusOn (n k : Nat) (addr next : Word) : Focus :=
  { Focus.start with spn := n, strand := k, addr := addr, group := addr, next := next }

end Sys2Proof.Machine
end

