-- ==== Sys2Proof/Machine/Blocks.lean ====
section
/-! DEFINITION. Translation, blocks and page requests, class 0x11 (R177 to R199). -/

namespace Sys2Proof.Machine

/-! ### Handles (R178, R196) -/

/-- TRANS: the handle is deposited 24 cycles on. -/
def execTrans (w : O3) (s : State) : Host.Outcome State Fault Refusal :=
  .next (whenGuard w.g w.gn (fun s =>
    let va := srcZero s w.a
    let r := handleFor s (mySpindle s).part va.toNat
    let n := match w.dst with | .h i => i.val | _ => 0
    updMe (fun st => { st with handles := st.handles ++
      [{ due := s.cycle + 24, h := n, value := r.1, pa := r.2, va := va, killed := false }] }) s) s)

/-- HREL: 0 at c + 1. -/
def execHrel (w : O3) (s : State) : Host.Outcome State Fault Refusal :=
  .next (whenGuard w.g w.gn (fun s => landAt 1 (match w.dst with | .h r => .h r.val 0 | _ => .none) 0 s) s)

/-- HCHK. -/
def execHchk (w : O3) (s : State) : Host.Outcome State Fault Refusal :=
  .next (whenGuard w.g w.gn (fun s => landS 1 w.dst (hregOf (rd s) (hNum w.a)) 0 s) s)

/-- Deposit the handles that are due, in the order of their issue; one whose page was invalidated deposits 0 (R178, R179). -/
def execHandleDeposit (n k : Nat) (s : State) : Host.Outcome State Fault Refusal :=
  .next (updStrand n k (fun st =>
    let due := st.handles.filter fun d => decide (d.due ≤ s.cycle)
    due.foldl (fun st d =>
      { setH d.h (if d.killed then 0 else d.value) st with hpa := SMap.set 0 st.hpa d.h (if d.killed then 0 else d.pa) })
      { st with handles := st.handles.filter fun d => !decide (d.due ≤ s.cycle) }) s)

/-! ### Blocks (R185, R197) -/

/-- Block `b` of a spindle. -/
def blockAt (p : Spindle) (b : Nat) : Block := SMap.get .start p.blocks b

/-- Replace block `b`. -/
def setBlock (b : Nat) (x : Block) (p : Spindle) : Spindle := { p with blocks := SMap.set .start p.blocks b x }

/-- SCHED of a block in a state that a word does not leave. -/
def raiseBlock (b : Nat) (s : State) : State := raiseSched 0xE5 b s

/-- LDBLK. DESIGN CHOICE (log entry 119): a block of the device region is filled and held as one of memory. -/
def execLdblk (w : O3) (s : State) : Host.Outcome State Fault Refusal :=
  .next (whenGuard w.g w.gn (fun s =>
    let d := (srcZero s w.c).toNat
    let n := bits d 0 6 + 1
    let b := bits d 16 4
    whenAccess w 128 (128 * n) false (fun va pa nr s =>
      if nr then raiseHandle 3 (hNum w.a) 0 (BitVec.ofNat 64 va) s
      else if (blockAt (mySpindle s) b).st ≠ .free then raiseBlock b s
      else updMySpindle (setBlock b ⟨.filling, BitVec.ofNat 64 va, pa, n, bits d 8 6, attOf s (me s).tag,
        strandHands s s.cur.spn s.cur.strand⟩) s) s) s)

/-- The block that a word names. -/
def blockNum (s : State) (w : O3) : Nat := srcNum s w.a 4

/-- BLKWAIT. -/
def execBlkwait (w : O3) (s : State) : Host.Outcome State Fault Refusal :=
  .next (whenGuard w.g w.gn (fun s =>
    let x := (blockAt (mySpindle s) (blockNum s w)).st
    if x = .free ∨ x = .ready then s else again s) s)

/-- Move a READY block on, or raise SCHED. -/
def leaveReady (w : O3) (nx : BlkSt) (s : State) : State :=
  let b := blockNum s w
  let x := blockAt (mySpindle s) b
  if x.st = .ready then updMySpindle (setBlock b { x with st := nx }) s else raiseBlock b s

/-- WBBLK. -/
def execWbblk (w : O3) (s : State) : Host.Outcome State Fault Refusal :=
  .next (whenGuard w.g w.gn (leaveReady w .writing) s)

/-- EVBLK. -/
def execEvblk (w : O3) (s : State) : Host.Outcome State Fault Refusal :=
  .next (whenGuard w.g w.gn (leaveReady w .evicting) s)

/-- The keys of the copies that a skein's L2 may hold of a block's lines. -/
def blockKeys (n : Nat) (x : Block) : List Nat :=
  (upto x.lines).flatMap fun i => [copyKey (skeinOf n) (x.pa + 128 * i) false, copyKey (skeinOf n) (x.pa + 128 * i) true]

/-- A line of a block is held: one that is present as it is, but for its scope tag, another one filled (R185, R236, R330, R338). -/
def holdLine (skein : Nat) (x : Option (BitVec 16)) (pa : Nat) (s : State) : State :=
  let s1 := touchLine skein x pa s
  match lookup s1 skein x pa with
  | some t => updCopy skein pa t (fun l => { l with held := true, scope := 0x1F }) s1
  | none => s1

/-- Does another block of a skein than block `b` of spindle `n` hold a line? -/
def heldElse (s : State) (n b pa : Nat) : Bool :=
  s.spindles.any fun x => decide (skeinOf x.1 = skeinOf n) && x.2.blocks.any fun y =>
    !(decide (x.1 = n) && decide (y.1 = b)) && decide (y.2.st ≠ .free) && decide (y.2.st ≠ .filling) &&
      decide (y.2.pa / 128 ≤ pa / 128) && decide (pa / 128 < y.2.pa / 128 + y.2.lines)

/-- Copies are written back, with their marks (R185, R329, R338). -/
def cleanCopies (keys : List Nat) (s : State) : State :=
  keys.foldl (fun s k =>
    let s1 := homeTaint k s
    { s1 with l2 := SMap.modify .fresh s1.l2 k fun l => if l.here then { l with dirty := false } else l }) s

/-- The lines of a block are filled as one unit (R185). -/
def fillBlock (n : Nat) (x : Block) (s : State) : State :=
  (upto x.lines).foldl (fun s i => holdLine (skeinOf n) x.att (x.pa + 128 * i) s) s

/-- Every line of a block is filled: READY, and BSEM is raised. -/
def execBlockFillDone (n b : Nat) (s : State) : Host.Outcome State Fault Refusal :=
  let x := blockAt (spindleAt s n) b
  .next (if x.st ≠ .filling then s
    else carrySem n x.sem x.carry (raiseSem n x.sem 1 [] (fillBlock n x (updSpindle n (setBlock b { x with st := .ready }) s))))

/-- The dirty lines of a block have reached the memory-side cache: READY. -/
def execBlockWritebackDone (n b : Nat) (s : State) : Host.Outcome State Fault Refusal :=
  let x := blockAt (spindleAt s n) b
  .next (if x.st ≠ .writing then s
    else cleanCopies (blockKeys n x) (updSpindle n (setBlock b { x with st := .ready }) s))

/-- The lines of a block are written and released, but for those that another block holds: FREE. -/
def releaseBlock (n b : Nat) (s : State) : State :=
  let x := blockAt (spindleAt s n) b
  let keys := (blockKeys n x).filter fun k => (SMap.get L2Line.fresh s.l2 k).held
  let mine := keys.filter fun k => !heldElse s n b (k / 2 % 2 ^ 46 * 128)
  mine.foldl (fun s k => dropCopy k s) (cleanCopies keys (updSpindle n (setBlock b .start) s))

/-- An eviction is complete. -/
def execBlockEvictDone (n b : Nat) (s : State) : Host.Outcome State Fault Refusal :=
  .next (if (blockAt (spindleAt s n) b).st ≠ .evicting then s else releaseBlock n b s)

/-! ### Residency and page requests (R181 to R183, R198, R199) -/

/-- RESCHK: the flags are read and cleared at issue. -/
def execReschk (w : O3) (s : State) : Host.Outcome State Fault Refusal :=
  .next (whenGuard w.g w.gn (fun s =>
    landS 1 w.dst (me s).resid 0 (updMe (fun st => { st with resid := 0 }) s)) s)

/-- Entries of a partition's page request ring, 0 where it is not enabled (R403). -/
def ringSize (s : State) (p : Nat) : Nat := if bitOf (partWord s p 6) 0 then 2 ^ (bits (partWord s p 6) 8 4 + 8) else 0

/-- Is the ring full? -/
def ringFull (s : State) (p : Nat) : Bool :=
  ringSize s p = 0 || decide ((bits (partWord s p 7) 32 32 + 2 ^ 32 - bits (partWord s p 7) 0 32) % 2 ^ 32 = ringSize s p)

/-- Where the next entry goes, none where its page is not there. -/
def ringSlot (s : State) (p : Nat) : Option Nat :=
  physOf s p (bits (partWord s p 6) 12 45 * 4096 + 16 * (bits (partWord s p 7) 32 32 % ringSize s p))

/-- The two words of an entry (R182). -/
def ringEntry (va spn agent sem src : Nat) (wr : Bool) (tag : BitVec 16) : List Word :=
  [BitVec.ofNat 64 (va % 2 ^ 57 / 2 ^ 16 * 2 ^ 16 + b2n wr),
   BitVec.ofNat 64 (2 ^ 63 + src * 2 ^ 58 + spn * 2 ^ 32 + agent * 2 ^ 24 + sem * 2 ^ 16 + tag.toNat)]

/-- Append an entry to a partition's ring and to its outstanding requests; none where the ring is full. DESIGN CHOICE (log entry 119):
a ring whose page is not there, or refuses the entry (R328), counts as full. -/
def appendRequest (p va spn agent sem src : Nat) (wr : Bool) (tag : BitVec 16) (carry : SMap (List Nat)) (s : State) : Option State :=
  if ringFull s p then none
  else
    match ringSlot s p with
    | none => none
    | some pa =>
      let s1 := writeNow 0 ringAgent none pa (wordBytes (ringEntry va spn agent sem src wr tag)) s
      let r : PgReq :=
        { pa := pa, src := src, spn := (spindleAt s spn).lcode, sem := sem, task := (spindleAt s spn).task, carry := carry }
      if refusesAny s none pa 16 then none
      else some { s1 with parts := SMap.modify .start s1.parts p fun x =>
        { x with w := SMap.modify 0 x.w 7 (fun v => v + 0x1_0000_0000), requests := x.requests ++ [r] } }

/-- PGREQ. -/
def execPgreq (w : O3) (s : State) : Host.Outcome State Fault Refusal :=
  .next (whenGuard w.g w.gn (fun s =>
    let h := hregOf (rd s) (hNum w.a)
    let k := w.b.litVal
    if !hV h then raiseHandle 1 (hNum w.a) 0 0 s
    else if !hNR h then
      raiseSem s.cur.spn k 1 (mySpindle s).q5vt (carrySem s.cur.spn k (strandHands s s.cur.spn s.cur.strand) s)
    else
      match appendRequest (mySpindle s).part (hBase h) s.cur.spn s.cur.strand k 1 false (me s).tag (strandHands s s.cur.spn s.cur.strand) s with
      | some s1 => s1
      | none => again s) s)

/-- Is the task of a request still there, neither completed nor discarded? -/
def requestLive (s : State) (r : PgReq) : Bool := (r.task.bind (SMap.get none s.tasks)).isSome

/-- Raise semaphore `k` of the logical spindle `l` of a pre-empted task, where pre-emption has saved it. -/
def raiseSaved (l k c : Nat) (carry : SMap (List Nat)) (t : Task) : Task :=
  { t with saved := t.saved.map fun x =>
      if x.1 = l then (x.1, updSem k (fun y => { addSem c 1 [] y with carry := joinRel y.carry carry }) x.2) else x }

/-- Raise the semaphore of a request on its spindle, the saved one where its task is pre-empted (R119, R183). -/
def raiseRequest (r : PgReq) (s : State) : State :=
  match r.task.bind fun t => (SMap.get none s.tasks t).map fun x => (t, x) with
  | none => s
  | some (t, x) =>
    match x.binding.find? fun b => b.1 = r.spn with
    | some b => raiseSem b.2 r.sem 1 [] (carrySem b.2 r.sem r.carry s)
    | none => { s with tasks := SMap.set none s.tasks t (some (raiseSaved r.spn r.sem s.cycle r.carry x)) }

/-- DONE of a request's entry. -/
def requestDone (s : State) (r : PgReq) : Bool := bitOf (memWord s (r.pa + 8)) 62

/-- Unpark the copy channels of a spindle (R183). -/
def unpark (p : Spindle) : Spindle :=
  (upto 5).foldl (fun p q => updQueue q (fun x => { x with recs := x.recs.map fun r => { r with parked := none } }) p) p

/-- REPLAY: parked accesses are tried again, and each PGREQ whose page is there raises its semaphore (R183). -/
def replayRequests (p : Nat) (s : State) : State :=
  let rs := (partAt s p).requests.filter (requestLive s)
  let s1 := rs.foldl (fun s r => if r.src = 1 ∧ requestDone s r then raiseRequest r s else s) s
  let keep := rs.filter fun r => r.src = 1 && !requestDone s r
  let s2 := { s1 with parts := SMap.modify .start s1.parts p fun x => { x with requests := keep } }
  s2.spindles.foldl (fun s x => if x.2.part = p ∧ x.2.task.isSome then updSpindle x.1 unpark s else s) s2

/-- REPLAY (R199). -/
def execReplay (w : O3) (s : State) : Host.Outcome State Fault Refusal :=
  .next (whenGuard w.g w.gn (whenPriv fun s => replayRequests (mySpindle s).part s) s)

end Sys2Proof.Machine
end

