-- ==== Sys2Proof/Machine/Sync.lean ====
section
/-! DEFINITION. Semaphores, spools, phasers and TICKW, class 0x14 (R200 to R221), with the events that end waits. -/

namespace Sys2Proof.Machine

/-! ### Waiting (R203) -/

/-- The first issue of a waiting word: it waits for object `obj` from now on, and its turn comes in the service of this
cycle (R201). -/
def startWait (code obj e target : Nat) (s : State) : State :=
  again (updMe (fun st => { st with wait := some ⟨code, obj, s.tick, e, target, s.cycle⟩ }) s)

/-- A word that waits: the first issue starts the wait; in each later turn `ok` says whether it is met, and `act` acts on
the wait as it was. -/
def waitWord (code obj e target : Nat) (ok : WaitSt → State → Bool) (act : WaitSt → State → State) (s : State) : State :=
  match (me s).wait with
  | none => startWait code obj e target s
  | some x => if ok x s then act x (updMe (fun st => { st with wait := none, arrived := false }) s) else again s

/-- The timeout literal of a word. -/
def timeoutOf (w : O3) : Nat := w.c.litVal

/-- Has the limit of a wait passed? -/
def waitOver (s : State) (x : WaitSt) : Bool := decide (x.limit ≠ 0) && decide (x.since + 2 ^ x.limit ≤ s.tick)

/-- The limit of a strand's wait is reached before the wait is met: TIMEOUT, and nothing else changes. It comes once the waits of the cycle
have had their turns, so that a wait that is met in this cycle is met, and not while the task is being stopped (R203). While a trap entry
is in progress, or a purge of its tag, the word counts as not issued (R118, R340). -/
def execWaitTimeout (n k : Nat) (s : State) : Host.Outcome State Fault Refusal :=
  .next (match (strandAt s n k).wait with
    | none => s
    | some x =>
      let p := spindleAt s n
      if !waitOver s x || !p.waited || p.stopping || decide (p.dbg.state ≠ 0) || (strandAt s n k).trap.isSome ||
          purging s p.part (strandAt s n k).tag then s
      else
        let pc := (strandAt s n k).pc
        raise 0x0D (det x.code x.obj) 0 (updStrand n k (fun st => { st with wait := none, arrived := false })
          { s with cur := focusOn n k pc (addr57 (pc + 8)) }))

/-! ### Semaphores (R205 to R208) -/

/-- The semaphore that a word names. -/
def semNum (s : State) (w : O3) : Nat := srcNum s w.a 6

/-- SEMSIG. -/
def execSemsig (w : O3) (s : State) : Host.Outcome State Fault Refusal :=
  .next (whenGuard w.g w.gn (fun s => raiseSem s.cur.spn (semNum s w) (srcNum s w.b 32) (mySpindle s).q5vt
    (carrySem s.cur.spn (semNum s w) (strandHands s s.cur.spn s.cur.strand) s)) s)

/-- A SEMWAIT is met: the count is consumed, and under determinism mode the next entry takes the timestamp (R206, R224). -/
def meetWait (x : WaitSt) (s : State) : State :=
  let vt := (semAt (mySpindle s) x.obj).vt
  tap 0x01 s.cur.spn s.cur.strand (me s).tag (BitVec.ofNat 64 x.obj) (BitVec.ofNat 64 (s.cycle - x.at_)) (BitVec.ofNat 64 x.target)
    (updMySpindle (fun p => { updSem x.obj (consumeSem x.target) p with q5in := if p.det then vtMax p.q5in vt else p.q5in })
      (takeCarry s.cur.spn s.cur.strand x.obj s))

/-- SEMWAIT. -/
def execSemwait (w : O3) (s : State) : Host.Outcome State Fault Refusal :=
  .next (whenGuard w.g w.gn (fun s =>
    waitWord 1 (semNum s w) (timeoutOf w) (srcNum s w.b 32)
      (fun x s => decide (x.target ≤ (semAt (mySpindle s) x.obj).count.toNat)) meetWait s) s)

/-- SEMSET. -/
def execSemset (w : O3) (s : State) : Host.Outcome State Fault Refusal :=
  .next (whenGuard w.g w.gn (fun s =>
    let k := semNum s w
    let p := mySpindle s
    if p.det && semNamed p k then raiseNondet 0x12 k s
    else updMySpindle (updSem k (setSem s.cycle (srcNum s w.b 32) (if p.det then p.q5vt else []))) s) s)

/-- SEMRD. -/
def execSemrd (w : O3) (s : State) : Host.Outcome State Fault Refusal :=
  .next (whenGuard w.g w.gn (fun s =>
    if (mySpindle s).det && !(me s).privm then raiseNondet 0x11 0 s
    else
      let x := semAt (mySpindle s) (semNum s w)
      landS 1 w.dst (BitVec.ofNat 64 (b2n x.ovf * 2 ^ 32 + x.count.toNat)) 0 s) s)

/-! ### Spools (R210 to R212) -/

/-- The spool that a word names. -/
def spoolNum (s : State) (w : O3) : Nat := srcNum s w.a 4

/-- SPLDEF. -/
def execSpldef (w : O3) (s : State) : Host.Outcome State Fault Refusal :=
  .next (whenGuard w.g w.gn (fun s =>
    let i := spoolNum s w
    let d := (srcZero s w.b).toNat
    let x := spoolAt (mySpindle s) i
    if (x.on && !x.idle) || !spoolOk d (mySpindle s).sg then raiseSched 0xE6 i s
    else updMySpindle (setSpool i (.ofDesc d)) s) s)

/-- Go on where the spool is defined, else raise SCHED. -/
def whenSpool (i : Nat) (k : State → State) (s : State) : State :=
  if (spoolAt (mySpindle s) i).on then k s else raiseSched 0xE7 i s

/-- SPFREEW: claim the slot at TAIL. -/
def claimSlot (w : O3) (x : WaitSt) (s : State) : State :=
  let p := spoolAt (mySpindle s) x.obj
  landS 1 w.dst (BitVec.ofNat 64 (p.base + p.tail * p.bytes)) 0
    (updMySpindle (setSpool x.obj { p with tail := (p.tail + 1) % p.slots, pclaim := p.pclaim + 1 }) s)

/-- SPFREEW. -/
def execSpfreew (w : O3) (s : State) : Host.Outcome State Fault Refusal :=
  .next (whenGuard w.g w.gn (fun s =>
    whenSpool (spoolNum s w) (waitWord 2 (spoolNum s w) (timeoutOf w) 0
      (fun x s => decide (0 < (spoolAt (mySpindle s) x.obj).free)) (claimSlot w)) s) s)

/-- SPFILLW: take the oldest published slot. -/
def takeSlot (w : O3) (x : WaitSt) (s : State) : State :=
  let p := spoolAt (mySpindle s) x.obj
  landS 1 w.dst (BitVec.ofNat 64 (p.base + (p.head + p.cclaim) % p.slots * p.bytes)) 0
    (updMySpindle (setSpool x.obj { p with ready := p.ready - 1, cclaim := p.cclaim + 1 }) s)

/-- SPFILLW. -/
def execSpfillw (w : O3) (s : State) : Host.Outcome State Fault Refusal :=
  .next (whenGuard w.g w.gn (fun s =>
    whenSpool (spoolNum s w) (waitWord 2 (spoolNum s w) (timeoutOf w) 0
      (fun x s => decide (0 < (spoolAt (mySpindle s) x.obj).ready)) (takeSlot w)) s) s)

/-- SPPUB. -/
def execSppub (w : O3) (s : State) : Host.Outcome State Fault Refusal :=
  .next (whenGuard w.g w.gn (fun s =>
    let i := spoolNum s w
    let x := spoolAt (mySpindle s) i
    if !x.on || decide (x.pclaim = 0) then raiseSched 0xE7 i s
    else updMySpindle (setSpool i { x with pclaim := x.pclaim - 1, ready := x.ready + 1 }) s) s)

/-- SPRET. -/
def execSpret (w : O3) (s : State) : Host.Outcome State Fault Refusal :=
  .next (whenGuard w.g w.gn (fun s =>
    let i := spoolNum s w
    let x := spoolAt (mySpindle s) i
    if !x.on || decide (x.cclaim = 0) then raiseSched 0xE7 i s
    else updMySpindle (setSpool i { x with head := (x.head + 1) % x.slots, cclaim := x.cclaim - 1 }) s) s)

/-! ### Phasers (R217 to R219) -/

/-- Send the counts of a step-group phaser of a context to the neighbours in the commit tree but one, each getting those of this device
and of the other neighbours (R216). DESIGN CHOICE (log entry 108): what the messages of the gather carry. -/
def gatherFrom (c lit : Nat) (but : Option Nat) (s : State) : State :=
  let g := ctxAt s c
  let x := SMap.get .start g.phasers (lit % 16)
  let others := (if treeRoot s g.grp then [] else [treeParent s g.grp]) ++ treeKids s g.grp
  (others.filter fun q => but ≠ some q).foldl (fun s q =>
    let from_ := x.far.filter fun f => decide (f.pkg ≠ q) && decide (f.phase = x.phase)
    let m : GatherMsg := { src := ownPkg s g.grp, grp := g.grp, att := if g.isOpen then some g.att else none, idx := lit % 16,
                           phase := x.phase, signallers := from_.foldl (fun a f => a + f.sigs) x.sigs,
                           arrivals := from_.foldl (fun a f => a + f.arrs) x.arrs }
    { s with net := s.net ++ [.gather q m] }) s

/-- The same of the phaser that a literal names on a spindle. -/
def gatherOut (n lit : Nat) (but : Option Nat) (s : State) : State :=
  if phLevel lit ≠ 4 then s
  else match (taskOf s (spindleAt s n)).bind (stepCtx s) with | some c => gatherFrom c lit but s | none => s

/-- The record that PHREG makes on a spindle that sees phase `seen`, and the phaser after it (R215). -/
def newReg (lit mode : Nat) (seen : BitVec 32) (x : Phaser) : PhReg × Phaser :=
  if x.sigs + x.farSigs = 0 then
    ({ ph := lit, mode := mode, arrph := x.phase - 1, wph := x.phase, drop := false, pend := false, live := decide (seen = x.phase) },
     { x with sigs := b2n (bitOf mode 0) })
  else ({ ph := lit, mode := mode, arrph := x.phase, wph := x.phase + 1, drop := false, pend := true, live := false }, x)

/-- PHREG. -/
def execPhreg (w : O3) (s : State) : Host.Outcome State Fault Refusal :=
  .next (whenGuard w.g w.gn (fun s =>
    let lit := w.a.litVal
    let st := me s
    let noStep := !(match taskOf s (mySpindle s) with | some t => t.instep | none => false)
    if (regOf st lit).isSome || decide (8 ≤ st.regs.length) || (decide (phLevel lit = 4) && noStep) then raiseSched 0xE8 lit s
    else
      let r := newReg lit w.b.litVal (phSeen (mySpindle s) lit) (phaserAt s (mySpindle s) lit)
      gatherOut s.cur.spn lit none (setPhaser s.cur.spn lit r.2 (updMe (fun st => { st with regs := st.regs ++ [r.1] }) s))) s)

/-- PHDROP. -/
def execPhdrop (w : O3) (s : State) : Host.Outcome State Fault Refusal :=
  .next (whenGuard w.g w.gn (fun s =>
    let lit := w.a.litVal
    match regOf (me s) lit with
    | none => raiseSched 0xE9 lit s
    | some r =>
      let x := phaserAt s (mySpindle s) lit
      if r.drop then raiseSched 0xE9 lit s
      else if r.pend || !bitOf r.mode 0 then updMe (fun st => { st with regs := st.regs.filter fun q => q.ph ≠ lit }) s
      else
        let s1 := updMe (updReg lit fun r => { r with drop := true, arrph := x.phase }) s
        if r.arrph = x.phase then s1 else gatherOut s.cur.spn lit none (arrive s.cur.spn lit (strandHands s s.cur.spn s.cur.strand) s1)) s)

/-- The strand's live record with the mode bits that a word needs, else SCHED. -/
def whenReg (lit need : Nat) (k : State → State) (s : State) : State :=
  match regOf (me s) lit with
  | none => raiseSched 0xE9 lit s
  | some r => if r.drop ∨ r.mode &&& need ≠ need then raiseSched 0xE9 lit s else k s

/-- The mask of a phaser's release and acquire: S, and D at step-group level (R217). -/
def phMask (lit : Nat) : BitVec 5 := if phLevel lit = 4 then 0x12 else 0x10

/-- Is the strand's registration effective, as its spindle sees it? (R215, R216) -/
def regLive (s : State) (lit : Nat) : Bool :=
  match regOf (me s) lit with
  | some r => !r.pend && r.live
  | none => false

/-- Has the strand arrived in the phase that its spindle sees? -/
def hasArrived (s : State) (lit : Nat) : Bool :=
  match regOf (me s) lit with | some r => decide (r.arrph = phSeen (mySpindle s) lit) | none => true

/-- Arrive in the phase that the spindle sees, at the end of the arrival's release (R217). -/
def makeArrival (lit : Nat) (s : State) : State :=
  let s1 := endRelease s.cur.spn s.cur.strand (phMask lit) s
  gatherOut s.cur.spn lit none (arrive s.cur.spn lit (strandHands s1 s.cur.spn s.cur.strand)
    (updMe (updReg lit fun r => { r with arrph := phSeen (mySpindle s) lit }) s1))

/-- Has the release of the strand's arrival completed? -/
def arrivalReleased (s : State) (lit : Nat) : Bool := releaseDone s s.cur.spn s.cur.strand (phMask lit)

/-- PHARR: a release, then the arrival. -/
def execPharr (w : O3) (s : State) : Host.Outcome State Fault Refusal :=
  let lit := w.a.litVal
  .next (whenGuard w.g w.gn (whenReg lit 1 fun s =>
    waitWord 3 lit 0 0 (fun _ s => regLive s lit && !hasArrived s lit && arrivalReleased s lit) (fun _ => makeArrival lit)
      (beginRelease s.cur.spn s.cur.strand (phMask lit) s)) s)

/-- What a strand knows after the wait for a phase: what the arrivals of that phase have handed it, and its acquire (R217, R231). -/
def phaseView (s : State) (lit : Nat) : View :=
  let x := match regOf (me s) lit with | some r => r.wph | none => 0
  ((me s).view.handed 4 (SMap.get [] (phaserAt s (mySpindle s) lit).passed x.toNat)).acquire (phMask lit)

/-- Is the strand's registration effective, and has the phase that it awaits completed, and its acquire (R219, R235)? -/
def phasePassed (s : State) (lit : Nat) : Bool :=
  match regOf (me s) lit with
  | some r => !r.pend && r.live && later (phSeen (mySpindle s) lit) r.wph &&
      acquireClear s (skeinOf s.cur.spn) (phMask lit) (phaseView s lit).hb
  | none => false

/-- Write an optional scalar destination. -/
def landS0 (d : Dst) (x : Word) (s : State) : State := if d.isS then landS 1 d x 0 s else s

/-- The end of a phaser wait: d := WPH, WPH moves on, and its acquire, with the mask of R217. -/
def passPhase (w : O3) (lit : Nat) (s : State) : State :=
  let x := match regOf (me s) lit with | some r => r.wph | none => 0
  landS0 w.dst (x.zeroExtend 64) (updMe (fun st => { updReg lit (fun r => { r with wph := r.wph + 1 }) st with view := phaseView s lit }) s)

/-- PHWAIT. -/
def execPhwait (w : O3) (s : State) : Host.Outcome State Fault Refusal :=
  let lit := w.a.litVal
  .next (whenGuard w.g w.gn (whenReg lit 2 fun s =>
    waitWord 3 lit (timeoutOf w) 0 (fun _ s => phasePassed s lit) (fun _ => passPhase w lit) s) s)

/-- The arrival of PHARW, made or skipped: from then on its limit counts. -/
def arriveOnce (w : O3) (lit : Nat) (s : State) : State :=
  if (me s).arrived || (me s).wait.isNone || !regLive s lit then s
  else if !hasArrived s lit && !arrivalReleased s lit then s
  else
    let s1 := if hasArrived s lit then s else makeArrival lit s
    updMe (fun st => { st with
      arrived := true
      wait := st.wait.map fun x => { x with since := s.tick, limit := timeoutOf w } }) s1

/-- PHARW: the arrival, then the wait; the arrival is not undone by a timeout. -/
def execPharw (w : O3) (s : State) : Host.Outcome State Fault Refusal :=
  let lit := w.a.litVal
  .next (whenGuard w.g w.gn (whenReg lit 3 fun s =>
    waitWord 3 lit 0 0 (fun _ s => (me s).arrived && phasePassed s lit) (fun _ => passPhase w lit)
      (arriveOnce w lit (beginRelease s.cur.spn s.cur.strand (phMask lit) s))) s)

/-- A spindle sees the phase of a phaser: the records on it that have taken effect do so for their strands too. -/
def seePhase (lit : Nat) (phase : BitVec 32) (p : Spindle) : Spindle :=
  (upto 4).foldl (fun p k => updStrandOf k (updReg lit fun r => { r with live := r.live || !r.pend }) p)
    { p with phView := SMap.set 0 p.phView lit phase }

/-- The release of a phase reaches a spindle (R216). -/
def execPhaserReleaseReceive (n lit : Nat) (s : State) : Host.Outcome State Fault Refusal :=
  .next (updSpindle n (fun p => seePhase lit (phaserAt s p lit).phase p) s)

/-- The counts of a neighbour replace those it has sent before, unless they are of an earlier phase. -/
def putCount (f : FarCount) (fs : List FarCount) : List FarCount :=
  if fs.any fun g => decide (g.pkg = f.pkg) && later g.phase f.phase then fs
  else fs.filter (fun g => decide (g.pkg ≠ f.pkg)) ++ [f]

/-- The spindles whose tasks belong to the step of a context. -/
def stepMembers (s : State) (c : Nat) : List Nat :=
  (s.spindles.filter fun x => match taskOf s x.2 with | some t => decide (stepCtx s t = some c) | none => false).map (·.1)

/-- Complete the phase of a step-group phaser, be a task of the step resident or not (R216). -/
def completeStep (c lit : Nat) (s : State) : State :=
  let r := endPhase lit (stepMembers s c) s
  updCtx c (fun g => { g with
    phasers := SMap.modify .start g.phasers (lit % 16) (Phaser.next s.cycle s.tick (leastNum s) r.2) }) r.1

/-- What an arrival of another device hands on with class D: the writes of other devices that have been applied here (R217, R231,
R235). DESIGN CHOICE (log entry 18). -/
def farCarry (s : State) : SMap (List Nat) :=
  SMap.set [] [] (5 * 1 + 4) ((s.wlog.filter fun e => e.org.cls = 1).map fun e => e.org.num)

/-- The counts of a neighbour reach the context of an open attempt: they go on to the other neighbours, and a completed phase to all;
those of a phase that is over are dropped (R216). -/
def gatherIn (c : Nat) (m : GatherMsg) (s : State) : State :=
  let lit := 64 + m.idx % 16
  let x := SMap.get .start (ctxAt s c).phasers (lit % 16)
  if later x.phase m.phase then s
  else
    let y := { x with far := putCount ⟨m.src, m.phase, m.signallers, m.arrivals⟩ x.far, carry := joinRel x.carry (farCarry s) }
    let s1 := gatherFrom c lit (some m.src) (updCtx c (fun g => { g with phasers := SMap.set .start g.phasers (lit % 16) y }) s)
    if y.full then gatherFrom c lit none (completeStep c lit s1) else s1

/-- How far the attempt of a message is ahead of the last one that its group has opened here. -/
def gatherAhead (s : State) (m : GatherMsg) : Nat :=
  match m.att with
  | none => 0
  | some a => (a - (match groupCtx s m.grp with | some c => (ctxAt s c).att | none => SMap.get 0 s.lastAtt m.grp)).toNat

/-- The counts of a neighbour in the commit tree for a step-group phaser (R216). Those of an attempt that is yet to open wait for it,
those of one that is no longer open are dropped (R324, R337). -/
def receiveGather (m : GatherMsg) (s : State) : State :=
  match (groupCtx s m.grp).filter fun c => (ctxAt s c).isOpen && decide (m.att = some (ctxAt s c).att) with
  | some c => gatherIn c m s
  | none =>
    if 0 < gatherAhead s m ∧ gatherAhead s m < 2 ^ 15 then { s with early := s.early ++ [m] } else s

/-- The counts of a neighbour arrive. -/
def execPhaserGatherReceive (m : GatherMsg) (s : State) : Host.Outcome State Fault Refusal := .next (receiveGather m s)

/-- An attempt has opened: the counts that have waited for it arrive. -/
def receiveEarly (s : State) : State := s.early.foldl (fun s m => receiveGather m s) { s with early := [] }

/-! ### TICKW (R221) -/

/-- TICKW. -/
def execTickw (w : O3) (s : State) : Host.Outcome State Fault Refusal :=
  .next (whenGuard w.g w.gn (fun s =>
    if (mySpindle s).det && w.dst.isS then raiseNondet 0x13 0 s
    else waitWord 4 0 0 (srcZero s w.a).toNat (fun x s => decide (x.target ≤ s.tick))
      (fun _ s => landS0 w.dst (BitVec.ofNat 64 s.tick) s) s) s)

end Sys2Proof.Machine
end

