-- ==== Sys2Proof/Machine/Engine.lean ====
section
/-! DEFINITION. What the engine queues of a spindle share: loop nests, the checks of a push, faults, waits, and the words
MQPUSH's family rests on (R65 to R67, R201, R223 to R225, R246 to R257, R268, R269, R271). -/

namespace Sys2Proof.Machine

/-! ### Loop nests (R65, R246, R247) -/

/-- T3, T2, T1, T0. -/
def Rec.trips (r : Rec) : List Nat := [48, 32, 16, 0].map fun lo => bits (r.word 1) lo 16

/-- T. -/
def Rec.total (r : Rec) : Nat := r.trips.foldl (· * ·) 1

/-- S3, S2, S1, S0 of descriptor `d`. -/
def Rec.strides (r : Rec) (d : Nat) : List Int :=
  [bits (r.word (2 + 2 * d)) 44 20, bits (r.word (2 + 2 * d)) 24 20, bits (r.word (2 + 2 * d)) 4 20,
   bits (r.word (3 + 2 * d)) 44 20].map fun x => signedValue x 20

/-- BASE of descriptor `d`. -/
def Rec.base (r : Rec) (d : Nat) : Int := (bits (r.word (3 + 2 * d)) 24 20 : Nat)

/-- i3, i2, i1, i0 of issue `n`. -/
def indices (n : Nat) : List Nat → List Nat
  | [] => []
  | t :: ts => n / ts.foldl (· * ·) 1 % t :: indices n ts

/-- Loops of a descriptor, the outermost first: trip count and stride. -/
def Rec.dims (r : Rec) (d : Nat) : List (Nat × Int) := r.trips.zip (r.strides d)

/-- An operand of a record: its descriptor, what it is counted in (16-byte units of scratchpad, rows of the accumulators,
or units of a handle's page), the bytes of one access, and the alignment in bytes that is asked of it. -/
structure Operand where
  d : Nat
  acc : Bool
  mem : Bool
  bytes : Nat
  al : Nat
  deriving DecidableEq, Repr

/-- The bias of a push that applies to an operand. -/
def Rec.bias (r : Rec) (o : Operand) : Int := if o.acc then r.abias else if o.mem then 0 else r.sbias

/-- BASE after the bias. -/
def Rec.from (r : Rec) (o : Operand) : Int := r.base o.d + r.bias o

/-- Addr of an operand at issue `n`. -/
def Rec.addr (r : Rec) (o : Operand) (n : Nat) : Int :=
  ((indices n r.trips).zip (r.strides o.d)).foldl (fun a x => a + x.1 * x.2) (r.from o)

/-- Scratchpad or page byte of an operand at issue `n`. -/
def Rec.byte (r : Rec) (o : Operand) (n : Nat) : Nat := 16 * (r.addr o n).toNat

/-- Accumulator row of an operand at issue `n`. -/
def Rec.row (r : Rec) (o : Operand) (n : Nat) : Nat := (r.addr o n).toNat

/-- Lowest address over a loop nest from a base. -/
def lowest (a : Int) (ds : List (Nat × Int)) : Int := ds.foldl (fun a d => a + min 0 (((d.1 - 1 : Nat) : Int) * d.2)) a

/-- Highest address over a loop nest from a base. -/
def highest (a : Int) (ds : List (Nat × Int)) : Int := ds.foldl (fun a d => a + max 0 (((d.1 - 1 : Nat) : Int) * d.2)) a

/-- Lowest address of an operand. -/
def Rec.lo (r : Rec) (o : Operand) : Int := lowest (r.from o) (r.dims o.d)

/-- Highest address of an operand. -/
def Rec.hi (r : Rec) (o : Operand) : Int := highest (r.from o) (r.dims o.d)

/-- The smaller of two optional numbers. -/
def minOpt (a b : Option Int) : Option Int :=
  match a, b with
  | none, y => y
  | x, none => x
  | some x, some y => some (min x y)

/-- The lowest address above a limit over a loop nest from a base. -/
def lowAbove (lim : Int) : Int → List (Nat × Int) → Option Int
  | a, [] => if lim < a then some a else none
  | a, (t, st) :: ds =>
    if highest a ((t, st) :: ds) ≤ lim then none
    else if lim < lowest a ((t, st) :: ds) then some (lowest a ((t, st) :: ds))
    else (upto t).foldl (fun m (i : Nat) => minOpt m (lowAbove lim (a + (i : Int) * st) ds)) none

/-- From the lowest sum of each residue modulo `m`, those with one loop more. -/
def addLoop (m : Nat) (best : List (Option Int)) (d : Nat × Int) : List (Option Int) :=
  (upto m).map fun (q : Nat) => (upto (min d.1 m)).foldl (fun x (c : Nat) =>
    let v : Int := if 0 ≤ d.2 then c * d.2 else ((c + (d.1 - 1 - c) / m * m : Nat) : Int) * d.2
    minOpt x ((nth none best (((q : Int) - v) % m).toNat).map (· + v))) none

/-- The lowest address of an operand that is not a multiple of `m`. -/
def Rec.lowMisaligned (r : Rec) (o : Operand) (m : Nat) : Option Int :=
  let best := (r.dims o.d).foldl (addLoop m) (some 0 :: List.replicate (m - 1) none)
  (upto m).foldl (fun x (q : Nat) => if (r.from o + q) % m = 0 then x else minOpt x ((nth none best q).map (· + r.from o))) none

/-- The lowest failing byte of a scratchpad or page operand against a limit, or the lowest failing row. -/
def Rec.lowFail (r : Rec) (o : Operand) (limit : Nat) : Option Int :=
  let unit : Int := if o.acc then 1 else 16
  if r.lo o < 0 then some (unit * r.lo o)
  else (lowAbove (((limit : Int) - (if o.acc then 1 else o.bytes)) / unit) (r.from o) (r.dims o.d)).map
    fun a => if o.acc then a else max (16 * a) limit

/-! ### Pushing (R67, R256, R268) -/

/-- A refusal of a push: cause, DETAIL and CR.EADDR. -/
abbrev PushErr := Nat × Nat × Word

/-- A 64-bit two's-complement value. -/
def word64 (x : Int) : Word := BitVec.ofInt 64 x

/-- ILLEGAL with reason 11 of a word of class 0x18. -/
def illegalRecord (op : Nat) : PushErr := (0x01, 0x18 * 2 ^ 26 + op * 2 ^ 20 + 11 * 2 ^ 16, 0)

/-- Are words 0 and 1 in order for one of some kinds? (R67) -/
def frameOkRec (kinds : List Nat) (r : Rec) : Bool :=
  kinds.contains r.kind && !bitOf (r.word 0) 57 && decide (r.sinc ≠ 0) && r.trips.all (· ≠ 0)

/-- Is a descriptor wholly zero? -/
def Rec.unused (r : Rec) (d : Nat) : Bool := r.word (2 + 2 * d) = 0 && r.word (3 + 2 * d) = 0

/-- The first refusal in a list of tests. -/
def firstErr (es : List (Option PushErr)) : Option PushErr := es.findSome? id

/-- ALIGN of a record: the lowest misaligned byte offset of all operands (R248). -/
def alignErr (os : List Operand) (r : Rec) : Option PushErr :=
  (os.foldl (fun m o => if o.al ≤ 16 then m else minOpt m (r.lowMisaligned o (o.al / 16))) none).map fun a => (0x03, 0, word64 (16 * a))

/-- BANK of the lowest-numbered operand that leaves its store (R248, R269). -/
def rangeErr (reason limit : Nat) (os : List Operand) (r : Rec) : Option PushErr :=
  os.findSome? fun o => (r.lowFail o limit).map fun a => (0x06, det reason o.d, word64 a)

/-- Bias of a push in bytes or rows: a literal is zero-extended, a register is signed (R256). -/
def pushBias (s : State) (x : Src) : Int :=
  match x with
  | .lit i => (i.toNat : Int)
  | y => signedValue (srcZero s y).toNat 32

/-- A record as it is read from scratchpad, with the biases of its push. -/
def newRec (s : State) (off : Nat) (ws : List Word) (sb ab : Int) : Rec :=
  { w := ws, tag := (me s).tag, seq := 0, strand := s.cur.strand, off := off, sbias := sb / 16, abias := ab, handles := [], za := 0,
    slot := 0, sseq := 0, push := 0, met := false, headAt := 0, start := 0, n := 0, first := 0, rows := [], vt := [], pb := [],
    sent := false, sentAt := 0, src := 0, data := none, parked := none, acks := 0, ports := [], away := false, view := .start }

/-- The words of a record at a scratchpad offset. -/
def recordWords (p : Spindle) (off : Nat) : List Word :=
  (pieces 8 8 (scratchBytes p off 64)).map fun b => BitVec.ofNat 64 (ofBytes b)

/-- Go on with the words of the record that a push names (R171, R256); a poisoned record raises POISON (R338). -/
def whenRecord (off : Nat) (k : List Word → State → State) (s : State) : State :=
  if !aligned off 64 then raiseAlign (BitVec.ofNat 64 off) s
  else if (mySpindle s).sg * 65536 < off + 64 then raise 0x06 (det 1 0) (BitVec.ofNat 64 off) s
  else
    match scratchPoison (mySpindle s) off 64 with
    | some q => raisePoison q.1 (BitVec.ofNat 64 q.2) s
    | none => k (recordWords (mySpindle s) off) s

/-- Append a record to queue `q`: it is head no earlier than the next cycle (R256). The push hands on what its strand has
released (R231). -/
def appendRec (q : Nat) (r : Rec) (s : State) : State :=
  updMySpindle (fun p => updQueue q (fun x => { x with
    recs := x.recs ++ [{ r with
      seq := x.next
      headAt := s.cycle + 1
      push := p.q5
      view := View.start.handed (agentClass (4 + q)) (strandHands s s.cur.spn s.cur.strand) }]
    next := x.next + 1 }) p) s

/-- Write an optional scalar destination with a queue's next number. -/
def landNext (w : O3) (q : Nat) (s : State) : State :=
  landS0 w.dst (BitVec.ofNat 64 (queueAt (mySpindle s) q).next) s

/-! ### Faults of records (R252, R277, R292) -/

/-- AGENT of queue `q` (R380). -/
def queueAgent (q : Nat) : Nat := 4 + q

/-- Where the faults of engines stand in a task's completion status (R252, R360). -/
def noteEngineFault (code q lcode : Nat) (t : Task) : Task :=
  { t with nfault := t.nfault + 1, ef := some (t.ef.getD (code, q, lcode)) }

/-- Deliver a fault of a record of queue `q` to the strand that pushed it, or to its task's completion status. -/
def deliverFault (n q : Nat) (r : Rec) (code detail : Nat) (eaddr : Word) (s : State) : State :=
  if (strandAt s n r.strand).run = .running then
    deliverTrap n r.strand code (BitVec.ofNat 32 detail) eaddr none s
  else
    match (spindleAt s n).task with
    | none => s
    | some t => { s with tasks := SMap.modify none s.tasks t (Option.map (noteEngineFault code q (spindleAt s n).lcode)) }

/-- Binding `b` of a spindle. -/
def bindAt (p : Spindle) (b : Nat) : Option Binding := SMap.get none p.binds b

/-- Change a binding that is defined. -/
def updBind (b : Nat) (f : Binding → Binding) (p : Spindle) : Spindle :=
  { p with binds := SMap.modify none p.binds b (Option.map f) }

/-- BIND of an RPUT record (R293). -/
def Rec.bind (r : Rec) : Nat := bits (r.word 4) 60 4

/-- PKG of a zone address (R285). -/
def zaPkg (za : Word) : Nat := bits za.toNat 32 15
/-- LSPN of a zone address. -/
def zaSpn (za : Word) : Nat := bits za.toNat 16 10
/-- ZONE of a zone address. -/
def zaZone (za : Word) : Nat := bits za.toNat 0 4

/-- The slot of an RPUT record that ends before it completes is broken: a cancel notice goes to its zone (R292, R295). -/
def breakSlot (n : Nat) (r : Rec) (s : State) : State :=
  if r.kind ≠ 0x14 ∨ (bindAt (spindleAt s n) r.bind).isNone then s
  else
    let m : CancelMsg := { hdr := hdrFor s n (zaPkg r.za) r.sseq r.tag, lspn := zaSpn r.za, zone := zaZone r.za, slot := r.slot, seq := r.sseq }
    let s1 := updSpindle n (updBind r.bind fun b => { b with att := b.att - 1, cancels := b.cancels ++ [m] }) s
    { s1 with net := s1.net ++ [.cancel m] }

/-- The head of queue `q` faults: it stops, raises nothing, and its queue is FAULTED (R252, R277). -/
def faultHead (n q : Nat) (r : Rec) (code detail : Nat) (eaddr : Word) (s : State) : State :=
  deliverFault n q r code detail eaddr (breakSlot n r (updSpindle n (updQueue q fun x => { x with faulted := true }) s))

/-- POISON of a record (R252, R338, R339). -/
def faultPoison (n q : Nat) (r : Rec) (src : Nat) (eaddr : Word) (s : State) : State :=
  consume (spindleAt s n).part src eaddr r.tag (faultHead n q r 0x0E (poisonDetail src r.tag) eaddr s)

/-- SHADOW of the matrix engine in a column (R252, R261, R332). -/
def shadowDetailEngine (col : Nat) : Nat := col * 2 ^ 24 + 5 * 2 ^ 8

/-- F.CORRUPT and the CORR event of a record's shadow failure. -/
def corruptRecord (n q : Nat) (r : Rec) (col : Nat) (s : State) : State :=
  tap 0x0C n (queueAgent q) r.tag 2 (BitVec.ofNat 64 r.off) (BitVec.ofNat 64 (shadowDetailEngine col)) (voteFlags r.tag fCorrupt s)

/-- The checks of an engine's scratchpad accesses in one issue: zones and the overlap checker, tile tags of `chk`, poison
of what is read (R174, R225, R252, R272, R291). The accesses are then recorded. -/
def whenEngine (n q : Nat) (r : Rec) (chk : Option (BitVec 16 × Nat × Nat)) (reads writes : List (Nat × Nat))
    (k : State → State) (s : State) : State :=
  let p := spindleAt s n
  let ru := reads.flatMap fun x => unitsOf x.1 x.2
  let wu := writes.flatMap fun x => unitsOf x.1 x.2
  let open? := if p.det then zoneFault p (ru ++ wu) else none
  match open? with
  | some f => faultHead n q r 0x07 (overlapDetail 6 q f.2) (BitVec.ofNat 64 (64 * f.1)) s
  | none =>
    let lap := if p.det then (overlapFault p q r.vt false ru).or (overlapFault p q r.vt true wu) else none
    match lap with
    | some f => faultHead n q r 0x07 (overlapDetail f.2.1 q f.2.2) (BitVec.ofNat 64 (64 * f.1)) s
    | none =>
      let badTile := chk.bind fun c => (tilesOf c.2.1 c.2.2).find? fun t => tileTag p t ≠ c.1
      match badTile with
      | some t => faultHead n q r 0x05 (det 0xE4 0 + (tileTag p t).toNat) (BitVec.ofNat 64 (4096 * t)) s
      | none =>
        match reads.findSome? fun x => scratchPoison p x.1 x.2 with
        | some m => faultPoison n q r m.1 (BitVec.ofNat 64 (m.2 / 64 * 64)) s
        | none => k (if p.det then updSpindle n (fun p => noteUnits q r.seq true wu (noteUnits q r.seq false ru p)) s else s)

/-! ### Queues in time (R201, R250, R251) -/

/-- May the engines of a spindle issue: is its task resident and not being stopped? (R253, R391) -/
def enginesRun (p : Spindle) : Bool := p.task.isSome && !p.stopping && decide (p.dbg.state = 0)

/-- The head record of a queue. -/
def headRec (p : Spindle) (q : Nat) : Option Rec := (queueAt p q).recs.head?

/-- Change the head record. -/
def updHead (n q : Nat) (f : Rec → Rec) (s : State) : State :=
  updSpindle n (updQueue q fun x => { x with recs := match x.recs with | [] => [] | r :: rs => f r :: rs }) s

/-- Bytes of one issue of a copy record (R267). -/
def Rec.chunk (r : Rec) : Nat := 16 * (bits r.kflags 7 8 + 1)

/-- Sub-arrays that a matrix record needs (R262, R263). -/
def Rec.needs (r : Rec) : List Nat :=
  if r.kind = 3 then
    let c := bits (r.word 3) 16 6
    (upto 8).filter fun x => decide (c / 8 ≤ x) && decide (x ≤ (c + r.total - 1) / 8)
  else if r.kind = 1 ∨ r.kind = 2 then upto (bits r.kflags 8 3 + 1)
  else []

/-- Start the wakes that a matrix record needs (R245). -/
def startWakes (c : Nat) (r : Rec) (m : Matrix) : Matrix :=
  r.needs.foldl (fun m x =>
    if SMap.get false m.awake x || SMap.get 0 m.waking x ≠ 0 then m else { m with waking := SMap.set 0 m.waking x (c + 96) }) m

/-- The acquire of a head whose wait is met; the record before it hands on what it has released where it has completed (R231,
R271). -/
def acquireHead (n q : Nat) (r : Rec) (s : State) : State :=
  let x := queueAt (spindleAt s n) q
  updView n (4 + q) (fun v =>
    (if x.prev.1 + 1 = r.seq then v.handed (agentClass (4 + q)) x.prev.2 else v).acquire (BitVec.ofNat 5 r.acq)) s

/-- What a record knows as it starts: what its push and the raises that meet its wait have handed it. Of what its queue's earlier records
have read, its reads return nothing older (R228, R231, R233). -/
def headView (x : Queue) (q : Nat) (r : Rec) (carry : SMap (List Nat)) : View :=
  { r.view.handed (agentClass (4 + q)) carry with seen := x.view.seen }

/-- The wait of a head is met: the count is consumed, the timestamp is fixed, its acquire follows, wakes start (R201, R224, R231,
R245). -/
def meetHead (n q : Nat) (r : Rec) (s : State) : State :=
  let p := spindleAt s n
  let x := queueAt p q
  let vt := if p.det then SMap.set 0 (vtMax (vtMax x.vt (SMap.set 0 [] 5 r.push)) (semAt p r.wsem).vt) q r.seq else []
  let r1 := { r with met := true, start := s.cycle + 1, vt := vt }
  tap 0x01 n (queueAgent q) r.tag (BitVec.ofNat 64 r.wsem) (BitVec.ofNat 64 (s.cycle - r.headAt)) (BitVec.ofNat 64 r.wval)
    (acquireHead n q r (updSpindle n (fun p =>
      let p1 := updSem r.wsem (consumeSem r.wval) p
      let p2 := updQueue q (fun x => { x with recs := r1 :: x.recs.drop 1, vt := vt, view := headView x q r (semAt p r.wsem).carry }) p1
      if q = 0 then { p2 with matrix := startWakes s.cycle r p2.matrix } else p2) s))

/-- A record's cycles from its last issue to its completion (R250), or from the end of its last chunk (R271). -/
def Rec.drain (r : Rec) : Nat :=
  if r.kind = 3 ∨ r.kind = 4 then 2
  else if r.kind = 1 ∨ r.kind = 2 then 16
  else if r.kind = 5 then 3
  else if r.kind = 6 then 6
  else if r.kind = 0x11 then 4 else 1

/-- The spindle of a resident task of a step group that holds a logical spindle (R284). -/
def targetSpindle (s : State) (grp lspn : Nat) : Option Nat :=
  (s.spindles.find? fun x => decide (x.2.lcode = lspn) &&
    match taskOf s x.2 with | some t => decide (t.grp = grp) && decide (t.st ≠ .away) && decide (t.st ≠ .restoring) | none => false).map (·.1)

/-- Is the task of the group that holds a logical spindle away? Its chunks wait (R308). -/
def targetAway (s : State) (grp lspn : Nat) : Bool :=
  (targetSpindle s grp lspn).isNone && s.tasks.any fun x => match x.2 with
    | some t => decide (t.grp = grp) && (decide (t.st = .away) || decide (t.st = .restoring)) && t.place.contains lspn
    | none => false

/-- Does a record whose chunk waits for a task of another device have a number? (R308) -/
def awayRec (x : Queue) (seq : Nat) : Bool := (queueRecs x).any fun r => r.away && decide (r.seq = seq)

/-- The chunks of a channel that wait for a task that is away, on this device or another (R308). -/
def waitingChunks (s : State) (n q : Nat) : List ChunkMsg :=
  s.net.filterMap fun m => match m with
    | .chunk c =>
      if c.spn = n ∧ c.chan + 1 = q ∧ (if c.hdr.src = c.hdr.dst then targetAway s c.hdr.grp c.lspn else awayRec (queueAt (spindleAt s n) q) c.recno)
      then some c else none
    | _ => none

/-- At the end of a cycle a head past its last issue leaves, and the next record is head in the following cycle (R251). One with
a chunk that waits stays: its channel counts as BUSY (R308). -/
def retireHead (c : Nat) (x : Queue) : Queue :=
  match x.recs with
  | r :: rs =>
    if r.n = r.total ∧ x.busyUntil ≤ c + 1 ∧ !x.faulted then
      { x with
        recs := match rs with | [] => [] | y :: ys => { y with headAt := max y.headAt (c + 1) } :: ys
        lastPC := r.off / 64
        done := x.done ++ [{ r := { r with view := x.view }, due := x.busyUntil - 1 + r.drain }] }
    else x
  | [] => x

/-- The wait of a queue's head takes its turn (R201). -/
def serveQueue (n q : Nat) (s : State) : State :=
  match headRec (spindleAt s n) q with
  | none => s
  | some r =>
    let p := spindleAt s n
    if r.met || purging s p.part r.tag || (queueAt p q).faulted || !enginesRun p || decide (s.cycle < r.headAt) || decide ((semAt p r.wsem).count.toNat < r.wval) then s
    else meetHead n q r s

/-- The engines' part of the end of a cycle, queue by queue. -/
def serveQueues (n : Nat) (s : State) : State :=
  let s1 := (upto 5).foldl (fun s q => serveQueue n q s) s
  updSpindle n (fun p => (upto 5).foldl (fun p q =>
    if enginesRun p && (waitingChunks s1 n q).isEmpty then updQueue q (retireHead s.cycle) p else p) p) s1

/-- May a record issue: do the engines run, or has it a chunk under way whose read has gone out before they were to stop? (R391) -/
def mayIssueRec (p : Spindle) (r : Rec) : Bool := enginesRun p || (r.sent && p.task.isSome && decide (p.dbg.state ≠ 2))

/-- Has the acquire of a head waited for its invalidations? (R235, R271) -/
def headAcquired (s : State) (n q : Nat) (r : Rec) : Bool :=
  decide (r.acq = 0) || acquireClear s (skeinOf n) (BitVec.ofNat 5 r.acq) (queueAt (spindleAt s n) q).view.hb

/-- Everything that a head's next issue waits for but the hazards and wakes of the matrix engine. -/
def headReady (s : State) (n q : Nat) (r : Rec) : Bool :=
  let p := spindleAt s n
  r.met && mayIssueRec p r && !purging s p.part r.tag && !(queueAt p q).faulted && r.parked.isNone && decide (r.n < r.total) && decide (r.start ≤ s.cycle) &&
    decide ((queueAt p q).busyUntil ≤ s.cycle) && (waitingChunks s n q).isEmpty && headAcquired s n q r

/-- Count an issue of the head that takes `units` cycles. -/
def countIssue (n q units : Nat) (s : State) : State :=
  updHead n q (fun r => { r with n := r.n + 1, first := if r.n = 0 then s.cycle else r.first, sent := false, data := none })
    (updSpindle n (updQueue q fun x => { x with busyUntil := s.cycle + units }) s)

/-- OR flags into a queue's FLAGS and ISAT. -/
def queueFlags (n q : Nat) (f : Flags) (s : State) : State :=
  updSpindle n (updQueue q fun x => { x with flags := x.flags ||| f }) s

/-- The three entries of the constant bank that a record draws with, fixed at its first issue (R265, R274). -/
def withBlock (n q pbi : Nat) (r : Rec) (k : Rec → State → State) (s : State) : State :=
  if r.pb.isEmpty then
    let ws := (upto 3).map fun i => cbankAt (spindleAt s n) (pbi + i)
    k { r with pb := ws } (updHead n q (fun r => { r with pb := ws }) s)
  else k r s

/-- The random word of draw `j` of a record's block. -/
def drawOf (r : Rec) (j : Nat) : Nat :=
  (twistWord (nth 0 r.pb 0) ((nth 0 r.pb 1).truncate 32) (((nth 0 r.pb 2).toNat + j) % 2 ^ 64) 0).toNat

end Sys2Proof.Machine
end

