-- ==== Sys2Proof/Machine/Matrix.lean ====
section
/-! DEFINITION. The matrix engine: MQPUSH of class 0x18, the records BLOAD, MMA, MMAZ, ACCLD, ACCST and MXT, and
the power of its sub-arrays (R244 to R265, R40). -/

namespace Sys2Proof.Machine

/-! ### Records (R246, R262 to R265) -/

/-- The type field of a record: KFLAGS[14:11]. -/
def Rec.ty (r : Rec) : Option Ty := Ty.ofCode (bits r.kflags 11 4)

/-- A row operand of scratchpad. -/
def rowOperand (d : Nat) : Operand := ⟨d, false, false, 256, 256⟩
/-- A scale row operand of scratchpad. -/
def scaleOperand (d : Nat) : Operand := ⟨d, false, false, 16, 16⟩
/-- An operand of accumulator rows. -/
def accOperand (d : Nat) : Operand := ⟨d, true, false, 1, 1⟩

/-- Bytes of a row that MXT writes. -/
def Rec.mxtBytes (r : Rec) : Nat := match r.ty with | some t => 8 * t.width | none => 256

/-- The scratchpad operands of a matrix record. -/
def spadOperands (r : Rec) : List Operand :=
  let scaled := if r.ty = some .e2m1 then [scaleOperand 1] else []
  if r.kind = 3 ∨ r.kind = 1 ∨ r.kind = 2 then rowOperand 0 :: scaled
  else if r.kind = 4 then [rowOperand 0]
  else if r.kind = 5 then [rowOperand 1]
  else [⟨1, false, false, r.mxtBytes, r.mxtBytes⟩]

/-- The accumulator operands of a matrix record. -/
def accOperands (r : Rec) : List Operand :=
  if r.kind = 1 ∨ r.kind = 2 then [accOperand 2]
  else if r.kind = 4 then [accOperand 1]
  else if r.kind = 5 ∨ r.kind = 6 then [accOperand 0] else []

/-- Bits [23:0] of a descriptor's second word. -/
def Rec.low24 (r : Rec) (d : Nat) : Nat := bits (r.word (3 + 2 * d)) 0 24

/-- Are the reserved low bits of the first words of the descriptors zero? -/
def Rec.firstOk (r : Rec) : Bool := (upto 3).all fun d => bits (r.word (2 + 2 * d)) 0 4 = 0

/-- The tile tag of a source with its CHK bit: zero without it. -/
def tagFieldOk (r : Rec) (chk : Bool) : Bool := chk || decide (bits (r.word 3) 0 16 = 0)

/-- Are the fields of a matrix record legal? (R248 step 2, R262 to R265) -/
def matrixFields (r : Rec) : Bool :=
  let k := r.kflags
  let mul := [Ty.bf16, .e4m3, .e5m2, .s8, .n8, .e2m1]
  let scaled := r.ty = some .e2m1
  decide (r.acq = 0) && decide (r.rel = 0) && r.firstOk &&
  (if r.kind = 3 then
    (mul.map some).contains r.ty && decide (bits k 0 10 = 0) && decide (bits (r.word 3) 22 2 = 0) && tagFieldOk r (bitOf k 10) &&
      (scaled || r.unused 1) && decide (r.low24 1 = 0) && r.unused 2 && decide (bits (r.word 3) 16 6 + r.total ≤ 64)
  else if r.kind = 1 ∨ r.kind = 2 then
    (mul.map some).contains r.ty && (!bitOf k 7 || r.ty = some .s8 || r.ty = some .n8) && decide (bits k 0 6 = 0) &&
      decide (bits (r.word 3) 16 8 = 0) && tagFieldOk r (bitOf k 6) && (scaled || r.unused 1) && decide (r.low24 1 = 0) &&
      decide (r.low24 2 = 0)
  else if r.kind = 4 ∨ r.kind = 5 then
    decide (k = 0) && decide (r.low24 0 = 0) && decide (r.low24 1 = 0) && r.unused 2
  else
    ([Ty.f32, .f16, .bf16, .e4m3, .e5m2].map some).contains r.ty && decide (bits k 8 3 ≤ 4) && decide (bits k 0 6 = 0) &&
      decide (r.low24 0 = 0) && decide (r.low24 1 = 0) && decide (r.word 7 = 0) && decide (bits (r.word 6) 0 48 = 0) &&
      decide (bits (r.word 6) 48 8 ≤ 253) && (decide (bits k 8 3 = 4) || decide (bits (r.word 6) 48 8 = 0)))

/-- Bank group of a scratchpad byte (R10, R170). -/
def spadGroup (o : Int) : Int := (1 + o / 65536) / 16

/-- Bank group of an accumulator row. -/
def accGroup (ag : Nat) (row : Int) : Int := (64 - (ag : Int) + row / 256) / 16

/-- BANK of a scratchpad operand and an accumulator operand that share a bank group (R248 step 5). -/
def groupErr (ag : Nat) (r : Rec) : Option PushErr :=
  (accOperands r).findSome? fun a => (spadOperands r).findSome? fun o =>
    let lo := 16 * r.lo o
    let hi := 16 * r.hi o + o.bytes - 1
    let g := max (spadGroup lo) (accGroup ag (r.lo a))
    if g ≤ min (spadGroup hi) (accGroup ag (r.hi a)) then some (0x06, det 4 o.d, word64 (max lo ((16 * g - 1) * 65536))) else none

/-- The floating-point types that a matrix record names. -/
def Rec.matrixTypes (r : Rec) : List Ty := if r.kind = 4 ∨ r.kind = 5 then [] else r.ty.toList

/-- Why MQPUSH of the strand in focus refuses a record, its bias in bytes being `b` (R67, R248, R412). -/
def matrixRefusal (s : State) (b : Int) (r : Rec) : Option PushErr :=
  let p := mySpindle s
  if !frameOkRec [1, 2, 3, 4, 5, 6] r || !matrixFields r || decide (b % 16 ≠ 0) || !r.matrixTypes.all (servedType s) then
    some (illegalRecord 0x01)
  else firstErr [alignErr (spadOperands r) r, rangeErr 2 (p.sg * 65536) (spadOperands r) r,
    rangeErr 3 (p.ag * 256) (accOperands r) r, groupErr p.ag r]

/-- MQPUSH (R256). -/
def execMqpush (w : O3) (s : State) : Host.Outcome State Fault Refusal :=
  .next (whenGuard w.g w.gn (fun s =>
    let off := srcNum s w.a 32
    whenRecord off (fun ws s =>
      let b := pushBias s w.b
      let r := newRec s off ws b (pushBias s w.c)
      match matrixRefusal s b r with
      | some e => raise e.1 e.2.1 e.2.2 s
      | none =>
        if 16 ≤ (queueAt (mySpindle s) 0).recs.length then again s
        else whenEntry false (unitsOf off 64) (fun s => appendRec 0 r (landNext w 0 s)) s) s) s)

/-! ### The engine's hazards (R250) -/

/-- What a record reads or writes: `len` places from each address of a loop nest on. Store 0 is the B store by column, 1 the
accumulators by row, 2 scratchpad by byte, 3 the B type tag. -/
structure Reach where
  store : Nat
  len : Nat
  at_ : Int
  dims : List (Nat × Int)
  deriving DecidableEq, Repr

/-- The rows of a record. -/
def rowReach (r : Rec) : List Reach := (accOperands r).map fun o => ⟨1, 1, r.from o, r.dims o.d⟩

/-- The scratchpad bytes of a record. -/
def spadReach (r : Rec) : List Reach :=
  (spadOperands r).map fun o => ⟨2, o.bytes, 16 * r.from o, (r.dims o.d).map fun d => (d.1, 16 * d.2)⟩

/-- The B type tag (R244). -/
def tagReach : Reach := ⟨3, 1, 0, []⟩

/-- What a record writes. -/
def writesOf (r : Rec) : List Reach :=
  if r.kind = 3 then [⟨0, 1, (bits (r.word 3) 16 6 : Nat), [(r.total, 1)]⟩, tagReach]
  else if r.kind = 5 ∨ r.kind = 6 then spadReach r else rowReach r

/-- What a record reads. -/
def readsOf (r : Rec) : List Reach :=
  if r.kind = 5 ∨ r.kind = 6 then rowReach r
  else if r.kind = 1 ∨ r.kind = 2 then tagReach :: ⟨0, 8 * (bits r.kflags 8 3 + 1), 0, []⟩ :: rowReach r ++ spadReach r
  else spadReach r

/-- Do two reaches share a place from the addresses `x` and `y` on? The one that lies wholly before the other goes on to its next
address that does not; `k` bounds the moves. -/
def meetFrom (a b : Reach) : Nat → Option Int → Option Int → Bool
  | k + 1, some x, some y =>
    if x + a.len ≤ y then meetFrom a b k (lowAbove (y - a.len) a.at_ a.dims) (some y)
    else if y + b.len ≤ x then meetFrom a b k (some x) (lowAbove (x - b.len) b.at_ b.dims)
    else true
  | _, _, _ => false

/-- The number of addresses of a reach. -/
def Reach.count (a : Reach) : Nat := a.dims.foldl (fun n d => n * d.1) 1

/-- Do two reaches meet? -/
def Reach.meets (a b : Reach) : Bool :=
  decide (a.store = b.store) && meetFrom a b (a.count + b.count + 1) (some (lowest a.at_ a.dims)) (some (lowest b.at_ b.dims))

/-- Is a record one that accumulates? -/
def Rec.accumulates (r : Rec) : Bool := r.kind = 1 || r.kind = 2

/-- Must record `r` wait for the completion of the earlier record `e`? MMA and MMAZ do not wait for the rows of earlier
ones (R250). -/
def mustWait (e r : Rec) : Bool :=
  (writesOf e).any fun x => !(e.accumulates && r.accumulates && decide (x.store = 1)) && (readsOf r ++ writesOf r).any x.meets

/-- May the matrix engine issue its head now? -/
def matrixReady (s : State) (n : Nat) (r : Rec) : Bool :=
  let p := spindleAt s n
  headReady s n 0 r && (decide (r.n ≠ 0) || !(queueAt p 0).done.any fun d => mustWait d.r r) &&
    r.needs.all fun x => SMap.get false p.matrix.awake x

/-- Issue the head of the matrix queue where it is of one of some kinds and nothing holds it. -/
def issueMatrix (kinds : List Nat) (n : Nat) (f : Rec → State → State) (s : State) : State :=
  match headRec (spindleAt s n) 0 with
  | none => s
  | some r => if kinds.contains r.kind && matrixReady s n r then f r s else s

/-- Change the matrix engine of a spindle. -/
def updMatrix (n : Nat) (f : Matrix → Matrix) (s : State) : State := updSpindle n (fun p => { p with matrix := f p.matrix }) s

/-- Note the use of sub-arrays in this cycle. -/
def useArrays (n : Nat) (xs : List Nat) (s : State) : State :=
  updMatrix n (fun m => { m with used := xs.foldl (fun u x => SMap.set 0 u x s.cycle) m.used }) s

/-! ### Elements (R23, R244) -/

/-- The value of element `k` of a row of a type, its scale bytes beside it. -/
def rowElem (t : Ty) (row : Nat) (scales : List Byte) (k : Nat) : Fp :=
  let x := bits row (t.width * k) t.width
  if t = .e2m1 then e2m1Value x (nth 0 scales (k / 32)).toNat else tyValue t x

/-- Elements of a 256-byte row of a type: K (R244). -/
def rowK (t : Ty) : Nat := 2048 / t.width

/-- The elements of a row. -/
def rowElems (t : Ty) (bs scales : List Byte) : List Fp :=
  let row := ofBytes bs
  (upto (rowK t)).map (rowElem t row scales)

/-- The integer elements of a row. -/
def rowInts (t : Ty) (bs : List Byte) : List Int :=
  let row := ofBytes bs
  (upto (rowK t)).map fun k => tyInt t (bits row (t.width * k) t.width)

/-- Byte `i` of B column `j`. -/
def bByte (m : Matrix) (j i : Nat) : Byte :=
  if SMap.get false m.bload j then SMap.get 0 m.bcol (256 * j + i) else Config.bStoreByte m.seed (256 * j + i)

/-- Byte `i` of B scale row `j`. -/
def bScaleByte (m : Matrix) (j i : Nat) : Byte :=
  if SMap.get false m.bload (64 + j) then SMap.get 0 m.bscale (16 * j + i) else Config.bStoreByte m.seed (16384 + 16 * j + i)

/-- The bytes of B column `j`. -/
def bColumn (m : Matrix) (j : Nat) : List Byte := (upto 256).map (bByte m j)

/-- The bytes of B scale row `j`. -/
def bScale (m : Matrix) (j : Nat) : List Byte := (upto 16).map (bScaleByte m j)

/-! ### Slices and shadow sums (R40, R259) -/

/-- A number m × 2^e with a signed m. -/
abbrev Dyad := Int × Int

/-- The number of a finite value. -/
def dyadOf : Fp → Dyad
  | .fin n m e => if m = 0 then (0, 0) else (if n then -(m : Int) else m, e)
  | _ => (0, 0)

/-- The exact sum. -/
def sumDyads (xs : List Dyad) : Dyad :=
  let lo := xs.foldl (fun e x => if x.1 = 0 then e else min e x.2) (xs.foldl (fun e x => max e x.2) 0)
  let v := xs.foldl (fun a x => if x.1 = 0 then a else a + x.1 * 2 ^ (x.2 - lo).toNat) (0 : Int)
  if v = 0 then (0, 0) else (v, lo)

/-- A number truncated toward zero to `n` significant bits. -/
def truncDyad (n : Nat) (x : Dyad) : Dyad :=
  if x.1 = 0 then (0, 0)
  else
    let k := Nat.log2 x.1.natAbs + 1 - n
    (Int.sign x.1 * ((x.1.natAbs / 2 ^ k : Nat) : Int), x.2 + k)

/-- DotSlice of floating-point elements (R259). -/
def dotSlice (ps : List FpF) : FpF :=
  let fl := ps.foldl (fun f p => f ||| p.2) 0
  let pos := ps.any fun p => p.1 = .inf false
  let neg := ps.any fun p => p.1 = .inf true
  if pos && neg then (.nan false, fl ||| flNV)
  else if ps.any fun p => p.1.isNan then (.nan false, fl)
  else if pos then (.inf false, fl)
  else if neg then (.inf true, fl)
  else
    let v := sumDyads (ps.map fun p => dyadOf p.1)
    if v.1 = 0 then (.fin (ps.all fun p => p.1.neg?) 0 0, fl) else (.fin (decide (v.1 < 0)) v.1.natAbs v.2, fl)

/-- A shadow sum with the truncated products of a slice added (R40). DESIGN CHOICE (log entry 49): the products of one issue are
added exactly, and the sum is truncated once. -/
def shadowAdd (magnitudes : Bool) (x : Dyad) (ps : List Dyad) : Dyad :=
  let qs := ps.map fun p =>
    let q := truncDyad 4 p
    if magnitudes then (((q.1.natAbs : Nat) : Int), q.2) else q
  truncDyad 16 (sumDyads (x :: qs))

/-- Does the check of R40 fail for an accumulator element and its sums? -/
def shadowBad (a : Lane) (x y : Dyad) : Bool :=
  match Fp.decode .fp32 a.toNat with
  | .fin n m e =>
    let d := sumDyads [dyadOf (.fin n m e), (-x.1, x.2)]
    let v := sumDyads [(d.1.natAbs, d.2), (-y.1, y.2 - 2), (-1, -126)]
    decide (0 < v.1)
  | _ => false

/-- The lowest written column of a row whose check fails (R261). DESIGN CHOICE (log entry 49): a row of integers is not an FP32
accumulator, and R40 does not check it. -/
def shadowColumn (m : Matrix) (row cols : Nat) : Option Nat :=
  if SMap.get false m.unchecked row || SMap.get false m.ints row then none
  else (upto (min cols (SMap.get 0 m.wrote row))).find? fun j =>
    let i := 64 * row + j
    shadowBad (SMap.get 0 m.acc i) (SMap.get (0, 0) m.shS i) (SMap.get (0, 0) m.shT i)

/-! ### MMA and MMAZ (R258, R260, R263) -/

/-- Do the types of A and B form a pair? (R258) -/
def pairOk (a b : Ty) : Bool :=
  let fp8 := [Ty.e4m3, .e5m2]
  let int := [Ty.s8, .n8]
  (fp8.contains a && fp8.contains b) || (int.contains a && int.contains b) || (a = .bf16 && b = .bf16) || (a = .e2m1 && b = .e2m1)

/-- An accumulator element after an issue, with flags. -/
structure Cell where
  x : Lane
  fl : Flags
  sumS : Dyad
  sumT : Dyad
  deriving DecidableEq, Repr

/-- Column `j` of an integer issue (R260): the queue's ISAT on a clamp. -/
def intCell (u : Ty) (sat fresh : Bool) (a : List Int) (m : Matrix) (row j : Nat) : Cell :=
  let i := 64 * row + j
  let ps := (a.zip (rowInts u (bColumn m j))).map fun x => x.1 * x.2
  let d := ps.foldl (· + ·) 0
  let v := if fresh then d else signedValue (SMap.get 0 m.acc i).toNat 32 + d
  let r := if sat then satS v 32 else (wrap v 32, false)
  let qs := ps.map fun p => ((p, 0) : Dyad)
  ⟨BitVec.ofNat 32 r.1, flIf r.2 flISAT, shadowAdd false (if fresh then (0, 0) else SMap.get (0, 0) m.shS i) qs,
    shadowAdd true (if fresh then (0, 0) else SMap.get (0, 0) m.shT i) qs⟩

/-- Column `j` of a floating-point issue (R260). -/
def floatCell (u : Ty) (fresh : Bool) (a : List Fp) (m : Matrix) (row j : Nat) : Cell :=
  let i := 64 * row + j
  let ps := (a.zip (rowElems u (bColumn m j) (bScale m j))).map fun x => mulExact x.1 x.2
  let d := dotSlice ps
  let y := if fresh then d else
    let c := Fp.decode .fp32 (SMap.get 0 m.acc i).toNat
    let r := addExact c d.1
    (r.1, r.2 ||| d.2 ||| sigFlags [c])
  let r := roundFp .fp32 .rne false y.1
  let qs := ps.map fun p => dyadOf p.1
  ⟨BitVec.ofNat 32 r.1, y.2 ||| r.2, shadowAdd false (if fresh then (0, 0) else SMap.get (0, 0) m.shS i) qs,
    shadowAdd true (if fresh then (0, 0) else SMap.get (0, 0) m.shT i) qs⟩

/-- Write the elements of a row from column `j` on. -/
def setCells (row : Nat) : Nat → List Cell → Matrix → Matrix
  | _, [], m => m
  | j, c :: cs, m =>
    let i := 64 * row + j
    setCells row (j + 1) cs { m with
      acc := SMap.set 0 m.acc i c.x
      shS := SMap.set (0, 0) m.shS i c.sumS
      shT := SMap.set (0, 0) m.shT i c.sumT }

/-- Clear the marks of the 64-byte units that the first `cols` columns of a row cover (R338). -/
def clearUnits (row cols : Nat) (p : Spindle) : Spindle :=
  { p with accPoison := (upto (cols / 16)).foldl (fun m u => SMap.set 0 m (4 * row + u) 0) p.accPoison }

/-- The mark of a row among its first `units` units, 0 for none. -/
def rowPoison (p : Spindle) (row units : Nat) : Nat :=
  (upto units).foldl (fun m u => if m = 0 then SMap.get 0 p.accPoison (4 * row + u) else m) 0

/-- Go on unless a row that is read is poisoned (R252). -/
def whenRow (n : Nat) (r : Rec) (row units : Nat) (k : State → State) (s : State) : State :=
  let m := rowPoison (spindleAt s n) row units
  if m = 0 then k s else faultPoison n 0 r m (BitVec.ofNat 64 row) s

/-- The effect of an issue of MMA or MMAZ on its row (R260, R261). -/
def mulIssue (n : Nat) (r : Rec) (t u : Ty) (row off soff : Nat) (s : State) : State :=
  let p := spindleAt s n
  let cols := 8 * (bits r.kflags 8 3 + 1)
  let fresh := decide (r.kind = 2) && !r.rows.contains row
  let int := t = .s8 || t = .n8
  let a := scratchBytes p off 256
  let cells :=
    if int then (upto cols).map (intCell u (bitOf r.kflags 7) fresh (rowInts t a) p.matrix row)
    else (upto cols).map (floatCell u fresh (rowElems t a (scratchBytes p soff 16)) p.matrix row)
  let unchecked := SMap.get false p.matrix.unchecked row
  let ints := SMap.get false p.matrix.ints row
  let s1 := updMatrix n (fun m => { setCells row 0 cells m with
    unchecked := SMap.set false m.unchecked row (!fresh && unchecked)
    wrote := SMap.set 0 m.wrote row (if unchecked || (fresh && ints) then cols else max cols (SMap.get 0 m.wrote row))
    ints := SMap.set false m.ints row (int || (!fresh && ints)) }) s
  let s2 := if fresh then updSpindle n (clearUnits row cols) s1 else s1
  countIssue n 0 1 (updHead n 0 (fun r => { r with rows := if r.rows.contains row then r.rows else r.rows ++ [row] })
    (useArrays n r.needs (queueFlags n 0 (cells.foldl (fun f c => f ||| c.fl) 0) s2)))

/-- One issue of MMA or MMAZ: the B type before the first, the accesses, the row (R252, R258). -/
def mulStep (n : Nat) (r : Rec) (s : State) : State :=
  let p := spindleAt s n
  let t := r.ty.getD .bf16
  let off := r.byte (rowOperand 0) r.n
  let soff := r.byte (scaleOperand 1) r.n
  let row := r.row (accOperand 2) r.n
  let fresh := decide (r.kind = 2) && !r.rows.contains row
  let chk := if bitOf r.kflags 6 then some (BitVec.ofNat 16 (r.word 3), off, 256) else none
  match p.matrix.btype with
  | none => faultHead n 0 r 0x05 (det 0xF1 t.code + 0x0F * 2 ^ 8) (BitVec.ofNat 64 r.off) s
  | some u =>
    if r.n = 0 ∧ !pairOk t u then faultHead n 0 r 0x05 (det 0xF0 t.code + u.code * 2 ^ 8) (BitVec.ofNat 64 r.off) s
    else whenEngine n 0 r chk ((off, 256) :: (if t = .e2m1 then [(soff, 16)] else [])) []
      (whenRow n r row (if fresh then 0 else (bits r.kflags 8 3 + 2) / 2) (mulIssue n r t u row off soff)) s

/-- MMA: one issue of the head (R260, R263). -/
def execMma (n : Nat) (s : State) : Host.Outcome State Fault Refusal := .next (issueMatrix [1] n (mulStep n) s)

/-- MMAZ: one issue of the head (R260, R263). -/
def execMmaz (n : Nat) (s : State) : Host.Outcome State Fault Refusal := .next (issueMatrix [2] n (mulStep n) s)

/-! ### BLOAD, ACCLD, ACCST, MXT (R261, R262, R264, R265) -/

/-- Write B column `j`, and its scale row where the type has one. -/
def setColumn (t : Ty) (j : Nat) (col scale : List Byte) (m : Matrix) : Matrix :=
  let m1 := { m with btype := some t, bcol := SMap.setList 0 m.bcol (256 * j) col, bload := SMap.set false m.bload j true }
  if t = .e2m1 then { m1 with bscale := SMap.setList 0 m1.bscale (16 * j) scale, bload := SMap.set false m1.bload (64 + j) true } else m1

/-- One issue of BLOAD. -/
def bloadStep (n : Nat) (r : Rec) (s : State) : State :=
  let t := r.ty.getD .bf16
  let off := r.byte (rowOperand 0) r.n
  let soff := r.byte (scaleOperand 1) r.n
  let j := bits (r.word 3) 16 6 + r.n
  let chk := if bitOf r.kflags 10 then some (BitVec.ofNat 16 (r.word 3), off, 256) else none
  whenEngine n 0 r chk ((off, 256) :: (if t = .e2m1 then [(soff, 16)] else [])) [] (fun s =>
    let p := spindleAt s n
    countIssue n 0 1 (useArrays n [j / 8]
      (updMatrix n (setColumn t j (scratchBytes p off 256) (scratchBytes p soff 16)) s))) s

/-- BLOAD: one issue of the head (R262). -/
def execBload (n : Nat) (s : State) : Host.Outcome State Fault Refusal := .next (issueMatrix [3] n (bloadStep n) s)

/-- One issue of ACCLD. -/
def accldStep (n : Nat) (r : Rec) (s : State) : State :=
  let off := r.byte (rowOperand 0) r.n
  let row := r.row (accOperand 1) r.n
  whenEngine n 0 r none [(off, 256)] [] (fun s =>
    let cells := (lanesOfBytes (scratchBytes (spindleAt s n) off 256)).map fun x => (⟨x, 0, (0, 0), (0, 0)⟩ : Cell)
    countIssue n 0 1 (updSpindle n (clearUnits row 64)
      (updMatrix n (fun m => { setCells row 0 cells m with
        unchecked := SMap.set false m.unchecked row true
        ints := SMap.set false m.ints row false }) s))) s

/-- ACCLD: one issue of the head (R264). -/
def execAccld (n : Nat) (s : State) : Host.Outcome State Fault Refusal := .next (issueMatrix [4] n (accldStep n) s)

/-- Go on unless the check of a row fails before it is stored (R261). -/
def whenShadow (n : Nat) (r : Rec) (row : Nat) (k : State → State) (s : State) : State :=
  match shadowColumn (spindleAt s n).matrix row 64 with
  | some j => faultHead n 0 r 0x0A (shadowDetailEngine j) (BitVec.ofNat 64 r.off) (corruptRecord n 0 r j s)
  | none => k s

/-- Store the bytes that an accumulator row gives to scratchpad. -/
def storeStep (n : Nat) (r : Rec) (o : Operand) (f : Spindle → Nat → List Byte × Flags) (s : State) : State :=
  let row := r.row (accOperand 0) r.n
  let off := r.byte o r.n
  whenEngine n 0 r none [] [(off, o.bytes)] (whenRow n r row 4 (whenShadow n r row fun s =>
    let x := f (spindleAt s n) row
    countIssue n 0 1 (queueFlags n 0 x.2 (updSpindle n (scratchWrite off x.1 false) s)))) s

/-- The elements of an accumulator row. -/
def accRow (m : Matrix) (row : Nat) : List Lane := SMap.getList 0 m.acc (64 * row) 64

/-- ACCST: one issue of the head (R264). -/
def execAccst (n : Nat) (s : State) : Host.Outcome State Fault Refusal :=
  .next (issueMatrix [5] n (fun r => storeStep n r (rowOperand 1) fun p row => (laneBytes (accRow p.matrix row), 0)) s)

/-- The elements that MXT writes for a row, with their flags (R265). -/
def mxtRow (r : Rec) (p : Spindle) (row : Nat) : List Byte × Flags :=
  let t := r.ty.getD .f32
  let f := fmtOf t
  let k := r.kflags
  let shift := signedValue (bits (r.word 6) 56 8) 8
  let rs := (upto 64).map fun j =>
    let a := (SMap.get 0 p.matrix.acc (64 * row + j)).toNat
    let v := if bitOf k 6 then Fp.ofInt (signedValue a 32) else Fp.decode .fp32 a
    let rm := RMode.ofCode (bits k 8 3) (if bits k 8 3 = 4 then drawOf r (64 * r.n + j) else 0)
    let x := scaleFp v shift
    let y := roundFp f rm (bitOf k 7) x.1
    (y.1, x.2 ||| y.2)
  ((rs.map fun x => toBytes x.1 (t.width / 8)).flatten, rs.foldl (fun a x => a ||| x.2) 0)

/-- MXT: one issue of the head (R265). -/
def execMxt (n : Nat) (s : State) : Host.Outcome State Fault Refusal :=
  .next (issueMatrix [6] n (fun r =>
    withBlock n 0 (bits (r.word 6) 48 8) r fun r => storeStep n r ⟨1, false, false, r.mxtBytes, r.mxtBytes⟩ (mxtRow r)) s)

/-! ### Power of the sub-arrays (R245) -/

/-- A wake ends, not while the power controller holds wakes (R417). -/
def execSubarrayWakeDone (n x : Nat) (s : State) : Host.Outcome State Fault Refusal :=
  let c := SMap.get 0 (spindleAt s n).matrix.waking x
  .next (if c = 0 ∨ s.cycle < c ∨ s.dev.wakeHold then s
    else updMatrix n (fun m => { m with
      waking := SMap.set 0 m.waking x 0
      awake := SMap.set false m.awake x true
      used := SMap.set 0 m.used x s.cycle }) s)

/-- Does the head, its wait met, still need a sub-array? -/
def arrayNeeded (p : Spindle) (x : Nat) : Bool :=
  match headRec p 0 with | some r => r.met && r.needs.contains x | none => false

/-- A sub-array that no issue has used for IDLE cycles is gated; it keeps its columns. -/
def execSubarrayGate (n x : Nat) (s : State) : Host.Outcome State Fault Refusal :=
  let p := spindleAt s n
  .next (if SMap.get false p.matrix.awake x && decide (SMap.get 0 p.matrix.used x + 2048 < s.cycle) && !arrayNeeded p x then
      updMatrix n (fun m => { m with awake := SMap.set false m.awake x false }) s
    else s)

end Sys2Proof.Machine
end

