-- ==== Sys2Proof/Machine/CopyEngine.lean ====
section
/-! DEFINITION. The copy channels: CQPUSH, CSTAGE, CDRAIN and QSTAT of class 0x18, the records COPY, COPYACC, FILL, GATHER and
RPUT, the return of their reads, the application of posted stores, and the completion of records (R202, R266 to R283, R293
to R295). -/

namespace Sys2Proof.Machine

/-! ### Records (R266, R267, R273, R274, R293) -/

/-- SP of descriptor `d`. -/
def Rec.sp (r : Rec) (d : Nat) : Bool := bitOf (r.word (3 + 2 * d)) 23

/-- H of descriptor `d`. -/
def Rec.hnum (r : Rec) (d : Nat) : Nat := bits (r.word (3 + 2 * d)) 19 4

/-- TAG of descriptor `d`. -/
def Rec.dtag (r : Rec) (d : Nat) : BitVec 16 := BitVec.ofNat 16 (r.word (3 + 2 * d))

/-- CHK of a copy record. -/
def Rec.chk (r : Rec) : Bool := bitOf r.kflags 6
/-- TAGW of a copy record. -/
def Rec.tagw (r : Rec) : Bool := decide (r.kind ≠ 0x14) && bitOf r.kflags 5

/-- STYPE of COPYACC. -/
def Rec.stype (r : Rec) : Option Ty := Ty.ofCode (bits (r.word 6) 60 4)
/-- DTYPE of COPYACC. -/
def Rec.dtype (r : Rec) : Option Ty := Ty.ofCode (bits (r.word 6) 56 4)

/-- Bytes of a source chunk (R267, R274). -/
def Rec.srcBytes (r : Rec) : Nat :=
  if r.kind = 0x11 then
    match r.stype, r.dtype with
    | some a, some b => r.chunk * 8 / b.width * a.width / 8
    | _, _ => r.chunk
  else r.chunk

/-- The source operand of a record. -/
def srcOperand (r : Rec) : Operand := ⟨0, false, r.sp 0, r.srcBytes, 16⟩
/-- The destination operand of a record. -/
def dstOperand (r : Rec) : Operand := ⟨1, false, r.sp 1, r.chunk, 16⟩
/-- The index list of a GATHER: four bytes an issue from its base (R275). -/
def idxOperand (r : Rec) : Operand := ⟨2, false, false, 4 * r.total, 16⟩

/-- Has the record a source whose chunks are checked at push? -/
def Rec.readsSource (r : Rec) : Bool := r.kind = 0x10 || r.kind = 0x11 || r.kind = 0x14

/-- The operands of a copy record whose spans are checked at push (R269). -/
def copyOperands (r : Rec) : List Operand :=
  (if r.readsSource then [srcOperand r] else []) ++ (if r.kind = 0x14 then [] else [dstOperand r]) ++
    (if r.kind = 0x13 then [idxOperand r] else [])

/-- Is a copy descriptor well formed? `src` is CHK for a source and TAGW for a destination (R266, R272). -/
def descOk (r : Rec) (d : Nat) (tagged : Bool) : Bool :=
  decide (bits (r.word (2 + 2 * d)) 0 4 = 0) && decide (bits (r.word (3 + 2 * d)) 16 3 = 0) &&
    (r.sp d || decide (r.hnum d = 0)) && (if tagged then !r.sp d else decide (r.dtag d = 0))

/-- Are all strides of a descriptor zero? -/
def strideless (r : Rec) (d : Nat) : Bool := (r.strides d).all (· = 0)

/-- Are the fields of a copy record legal? (R269 step 1, R273, R274, R293, R294) -/
def copyFields (r : Rec) : Bool :=
  let k := r.kflags
  let accTypes := [Ty.f32, .bf16, .e4m3, .e5m2].map some
  if r.kind = 0x10 then decide (bits k 0 5 = 0) && descOk r 0 r.chk && descOk r 1 r.tagw && r.unused 2
  else if r.kind = 0x11 then
    decide (bits k 0 5 = 0) && descOk r 0 r.chk && descOk r 1 r.tagw && !r.sp 1 && accTypes.contains r.stype &&
      accTypes.contains r.dtype && decide (bits (r.word 6) 53 3 ≤ 4) && decide (bits (r.word 6) 44 8 ≤ 253) &&
      (decide (bits (r.word 6) 53 3 = 4) || decide (bits (r.word 6) 44 8 = 0)) && decide (bits (r.word 6) 0 44 = 0) &&
      decide (r.word 7 = 0)
  else if r.kind = 0x12 then
    decide (bits k 0 5 = 0) && !bitOf k 6 && r.unused 0 && descOk r 1 r.tagw && decide (bits (r.word 6) 32 32 = 0) &&
      decide (r.word 7 = 0)
  else if r.kind = 0x13 then
    decide (bits k 0 5 = 0) && descOk r 0 r.chk && strideless r 0 && descOk r 1 r.tagw && descOk r 2 false && !r.sp 2 && strideless r 2
  else
    decide (bits k 0 6 = 0) && descOk r 0 r.chk && decide (bits (r.word 4) 0 50 = 0) && decide (r.word 5 = 0) && r.unused 2 &&
      decide (bits (r.word 4) 56 4 ≤ 4) && (decide (3 ≤ bits (r.word 4) 56 4) || decide (bits (r.word 4) 50 6 = 0))

/-! ### The checks of a push (R268, R269, R294) -/

/-- The descriptors of a record that name handles. -/
def handleDescs (r : Rec) : List Nat :=
  (if r.readsSource || r.kind = 0x13 then [0] else []) ++ (if r.kind = 0x14 then [] else [1]) |>.filter r.sp

/-- The record with the handles of its memory descriptors attached (R268). -/
def attachHandles (st : Strand) (r : Rec) : Rec := { r with handles := (handleDescs r).map fun d => (d, hregOf st (r.hnum d)) }

/-- The handle attached to a descriptor. -/
def Rec.handle (r : Rec) (d : Nat) : Word := ((r.handles.find? fun x => x.1 = d).map (·.2)).getD 0

/-- HANDLE with a reason and a handle number. -/
def handleErr (reason h : Nat) (eaddr : Word) : PushErr := (0x04, reason * 2 ^ 24 + h * 2 ^ 20, eaddr)

/-- HANDLE of a record's descriptors by themselves (R269 step 2). -/
def handleCheck (r : Rec) : Option PushErr :=
  let base := fun (d : Nat) => 16 * r.base d
  ((r.handles.find? fun x => !hV x.2).map fun x => handleErr 1 (r.hnum x.1) (word64 (base x.1))).or
    ((r.handles.find? fun x => decide (x.1 = 1) && !hWR x.2).map fun x => handleErr 4 (r.hnum x.1) (word64 (hBase x.2 + base x.1)))

/-- HANDLE of a memory span that leaves its page (R269 step 3). -/
def spanCheck (r : Rec) : Option PushErr :=
  ((copyOperands r).filter fun o => o.mem).findSome? fun o =>
    let h := r.handle o.d
    if r.lo o < 0 then some (handleErr 2 (r.hnum o.d) (word64 (hBase h + 16 * r.lo o)))
    else if (hSize h : Int) < 16 * r.hi o + o.bytes then some (handleErr 2 (r.hnum o.d) (BitVec.ofNat 64 (hBase h + hSize h)))
    else none

/-- The types that a copy record names. -/
def Rec.copyTypes (r : Rec) : List Ty := if r.kind = 0x11 then r.stype.toList ++ r.dtype.toList else []

/-- Why CQPUSH or CSTAGE of the strand in focus refuses a record with its handles attached (R269, R412). -/
def copyRefusal (op : Nat) (s : State) (b : Int) (r : Rec) : Option PushErr :=
  if !frameOkRec [0x10, 0x11, 0x12, 0x13, 0x14] r || !copyFields r || decide (b % 16 ≠ 0) || !r.copyTypes.all (servedType s) then
    some (illegalRecord op)
  else firstErr [handleCheck r, spanCheck r, rangeErr 2 ((mySpindle s).sg * 65536) ((copyOperands r).filter fun o => !o.mem) r]

/-- LZ with a reason, a zone or binding, and a SEQ. -/
def lzDetail (reason n seq : Nat) : Nat := det reason n + seq % 2 ^ 16

/-- Why the binding of an RPUT refuses it (R294). -/
def bindRefusal (p : Spindle) (r : Rec) : Option PushErr :=
  if r.kind ≠ 0x14 then none
  else
    match bindAt p r.bind with
    | none => some (0x0F, lzDetail 1 r.bind 0, 0)
    | some b =>
      if b.resv.isEmpty then some (0x0F, lzDetail 5 r.bind 0, 0)
      else if b.bytes < r.total * r.chunk then some (0x0F, lzDetail 6 r.bind 0, 0) else none

/-- Take the oldest reserved slot of a binding (R294). -/
def takeReserved (b : Binding) : Binding := { b with resv := b.resv.drop 1, att := b.att + 1 }

/-- Append a record to a copy queue, an RPUT with its slot (R268, R294). -/
def pushCopy (q : Nat) (r : Rec) (s : State) : State :=
  if r.kind ≠ 0x14 then appendRec q r s
  else
    match bindAt (mySpindle s) r.bind with
    | none => s
    | some b =>
      let x := nth (0, 0) b.resv 0
      appendRec q { r with za := b.za, slot := x.1, sseq := x.2 } (updMySpindle (updBind r.bind takeReserved) s)

/-- CQPUSH (R281). -/
def execCqpush (w : O3) (s : State) : Host.Outcome State Fault Refusal :=
  .next (whenGuard w.g w.gn (fun s =>
    let off := srcNum s w.a 32
    let q := srcNum s w.c 2 + 1
    whenRecord off (fun ws s =>
      let b := pushBias s w.b
      let r := attachHandles (rd s) (newRec s off ws b 0)
      match (copyRefusal 0x03 s b r).or (bindRefusal (mySpindle s) r) with
      | some e => raise e.1 e.2.1 e.2.2 s
      | none =>
        if 16 ≤ (queueAt (mySpindle s) q).recs.length then again s
        else whenEntry false (unitsOf off 64) (fun s => pushCopy q r (landNext w q s)) s) s) s)

/-! ### CSTAGE and CDRAIN (R282, R283) -/

/-- The records of a stage in the order of their appending: queue and scratchpad offset (R81, R282). -/
def stageRecs (st : List (Nat × Nat)) : List (Nat × Nat) :=
  (upto 4).flatMap fun c =>
    let e := nth (0, 0) st c
    (upto e.1).map fun i => (c + 1, e.2 + 64 * i)

/-- Append the records of a stage one by one, or why the first refused one is refused. -/
def stagePush : List (Nat × Nat) → State → Except PushErr State
  | [], s => .ok s
  | (q, off) :: rs, s =>
    let r := attachHandles (rd s) (newRec s off (recordWords (mySpindle s) off) 0 0)
    match (copyRefusal 0x04 s 0 r).or (bindRefusal (mySpindle s) r) with
    | some e => .error e
    | none => stagePush rs (pushCopy q r s)

/-- Is there room for a stage in every channel? -/
def stageRoom (p : Spindle) (st : List (Nat × Nat)) : Bool :=
  (upto 4).all fun c => decide ((queueAt p (c + 1)).recs.length + (nth (0, 0) st c).1 ≤ 16)

/-- Append a stage whole, where nothing refuses it. -/
def appendStage (rs : List (Nat × Nat)) (s : State) : State :=
  match stagePush rs s with
  | .ok s1 => s1
  | .error e => raise e.1 e.2.1 e.2.2 s

/-- CSTAGE: a stage is pushed whole or not at all. -/
def execCstage (w : O3) (s : State) : Host.Outcome State Fault Refusal :=
  .next (whenGuard w.g w.gn (fun s =>
    let a := srcNum s w.a 12
    match ((taskOf s (mySpindle s)).map Task.sched).bind fun t => t[a]? with
    | none => raiseSched 0xEC (a % 256) s
    | some st =>
      let rs := stageRecs st
      match rs.findSome? fun x => scratchPoison (mySpindle s) x.2 64 with
      | some m => raisePoison m.1 (BitVec.ofNat 64 m.2) s
      | none =>
        match stagePush rs s with
        | .error e => raise e.1 e.2.1 e.2.2 s
        | .ok _ =>
          if !stageRoom (mySpindle s) st then again s
          else whenEntry false (rs.flatMap fun x => unitsOf x.2 64) (appendStage rs) s) s)

/-- Is a channel drained: EMPTY or FAULTED, and no record of it completing? -/
def drained (p : Spindle) (c : Nat) : Bool :=
  let x := queueAt p (c + 1)
  (x.recs.isEmpty || x.faulted) && x.done.isEmpty

/-- The FAULTED channels of a mask. -/
def faultedMask (p : Spindle) (m : Nat) : Nat := maskOf (fun c => bitOf m c && (queueAt p (c + 1)).faulted) 4

/-- CDRAIN. -/
def execCdrain (w : O3) (s : State) : Host.Outcome State Fault Refusal :=
  .next (whenGuard w.g w.gn (fun s =>
    waitWord 4 (srcNum s w.a 4) (timeoutOf w) 0 (fun x s => (upto 4).all fun c => !bitOf x.obj c || drained (mySpindle s) c)
      (fun x s => landS0 w.dst (BitVec.ofNat 64 (faultedMask (mySpindle s) x.obj)) s) s) s)

/-! ### Memory accesses of a channel (R183, R268, R276) -/

/-- AGENT of a copy queue among the writers of memory. -/
def copyAgent (q : Nat) : Nat := queueAgent q

/-- The first piece of a range up to a 64 KiB boundary, and the rest of it. -/
def splitRange (va n : Nat) : List (Nat × Nat) :=
  let k := min n (65536 - va % 65536)
  if k < n then [(va, k), (va + k, n - k)] else [(va, n)]

/-- The piece of memory under a range that lies in one page, as a request; none where the page is not there, or refuses stores. DESIGN
CHOICE (log entry 119): an access that meets the object window (R222) finds no page. -/
def recordReq (s : State) (p : Nat) (wr : Bool) (x : Nat × Nat) : Option (Nat × Word × Nat) :=
  (translate s p x.1).bind fun t =>
    if t.nr || (wr && !t.wr) || (t.dev && touchesWindow x.1 x.2) then none
    else some (t.pa + x.1 % t.size, BitVec.ofNat 64 x.1, x.2)

/-- The pieces of memory under a range of a record, as requests, or the address of the first that has none. -/
def recordReqs (s : State) (p va n : Nat) (wr : Bool) : Except Nat (List (Nat × Word × Nat)) :=
  match (splitRange va n).find? fun x => (recordReq s p wr x).isNone with
  | some x => .error x.1
  | none => .ok ((splitRange va n).filterMap (recordReq s p wr))

/-- Park the head's access (R183, R276). -/
def parkHead (n q va : Nat) (wr : Bool) (s : State) : State := updHead n q (fun r => { r with parked := some (va, wr, false) }) s

/-- Enter a parked access in the page request ring; a full ring holds the entry back (R182). -/
def enterParked (n q : Nat) (s : State) : State :=
  match (headRec (spindleAt s n) q).bind fun r => r.parked.map fun x => (r, x) with
  | none => s
  | some (r, va, wr, done) =>
    if done then s
    else
      match appendRequest (spindleAt s n).part va n (q - 1) 0 2 wr r.tag [] s with
      | some s1 => updHead n q (fun r => { r with parked := some (va, wr, true) }) s1
      | none => s

/-- Park the head's access, and enter it at once where the ring has room. -/
def parkAccess (n q va : Nat) (wr : Bool) (s : State) : State := enterParked n q (parkHead n q va wr s)

/-- Virtual address of a byte of a descriptor's page. -/
def recordVa (r : Rec) (d : Nat) (off : Int) : Nat := ((hBase (r.handle d) : Int) + off).toNat

/-- Go on with the bytes of a source range: scratchpad's at once, memory's when the read has returned (R270, R271). -/
def withSource (n q : Nat) (r : Rec) (off : Int) (len : Nat) (k : List Byte → State → State) (s : State) : State :=
  if !r.sp 0 then
    let o := off.toNat
    whenEngine n q r (if r.chk then some (r.dtag 0, o, len) else none) [(o, len)] []
      (fun s => k (scratchBytes (spindleAt s n) o len) s) s
  else
    match r.data with
    | some bs => k bs s
    | none =>
      if r.sent then s
      else
        match recordReqs s (spindleAt s n).part (recordVa r 0 off) len false with
        | .error a => parkAccess n q a false s
        | .ok _ => updHead n q (fun r => { r with sent := true, sentAt := s.tick, src := recordVa r 0 off }) s

/-- Post the writes of a record as 8-byte stores; `k` bounds their number. -/
def postRecord (n q : Nat) (r : Rec) (start size : Nat) : Nat → Nat → Nat → List Byte → State → State
  | 0, _, _, _, s => s
  | k + 1, va, pa, bs, s =>
    if bs.isEmpty then s
    else postRecord n q r start size k (va + 8) (pa + 8) (bs.drop 8)
      (let s1 := issueWrite n (copyAgent q) s
       { s1 with posted := s.posted ++
          [{ spn := n, strand := copyAgent q, va := BitVec.ofNat 64 va, pa := pa, data := bs.take 8, atom := none,
             part := (spindleAt s n).part, tag := r.tag, grp := r.seq, att := attOf s r.tag, exl := false, rel := 0, hn := r.hnum 1,
             whole := coversOf start size pa, lane := 0, marked := false, org := originOf s n (copyAgent q) }] })

/-- Write the bytes of a record to requests: memory by posted stores, a notify page at once. -/
def writeReqs (n q : Nat) (r : Rec) : List (Nat × Word × Nat) → List Byte → State → State
  | [], _, s => s
  | (pa, va, len) :: rs, bs, s =>
    let p := (spindleAt s n).part
    let s1 :=
      if inDevice s p va.toNat then
        match devStore p (len + 1) (devOff va.toNat) (bs.take len) s with | .ok s2 => s2 | .error _ => s
      else postRecord n q r pa len len va.toNat pa (bs.take len) s
    writeReqs n q r rs (bs.drop len) s1

/-- Cycles that a chunk takes: 64 bytes a cycle (R271). -/
def Rec.units (r : Rec) : Nat := (r.chunk + 63) / 64

/-- Write the destination chunk of issue `n`, and count the issue. -/
def writeChunk (n q : Nat) (r : Rec) (bs : List Byte) (s : State) : State :=
  let o := dstOperand r
  if r.sp 1 then
    let va := recordVa r 1 (16 * r.addr o r.n)
    match recordReqs s (spindleAt s n).part va bs.length true with
    | .error a => parkAccess n q a true s
    | .ok rs => countIssue n q r.units (writeReqs n q r rs bs s)
  else
    let off := r.byte o r.n
    whenEngine n q r none [] [(off, bs.length)]
      (fun s => countIssue n q r.units (updSpindle n (scratchWrite off bs false) s)) s

/-! ### Issues (R270, R273 to R275, R295) -/

/-- Issue the head of a copy queue where it is of a kind and nothing holds it. -/
def issueCopy (kind n ch : Nat) (f : Nat → Rec → State → State) (s : State) : State :=
  match headRec (spindleAt s n) (ch + 1) with
  | none => s
  | some r => if r.kind = kind ∧ headReady s n (ch + 1) r then f (ch + 1) r s else s

/-- One issue of COPY: the source chunk byte for byte. -/
def copyStep (n q : Nat) (r : Rec) (s : State) : State :=
  withSource n q r (16 * r.addr (srcOperand r) r.n) r.srcBytes (writeChunk n q r) s

/-- COPY. -/
def execCopy (n ch : Nat) (s : State) : Host.Outcome State Fault Refusal := .next (issueCopy 0x10 n ch (copyStep n) s)

/-- The sums of COPYACC for the bytes of a source and a destination chunk, with their flags (R274). -/
def addChunk (r : Rec) (xs ys : List Byte) : List Byte × Flags :=
  let st := r.stype.getD .f32
  let dt := r.dtype.getD .f32
  let epc := r.chunk * 8 / dt.width
  let rm := bits (r.word 6) 53 3
  let rs := (upto epc).map fun e =>
    let x := tyValue st (ofBytes ((xs.drop (e * (st.width / 8))).take (st.width / 8)))
    let y := tyValue dt (ofBytes ((ys.drop (e * (dt.width / 8))).take (dt.width / 8)))
    let z := addExact x y
    let m := RMode.ofCode rm (if rm = 4 then drawOf r (r.n * epc + e) else 0)
    let v := roundFp (fmtOf dt) m (bitOf (r.word 6) 52) z.1
    (v.1, z.2 ||| v.2 ||| sigFlags [x, y])
  ((rs.map fun v => toBytes v.1 (dt.width / 8)).flatten, rs.foldl (fun f v => f ||| v.2) 0)

/-- One issue of COPYACC. -/
def copyaccStep (n q : Nat) (r : Rec) (s : State) : State :=
  withBlock n q (bits (r.word 6) 44 8) r (fun r =>
    withSource n q r (16 * r.addr (srcOperand r) r.n) r.srcBytes fun xs s =>
      let off := r.byte (dstOperand r) r.n
      whenEngine n q r none [(off, r.chunk)] [] (fun s =>
        let v := addChunk r xs (scratchBytes (spindleAt s n) off r.chunk)
        writeChunk n q r v.1 (queueFlags n q v.2 s)) s) s

/-- COPYACC. -/
def execCopyacc (n ch : Nat) (s : State) : Host.Outcome State Fault Refusal := .next (issueCopy 0x11 n ch (copyaccStep n) s)

/-- One issue of FILL: PAT in every 4-byte word. -/
def fillStep (n q : Nat) (r : Rec) (s : State) : State :=
  writeChunk n q r ((upto (r.chunk / 4)).flatMap fun _ => toBytes (bits (r.word 6) 0 32) 4) s

/-- FILL. -/
def execFill (n ch : Nat) (s : State) : Host.Outcome State Fault Refusal := .next (issueCopy 0x12 n ch (fillStep n) s)

/-- One issue of GATHER: the index, the range of its source chunk, the copy (R275). A read of memory that has returned goes on. DESIGN
CHOICE (log entry 119): a scratchpad chunk that begins below offset 0 faults as one that ends beyond SG does, with that offset. -/
def gatherStep (n q : Nat) (r : Rec) (s : State) : State :=
  let at_ := r.byte (idxOperand r) 0 + 4 * r.n
  if r.data.isSome then withSource n q r 0 r.chunk (writeChunk n q r) s
  else whenEngine n q r none [(at_, 4)] [] (fun s =>
    let p := spindleAt s n
    let i := ofBytes (scratchBytes p at_ 4)
    let off : Int := 16 * r.from (srcOperand r) + i * r.chunk
    if r.sp 0 then
      let h := r.handle 0
      if (hSize h : Int) < off + r.chunk then
        faultHead n q r 0x04 (2 * 2 ^ 24 + r.hnum 0 * 2 ^ 20) (BitVec.ofNat 64 (hBase h + hSize h)) s
      else withSource n q r off r.chunk (writeChunk n q r) s
    else if off < 0 then faultHead n q r 0x06 (det 2 0) (word64 off) s
    else if ((p.sg * 65536 : Nat) : Int) < off + r.chunk then
      faultHead n q r 0x06 (det 2 0) (BitVec.ofNat 64 (p.sg * 65536)) s
    else withSource n q r off r.chunk (writeChunk n q r) s) s

/-- GATHER. -/
def execGather (n ch : Nat) (s : State) : Host.Outcome State Fault Refusal := .next (issueCopy 0x13 n ch (gatherStep n) s)

/-- Port of a packet that stays on the package: the base-die bridges. -/
def bridge : Nat := 20

/-- The port that leads to a package, the bridges for the own one. -/
def pathTo (s : State) (n pkg : Nat) : Option Nat :=
  if pkg = domPkg (spindleAt s n) then some bridge else routePort s (domGrp (spindleAt s n)) pkg

/-- Send chunk `n` of an RPUT record; where no path works the record stops (R292, R295, R305). -/
def sendChunk (n q : Nat) (r : Rec) (bs : List Byte) (s : State) : State :=
  match pathTo s n (zaPkg r.za) with
  | none => faultHead n q r 0x0F (lzDetail 8 r.bind r.sseq) (BitVec.ofNat 64 r.off) s
  | some port =>
    let m : ChunkMsg := { hdr := hdrFor s n (zaPkg r.za) r.sseq r.tag, lspn := zaSpn r.za, zone := zaZone r.za, slot := r.slot,
                          seq := r.sseq, off := r.n * r.chunk, last := r.total, rop := bits (r.word 4) 56 4, xw := bits (r.word 4) 50 6,
                          data := bs, spn := n, chan := q - 1, recno := r.seq, port := port }
    countIssue n q r.units (updHead n q (fun r => { r with ports := if r.ports.contains port then r.ports else port :: r.ports })
      { s with net := s.net ++ [.chunk m] })

/-- One issue of RPUT. -/
def rputStep (n q : Nat) (r : Rec) (s : State) : State :=
  withSource n q r (16 * r.addr (srcOperand r) r.n) r.srcBytes (sendChunk n q r) s

/-- RPUT. -/
def execRput (n ch : Nat) (s : State) : Host.Outcome State Fault Refusal := .next (issueCopy 0x14 n ch (rputStep n) s)

/-! ### Returning reads (R271, R276) -/

/-- A channel's read of a chunk, byte by byte, and what its record knows afterwards. It is handed what a write carries where the chunk
is all that write's (R234). -/
def readChunk (n q : Nat) (tag : BitVec 16) (rs : List (Nat × Word × Nat)) (s : State) : List Byte × State :=
  let a := copyAgent q
  let x := attOf s tag
  let s1 := match rs with
    | [r] => if s.olds.any (fun o => decide (o.spn = n) && decide (o.agent = a)) || inDevice s (spindleAt s n).part r.2.1.toNat then s
             else gainLast n a x r.1 r.2.2 s
    | _ => s
  rs.foldl (fun r y => let z := readRequest n a x 1 y r.2; (r.1 ++ z.1, z.2)) ([], s1)

/-- What a channel's read does to the lines it reads (R236). -/
def recordLines (n q : Nat) (r : Rec) (x : Nat × Word × Nat) (s : State) : State :=
  if inDevice s (spindleAt s n).part x.2.1.toNat then s
  else
    let at_ := attOf s r.tag
    let s1 := (lineStarts x.1 x.2.2).foldl
      (fun s a => readLine n (queueAgent q) r.tag r.sentAt at_ (x.2.1.toNat + (a - x.1)) a s) s
    if r.acq = 0 then s1 else acquireLines n (queueAgent q) r.tag at_ 3 x.2.1.toNat x.1 x.2.2 s1

/-- The data of a channel's memory read return, for its issue to take; poison is consumed (R276). A page that has gone in the
meantime parks the read, and REPLAY sends it again. -/
def execCopyReadReturn (n ch : Nat) (s : State) : Host.Outcome State Fault Refusal :=
  let q := ch + 1
  .next (match headRec (spindleAt s n) q with
    | none => s
    | some r =>
      if !r.sent || r.data.isSome || (queueAt (spindleAt s n) q).faulted then s
      else
        match recordReqs s (spindleAt s n).part r.src r.srcBytes false with
        | .error a => parkAccess n q a false (updHead n q (fun r => { r with sent := false }) s)
        | .ok rs =>
          match ownPoison s n (copyAgent q) (attOf s r.tag) rs with
          | some m => faultPoison n q r m.1 m.2 s
          | none =>
            let z := readChunk n q r.tag rs (rs.foldl (fun s x => recordLines n q r x s) s)
            updHead n q (fun r => { r with data := some z.1 }) z.2)

/-! ### Faults after the last issue, and posted stores (R228, R252, R292, R327, R328) -/

/-- Take a record that has made its last issue out of its queue. -/
def dropRecord (c : Nat) (r : Rec) (x : Queue) : Queue :=
  let x1 := { x with done := x.done.filter fun d => decide (d.r.seq ≠ r.seq) }
  match x.recs with
  | [] => x1
  | h :: rs =>
    if h.seq = r.seq then
      { x1 with
        recs := match rs with | [] => [] | y :: ys => { y with headAt := max y.headAt (c + 1) } :: ys
        lastPC := r.off / 64 }
    else x1

/-- A record faults after its last issue: it raises nothing, and its queue runs on (R252). -/
def failIssued (n q : Nat) (r : Rec) (code detail : Nat) (eaddr : Option Word) (s : State) : State :=
  deliverFault n q r code detail (eaddr.getD (BitVec.ofNat 64 r.off))
    (breakSlot n r (updSpindle n (updQueue q (dropRecord s.cycle r)) s))

/-- A record of a queue faults: the head before its last issue, or a record after it (R252). -/
def failRecord (n q seq code detail : Nat) (eaddr : Option Word) (s : State) : State :=
  let x := queueAt (spindleAt s n) q
  match x.recs.find? fun r => r.seq = seq with
  | some r =>
    if x.faulted then s
    else if r.n = r.total then failIssued n q r code detail eaddr s
    else faultHead n q r code detail (eaddr.getD (BitVec.ofNat 64 r.off)) s
  | none =>
    match x.done.find? fun d => d.r.seq = seq with
    | none => s
    | some d => failIssued n q d.r code detail eaddr s

/-- A channel's write is applied at its home, or refused by a versioned page (R328). -/
def applyRecord (w : Posted) (s : State) : State :=
  if refusesAny s w.att w.pa w.data.length then
    failRecord w.spn (w.strand - 4) w.grp 0x04 (5 * 2 ^ 24 + w.hn * 2 ^ 20) (some w.va) s
  else
    clearWhole w ((lineStarts w.pa w.data.length).foldl (fun s a => dirtyLine (skeinOf w.spn) w.att 0 w.marked a s)
      (homeWrite w.org w.att w.pa w.data w.marked s))

/-- A posted store is applied at its home (R228, R327). One of a closed attempt is discarded (R324). -/
def execStoreApply (n : Nat) (s : State) : Host.Outcome State Fault Refusal :=
  .next (match s.posted[n]? with
    | none => s
    | some w =>
      if w.atom.isSome || !mayApply s n w then s
      else if stale s w.tag w.att then dropPosted n s
      else if w.strand < 4 then applyWrite w w.data (dropPosted n s) else applyRecord w (dropPosted n s))

/-! ### Completion (R202, R250, R271, R272, R295) -/

/-- Is everything applied that a record has sent? -/
def recordApplied (s : State) (n q : Nat) (r : Rec) : Bool :=
  if r.kind = 0x14 then decide (r.acks = r.total)
  else !s.posted.any fun w => decide (w.spn = n) && decide (w.strand = copyAgent q) && decide (w.grp = r.seq)

/-- The tile tags that a record writes at its completion (R272). -/
def writeTags (r : Rec) (p : Spindle) : Spindle :=
  if !r.tagw || decide (r.kind < 0x10) then p
  else
    let o := dstOperand r
    let off := (16 * r.lo o).toNat
    { p with tileTag := (tilesOf off ((16 * r.hi o).toNat + o.bytes - off)).foldl (fun m t => SMap.set 0 m t (r.dtag 1)) p.tileTag }

/-- The head that has waited for a record that ends now issues in the next cycle at the earliest (R250). -/
def wakeBehind (n q : Nat) (r : Rec) (s : State) : State :=
  updHead n q (fun h =>
    if q = 0 ∧ h.n = 0 ∧ mustWait r h then { h with start := max h.start (s.cycle + 1) } else h) s

/-- What a record hands on once it has completed, keyed as in `Origin.rel`: what its release has released (R231, R235). -/
def recHands (q : Nat) (r : Rec) : SMap (List Nat) := (r.view.release (BitVec.ofNat 5 r.rel)).handsOn (agentClass (queueAgent q))

/-- A record completes: its release, tags, the slot's binding, the raise of SSEM by SINC, and the records behind it that waited
for it (R235, R250, R271, R295). -/
def completeRec (n q : Nat) (r : Rec) (s : State) : State :=
  let s1 := updSpindle n (fun p =>
    let p1 := writeTags r (updQueue q (fun x => { x with done := x.done.drop 1, prev := (r.seq, recHands q r) }) p)
    if r.kind = 0x14 then updBind r.bind (fun b => { b with att := b.att - 1 }) p1 else p1)
      (if BitVec.ofNat 5 r.rel &&& 0x0B = 0 then s else writeBack (skeinOf n) s)
  let s2 := carrySem n r.ssem (recHands q r) (raiseSem n r.ssem r.sinc r.vt s1)
  let s3 := tap 0x02 n (queueAgent q) r.tag (BitVec.ofNat 64 q) (BitVec.ofNat 64 r.kind) (BitVec.ofNat 64 (s.cycle - r.first)) s2
  let s4 := match headRec (spindleAt s3 n) q with
    | some h => if h.met && decide (h.n = 0) && !h.sent then acquireHead n q h s3 else s3
    | none => s3
  wakeBehind n q r s4

/-- The lowest column of an MMA or MMAZ record whose check fails at its completion (R261). -/
def mulShadow (p : Spindle) (r : Rec) : Option Nat :=
  if r.accumulates then
    (r.rows.filterMap fun row => shadowColumn p.matrix row (8 * (bits r.kflags 8 3 + 1))).foldl (fun m j =>
      match m with | none => some j | some i => some (min i j)) none
  else none

/-- The oldest record past its last issue completes once its time has come and its writes are applied. An MMA or MMAZ whose
check fails raises nothing and faults (R252, R261). -/
def execEngineRecordComplete (n q : Nat) (s : State) : Host.Outcome State Fault Refusal :=
  .next (match (queueAt (spindleAt s n) q).done with
    | [] => s
    | d :: _ =>
      if s.cycle < d.due ∨ !recordApplied s n q d.r then s
      else
        match mulShadow (spindleAt s n) d.r with
        | some j =>
          corruptRecord n q d.r j
            (deliverFault n q d.r 0x0A (shadowDetailEngine j) (BitVec.ofNat 64 d.r.off)
              (wakeBehind n q d.r (updSpindle n (updQueue q fun x => { x with done := x.done.drop 1 }) s)))
        | none => completeRec n q d.r s)

/-! ### The banks of the pool (R10, R172, R250, R271) -/

/-- The banks of a range of scratchpad. -/
def rangeBanks (off len : Nat) : List Nat := [unitBank (off / 64), unitBank ((off + (len - 1)) / 64)]

/-- The bank of an accumulator row. -/
def rowBank (p : Spindle) (row : Nat) : Nat := (64 - p.ag + row / 256) / 2

/-- The banks that the next issue of a matrix record needs. -/
def matrixBanks (p : Spindle) (r : Rec) : List Nat :=
  let scale := if r.ty = some .e2m1 then rangeBanks (r.byte (scaleOperand 1) r.n) 16 else []
  if r.kind = 1 ∨ r.kind = 2 then rowBank p (r.row (accOperand 2) r.n) :: rangeBanks (r.byte (rowOperand 0) r.n) 256 ++ scale
  else if r.kind = 3 then rangeBanks (r.byte (rowOperand 0) r.n) 256 ++ scale
  else if r.kind = 4 then rowBank p (r.row (accOperand 1) r.n) :: rangeBanks (r.byte (rowOperand 0) r.n) 256
  else if r.kind = 5 then rowBank p (r.row (accOperand 0) r.n) :: rangeBanks (r.byte (rowOperand 1) r.n) 256
  else rowBank p (r.row (accOperand 0) r.n) :: rangeBanks (r.byte ⟨1, false, false, r.mxtBytes, r.mxtBytes⟩ r.n) r.mxtBytes

/-- Does the source of a copy record lie in memory? -/
def Rec.fromMemory (r : Rec) : Bool := r.sp 0 && decide (r.kind ≠ 0x12)

/-- The first byte of the scratchpad source of a record's next issue. -/
def sourceByte (p : Spindle) (r : Rec) : Nat :=
  if r.kind = 0x13 then
    (16 * r.from (srcOperand r) + ofBytes (scratchBytes p (r.byte (idxOperand r) 0 + 4 * r.n) 4) * r.chunk).toNat
  else r.byte (srcOperand r) r.n

/-- The banks of the index of a GATHER's next issue. -/
def indexBanks (r : Rec) : List Nat := rangeBanks (r.byte (idxOperand r) 0 + 4 * r.n) 4

/-- The banks that the request of a memory source needs: a GATHER reads its index for it (R275). -/
def requestBanks (r : Rec) : List Nat := if r.kind = 0x13 then indexBanks r else []

/-- The banks that the next issue of a copy record needs, beyond those of its request. -/
def copyBanks (p : Spindle) (r : Rec) : List Nat :=
  (if r.kind = 0x12 ∨ r.sp 0 then [] else rangeBanks (sourceByte p r) (if r.kind = 0x13 then r.chunk else r.srcBytes)) ++
  (if r.kind = 0x13 ∧ r.sp 0 = false then indexBanks r else []) ++
  (if r.kind = 0x14 ∨ r.sp 1 then [] else rangeBanks (r.byte (dstOperand r) r.n) r.chunk)

/-- The banks that the next issue of a head needs. -/
def headBanks (s : State) (n q : Nat) (r : Rec) : List Nat := if q = 0 then matrixBanks (spindleAt s n) r else copyBanks (spindleAt s n) r

/-! ### QSTAT (R251, R257) -/

/-- One issue of the head of a queue. -/
def headIssue (s : State) (n q : Nat) (r : Rec) : Host.Outcome State Fault Refusal :=
  match r.kind with
  | 1 => execMma n s
  | 2 => execMmaz n s
  | 3 => execBload n s
  | 4 => execAccld n s
  | 5 => execAccst n s
  | 6 => execMxt n s
  | 0x10 => execCopy n (q - 1) s
  | 0x11 => execCopyacc n (q - 1) s
  | 0x12 => execFill n (q - 1) s
  | 0x13 => execGather n (q - 1) s
  | _ => execRput n (q - 1) s

/-- Does an issue of the head take place, and no fault or park? -/
def headGoes (s : State) (n q : Nat) (r : Rec) : Bool :=
  match headIssue s n q r with
  | .next t => (headRec (spindleAt t n) q).any fun h => decide (h.n = r.n + 1)
  | _ => false

/-- Does the head of a queue issue in this cycle, and the banks that are taken behind it, where those of a list are taken before
it? A head whose memory read has not returned does not, nor one that faults or parks. -/
def turnIssues (s : State) (n q : Nat) (taken : List Nat) : Bool × List Nat :=
  let p := spindleAt s n
  let x := queueAt p q
  match x.recs with
  | [] => (false, taken)
  | r :: _ =>
    let under := decide (s.cycle < x.busyUntil)
    let ready := if q = 0 then matrixReady s n r else headReady s n q r && (!r.fromMemory || r.data.isSome)
    if x.faulted || !(under || ready) then (false, taken)
    else if p.served.contains q then (under && !p.denied.contains q, taken)
    else
      let bs := headBanks s n q (if under then { r with n := r.n - 1 } else r)
      if bs.any fun b => taken.contains b then (false, taken) else (under || headGoes s n q r, bs ++ taken)

/-- The banks that are taken before the turn of queue `q` in this cycle: by strands, and by the queues before it. -/
def takenBefore (s : State) (n q : Nat) : List Nat :=
  (upto q).foldl (fun bs i => (turnIssues s n i bs).2) (spindleAt s n).banks

/-- STATE of a queue. -/
def queueState (s : State) (n q : Nat) : Nat :=
  let x := queueAt (spindleAt s n) q
  match x.recs with
  | [] => 0
  | r :: _ =>
    if x.faulted then 4
    else if !r.met then 1
    else if (turnIssues s n q (takenBefore s n q)).1 then 3 else 2

/-- The status word of a queue. -/
def queueWord (s : State) (n q : Nat) : Word :=
  let x := queueAt (spindleAt s n) q
  let st := queueState s n q
  let head := x.recs.head?
  BitVec.ofNat 64 (st * 2 ^ 60 + (if st = 1 then (head.map Rec.wsem).getD 0 else 0) * 2 ^ 54 + x.recs.length * 2 ^ 49 +
    x.flags.toNat % 32 * 2 ^ 44 + x.flags.toNat / 32 * 2 ^ 43 + (match head with | some r => r.off / 64 | none => x.lastPC) % 2 ^ 16 * 2 ^ 24 +
    (match head with | some r => r.seq | none => x.next) % 2 ^ 24)

/-- The engine capability word MXCAP (R245). -/
def mxcap : Word := BitVec.ofNat 64 (16 * 2 ^ 48 + 8 * 2 ^ 40 + 96 * 2 ^ 24 + 2048 * 2 ^ 8 + 128)

/-- Go on with the queue that QSTAT names. -/
def whenQueue (w : O3) (k : Nat → State → State) (s : State) : State :=
  let q := srcNum s w.a 3
  if 4 < q then raiseIllegal 0x18 0x02 5 s else k q s

/-- QSTAT with an action that reads the status (R257). -/
def readQueue (w : O3) (act : Nat → State → State) (s : State) : State :=
  whenGuard w.g w.gn (whenQueue w fun q s =>
    if (mySpindle s).det && !(me s).privm then raiseNondet 0x14 q s
    else act q (landS 1 w.dst (queueWord s s.cur.spn q) 0 s)) s

/-- QSTAT with action 0. -/
def execQstatRead (w : O3) (s : State) : Host.Outcome State Fault Refusal := .next (readQueue w (fun _ s => s) s)

/-- The records of a queue after its FAULTED head. -/
def dropFaulted (c : Nat) (x : Queue) : Queue :=
  { x with
    faulted := false
    lastPC := (match x.recs with | r :: _ => r.off / 64 | [] => x.lastPC)
    recs := match x.recs.drop 1 with | [] => [] | y :: ys => { y with headAt := max y.headAt (c + 1) } :: ys }

/-- QSTAT with action 1: skip the FAULTED head. -/
def execQstatSkip (w : O3) (s : State) : Host.Outcome State Fault Refusal :=
  .next (whenGuard w.g w.gn (whenQueue w fun q s =>
    if (mySpindle s).det && !(me s).privm then raiseNondet 0x14 q s
    else if !(queueAt (mySpindle s) q).faulted then raiseSched 0xEB q s
    else updMySpindle (updQueue q (dropFaulted s.cycle)) (landS 1 w.dst (queueWord s s.cur.spn q) 0 s)) s)

/-- Flush: what has made no issue leaves, the FAULTED head included, with no raise; slots of removed RPUT records break
(R257, R292). DESIGN CHOICE (log entry 119): the last record that PC names then is the last one removed. -/
def flushQueue (q : Nat) (s : State) : State :=
  let x := queueAt (mySpindle s) q
  let keep := fun (r : Rec) => decide (r.n ≠ 0) && !x.faulted
  let gone := (if x.faulted then x.recs.drop 1 else x.recs).filter fun r => !keep r
  let s1 := updMySpindle (updQueue q fun x => { x with
    faulted := false
    recs := x.recs.filter keep
    lastPC := match x.recs.getLast? with | some r => if (x.recs.filter keep).isEmpty then r.off / 64 else x.lastPC | none => x.lastPC }) s
  gone.foldl (fun s r => breakSlot s.cur.spn r s) s1

/-- QSTAT with action 2. -/
def execQstatFlush (w : O3) (s : State) : Host.Outcome State Fault Refusal := .next (readQueue w flushQueue s)

/-- QSTAT with action 3: MXCAP, whatever the queue. -/
def execQstatMxcap (w : O3) (s : State) : Host.Outcome State Fault Refusal :=
  .next (whenGuard w.g w.gn (whenQueue w fun _ s => landS 1 w.dst mxcap 0 s) s)

/-- QSTAT with action 4: FLAGS and ISAT are cleared. -/
def execQstatClear (w : O3) (s : State) : Host.Outcome State Fault Refusal :=
  .next (readQueue w (fun q => updMySpindle (updQueue q fun x => { x with flags := 0 })) s)

end Sys2Proof.Machine
end

