-- ==== Sys2Proof/Machine/Remote.lean ====
section
/-! DEFINITION. Creel, bobbins and the link receive side: class 0x1C, the packets that arrive and return, exact-sum windows
and the ports (R284 to R320, R407, R408). -/

namespace Sys2Proof.Machine

/-! ### Zones and bindings (R287 to R290, R310) -/

/-- Zone `z` of a spindle. -/
def zoneAt (p : Spindle) (z : Nat) : Option Zone := SMap.get none p.zones z

/-- Change a zone that is defined. -/
def updZone (z : Nat) (f : Zone → Zone) (p : Spindle) : Spindle := { p with zones := SMap.modify none p.zones z (Option.map f) }

/-- Slot `j` of a zone. -/
def slotAt (z : Zone) (j : Nat) : Slot := SMap.get .start z.slot j

/-- Change slot `j` of a zone. -/
def updSlot (j : Nat) (f : Slot → Slot) (z : Zone) : Zone := { z with slot := SMap.modify .start z.slot j f }

/-- SEQ of a use of a slot (R289). -/
def seqOf (slots uses j : Nat) : Nat := 1 + (uses * slots + j) % 65535

/-- The SEQ that a zone expects for slot `j`. -/
def expectedSeq (z : Zone) (j : Nat) : Nat := seqOf z.slots (slotAt z j).uses j

/-- The zone that a descriptor value defines (R310). -/
def zoneOf (d : Nat) (owner : Nat) : Zone :=
  { base := bits d 40 24, slots := bits d 36 4 + 1, bytes := bits d 0 24, sem := bits d 30 6, tags := bitOf d 29, head := 0, taken := 0,
    slot := [], flags := 0, owner := owner, binder := none }

/-- Is a descriptor value legal for a zone of a scratchpad of `sg` granules? (R310) -/
def zoneDescOk (d sg : Nat) : Bool :=
  let z := zoneOf d 0
  decide (bits d 24 5 = 0) && aligned z.base 64 && aligned z.bytes 64 && decide (z.bytes ≠ 0) && decide (z.base + z.slots * z.bytes ≤ sg * 65536) &&
    (!z.tags || (aligned z.base 4096 && aligned z.bytes 4096))

/-- Is a descriptor value with a zone address legal for a binding? -/
def bindDescOk (d za : Nat) : Bool :=
  decide (bits d 24 5 = 0) && decide (bits d 40 24 = 0) && decide (bits d 30 6 = 0) && !bitOf d 29 && aligned (bits d 0 24) 64 &&
    decide (bits d 0 24 ≠ 0) && decide (bits za 47 17 = 0) && decide (bits za 26 6 = 0) && decide (bits za 4 12 = 0)

/-- LZ raised by the word in focus (R305). -/
def raiseLz (reason n : Nat) (s : State) : State := raise 0x0F (lzDetail reason n 0) 0 s

/-- The zone or binding that a word names. -/
def zoneNum (s : State) (w : O3) : Nat := srcNum s w.a 4

/-- Has a zone a slot taken or on its way? -/
def zoneLive (z : Zone) : Bool := decide (0 < z.taken) || (upto z.slots).any fun j => (slotAt z j).st = .inflight

/-- LZDEF of a receive zone (R310). -/
def execLzdefZone (w : O3) (s : State) : Host.Outcome State Fault Refusal :=
  .next (whenGuard w.g w.gn (fun s =>
    let z := zoneNum s w
    let d := (srcZero s w.b).toNat
    if (match zoneAt (mySpindle s) z with | some x => zoneLive x | none => false) then raiseLz 2 z s
    else if !zoneDescOk d (mySpindle s).sg then raiseLz 3 z s
    else updMySpindle (fun p => { p with zones := SMap.set none p.zones z (some (zoneOf d s.cur.strand)) }) s) s)

/-- LZDEF of a send binding (R310). -/
def execLzdefBinding (w : O3) (s : State) : Host.Outcome State Fault Refusal :=
  .next (whenGuard w.g w.gn (fun s =>
    let z := zoneNum s w
    let d := (srcZero s w.b).toNat
    let za := srcZero s w.c
    let b : Binding := { za := za, slots := bits d 36 4 + 1, bytes := bits d 0 24, next := 0, credits := bits d 36 4 + 1, resv := [],
                         att := 0, kr := 0, cancels := [] }
    if (match bindAt (mySpindle s) z with | some x => !x.resv.isEmpty || decide (0 < x.att) | none => false) then raiseLz 2 z s
    else if !bindDescOk d za.toNat then raiseLz 3 z s
    else updMySpindle (fun p => { p with binds := SMap.set none p.binds z (some b) }) s) s)

/-- Reserve the next slot of a binding: its number and SEQ (R289, R311). -/
def reserve (w : O3) (x : WaitSt) (s : State) : State :=
  match bindAt (mySpindle s) x.obj with
  | none => s
  | some b =>
    let seq := 1 + b.kr % 65535
    landS 1 w.dst (BitVec.ofNat 64 (seq * 2 ^ 16 + b.next)) 0
      (updMySpindle (updBind x.obj fun b => { b with
        next := (b.next + 1) % b.slots, credits := b.credits - 1, resv := b.resv ++ [(b.next, seq)], kr := b.kr + 1 }) s)

/-- LZRES (R311). -/
def execLzres (w : O3) (s : State) : Host.Outcome State Fault Refusal :=
  .next (whenGuard w.g w.gn (fun s =>
    if (bindAt (mySpindle s) (zoneNum s w)).isNone then raiseLz 1 (zoneNum s w) s
    else waitWord 5 (zoneNum s w) (timeoutOf w) 0
      (fun x s => match bindAt (mySpindle s) x.obj with | some b => decide (0 < b.credits) | none => false) (reserve w) s) s)

/-- Return slot HEAD of a zone: it is FREE, and its credit goes to the binding (R290, R312). -/
def returnSlot (z : Nat) (x : Zone) (s : State) : State :=
  let s1 := updMySpindle (updZone z fun x =>
    updSlot x.head (fun y => { y with st := .free, uses := y.uses + 1, got := [], ports := [] })
      { x with head := (x.head + 1) % x.slots, taken := x.taken - 1 }) s
  match x.binder with
  | none => s1
  | some pkg =>
    let m : CreditMsg := { hdr := hdrFor s s.cur.spn pkg (expectedSeq x x.head) (me s).tag, lspn := (mySpindle s).lcode, zone := z }
    { s1 with net := s1.net ++ [.credit m] }

/-- LZREL (R290, R312). -/
def execLzrel (w : O3) (s : State) : Host.Outcome State Fault Refusal :=
  .next (whenGuard w.g w.gn (fun s =>
    let z := zoneNum s w
    match zoneAt (mySpindle s) z with
    | none => raiseLz 1 z s
    | some x =>
      if x.taken = 0 then raiseLz 4 z s
      else whenEntry true (unitsOf (x.base + x.head * x.bytes) x.bytes) (returnSlot z x) s) s)

/-- The slot that LZWAIT takes next. -/
def nextSlot (z : Zone) : Nat := (z.head + z.taken) % z.slots

/-- May LZWAIT take the next slot of a zone? A slot is taken once. -/
def slotThere (z : Zone) : Bool :=
  let x := (slotAt z (nextSlot z)).st
  decide (z.taken < z.slots) && (decide (x = .arrived) || decide (x = .broken))

/-- LZWAIT takes a slot. -/
def takeArrival (w : O3) (x : WaitSt) (s : State) : State :=
  match zoneAt (mySpindle s) x.obj with
  | none => s
  | some z =>
    let j := nextSlot z
    let broken := decide ((slotAt z j).st = .broken)
    landS 1 w.dst (BitVec.ofNat 64 (b2n broken * 2 ^ 63 + expectedSeq z j % 2 ^ 16 * 2 ^ 32 + (z.base + j * z.bytes) % 2 ^ 32)) 0
      (updMySpindle (updZone x.obj fun z =>
        { updSlot j (fun y => if broken then y else { y with st := .consumed }) z with taken := z.taken + 1 })
        (if broken then s else updMe (fun st => { st with view := st.view.handed 4 (slotAt z j).carry }) s))

/-- LZWAIT (R312). -/
def execLzwait (w : O3) (s : State) : Host.Outcome State Fault Refusal :=
  .next (whenGuard w.g w.gn (fun s =>
    if (zoneAt (mySpindle s) (zoneNum s w)).isNone then raiseLz 1 (zoneNum s w) s
    else waitWord 6 (zoneNum s w) (timeoutOf w) 0
      (fun x s => match zoneAt (mySpindle s) x.obj with | some z => slotThere z | none => false) (takeArrival w) s) s)

/-- The slots of a zone in a state, as a mask. -/
def slotMask (z : Zone) (st : SlotSt) : Nat := maskOf (fun j => decide (j < z.slots) && decide ((slotAt z j).st = st)) 16

/-- The status word of a zone (R313). -/
def zoneWord (z : Zone) : Word :=
  BitVec.ofNat 64 (2 ^ 63 + b2n z.tags * 2 ^ 62 + z.taken * 2 ^ 57 + z.head * 2 ^ 53 + z.flags.toNat * 2 ^ 48 + slotMask z .inflight * 2 ^ 32 +
    slotMask z .arrived * 2 ^ 16 + slotMask z .broken)

/-- The status word of a binding (R313). -/
def bindWord (b : Binding) : Word :=
  BitVec.ofNat 64 (2 ^ 63 + b.credits * 2 ^ 58 + b.next * 2 ^ 54 + b.resv.length * 2 ^ 49 + b.att * 2 ^ 44 + (1 + b.kr % 65535) * 2 ^ 16)

/-- NONDET of a status word under determinism mode, for a strand that is not privileged; else go on (R309). -/
def whenStatus (code : Nat) (k : State → State) (s : State) : State :=
  if (mySpindle s).det && !(me s).privm then raiseNondet code 0 s else k s

/-- LZSTAT (R313). -/
def execLzstat (w : O3) (s : State) : Host.Outcome State Fault Refusal :=
  .next (whenGuard w.g w.gn (whenStatus 0x15 fun s =>
    let z := zoneNum s w
    landS 1 w.dst (if w.b.litVal = 0 then ((zoneAt (mySpindle s) z).map zoneWord).getD 0 else ((bindAt (mySpindle s) z).map bindWord).getD 0) 0 s) s)

/-! ### Bobbins (R296, R297, R303, R314 to R316) -/

/-- PKG that a word names. -/
def pkgNum (s : State) (x : Src) : Nat := srcNum s x 15

/-- The bobbin of a die that takes another element of a key. -/
def openBobbin (s : State) (die part grp : Nat) (tag : BitVec 16) (pkg page : Nat) : Option Nat :=
  (upto 64).findSome? fun j =>
    match bobbinAt s (64 * die + j) with
    | some b => if b.tag = tag ∧ b.pkg = pkg ∧ b.page = page ∧ b.part = part ∧ b.grp = grp ∧ b.elems.length < 16 then some (64 * die + j) else none
    | none => none

/-- The bobbin of a die whose last append is oldest. -/
def oldestBobbin (s : State) (die : Nat) : Option Nat :=
  ((upto 64).foldl (fun (m : Option (Nat × Nat)) j =>
    match m, bobbinAt s (64 * die + j) with
    | none, some b => some (64 * die + j, b.last)
    | some x, some b => if b.last < x.2 then some (64 * die + j, b.last) else some x
    | m, none => m) none).map (·.1)

/-- Append an element to bobbin `i`; a full one leaves (R297). -/
def appendElem (i : Nat) (b : Bobbin) (e : BobElem) (s : State) : State :=
  let b1 := { b with elems := b.elems ++ [e], last := s.cycle }
  let s1 := setBobbin i (some b1) s
  if b1.elems.length = 16 then leaveBobbin i 0 s1 else s1

/-- Append an element of the strand in focus, or let the oldest bobbin leave and issue again (R296). -/
def bobbinPut (pkg va : Nat) (e : BobElem) (s : State) : State :=
  let p := mySpindle s
  let die := dieOf s.cur.spn
  let tag := (me s).tag
  match openBobbin s die p.part (domGrp p) tag pkg (va / 2 ^ 16) with
  | some i => match bobbinAt s i with | some b => appendElem i b e s | none => s
  | none =>
    match (upto 64).find? fun j => (bobbinAt s (64 * die + j)).isNone with
    | some j =>
      let b : Bobbin := { tag := tag, pkg := pkg, page := va / 2 ^ 16, grp := domGrp p, step := p.step, att := attOf s tag, part := p.part,
                          elems := [], born := s.cycle, last := s.cycle, bage := ((taskOf s p).map Task.bage).getD 256, id := 0, port := 0 }
      appendElem (64 * die + j) b e s
    | none =>
      match oldestBobbin s die with
      | some i => again (leaveBobbin i 4 s)
      | none => again s

/-- The checks of BST and BATOM, then the append (R303, R314). -/
def putElem (w : O3) (op : Option (BitVec 4)) (s : State) : State :=
  let x := (srcZero s w.a).toNat % 2 ^ 57
  let pkg := pkgNum s w.b
  let p := mySpindle s
  if p.det && op.isSome && w.ty = .f32 then raiseNondet 0x22 7 s
  else if !aligned x (w.ty.width / 8) then raiseAlign (BitVec.ofNat 64 x) s
  else if pkg = domPkg p then raise 0x10 (8 * 2 ^ 24 + pkg) (BitVec.ofNat 64 x) s
  else bobbinPut pkg x { off := x % 2 ^ 16, wide := decide (w.ty.width = 64), op := op, ty := w.ty, value := dstRead s w.dst,
                         spn := s.cur.spn, strand := s.cur.strand } s

/-- BST (R314). -/
def execBst (w : O3) (s : State) : Host.Outcome State Fault Refusal := .next (whenGuard w.g w.gn (putElem w none) s)

/-- BATOM (R314). -/
def execBatom (w : O3) (s : State) : Host.Outcome State Fault Refusal := .next (whenGuard w.g w.gn (putElem w (some w.mod)) s)

/-- The bobbins of the issuing die that hold an element of the issuing strand, for one package or for all, leave. -/
def flushBobbins (pkg : Option Nat) (s : State) : State :=
  leaveAll 2 (fun i b => decide (i / 64 = dieOf s.cur.spn) && holdsOf b s.cur.spn s.cur.strand &&
    (match pkg with | some k => decide (b.pkg = k) | none => true)) s

/-- BFLUSH (R315). -/
def execBflush (w : O3) (s : State) : Host.Outcome State Fault Refusal :=
  .next (whenGuard w.g w.gn (fun s => flushBobbins (some (pkgNum s w.a)) s) s)

/-- BFLUSHALL (R315). -/
def execBflushall (w : O3) (s : State) : Host.Outcome State Fault Refusal := .next (whenGuard w.g w.gn (flushBobbins none) s)

/-- The word of BSTAT (R316). -/
def bstatWord (s : State) : Word :=
  let die := dieOf s.cur.spn
  let mine := fun (b : Bobbin) => holdsOf b s.cur.spn s.cur.strand
  let used := (usedBobbins s).filter fun x => x.1 / 64 = die
  BitVec.ofNat 64 ((used.filter fun x => mine x.2).length * 2 ^ 48 + (s.flits.filter mine).length % 256 * 2 ^ 40 + (64 - used.length) * 2 ^ 32 +
    (me s).bfail % 2 ^ 16)

/-- BSTAT (R316). -/
def execBstat (w : O3) (s : State) : Host.Outcome State Fault Refusal :=
  .next (whenGuard w.g w.gn (whenStatus 0x16 fun s => landS 1 w.dst (bstatWord s) 0 s) s)

/-- A bobbin's first element has reached its age (R297). -/
def execBobbinAgeExpiry (die j : Nat) (s : State) : Host.Outcome State Fault Refusal :=
  .next (match bobbinAt s (64 * die + j) with
    | none => s
    | some b => if b.born + b.bage ≤ s.cycle then leaveBobbin (64 * die + j) 1 s else s)

/-! ### Exact-sum windows (R36 to R38, R301, R317 to R319) -/

/-- Window `w` of a base die. -/
def winAt (s : State) (die w : Nat) : Window := SMap.get .start s.windows (64 * die + w)

/-- Change window `w` of a base die. -/
def updWin (die w : Nat) (f : Window → Window) (s : State) : State := { s with windows := SMap.modify .start s.windows (64 * die + w) f }

/-- XWAdd (R37). -/
def xwAdd (x : Window) (v : Fp) : Window :=
  match toXW v x.e with
  | none => { x with ovf := true }
  | some n =>
    let x1 := { x with acc := x.acc + BitVec.ofInt 160 n }
    if x.cnt = BitVec.allOnes 32 then { x1 with ovf := true } else { x1 with cnt := x.cnt + 1 }

/-- The overflow condition (R38). -/
def xwOver (x : Window) : Bool :=
  let v := signedValue x.acc.toNat 160
  x.ovf || decide (v < -(2 : Int) ^ 127) || decide ((2 : Int) ^ 127 - 1 < v)

/-- XWRead and its flags: invalid of an overflow condition, else those of its one rounding (R28, R38). -/
def xwRead (x : Window) : Nat × Flags :=
  if xwOver x then (0x7FC0_0000, flNV)
  else
    let v := signedValue x.acc.toNat 128
    if v = 0 then (0, 0) else roundFp .fp32 .rne false (.fin (decide (v < 0)) v.natAbs x.e)

/-- The addends of an XADD: every element of its lanes (R318). -/
def xaddValues (x : XAddOp) : List Fp := x.xs.flatMap fun l => (upto x.ty.elems).map fun e => tyValue x.ty (elemOf x.ty l e)

/-- A window cleared by a write that comes from `o`, its E and owner kept; what the strand still has on its way to it is cleared with it
(R301, R317). -/
def clearWin (n k : Nat) (o : Origin) (x : Window) : Window :=
  { x with acc := 0, cnt := 0, ovf := false, queue := x.queue.filter fun q => !(decide (q.spn = n) && decide (q.strand = k)),
           deps := o.num :: o.dep, clk := o.clk }

/-- A write of the strand in focus to a window of its base die is issued (R229, R301). -/
def windowWrite (i : Nat) (f : Origin → Window → Window) (s : State) : State :=
  let o := originOf s s.cur.spn s.cur.strand
  updWin (dieOf s.cur.spn) i (f o) (tickDie s.cur.spn s.cur.strand o (issueWrite s.cur.spn s.cur.strand s))

/-- The window that a word names. -/
def winNum (s : State) (w : O3) : Nat := srcNum s w.a 6

/-- The open attempt that the task of the strand in focus belongs to, with its step group. -/
def myAttempt (s : State) : Option (Nat × BitVec 16) :=
  if bitOf (mySpindle s).step.toNat 63 then
    ((groupCtx s (domGrp (mySpindle s))).filter fun c => (ctxAt s c).isOpen).map fun c => ((ctxAt s c).grp, (ctxAt s c).att)
  else none

/-- XWDEF (R317). -/
def execXwdef (w : O3) (s : State) : Host.Outcome State Fault Refusal :=
  .next (whenGuard w.g w.gn (fun s =>
    let i := winNum s w
    let e := signedValue (srcZero s w.b).toNat 16
    let x := winAt s (dieOf s.cur.spn) i
    if e < -192 ∨ 64 < e then raiseIllegal 0x1C 0x0B 5 s
    else if x.owner.isSome && decide (x.owner ≠ (mySpindle s).task) then raiseSched 0xF3 i s
    else windowWrite i (fun o x => { clearWin s.cur.spn s.cur.strand o x with owner := (mySpindle s).task, e := e, step := myAttempt s }) s) s)

/-- Go on where the window is bound to the task, else raise SCHED (R317). -/
def whenBound (i : Nat) (k : State → State) (s : State) : State :=
  let o := (winAt s (dieOf s.cur.spn) i).owner
  if o.isSome && decide (o = (mySpindle s).task) then k s else raiseSched 0xF2 i s

/-- The lanes that XADD takes from its source: those that the predicate names. -/
def xaddLanes (s : State) (w : O3) : List Lane :=
  let m := srcZero s w.c
  ((upto 64).filter fun l => m.getLsbD l).map fun l => match w.b with | .v r => laneOf (rd s) r.val l | _ => 0

/-- XADD: posted, at most 16 of them to a window (R318). -/
def execXadd (w : O3) (s : State) : Host.Outcome State Fault Refusal :=
  .next (whenGuard w.g w.gn (whenServed 0x1C 0x0C [w.ty] fun s =>
    let i := winNum s w
    whenBound i (fun s =>
      if 16 ≤ (winAt s (dieOf s.cur.spn) i).queue.length then again s
      else
        windowWrite i (fun o x => { x with queue := x.queue ++
          [{ spn := s.cur.spn, strand := s.cur.strand, tag := (me s).tag, xs := xaddLanes s w, ty := w.ty, att := attOf s (me s).tag,
             org := o }] }) s) s) s)

/-- Does a window still await an XADD of a strand, or one that happens before its read? (R229, R301, R319) -/
def xaddPending (s : State) (x : Window) (n k : Nat) : Bool :=
  x.queue.any fun q => (decide (q.spn = n) && decide (q.strand = k)) || (strandAt s n k).view.hb.contains q.org.num

/-- A strand has read a window: what its value follows happens before the strand's next access (R229, R301). -/
def View.sawWindow (x : Window) (v : View) : View := { v with hb := joinNums v.hb x.deps, clk := clkMax v.clk x.clk }

/-- What XWREAD delivers (R319). -/
def xwValue (x : Window) (m : Nat) : Word × Flags :=
  if m = 0 then ((BitVec.ofNat 64 (xwRead x).1), (xwRead x).2)
  else if m = 1 then (x.acc.truncate 64, 0)
  else if m = 2 then ((x.acc >>> 64).truncate 64, 0)
  else (BitVec.ofNat 64 (b2n (xwOver x) * 2 ^ 63 + wrap x.e 16 * 2 ^ 32 + x.cnt.toNat), 0)

/-- XWREAD: it issues again until the addends that happen before it are applied and 24 cycles have passed (R229, R319). -/
def execXwread (w : O3) (s : State) : Host.Outcome State Fault Refusal :=
  .next (whenGuard w.g w.gn (fun s =>
    let i := winNum s w
    whenBound i (fun s =>
      match (me s).mem with
      | none => again (updMe (fun st => { st with mem := some (.sent s.cycle s.tick s.cur.addr none 0 []) }) s)
      | some m =>
        let x := winAt s (dieOf s.cur.spn) i
        if s.cycle < m.c0 + 24 ∨ xaddPending s x s.cur.spn s.cur.strand then again s
        else
          let v := xwValue x w.b.litVal
          landS 1 w.dst v.1 v.2 (updMe (fun st => { st with mem := none, view := st.view.sawWindow x }) s)) s) s)

/-- XWCLR (R317). -/
def execXwclr (w : O3) (s : State) : Host.Outcome State Fault Refusal :=
  .next (whenGuard w.g w.gn (fun s =>
    whenBound (winNum s w) (fun s => windowWrite (winNum s w) (clearWin s.cur.spn s.cur.strand) s) s) s)

/-- An addend is in a window: a read of it follows the addend, and what happens before that (R229, R301). -/
def noteAddend (o : Origin) (x : Window) : Window :=
  { x with deps := joinNums x.deps (o.num :: o.dep), clk := clkMax (clkMax x.clk o.clk) [(o.skein / 20, o.seq)] }

/-- May the addends of an XADD be applied: does their clock name no write that their base die has yet to apply? (R229) -/
def mayAdd (s : State) (die : Nat) (q : XAddOp) : Bool :=
  !namesAddend s q.org die && s.posted.all fun e =>
    !(decide (e.strand < 4) && decide (homeDie e.pa = die) && decide (e.org.seq ≤ SMap.get 0 q.org.clk (dieOf e.spn)))

/-- The oldest posted XADD of a window is applied as one unit; one of a closed attempt is discarded (R301, R318, R324). -/
def execXaddApply (die i : Nat) (s : State) : Host.Outcome State Fault Refusal :=
  .next (match (winAt s die i).queue with
    | [] => s
    | q :: qs =>
      if !mayAdd s die q then s
      else updWin die i (fun x =>
        let x1 := { x with queue := qs }
        if stale s q.tag q.att then x1 else noteAddend q.org ((xaddValues q).foldl xwAdd x1)) s)

/-! ### LNKSTAT and the ports (R302, R320, R408) -/

/-- Replace port `i`. -/
def setPort (i : Nat) (x : Port) (s : State) : State := { s with ports := SMap.set .start s.ports i x }

/-- Tell the Whorl of a port's state (R380). -/
def tapLink (i : Nat) (s : State) : State :=
  let x := portAt s i
  offerEvent { die := i / 5, f0 := BitVec.ofNat 64 s.tick, f1 := tapF1 15 none none 0x0D, f2 := 0, f3 := BitVec.ofNat 64 i,
               f4 := BitVec.ofNat 64 x.st, f5 := BitVec.ofNat 64 x.retry, task := none } s

/-- Raise an MSI-X vector of a function (R400). -/
def raiseVector (fn vec : Nat) (s : State) : State := { s with dev := { s.dev with msix := s.dev.msix ++ [(fn, vec)] } }

/-- Change a port; a change of STATE is told to the Whorl and to system software (R380, R400). -/
def updPort (i : Nat) (f : Port → Port) (s : State) : State :=
  let s1 := setPort i (f (portAt s i)) s
  if (portAt s1 i).st = (portAt s i).st then s1 else raiseVector 0 0 (tapLink i s1)

/-- The status word of a port for the step group of the reading task (R320). -/
def portWord (s : State) (i grp : Nat) : Word :=
  let x := portAt s i
  let peer := if x.st = 2 then x.peers.find? fun e => e.grp = grp else none
  BitVec.ofNat 64 (x.st * 2 ^ 62 + (peer.map PeerEntry.pkg).getD 0 % 2 ^ 15 * 2 ^ 47 + x.peerPort % 32 * 2 ^ 42 + b2n peer.isSome * 2 ^ 41 +
    x.retry * 2 ^ 16 + x.lost)

/-- LNKSTAT (R320). -/
def execLnkstat (w : O3) (s : State) : Host.Outcome State Fault Refusal :=
  .next (whenGuard w.g w.gn (fun s =>
    let i := srcNum s w.a 5
    if 19 < i then raiseIllegal 0x1C 0x0F 5 s
    else whenStatus 0x17 (fun s => landS 1 w.dst (portWord s i (domGrp (mySpindle s))) 0 s) s) s)

/-- An RPUT record of a queue fails, as a path failure or a refusal (R292, R305). -/
def failRput (n q seq reason : Nat) (s : State) : State :=
  let x := queueAt (spindleAt s n) q
  match (queueRecs x).find? fun r => r.seq = seq with
  | none => s
  | some r => if r.kind = 0x14 then failRecord n q seq 0x0F (lzDetail reason r.bind r.sseq) none s else s

/-- A slot of a zone is broken: LZ goes to the strand that defined the zone, and the Whorl is told (R292, R305). -/
def breakZone (n z j : Nat) (x : Zone) (s : State) : State :=
  let seq := expectedSeq x j
  tap 0x06 n 15 0 (BitVec.ofNat 64 z) (BitVec.ofNat 64 seq) 1
    (deliverTrap n x.owner 0x0F (BitVec.ofNat 32 (lzDetail 7 z seq)) 0 none
      (updSpindle n (updZone z (updSlot j fun y => { y with st := .broken })) s))

/-- The slots of a spindle's zones whose chunks came through a failed port break (R292). -/
def breakArriving (port n : Nat) (s : State) : State :=
  (upto 16).foldl (fun s z => (upto 16).foldl (fun s j =>
    match zoneAt (spindleAt s n) z with
    | some y => if (slotAt y j).st = .inflight ∧ (slotAt y j).ports.contains port then breakZone n z j y s else s
    | none => s) s) s

/-- Does a packet on its way travel through a port? -/
def onPort (port : Nat) : NetMsg → Bool
  | .chunk m => m.port = port
  | .flit m => m.port = port
  | _ => false

/-- What a packet that is lost with its port leads to: a bobbin's elements fail (R302). -/
def losePacket (s : State) (m : NetMsg) : State :=
  match m with
  | .flit f =>
    failElems f.hdr.tag f.hdr.dst f.page 0 f.elems (f.elems.map fun _ => 5) { s with flits := s.flits.filter fun b => b.id ≠ f.id }
  | _ => s

/-- The RPUT records of a spindle that have sent a chunk through a port and are not complete fail with it (R292). -/
def failCarried (port n : Nat) (s : State) : State :=
  let hit := fun (r : Rec) => decide (r.kind = 0x14) && r.ports.contains port && decide (r.acks < r.total)
  ((upto 5).flatMap fun q => ((queueRecs (queueAt (spindleAt s n) q)).filter hit).map fun r => (q, r.seq)).foldl
    (fun s y => failRput n y.1 y.2 8 s) s

/-- A place beside the spindles of the package, where a saved one is worked on. -/
def offPlace : Nat := 640

/-- Do to one saved spindle what `f` does to a spindle of the package: the spindle, and what that does to the rest. -/
def onSaved (f : Nat → State → State) (p : Spindle) (s : State) : Spindle × State :=
  let s1 := f offPlace (setSpindle offPlace p s)
  (spindleAt s1 offPlace, setSpindle offPlace .start s1)

/-- Do to every saved spindle of a task what `f` does to a spindle of the package. -/
def overSaved (f : Nat → State → State) (t : Task) (s : State) : Task × State :=
  let r := t.saved.foldl (fun (a : List (Nat × Spindle) × State) x =>
    let y := onSaved f x.2 a.2
    (a.1 ++ [(x.1, y.1)], y.2)) ([], s)
  ({ t with saved := r.1 }, r.2)

/-- Do to the saved spindles of every task what `f` does to a spindle of the package. -/
def overAway (f : Nat → State → State) (s : State) : State :=
  (s.tasks.map (·.1)).foldl (fun s id => match SMap.get none s.tasks id with
    | some t => if t.saved.isEmpty then s else let r := overSaved f t s; { r.2 with tasks := SMap.modify none r.2.tasks id (Option.map fun x => { x with saved := r.1.saved }) }
    | none => s) s

/-- What a failed port does to a spindle, also to one that pre-emption has saved: its records that the port carries fail, and the slots that
it was filling break (R292). -/
def failThrough (port n : Nat) (s : State) : State := breakArriving port n (failCarried port n s)

/-- The flits of a packet: 256 bytes each (R408). -/
def flitCount : NetMsg → Nat
  | .chunk m => max 1 ((m.data.length + 255) / 256)
  | _ => 1

/-- The packets of a port are lost, and their flits are counted (R302, R320). -/
def losePackets (port : Nat) (s : State) : State :=
  let gone := s.net.filter (onPort port)
  let s1 := setPort port { portAt s port with lost := min 0xFFFF (gone.foldl (fun a m => a + flitCount m) (portAt s port).lost) }
    { s with net := s.net.filter fun m => !onPort port m }
  overAway (failThrough port) ((s1.spindles.map (·.1)).foldl (fun s n => failThrough port n s) (gone.foldl losePacket s1))

/-- A port loses its link (R302). -/
def execLinkLoss (i : Nat) (s : State) : Host.Outcome State Fault Refusal :=
  .next (if (portAt s i).st = 2 ∧ !(portAt s i).down then updPort i (fun x => { x with down := true, since := s.tick }) s else s)

/-- A port that has been without its link for 20,000 ticks fails (R302). -/
def execPortFailure (i : Nat) (s : State) : Host.Outcome State Fault Refusal :=
  let x := portAt s i
  .next (if x.st = 2 ∧ x.down ∧ x.since + 20000 ≤ s.tick then
      losePackets i (updPort i (fun x => { x with st := 3, down := false }) s) else s)

/-- Training ends and the port is UP with what the far end sent; a link lost a moment ago is back (R408). -/
def execPortTrained (i peer : Nat) (es : List PeerEntry) (s : State) : Host.Outcome State Fault Refusal :=
  let x := portAt s i
  .next (if x.st = 1 then updPort i (fun x => { x with st := 2, peerPort := peer, peers := es, down := false }) s
    else if x.st = 2 ∧ x.down then updPort i (fun x => { x with down := false }) s else s)

/-- Training that has not ended in 50,000,000 ticks starts again (R408). -/
def execTrainingRetry (i : Nat) (s : State) : Host.Outcome State Fault Refusal :=
  .next (if (portAt s i).st = 1 ∧ (portAt s i).since + 50000000 ≤ s.tick then updPort i (fun x => { x with since := s.tick }) s else s)

/-- A flit that failed its CRC is sent again (R408). -/
def execFlitCrcResend (i : Nat) (s : State) : Host.Outcome State Fault Refusal :=
  .next (if (portAt s i).st = 2 then tapLink i (updPort i (fun x => { x with retry := min 0xFFFF (x.retry + 1) }) s) else s)

/-- The far end's step-group entries arrive (R320). -/
def execPeerEntryExchange (i : Nat) (es : List PeerEntry) (s : State) : Host.Outcome State Fault Refusal :=
  .next (if (portAt s i).st = 2 then updPort i (fun x => { x with peers := es }) s else s)

/-- A write of EN of a port: 1 starts training, 0 takes it down with what it carries (R408). -/
def execPortEnable (i : Nat) (en : Bool) (s : State) : Host.Outcome State Fault Refusal :=
  .next (if en then
      (if (portAt s i).en then s else updPort i (fun x => { x with en := true, st := 1, since := s.tick, down := false }) s)
    else losePackets i (updPort i (fun x => { x with en := false, st := 0, peers := [], down := false }) s))

/-- A write of RETRAIN: a FAILED port trains again (R408). -/
def execPortRetrain (i : Nat) (s : State) : Host.Outcome State Fault Refusal :=
  .next (if (portAt s i).st = 3 then updPort i (fun x => { x with st := 1, since := s.tick }) s else s)

/-! ### Packets that arrive (R286, R289 to R295, R298, R300) -/

/-- How far the attempt of a packet is ahead of the last one that its group has opened here; 0 for a packet of none. -/
def pktAhead (s : State) (h : PktHdr) : Nat :=
  match h.att with
  | none => 0
  | some a => (a - (match groupCtx s h.grp with | some c => (ctxAt s c).att | none => SMap.get 0 s.lastAtt h.grp)).toNat

/-- Is a packet of an attempt that this device has not opened yet? It waits. -/
def pktFuture (s : State) (h : PktHdr) : Bool := decide (0 < pktAhead s h) && decide (pktAhead s h < 2 ^ 15)

/-- Is a packet of an attempt that is no longer open? It is discarded (R286, R324). -/
def pktStale (s : State) (h : PktHdr) : Bool :=
  h.att.isSome && (decide (pktAhead s h ≠ 0) || match groupCtx s h.grp with | some c => !(ctxAt s c).isOpen | none => true)

/-- A packet for this device: taken off the bridges where this device sent it, else from outside; none where it is not for
this device, not on its way, or of an attempt that is still to be opened. -/
def received (h : PktHdr) (m : NetMsg) (s : State) : Option State :=
  if h.dst ≠ ownPkg s h.grp || pktFuture s h then none
  else if h.src = h.dst then (if s.net.contains m then some { s with net := s.net.erase m } else none)
  else some s

/-- The header of an answer. -/
def answer (h : PktHdr) : PktHdr := { h with src := h.dst, dst := h.src }

/-- Does a packet's step id differ from that of a receiving task that belongs to a step? (R286) -/
def stepDiffers (p : Spindle) (s : State) (h : PktHdr) : Bool :=
  match taskOf s p with | some t => t.instep && decide (h.step ≠ p.step) | none => false

/-- Answer a chunk. -/
def answerChunk (m : ChunkMsg) (status : Nat) (s : State) : State :=
  { s with net := s.net ++ [.accept { hdr := answer m.hdr, spn := m.spn, chan := m.chan, recno := m.recno, status := status }] }

/-- Two FP32 words added (R295). -/
def addFp32 (x y : Nat) : Nat × Flags :=
  let a := Fp.decode .fp32 x
  let b := Fp.decode .fp32 y
  let z := addExact a b
  let r := roundFp .fp32 .rne false z.1
  (r.1, z.2 ||| r.2 ||| sigFlags [a, b])

/-- A reduce of a chunk into slot bytes, 4 bytes at a time: the bytes and the flags. -/
def reduceChunk (f : Nat → Nat → Nat × Flags) (xs ys : List Byte) : List Byte × Flags :=
  let n := xs.length / 4
  let rs := (((pieces 4 n xs).map ofBytes).zip ((pieces 4 n ys).map ofBytes)).map fun v => f v.1 v.2
  ((rs.map fun v => toBytes v.1 4).flatten, rs.foldl (fun a v => a ||| v.2) 0)

/-- Write scratchpad bytes and leave the marks of their units (R295). -/
def scratchKeep (off : Nat) (bs : List Byte) (p : Spindle) : Spindle := { p with scratch := SMap.setList 0 p.scratch off bs }

/-- The addends of a chunk for a window: FP32 or BF16 elements. -/
def chunkValues (t : Ty) (bs : List Byte) : List Fp :=
  let k := t.width / 8
  (pieces k (bs.length / k) bs).map fun b => tyValue t (ofBytes b)

/-- Apply a chunk under its ROP (R295). -/
def applyChunk (n z : Nat) (x : Zone) (m : ChunkMsg) (s : State) : State :=
  let off := x.base + m.slot * x.bytes + m.off
  let old := scratchBytes (spindleAt s n) off m.data.length
  if m.rop = 0 then updSpindle n (scratchWrite off m.data false) s
  else if m.rop = 1 then
    let r := reduceChunk addFp32 m.data old
    updSpindle n (fun p => updZone z (fun y => { y with flags := y.flags ||| r.2.truncate 5 }) (scratchKeep off r.1 p)) s
  else if m.rop = 2 then
    updSpindle n (scratchKeep off (reduceChunk (fun a b => ((a + b) % 2 ^ 32, 0)) m.data old).1) s
  else updWin (dieOf n) m.xw (fun w => (chunkValues (if m.rop = 3 then .f32 else .bf16) m.data).foldl xwAdd w) s

/-- Forget the overlap checker's records of some units (R291). -/
def forgetUnits (us : List Nat) (p : Spindle) : Spindle := { p with units := us.foldl (fun m u => SMap.set .start m u .start) p.units }

/-- What an arrival hands on (R231, R289): what its RPUT record has released, where this device has sent it; else the writes of the
sending package that have been applied here (R235). DESIGN CHOICE (log entry 18). -/
def arrivalHands (s : State) (m : ChunkMsg) : SMap (List Nat) :=
  if m.hdr.src = m.hdr.dst then
    let q := m.chan + 1
    let x := queueAt (spindleAt s m.spn) q
    match x.recs.head? with
    | some r =>
      if r.seq = m.recno then recHands q { r with view := x.view }
      else ((x.done.find? fun d => d.r.seq = m.recno).map fun d => recHands q d.r).getD []
    | none => ((x.done.find? fun d => d.r.seq = m.recno).map fun d => recHands q d.r).getD []
  else (upto 5).foldl (fun r c => SMap.set [] r (5 * 1 + c) (viewOf s 0 (farAgent m.hdr.src)).own) []

/-- The last chunk of a slot has been applied: tags, ARRIVED, the raise, and what the arrival hands on (R231, R289). -/
def arriveSlot (n z j : Nat) (x : Zone) (carry : SMap (List Nat)) (s : State) : State :=
  let off := x.base + j * x.bytes
  let seq := expectedSeq x j
  let s1 := updSpindle n (fun p =>
    let p1 := forgetUnits (unitsOf off x.bytes) (updZone z (updSlot j fun y => { y with st := .arrived, seq := seq, carry := carry }) p)
    if x.tags then { p1 with tileTag := (tilesOf off x.bytes).foldl (fun m t => SMap.set 0 m t (BitVec.ofNat 16 seq)) p1.tileTag } else p1) s
  tap 0x06 n 15 0 (BitVec.ofNat 64 z) (BitVec.ofNat 64 seq) 0 (carrySem n x.sem carry (raiseSem n x.sem 1 [] s1))

/-- A chunk that its slot takes: applied, counted, and the slot arrives with the last one (R288, R289). -/
def landChunk (n : Nat) (x : Zone) (m : ChunkMsg) (s : State) : State :=
  let s1 := updSpindle n (updZone m.zone fun y =>
    { updSlot m.slot (fun y => { y with st := .inflight, got := y.got ++ [m.off], ports := if y.ports.contains m.port then y.ports else m.port :: y.ports }) y with binder := some m.hdr.src })
    (applyChunk n m.zone x m s)
  if (slotAt x m.slot).got.length + 1 = m.last then arriveSlot n m.zone m.slot x (arrivalHands s m) s1 else s1

/-- Is an ROP 3 or 4 chunk for a window that is not bound to the target task? -/
def windowForeign (s : State) (n : Nat) (m : ChunkMsg) : Bool :=
  decide (3 ≤ m.rop) && decide ((winAt s (dieOf n) m.xw).owner ≠ (spindleAt s n).task)

/-- The receive side applies or refuses a chunk (R286, R292, R295). -/
def takeChunk (m : ChunkMsg) (s : State) : State :=
  if pktStale s m.hdr then s
  else
    match targetSpindle s m.hdr.grp m.lspn with
    | none => answerChunk m 1 s
    | some n =>
      match zoneAt (spindleAt s n) m.zone with
      | none => answerChunk m 1 s
      | some x =>
        let st := (slotAt x m.slot).st
        if x.slots ≤ m.slot ∨ (st ≠ .free ∧ st ≠ .inflight) then answerChunk m 1 s
        else if stepDiffers (spindleAt s n) s m.hdr || decide (x.bytes < m.off + m.data.length) || decide (m.seq ≠ expectedSeq x m.slot) ||
            windowForeign s n m then
          answerChunk m 1 (breakZone n m.zone m.slot { x with binder := some m.hdr.src }
            (updSpindle n (updZone m.zone fun y => { y with binder := some m.hdr.src }) s))
        else answerChunk m 0 (landChunk n x m s)

/-- An RPUT chunk arrives. Chunks for a task that is away wait (R308). -/
def execRputChunkReceive (m : ChunkMsg) (s : State) : Host.Outcome State Fault Refusal :=
  .next (if targetAway s m.hdr.grp m.lspn then s
    else match received m.hdr (.chunk m) s with
      | none => s
      | some s1 => takeChunk m s1)

/-- Change the record of a queue that has a number. -/
def updNumbered (n q seq : Nat) (f : Rec → Rec) (s : State) : State :=
  let g := fun (r : Rec) => if r.seq = seq then f r else r
  updSpindle n (updQueue q fun x => { x with recs := x.recs.map g, done := x.done.map fun d => { d with r := g d.r } }) s

/-- One more chunk of a record is accepted (R295). -/
def countAccept (n q seq : Nat) (s : State) : State := updNumbered n q seq (fun r => { r with acks := r.acks + 1, away := false }) s

/-- What the answer to a chunk does to its record (R292, R295, R308). -/
def takeAnswer (m : AcceptMsg) (s : State) : State :=
  if m.status = 0 then countAccept m.spn (m.chan + 1) m.recno s
  else if m.status = 3 then updNumbered m.spn (m.chan + 1) m.recno (fun r => { r with away := true }) s
  else failRput m.spn (m.chan + 1) m.recno (if m.status = 2 then 8 else 9) s

/-- Is a message the chunk that an answer from another device is for? -/
def answered (m : AcceptMsg) : NetMsg → Bool
  | .chunk c => decide (c.spn = m.spn) && decide (c.chan = m.chan) && decide (c.recno = m.recno) && decide (c.hdr.dst = m.hdr.src)
  | _ => false

/-- The answer to an RPUT chunk returns to its sender; one that says that the chunk waits leaves it (R292, R295, R308). -/
def execRputChunkAccept (m : AcceptMsg) (s : State) : Host.Outcome State Fault Refusal :=
  .next (match received m.hdr (.accept m) s with
    | none => s
    | some s1 =>
      let s2 := if m.hdr.src = m.hdr.dst ∨ m.status = 3 then s1 else { s1 with net := s1.net.eraseP (answered m) }
      if pktStale s m.hdr then s2 else takeAnswer m s2)

/-- The number of a spindle's binding for the zone that a credit comes from. -/
def bindingFor? (m : CreditMsg) (p : Spindle) : Option Nat :=
  (upto 16).find? fun b =>
    match bindAt p b with
    | some y => decide (domGrp p = m.hdr.grp) && decide (zaPkg y.za = m.hdr.src) && decide (zaSpn y.za = m.lspn) && decide (zaZone y.za = m.zone)
    | none => false

/-- A binding of a spindle has one slot more to reserve. -/
def addCredit (m : CreditMsg) (p : Spindle) : Spindle :=
  match bindingFor? m p with
  | some b => updBind b (fun y => { y with credits := min y.slots (y.credits + 1) }) p
  | none => p

/-- A spindle that pre-emption has saved takes a credit (R290, R302). -/
def creditSaved (m : CreditMsg) (t : Task) : Task := { t with saved := t.saved.map fun x => (x.1, addCredit m x.2) }

/-- A returned slot's credit reaches its binding, also one of a task that is away; of another step it is refused (R286, R290,
R302). -/
def execSlotCreditReceive (m : CreditMsg) (s : State) : Host.Outcome State Fault Refusal :=
  .next (match received m.hdr (.credit m) s with
    | none => s
    | some s1 =>
      if pktStale s m.hdr then s1
      else match s1.spindles.find? fun x => x.2.task.isSome && (bindingFor? m x.2).isSome with
        | some x => if stepDiffers x.2 s1 m.hdr then s1 else updSpindle x.1 (addCredit m) s1
        | none => { s1 with tasks := s1.tasks.map fun x => (x.1, x.2.map (creditSaved m)) })

/-- The bindings of a spindle forget a cancel notice. -/
def forgetCancel (m : CancelMsg) (p : Spindle) : Spindle :=
  (upto 16).foldl (fun p b => updBind b (fun y => { y with cancels := y.cancels.filter (· ≠ m) }) p) p

/-- The binding's notice is acknowledged. -/
def dropCancel (m : CancelMsg) (s : State) : State :=
  { s with
    spindles := s.spindles.map fun x => (x.1, forgetCancel m x.2)
    tasks := s.tasks.map fun x => (x.1, x.2.map fun t => { t with saved := t.saved.map fun y => (y.1, forgetCancel m y.2) })
    net := s.net.filter (· ≠ .cancel m) }

/-- A cancel notice reaches its zone, breaks the slot of the use that it names, and is acknowledged; of a zone on another
device this is what the binding learns (R292). One for a task that is away waits (R308); one of another step has no effect (R286). -/
def execCancelNoticeReceive (m : CancelMsg) (s : State) : Host.Outcome State Fault Refusal :=
  .next (if m.hdr.dst ≠ ownPkg s m.hdr.grp then dropCancel m s
    else if targetAway s m.hdr.grp m.lspn && !pktStale s m.hdr then s
    else match received m.hdr (.cancel m) s with
      | none => s
      | some s1 =>
        let s2 := if m.hdr.src = m.hdr.dst then dropCancel m s1 else s1
        if pktStale s m.hdr then s2
        else match targetSpindle s2 m.hdr.grp m.lspn with
          | none => s2
          | some n =>
            if stepDiffers (spindleAt s2 n) s2 m.hdr then s2
            else match zoneAt (spindleAt s2 n) m.zone with
            | none => s2
            | some x =>
              let st := (slotAt x m.slot).st
              if m.slot < x.slots ∧ (st = .free ∨ st = .inflight) ∧ expectedSeq x m.slot = m.seq then
                breakZone n m.zone m.slot x (updSpindle n (updZone m.zone fun y => { y with binder := some m.hdr.src }) s2)
              else s2)

/-- The cancel notices that no zone has acknowledged. -/
def openCancels (s : State) : List CancelMsg :=
  s.spindles.flatMap fun x => (upto 16).flatMap fun b => match bindAt x.2 b with | some y => y.cancels | none => []

/-- A binding sends a cancel notice again (R292). -/
def execCancelNoticeResend (i : Nat) (s : State) : Host.Outcome State Fault Refusal :=
  .next (match (openCancels s)[i]? with
    | none => s
    | some m => if s.net.contains (.cancel m) then s else { s with net := s.net ++ [.cancel m] })

/-- The partition that a step group's tasks of this device belong to. -/
def groupPart (s : State) (grp : Nat) : Nat := match groupEntry s grp with | some e => bits (groupWord s e 0) 48 6 | none => 0

/-- The bytes that an element writes over what it finds. -/
def elemBytes (e : BobElem) (old : List Byte) : List Byte :=
  let n := if e.wide then 8 else 4
  match e.op with
  | none => toBytes e.value.toNat n
  | some op => toBytes (atomNew op.toNat e.ty (ofBytes old) (e.value.toNat % 2 ^ (8 * n))) n

/-- Apply one element at its home: the state and its status (R298, R300, R305). -/
def applyElem (pkg p page : Nat) (att : Option (BitVec 16)) (e : BobElem) (s : State) : State × Nat :=
  let va := page * 2 ^ 16 + e.off
  let n := if e.wide then 8 else 4
  match translate s p va with
  | none => (s, 1)
  | some t =>
    let pa := t.pa + va % t.size
    if !t.wr then (s, 2)
    else if t.nr then (s, 3)
    else if t.dev then
      (if touchesWindow va n then (s, 2)
       else match devStore p (n + 1) (devOff va) (elemBytes e (devBytes s p (devOff va) n)) s with
         | .ok s1 => (s1, 0)
         | .error _ => (s, 2))
    else if refusesAny s att pa n then (s, 2)
    else if e.op.isSome && decide (readPoison s att pa n ≠ 0) then (s, 6)
    else (outsideWrite (farAgent pkg) e.op.isSome att pa (elemBytes e (homeBytes s att pa n)) s, 0)

/-- Apply the elements of a flit one after the other. -/
def applyElems (pkg p page : Nat) (att : Option (BitVec 16)) : List BobElem → State → State × List Nat
  | [], s => (s, [])
  | e :: es, s =>
    let r := applyElem pkg p page att e s
    let rest := applyElems pkg p page att es r.1
    (rest.1, r.2 :: rest.2)

/-- The tasks of a step group on this device. -/
def groupTasks (s : State) (grp : Nat) : List Task :=
  s.tasks.filterMap fun x => x.2.bind fun t => if t.grp = grp ∧ t.st ≠ .ready then some t else none

/-- The step id that a group's task in a step holds. -/
def groupStep (s : State) (grp : Nat) : Option Word :=
  (s.spindles.find? fun x => match taskOf s x.2 with | some t => t.instep && decide (t.grp = grp) | none => false).map fun x => x.2.step

/-- Take a flit: no target task, another step, or its elements (R286, R298, R305). -/
def takeFlit (m : FlitMsg) (s : State) : State × List Nat :=
  if (groupTasks s m.hdr.grp).isEmpty then (s, m.elems.map fun _ => 4)
  else if (match groupStep s m.hdr.grp with | some x => decide (x ≠ m.hdr.step) | none => false) then (s, m.elems.map fun _ => 7)
  else applyElems m.hdr.src (groupPart s m.hdr.grp) m.page m.hdr.att m.elems s

/-- A bobbin flit arrives; its completion record goes back (R298, R300). -/
def execBobbinFlitReceive (m : FlitMsg) (s : State) : Host.Outcome State Fault Refusal :=
  .next (match received m.hdr (.flit m) s with
    | none => s
    | some s1 =>
      if pktStale s m.hdr then s1
      else
        let r := takeFlit m s1
        { r.1 with net := r.1.net ++ [.flitDone { hdr := answer m.hdr, id := m.id, status := r.2 }] })

/-- Is a message the flit of a number? -/
def isFlit (id : Nat) : NetMsg → Bool
  | .flit f => f.id = id
  | _ => false

/-- The completion record of a flit returns: it is accepted, and failed elements are reported (R297, R300). -/
def execBobbinCompletionReceive (m : FlitDone) (s : State) : Host.Outcome State Fault Refusal :=
  .next (match s.flits.find? fun b => b.id = m.id with
    | none => s
    | some b =>
      failElems b.tag b.pkg b.page 0 b.elems m.status
        { s with flits := s.flits.filter (fun b => b.id ≠ m.id), net := s.net.filter fun x => !isFlit m.id x })

end Sys2Proof.Machine
end

