-- ==== Sys2Proof/Machine/StepTx.lean ====
section
/-! DEFINITION. Step transactions: attempts, votes and the commit tree, decisions, versioned regions and the scrubber,
class 0x20, suspect skeins and containment (R321 to R354). -/

namespace Sys2Proof.Machine

/-! ### Contexts and the tree (R321, R334, R406) -/

/-- HEIGHT of a group's entry. -/
def treeHeight (s : State) (grp : Nat) : Nat :=
  match groupEntry s grp with | some e => bits (groupWord s e 0) 0 4 | none => 0

/-- Does a task stand on the device, from its launch to its end? -/
def Task.here (t : Task) : Bool := decide (t.st ≠ .ready)

/-- Does a task belong to the step that a context serves? -/
def Task.inStep (t : Task) (g : Ctx) : Bool := t.instep && decide (t.grp = g.grp) && decide (t.rqtag = g.tag)

/-- Does something of the group of a context remain on the device, an attempt of which the abort's purge still runs among it?
(R321, R322) -/
def ctxNeeded (s : State) (c : Nat) : Bool :=
  let g := ctxAt s c
  g.isOpen || g.purging || s.tasks.any (fun x => match x.2 with | some t => t.here && decide (t.grp = g.grp) | none => false) ||
    s.parts.any (fun x => x.2.regions.any fun r => match r.2 with | some y => decide (y.ctx = c) | none => false) ||
    s.queues.any (fun x => x.2.pkts.any fun k =>
      decide (bits (nth 0 k.w 0).toNat 0 8 = 6) && k.started && decide (bits (nth 0 k.w 2).toNat 32 16 = g.grp))

/-- Release the contexts of groups of which nothing remains. -/
def releaseCtxs (s : State) : State :=
  (upto 16).foldl (fun s c => if (ctxAt s c).used && !ctxNeeded s c then { s with ctxs := SMap.set .start s.ctxs c .start } else s) s

/-- The context of a group, a free one where it holds none; none where all are taken. -/
def ctxFor (s : State) (grp : Nat) : Option Nat :=
  (groupCtx s grp).or ((upto 16).find? fun c => !(ctxAt s c).used)

/-- Assign a context to a group (R321). -/
def assignCtx (c grp : Nat) (s : State) : State :=
  if (ctxAt s c).used then s
  else { s with ctxs := SMap.set .start s.ctxs c { Ctx.start with used := true, grp := grp, att := SMap.get 0 s.lastAtt grp } }

/-- Does a partition hold a task of a group? (R380) -/
def holdsTask (s : State) (grp p : Nat) : Bool :=
  s.tasks.any fun x => match x.2 with | some t => t.here && decide (t.grp = grp) && decide (t.part = p) | none => false

/-- The partitions that hold a task of a group, the partition of the group's entry among them (R321, R342). -/
def groupParts (s : State) (grp : Nat) : List Nat :=
  (upto 64).filter fun p => ((groupEntry s grp).isSome && decide (groupPart s grp = p)) || holdsTask s grp p

/-- Offer an event of the device to every Whorl, once for each partition that holds a task of a group (R380). -/
def tapGroup (t grp : Nat) (f3 f4 f5 : Word) (s : State) : State :=
  ((upto 64).filter (holdsTask s grp)).foldl (fun s p => (upto 4).foldl (fun s d =>
    offerEvent { die := d, f0 := BitVec.ofNat 64 s.tick, f1 := tapF1 15 none (some p) t, f2 := 0, f3 := f3, f4 := f4, f5 := f5, task := none } s) s) s

/-! ### Votes and decisions (R332 to R335) -/

/-- F.LATE (R332). -/
def fLate : BitVec 6 := 0x10
/-- F.OVF (R332). -/
def fOvf : BitVec 6 := 0x02

/-- Send a vote or a decision to a device: it is kept until acknowledged, and travels where a path is up (R334, R407). -/
def sendTree (grp dst : Nat) (m : NetMsg) (s : State) : State :=
  let s1 := if s.unacked.contains m then s else { s with unacked := s.unacked ++ [m] }
  if (routePort s grp dst).isSome ∧ !s1.net.contains m then { s1 with net := s1.net ++ [m] } else s1

/-- An acknowledged message is not sent again. -/
def ackTree (m : NetMsg) (s : State) : State :=
  { s with net := s.net.filter (· ≠ m), unacked := s.unacked.filter (· ≠ m) }

/-- The lower of two FIRSTPKG. -/
def lowerPkg (a b : Option Nat) : Option Nat :=
  match a, b with
  | some x, some y => some (min x y)
  | none, y => y
  | x, none => x

/-- The votes that a context holds, combined (R334). -/
def combinedVote (g : Ctx) : BitVec 6 × Option Nat :=
  g.kids.foldl (fun v k => (v.1 ||| k.2.1, lowerPkg v.2 k.2.2)) (g.cast.getD 0, g.first)

/-- A decision goes to the children of this device (R335). -/
def sendDecision (m : DecisionMsg) (s : State) : State :=
  (treeKids s m.grp).foldl (fun s k => sendTree m.grp k (.decision k { m with dst := k }) s) s

/-- The root decides: the record goes to itself and to its children (R335). -/
def rootDecide (c : Nat) (v : BitVec 6 × Option Nat) (s : State) : State :=
  let g := ctxAt s c
  let own := ownPkg s g.grp
  let m : DecisionMsg := { grp := g.grp, dst := own, att := g.att, commit := decide (v.1 = 0), flags := v.1, first := v.2 }
  sendDecision m (updCtx c (fun g => { g with decided := true }) { s with net := s.net ++ [.decision own m] })

/-- Votes that this device has sent in a group. -/
def ownVote (grp : Nat) : NetMsg → Bool
  | .vote _ m => decide (m.grp = grp)
  | _ => false

/-- A node has new votes: the root decides, another node sends what it holds to its parent, at once where there is a flag,
else when every vote is there (R333 to R335). -/
def weighVotes (c : Nat) (s : State) : State :=
  let g := ctxAt s c
  let v := combinedVote g
  let full := g.cast.isSome && (treeKids s g.grp).all fun k => g.kids.any fun x => x.1 = k
  if !g.isOpen || g.decided || (decide (v.1 = 0) && !full) then s
  else if treeRoot s g.grp then rootDecide c v s
  else
    let m : VoteMsg := { grp := g.grp, src := ownPkg s g.grp, att := g.att, flags := v.1, first := v.2 }
    sendTree g.grp (treeParent s g.grp) (.vote (treeParent s g.grp) m)
      { s with net := s.net.filter (fun x => !ownVote g.grp x), unacked := s.unacked.filter fun x => !ownVote g.grp x }

/-- Does a suspect skein of a partition of the group spoil its votes? (R342) -/
def suspectGroup (s : State) (grp : Nat) : Bool := (groupParts s grp).any fun p => (partAt s p).suspectVote

/-- The device casts its vote (R333). Under containment lost none is cast (R343). -/
def castVote (c : Nat) (s : State) : State :=
  let g := ctxAt s c
  let f := g.vflags ||| (if suspectGroup s g.grp then fCorrupt else 0)
  if !g.isOpen || decide (s.dev.svc = 3) then s
  else
    weighVotes c (tapGroup 0x07 g.grp (f.zeroExtend 64) (BitVec.ofNat 64 g.stepno) 0
      (updCtx c (fun g => { g with vflags := f, cast := some f, first := if f = 0 then none else some (ownPkg s g.grp) }) s))

/-- Must the device cast at once: has its vote turned non-zero since it last cast? (R333) -/
def castDue (g : Ctx) : Bool := g.isOpen && decide (g.vflags ≠ 0) && decide (g.cast.getD 0 = 0)

/-- Cast the votes that have turned non-zero (R333). -/
def castEarly (s : State) : State := (upto 16).foldl (fun s c => if castDue (ctxAt s c) then castVote c s else s) s

/-- T_D has passed without a cast (R333). -/
def execVoteDeadline (c : Nat) (s : State) : Host.Outcome State Fault Refusal :=
  let g := ctxAt s c
  .next (if g.isOpen ∧ g.cast = none ∧ g.td ≤ s.tick then castVote c (updCtx c (fun g => { g with vflags := g.vflags ||| fLate }) s)
    else s)

/-- A child's vote is missing at its bound: it counts as F.LATE (R334). -/
def execChildVoteDeadline (c child : Nat) (s : State) : Host.Outcome State Fault Refusal :=
  let g := ctxAt s c
  .next (if g.isOpen ∧ !g.decided ∧ child ∈ treeKids s g.grp ∧ !(g.kids.any fun x => x.1 = child) ∧
        g.td + 2400 * treeHeight s g.grp ≤ s.tick then
      weighVotes c (updCtx c (fun g => { g with kids := g.kids ++ [(child, fLate, some child)] }) s)
    else s)

/-- A child's vote is added to what the node has of it: F.LATE, once counted for it, stays (R334). -/
def heardChild (m : VoteMsg) (g : Ctx) : Ctx :=
  let was := match g.kids.find? fun x => x.1 = m.src with | some x => x.2 | none => (0, none)
  { g with kids := g.kids.filter (fun x => x.1 ≠ m.src) ++ [(m.src, m.flags ||| was.1, lowerPkg m.first was.2)] }

/-- A vote arrives at its parent: this device's own is acknowledged; a child's for the open attempt is combined, and one for
an attempt that this device has not opened is not acknowledged yet (R334). -/
def execVoteReceive (m : VoteMsg) (s : State) : Host.Outcome State Fault Refusal :=
  .next (if m.src = ownPkg s m.grp then ackTree (.vote (treeParent s m.grp) m) s
    else match groupCtx s m.grp with
      | none => s
      | some c =>
        let g := ctxAt s c
        if !g.isOpen ∨ g.att ≠ m.att ∨ m.src ∉ treeKids s m.grp then s
        else weighVotes c (updCtx c (heardChild m) s))

/-- A vote or decision that nobody has acknowledged is sent again (R334). -/
def execVoteResend (n : Nat) (s : State) : Host.Outcome State Fault Refusal :=
  .next (match s.unacked[n]? with
    | some (.vote d m) => sendTree m.grp d (.vote d m) s
    | some (.decision d m) => sendTree m.grp d (.decision d m) s
    | _ => s)

/-! ### Applying a decision (R306, R336, R337) -/

/-- The word of a decision (R347). -/
def decisionWord (h : Hist) : Word :=
  BitVec.ofNat 64 ((if h.commit then 2 ^ 63 else 2 ^ 62) + h.flags.toNat * 2 ^ 48 +
    (match h.first with | some k => 2 ^ 47 + k % 2 ^ 15 * 2 ^ 32 | none => 0))

/-- Does a packet carry an attempt's tag? -/
def ofAttempt (grp : Nat) (att : BitVec 16) : NetMsg → Bool
  | .chunk m => decide (m.hdr.grp = grp) && decide (m.hdr.att = some att)
  | .accept m => decide (m.hdr.grp = grp) && decide (m.hdr.att = some att)
  | .credit m => decide (m.hdr.grp = grp) && decide (m.hdr.att = some att)
  | .cancel m => decide (m.hdr.grp = grp) && decide (m.hdr.att = some att)
  | .flit m => decide (m.hdr.grp = grp) && decide (m.hdr.att = some att)
  | .flitDone m => decide (m.hdr.grp = grp) && decide (m.hdr.att = some att)
  | _ => false

/-- Is a window bound to a task of the step of a context, or was it when the task ended? (R306, R425) -/
def windowOfStep (s : State) (g : Ctx) (w : Window) : Bool :=
  decide (w.step = some (g.grp, g.att)) || match w.owner.bind fun t => SMap.get none s.tasks t with | some t => t.inStep g | none => false

/-- What an abort takes from a spindle of the step: zones, bindings, phasers and registrations (R220, R306). -/
def abortSpindle (p : Spindle) : Spindle :=
  let p1 := { p with zones := [], binds := [], phasers := [], phView := [] }
  (upto 4).foldl (fun p k => updStrandOf k (fun st => { st with regs := [] }) p) p1

/-- The spindles of the tasks of a context's step. -/
def stepSpindles (s : State) (g : Ctx) : List Nat :=
  (s.spindles.filter fun x => match taskOf s x.2 with | some t => t.inStep g | none => false).map (·.1)

/-- What an abort does to the objects of a step on the device (R306, R337). -/
def abortObjects (c : Nat) (s : State) : State :=
  let g := ctxAt s c
  let s1 := (stepSpindles s g).foldl (fun s n => updSpindle n abortSpindle s) s
  let emptied := (usedBobbins s1).filter fun x => decide (x.2.tag = g.tag) && decide (x.2.grp = g.grp)
  let s2 := emptied.foldl (fun s x => setBobbin x.1 none s) s1
  let wins := s2.windows.filter fun x => windowOfStep s2 g x.2
  { s2 with
    windows := wins.foldl (fun m x => SMap.set .start m x.1 .start) s2.windows
    flits := s2.flits.filter fun b => !(decide (b.tag = g.tag) && decide (b.grp = g.grp))
    net := s2.net.filter fun m => !ofAttempt g.grp g.att m
    tasks := s2.tasks.map fun x => (x.1, x.2.map fun t => if t.inStep g then { t with phasers := [] } else t)
    ctxs := SMap.modify .start s2.ctxs c fun g => { g with phasers := [] } }

/-- Count a committed step for every skein of the group's partition (R342). -/
def countCommit (part step : Nat) (s : State) : State :=
  let add := fun (m : SMap (Nat × Nat × Nat)) (k : Nat) =>
    if inPartition s part (8 * k) then
      SMap.modify (0, 0, 0) m k fun x => (if x.2.2 = 0 then step else x.1, step, min 0xFFFF (x.2.2 + 1))
    else m
  { s with dev := { s.dev with commits := (upto 80).foldl add s.dev.commits } }

/-- Apply a decision: the outcome bit and OPEN, HIST, and on ABORT what R337 adds (R336). -/
def applyDecision (c : Nat) (m : DecisionMsg) (s : State) : State :=
  let g := ctxAt s c
  let h : Hist := { step := g.stepno, commit := m.commit, flags := m.flags, first := m.first, seqno := g.opened }
  let s1 := tapGroup 0x08 g.grp (if m.commit then 1 else 2) (BitVec.ofNat 64 g.stepno) (m.flags.zeroExtend 64) s
  let s2 := updCtx c (fun g => { g with
    isOpen := false
    decided := true
    purging := !m.commit
    bitmap := if m.commit then SMap.set false g.bitmap (g.att.toNat % 4096) true else g.bitmap
    hist := (g.hist ++ [h]).drop (g.hist.length + 1 - 64) }) s1
  let s3 := { s2 with net := s2.net.filter (fun x => !ownVote g.grp x), unacked := s2.unacked.filter fun x => !ownVote g.grp x }
  if m.commit then countCommit (groupPart s g.grp) g.stepno s3
  else startPurge (groupPart s g.grp) g.tag (abortObjects c s3)

/-- A decision arrives: at this device it is applied and goes on to the children, and one that this device has applied already is
ignored; at a child, this device learns that the child has it (R335, R336). -/
def execDecisionReceive (m : DecisionMsg) (s : State) : Host.Outcome State Fault Refusal :=
  let own := ownPkg s m.grp
  .next (if m.dst ≠ own then ackTree (.decision m.dst m) s
    else match (groupCtx s m.grp).filter fun c => (ctxAt s c).isOpen && decide ((ctxAt s c).att = m.att) with
    | some c =>
      if treeRoot s m.grp then
        (if s.net.contains (.decision own m) then applyDecision c m { s with net := s.net.filter (· ≠ .decision own m) } else s)
      else sendDecision m (applyDecision c m s)
    | none => s)

/-! ### Opening an attempt (R322, R331) -/

/-- The version blocks that are not normalised: their number and metadata. -/
def openBlocks (s : State) (c : Nat) : List (Nat × VMeta) :=
  s.vmeta.filter fun x => x.2.v && decide ((vpageAt s (256 * x.1)).map VPage.ctx = some c)

/-- The attempt tag that a context opens next. -/
def nextAtt (g : Ctx) : BitVec 16 := g.att + 1

/-- May a context open its next attempt? (R322, R331) -/
def mayOpen (s : State) (c : Nat) : Bool :=
  let g := ctxAt s c
  !g.isOpen && !g.purging && (openBlocks s c).all fun b => decide ((nextAtt g - b.2.a).toNat < 2048)

/-- Open the next attempt of a context. The step's phasers start anew (R214, R215). -/
def openAttempt (c : Nat) (tag : BitVec 16) (step deadline ord : Nat) (s : State) : State :=
  let s1 := updCtx c (fun g => { g with
    tag := tag
    stepno := step
    isOpen := true
    att := nextAtt g
    ord := ord
    td := s.tick + deadline
    vflags := 0
    bitmap := SMap.set false g.bitmap ((nextAtt g).toNat % 4096) false
    cast := none
    first := none
    kids := []
    decided := false
    opened := g.opened + 1
    phasers := [] }) s
  receiveEarly { s1 with lastAtt := SMap.set 0 s1.lastAtt (ctxAt s1 c).grp (ctxAt s1 c).att }

/-! ### The scrubber (R331, R353) -/

/-- Normalise a version block (R331). -/
def normalise (block : Nat) (s : State) : State :=
  let b := vmetaAt s (256 * block)
  match vpageAt s (256 * block) with
  | none => s
  | some v =>
    let g := ctxAt s v.ctx
    if !b.v || (g.isOpen && decide (b.a = g.att)) then s
    else { s with vmeta := SMap.set .start s.vmeta block ⟨currentSlot g b none, false, 0⟩ }

/-- The scrubber visits a block. -/
def execScrubberVisit (block : Nat) (s : State) : Host.Outcome State Fault Refusal := .next (normalise block s)

/-- Normalise the blocks of a page of `size` bytes. -/
def normalisePage (pa size : Nat) (s : State) : State :=
  (s.vmeta.filter fun x => decide (pa ≤ 256 * x.1) && decide (256 * x.1 < pa + size)).foldl (fun s x => normalise x.1 s) s

/-! ### Regions (R325, R354) -/

/-- Clear V of a handle that names a page of a range, and kill a TRANS of one that is on its way (R179). -/
def dropHandles (lo hi : Nat) (st : Strand) : Strand :=
  let hit := fun (h : Word) => hV h && decide (hBase h < hi) && decide (lo < hBase h + hSize h)
  { st with
    hreg := (upto 16).foldl (fun m r => let h := SMap.get 0 m r; if hit h then SMap.set 0 m r (h &&& 0x7FFF_FFFF_FFFF_FFFF) else m) st.hreg
    handles := st.handles.map fun d =>
      if hit d.value || (decide (lo ≤ d.va.toNat % 2 ^ 57) && decide (d.va.toNat % 2 ^ 57 < hi)) then { d with killed := true } else d }

/-- Clear V of every handle of a partition that names a page of a range (R179). -/
def clearHandles (p lo hi : Nat) (s : State) : State :=
  s.spindles.foldl (fun s x =>
    if x.2.part = p ∧ x.2.task.isSome then
      updSpindle x.1 (fun q => (upto 4).foldl (fun q k => updStrandOf k (dropHandles lo hi) q) q) s
    else s) s

/-- The pages of 2 MiB of a range, by their first addresses. -/
def bigPages (a b : Nat) : List Nat := (upto (b / 2 ^ 21)).map fun i => a + i * 2 ^ 21

/-- Does every page of 2 MiB of a range pass a test? It stops at the first one that does not. -/
def bigPagesAll (f : Nat → Bool) (va : Nat) : Nat → Bool
  | 0 => true
  | n + 1 => f va && bigPagesAll f (va + 2 ^ 21) n

/-- The frame of a page that may be versioned: 2 MiB, with a twin (R404). -/
def twinFrame (s : State) (p va : Nat) : Option Nat :=
  let off := bits (partWord s p 8) 21 31 * 2 ^ 21
  match translate s p va with
  | some x =>
    if x.big ∧ off ≠ 0 ∧ x.pa < 2 ^ 51 ∧ bits (partWord s p 13) 30 10 ≤ (x.pa + off) / 2 ^ 30 ∧ (x.pa + off) / 2 ^ 30 < bits (partWord s p 14) 30 10 ∧
        va < 2 ^ 57 then some x.pa else none
  | none => none

/-- Region `r` of a partition. -/
def regionAt (s : State) (p r : Nat) : Option Region := SMap.get none (partAt s p).regions r

/-- Replace region `r` of a partition. -/
def setRegion (p r : Nat) (x : Option Region) (s : State) : State :=
  { s with parts := SMap.modify .start s.parts p fun y => { y with regions := SMap.set none y.regions r x } }

/-- Do two ranges meet? -/
def rangesMeet (a b c d : Nat) : Bool := decide (a < c + d) && decide (c < a + b)

/-- Why VERDEF is refused, 0 where it is not (R354, R412). -/
def verdefReason (s : State) (p r a b : Nat) : Nat :=
  if s.dev.svc = 1 ∧ b ≠ 0 then 6
  else if decide (b ≠ 0) = (regionAt s p r).isSome then 1
  else if a % 2 ^ 21 ≠ 0 ∨ b % 2 ^ 21 ≠ 0 then 2
  else if !bigPagesAll (fun va => (twinFrame s p va).isSome) a (b / 2 ^ 21) then 3
  else if (upto 16).any fun j => match regionAt s p j with | some x => decide (b ≠ 0) && rangesMeet a b x.base x.len | none => false then 4
  else if match regionAt s p r with | some x => decide (b = 0) && (ctxAt s x.ctx).isOpen | none => false then 5
  else 0

/-- Make a frame versioned: its blocks' metadata are 0 (R354). -/
def versionFrame (c twin pa : Nat) (s : State) : State :=
  { s with
    vpage := SMap.set none s.vpage (pa / 2 ^ 21) (some ⟨c, twin⟩)
    vmeta := s.vmeta.filter fun x => decide (x.1 * 256 / 2 ^ 21 ≠ pa / 2 ^ 21) }

/-- The copies of a frame's lines once it is plain: those that are present stay, as copies of kind 0 (R329, R354). -/
def plainCopies (pa : Nat) (s : State) : State :=
  let mine := s.l2.filter fun x => decide (x.1 / 2 % 2 ^ 46 * 128 / 2 ^ 21 = pa / 2 ^ 21)
  mine.foldl (fun s x =>
    if present s none (x.1 / 2 % 2 ^ 46 * 128) x.2 then { s with l2 := SMap.set .fresh s.l2 x.1 { x.2 with kind := 0, att := 0 } }
    else markCopy x.1 0 { s with l2 := SMap.set .fresh s.l2 x.1 .fresh }) s

/-- The current slots of a frame's blocks go to slot 0, and the frame is plain (R354). -/
def plainFrame (pa : Nat) (s : State) : State :=
  match vpageAt s pa with
  | none => s
  | some v =>
    let g := ctxAt s v.ctx
    let mine := s.vmeta.filter fun x => decide (x.1 * 256 / 2 ^ 21 = pa / 2 ^ 21)
    let s1 := plainCopies pa (mine.foldl (fun s x =>
      if currentSlot g x.2 none then
        copyBlock (256 * x.1 + v.twin) (256 * x.1) (homeMark s none (256 * x.1)) (homeMark s none (256 * x.1 + 128)) s
      else s) s)
    { s1 with
      vpage := SMap.set none s1.vpage (pa / 2 ^ 21) none
      vmeta := s1.vmeta.filter fun x => decide (x.1 * 256 / 2 ^ 21 ≠ pa / 2 ^ 21) }

/-- Define region `r` over a range, bound to context `c`. -/
def defineRegion (p r a b c : Nat) (s : State) : State :=
  let twin := bits (partWord s p 8) 21 31 * 2 ^ 21
  clearHandles p a (a + b) (setRegion p r (some ⟨a, b, c⟩)
    ((bigPages a b).foldl (fun s va => match twinFrame s p va with | some pa => versionFrame c twin pa s | none => s) s))

/-- Undefine a region. -/
def undefineRegion (p r : Nat) (x : Region) (s : State) : State :=
  releaseCtxs (clearHandles p x.base (x.base + x.len) (setRegion p r none
    ((bigPages x.base x.len).foldl (fun s va => match translate s p va with | some y => plainFrame y.pa s | none => s) s)))

/-! ### Class 0x20 (R344 to R354) -/

/-- Does the task of the strand in focus belong to a step? -/
def inStep (s : State) : Bool := bitOf (mySpindle s).step.toNat 63

/-- Go on where the task belongs to a step, else raise SCHED (R344). -/
def whenStep (k : State → State) (s : State) : State := if inStep s then k s else raiseSched 0xF4 0 s

/-- The context of the step group of the strand in focus. -/
def myCtx (s : State) : Option Nat := groupCtx s (domGrp (mySpindle s))

/-- STEPID (R345). -/
def execStepid (w : O3) (s : State) : Host.Outcome State Fault Refusal :=
  .next (whenGuard w.g w.gn (whenStep fun s =>
    if w.a.litVal = 0 then landS 1 w.dst (mySpindle s).step 0 s
    else if (mySpindle s).det && !(me s).privm then raiseNondet 0x18 0 s
    else landS 1 w.dst (BitVec.ofNat 64 (match myCtx s with | some c => (ctxAt s c).ord | none => 0)) 0 s) s)

/-- Flags of the strand in focus reach VFLAGS; a vote that turns non-zero is cast (R333, R346). -/
def postFlags (f : BitVec 6) (s : State) : State := castEarly (voteFlags (me s).tag f s)

/-- VOTE (R346). -/
def execVote (w : O3) (s : State) : Host.Outcome State Fault Refusal :=
  .next (whenGuard w.g w.gn (whenStep fun s =>
    let a := srcNum s w.a 8
    if a % 4 + 32 * (a / 32 % 2) ≠ a then raiseIllegal 0x20 0x02 5 s else postFlags (BitVec.ofNat 6 a) s) s)

/-- The number of the last attempt of a step that a context has opened, 0 where there is none (R347). -/
def lastOpened (g : Ctx) (step : Nat) : Nat :=
  if g.isOpen ∧ g.stepno = step then g.opened else (g.hist.foldl (fun m h => if h.step = step then max m h.seqno else m) 0)

/-- What STEPWAIT would deliver now: `n` is the attempt that the decision must not be older than (R347). -/
def stepAnswer (g : Ctx) (step n : Nat) : Option Word :=
  match g.hist.reverse.find? fun h => h.step = step with
  | some h => if n ≤ h.seqno then some (decisionWord h) else none
  | none =>
    if g.isOpen ∧ g.stepno = step then none
    else if !g.hist.isEmpty && g.hist.all (fun h => decide (step < h.step)) then some 0x2000_0000_0000_0000 else none

/-- The answer to a STEPWAIT whose target holds the step and the attempt. -/
def waitAnswer (s : State) (x : WaitSt) : Option Word :=
  (myCtx s).bind fun c => stepAnswer (ctxAt s c) (x.target % 2 ^ 48) (x.target / 2 ^ 48)

/-- STEPWAIT (R347). -/
def execStepwait (w : O3) (s : State) : Host.Outcome State Fault Refusal :=
  .next (whenGuard w.g w.gn (fun s =>
    let a := srcNum s w.a 48
    if (me s).wait.isNone && inStep s && decide (a = (mySpindle s).step.toNat % 2 ^ 48) then raiseSched 0xF5 0 s
    else
      let n := match myCtx s with | some c => lastOpened (ctxAt s c) a | none => 0
      waitWord 7 0 (timeoutOf w) (a + 2 ^ 48 * n) (fun x s => (waitAnswer s x).isSome)
        (fun x s => landS 1 w.dst ((waitAnswer s x).getD 0) 0 s) s) s)

/-- The threshold of LOSSCHK: a literal is E4M3 (R348). -/
def lossLimit (s : State) : Src → Fp
  | .lit i => Fp.decode .e4m3 i.toNat
  | y => Fp.decode .fp32 ((srcZero s y).toNat % 2 ^ 32)

/-- Is a loss a spike against a threshold? (R348) -/
def isSpike (a b : Fp) : Bool :=
  a.isNan || b.isNan || (match a with | .inf _ => true | _ => false) || decide (0 < cmpFp a b)

/-- LOSSCHK (R348). -/
def execLosschk (w : O3) (s : State) : Host.Outcome State Fault Refusal :=
  .next (whenGuard w.g w.gn (whenStep fun s =>
    let hit := isSpike (Fp.decode .fp32 (srcNum s w.a 32)) (lossLimit s w.b)
    landS0 w.dst (BitVec.ofNat 64 (b2n hit)) (if hit then postFlags 0x01 s else s)) s)

/-- RQTAG (R349). -/
def execRqtag (w : O3) (s : State) : Host.Outcome State Fault Refusal :=
  .next (whenGuard w.g w.gn (fun s =>
    let old := (me s).tag
    if w.a.isNone then landS 1 w.dst (old.zeroExtend 64) 0 s
    else whenPriv (fun s =>
      landS 1 w.dst (old.zeroExtend 64) 0 (updMe (fun st => { st with tag := (srcZero s w.a).truncate 16 }) s)) s) s)

/-- Is a skein of no enabled partition? (R350) -/
def skeinFenced (s : State) (k : Nat) : Bool := (upto 64).all fun p => !(bitOf (partWord s p 0) 63 && inPartition s p (8 * k))

/-- The words that MCREAD gives of a partition, selectors 2 to 5 (R350). -/
def mcWord (s : State) (p sel : Nat) : Word :=
  let x := partAt s p
  match sel with
  | 2 => match x.poison with
    | some d => BitVec.ofNat 64 (2 ^ 63 + d.1 % 8 * 2 ^ 60 + d.2.2.2 * 2 ^ 48 + d.2.2.1.toNat)
    | none => 0
  | 3 => match x.poison with | some d => addr57 d.2.1 | none => 0
  | 4 => match x.suspect with
    | some d => BitVec.ofNat 64 (2 ^ 63 + b2n (skeinFenced s d.1) * 2 ^ 62 + d.1 * 2 ^ 55 + d.2.1 % 2 ^ 48)
    | none => 0
  | _ => match x.suspect with
    | some d => BitVec.ofNat 64 (d.2.2.2 * 2 ^ 48 + d.2.2.1 % 2 ^ 48)
    | none => 0

/-- The oldest entry of a spindle's correction log (R350). -/
def corrWord (p : Spindle) : Word :=
  match p.corr with
  | [] => 0
  | x :: _ => BitVec.ofNat 64 (2 ^ 63 + x.1 * 2 ^ 57) + addr57 x.2

/-- MCREAD (R350). -/
def execMcread (w : O3) (s : State) : Host.Outcome State Fault Refusal :=
  .next (whenGuard w.g w.gn (fun s =>
    let sel := w.a.litVal
    if sel = 0 then
      (if (mySpindle s).det && !(me s).privm then raiseNondet 0x19 0 s else landS 1 w.dst (BitVec.ofNat 64 (mySpindle s).cvotes) 0 s)
    else whenPriv (fun s =>
      landS 1 w.dst (if sel = 1 then corrWord (mySpindle s) else mcWord s (mySpindle s).part sel) 0 s) s) s)

/-- MCACK #1 (R351). -/
def execMcackLog (w : O3) (s : State) : Host.Outcome State Fault Refusal :=
  .next (whenGuard w.g w.gn (whenPriv fun s => updMySpindle (fun p => { p with corr := p.corr.drop 1 }) s) s)

/-- Change the records of the issuer's partition. -/
def updMyPart (f : Part → Part) (s : State) : State := { s with parts := SMap.modify .start s.parts (mySpindle s).part f }

/-- MCACK #2 (R351). -/
def execMcackPoison (w : O3) (s : State) : Host.Outcome State Fault Refusal :=
  .next (whenGuard w.g w.gn (whenPriv fun s => updMyPart (fun x => { x with poison := none }) s) s)

/-- MCACK #4 (R351). -/
def execMcackSuspect (w : O3) (s : State) : Host.Outcome State Fault Refusal :=
  .next (whenGuard w.g w.gn (whenPriv fun s =>
    if match (partAt s (mySpindle s).part).suspect with | some d => skeinFenced s d.1 | none => false then
      updMyPart (fun x => { x with suspect := none, suspectVote := false }) s
    else raiseSched 0xF7 0 s) s)

/-- TAGPURGE: with its own tag the strand stops at once (R352). -/
def execTagpurge (w : O3) (s : State) : Host.Outcome State Fault Refusal :=
  .next (whenGuard w.g w.gn (fun s =>
    let t := (srcZero s w.a).truncate 16
    if t ≠ (me s).tag then whenPriv (fun s => castEarly (startPurge (mySpindle s).part t s)) s
    else updMe (fun st => { st with run := .purged }) (castEarly (startPurge (mySpindle s).part t s))) s)

/-- SCRUB (R353). -/
def execScrub (w : O3) (s : State) : Host.Outcome State Fault Refusal :=
  .next (whenGuard w.g w.gn (fun s =>
    let h := hregOf (rd s) (hNum w.a)
    if !hV h then raiseHandle 1 (hNum w.a) 0 0 s
    else if hNR h then raiseHandle 3 (hNum w.a) 0 (BitVec.ofNat 64 (hBase h)) s
    else if !hVers h then s
    else normalisePage (SMap.get 0 (rd s).hpa (hNum w.a)) (hSize h) s) s)

/-- VERDEF (R354). -/
def execVerdef (w : O3) (s : State) : Host.Outcome State Fault Refusal :=
  .next (whenGuard w.g w.gn (whenPriv fun s =>
    let p := (mySpindle s).part
    let r := w.a.litVal
    let a := (srcZero s w.b).toNat % 2 ^ 57
    let b := (srcZero s w.c).toNat
    if verdefReason s p r a b ≠ 0 then raiseSched 0xF6 (verdefReason s p r a b) s
    else
      match regionAt s p r, myCtx s with
      | some x, _ => undefineRegion p r x s
      | none, some c => defineRegion p r a b c s
      | none, none => s) s)

/-! ### Suspect skeins and containment (R342, R343) -/

/-- The command processor tests a skein between attempts: a pass starts a new window of commits, a failure records the
window and spoils the votes of the skein's partition (R342). -/
def execInFieldTest (skein : Nat) (pass : Bool) (s : State) : Host.Outcome State Fault Refusal :=
  let ps := (upto 64).filter fun p => bitOf (partWord s p 0) 63 && inPartition s p (8 * skein)
  let busy := (upto 16).any fun c => (ctxAt s c).isOpen && ps.contains (groupPart s (ctxAt s c).grp)
  let x := SMap.get (0, 0, 0) s.dev.commits skein
  .next (if 80 ≤ skein ∨ busy then s
    else if pass then { s with dev := { s.dev with commits := SMap.set (0, 0, 0) s.dev.commits skein (0, 0, 0) } }
    else ps.foldl (fun s p => { s with parts := SMap.modify .start s.parts p fun y =>
      { y with suspect := some (y.suspect.getD (skein, x.1, x.2.1, x.2.2)), suspectVote := true } }) s)

/-- A spindle whose strands stop as at HALT and whose engines stop. -/
def haltSpindle (p : Spindle) : Spindle :=
  let p1 := { p with stopping := true }
  (upto 4).foldl (fun p k => if (strandOf p k).run = .running then updStrandOf k haltStrand p else p) p1

/-- Containment lost: everything stops, SVC is 3, and vector 0 tells system software (R343, R400, R411). -/
def execContainmentLost (s : State) : Host.Outcome State Fault Refusal :=
  .next (if s.dev.svc = 3 then s
    else
      let s1 := s.spindles.foldl (fun s x => if x.2.task.isSome then updSpindle x.1 haltSpindle s else s) s
      raiseVector 0 0 { s1 with dev := { s1.dev with svc := 3 } })

end Sys2Proof.Machine
end

