-- ==== Sys2Proof/Machine/Debug.lean ====
section
/-! DEFINITION. Debug stops, the loop-iteration trace, accounting, and class 0x24 (R390 to R399). -/

namespace Sys2Proof.Machine

/-! ### Stop requests (R390, R391) -/

/-- Change the debug words of a spindle. -/
def updDebug (n : Nat) (f : Debug → Debug) (s : State) : State := updSpindle n (fun p => { p with dbg := f p.dbg }) s

/-- TRSTR: is strand `k` traced? -/
def Debug.tracesStrand (d : Debug) (k : Nat) : Bool := bitOf d.ctl.toNat (28 + k)
/-- TRLOOP: is loop `x` traced? -/
def Debug.tracesLoop (d : Debug) (x : Nat) : Bool := bitOf d.ctl.toNat (24 + x)
/-- BKEN. -/
def Debug.bken (d : Debug) : Bool := bitOf d.ctl.toNat 23
/-- ALLSTOP. -/
def Debug.allstop (d : Debug) : Bool := bitOf d.ctl.toNat 22

/-- DBGCTL as it reads: STOPREQ and RESUME read 0 (R390). -/
def dbgctlWord (d : Debug) : Word :=
  BitVec.ofNat 64 (bits d.ctl.toNat 22 10 * 2 ^ 22 + d.state * 2 ^ 16 + d.scode * 2 ^ 8 + d.bcode)

/-- The other spindles of the task of spindle `n`. -/
def siblings (s : State) (n : Nat) : List Nat :=
  (s.spindles.filter fun x => decide (x.1 ≠ n) && x.2.task.isSome && decide (x.2.task = (spindleAt s n).task)).map (·.1)

/-- A stop request: it takes effect only while RUNNING; under ALLSTOP it goes to the other spindles of the task (R390). -/
def stopRequest (n code bcode : Nat) (s : State) : State :=
  let d := (spindleAt s n).dbg
  if d.state ≠ 0 then s
  else
    let s1 := updDebug n (fun d => { d with state := 1, scode := code, bcode := bcode }) s
    if d.allstop then (siblings s n).foldl (fun s m => updDebug m (fun d => { d with stopIn := true }) s) s1 else s1

/-- Resume, or cancel a stop: the strands at their stop points continue (R390). -/
def resumeSpindle (n : Nat) (s : State) : State :=
  if (spindleAt s n).dbg.state = 0 then s
  else
    updSpindle n (fun p => (upto 4).foldl (fun p k => updStrandOf k (fun st => { st with atStop := false }) p)
      { p with dbg := { p.dbg with state := 0 } }) s

/-- STOPREQ is written. -/
def execDebugStopreq (n : Nat) (s : State) : Host.Outcome State Fault Refusal := .next (stopRequest n 1 0 s)

/-- RESUME is written. -/
def execDebugResume (n : Nat) (s : State) : Host.Outcome State Fault Refusal := .next (resumeSpindle n s)

/-- The stop request of another spindle of the task arrives. -/
def execAllstopRequestReceive (n : Nat) (s : State) : Host.Outcome State Fault Refusal :=
  .next (if (spindleAt s n).dbg.stopIn then stopRequest n 4 0 (updDebug n (fun d => { d with stopIn := false }) s) else s)

/-- Is a strand at its stop point, idle, halted or stopped, and have its writes landed and its latch words deposited?
(R118, R391) -/
def strandStopped (st : Strand) : Bool :=
  (st.atStop || decide (st.run ≠ .running)) && st.landings.isEmpty && st.deposits.isEmpty && st.handles.isEmpty

/-- Has the head of a queue a chunk under way: has its read gone out, and is it neither written nor parked? -/
def chunkUnderWay (x : Queue) : Bool := !x.faulted && x.recs.head?.any fun r => r.sent && r.parked.isNone

/-- Is an engine queue at an issue boundary at the end of a cycle, no access of its head under way? (R253, R278, R391) -/
def queueStopped (c : Nat) (x : Queue) : Bool :=
  match x.recs with
  | [] => true
  | _ :: _ => x.faulted || (decide (x.busyUntil ≤ c) && !chunkUnderWay x)

/-- All agents are at their stop points: STATE becomes STOPPED (R391). -/
def execDebugStopped (n : Nat) (s : State) : Host.Outcome State Fault Refusal :=
  let p := spindleAt s n
  .next (if p.dbg.state = 1 ∧ (upto 4).all (fun k => strandStopped (strandOf p k)) ∧ (upto 5).all (fun q => queueStopped s.cycle (queueAt p q)) then
      updDebug n (fun d => { d with state := 2 }) s
    else s)

/-- A strand that has completed a group is at its stop point: no loop is active, or a kernel iteration of the loop entered
last starts, or that loop has just become inactive (R391). `a` is the strand before the group, `b` after it, `started` are the
loops of which an iteration starts. -/
def stopPoint (started : List Nat) (a b : Strand) : Bool :=
  match b.order with
  | [] => true
  | x :: _ => decide (a.order.head? ≠ some x) || started.contains x

/-- Hold a strand at a group boundary: a word that waits counts as not issued, and one that has not started is still to start (R118). -/
def holdStrand (st : Strand) : Strand :=
  { st with wait := none, arrived := false, hold := if st.hold = .launch then .launch else .none, mem := none }

/-- May a strand be held here: is no atomic request of its own out, and no trap entry in progress? (R118) -/
def mayHold (st : Strand) : Bool := st.trap.isNone && (match st.mem with | some m => m.atom.isNone | none => true)

/-- Strands without an active loop on a stopping spindle are at their stop points. -/
def stopStrands (p : Spindle) : Spindle :=
  if p.dbg.state = 0 then p
  else (upto 4).foldl (fun p k =>
    let st := strandOf p k
    if st.run = .running ∧ !st.atStop ∧ st.order.isEmpty ∧ mayHold st then updStrandOf k (fun st => { holdStrand st with atStop := true }) p
    else p) p

/-! ### Trace (R385, R390) -/

/-- Where a ring of a tenant takes its next record, none where the record is dropped: ring word `wi` with its enable, counters
in word `ci`, records of `size` bytes (R385). -/
def ringPlace (s : State) (d p wi ci size : Nat) : Option Nat :=
  let w := whorlAt s d
  let r := tenantWord w p wi
  let c := tenantWord w p ci
  let slots := 2 ^ (bits r 8 4 + 4)
  let prod := bits c 32 32
  if !bitOf r 0 || (decide (wi = 3) && bitOf r 1) || decide (slots ≤ (prod + 2 ^ 32 - bits c 0 32) % 2 ^ 32) then none
  else
    let va := bits r 12 45 * 4096 + size * (prod % slots)
    match translate s p va with
    | some x => if x.nr || x.dev || !x.wr then none else some (x.pa + va % x.size)
    | none => none

/-- Add one to the upper 32 bits of a word. -/
def bumpHigh (x : Word) : Word := x + 0x1_0000_0000

/-- Append a record to a ring of a tenant, or count its drop in the 16-bit field at `drop` of word 1 (R385). -/
def ringPut (d p wi ci drop : Nat) (ws : List Word) (s : State) : State :=
  match ringPlace s d p wi ci (8 * ws.length) with
  | none => countDrop d p drop s
  | some pa =>
    if refusesAny s none pa (8 * ws.length) then countDrop d p drop s
    else updWhorl d (updTenant p ci bumpHigh) (writeNow 0 ringAgent none pa (wordBytes ws) s)

/-- A kernel iteration of a traced loop starts: an ITER event and a trace record, which a ring that is disabled or frozen
drops and counts (R385, R390). -/
def traceIter (n k x : Nat) (l : LoopSt) (s : State) : State :=
  let p := spindleAt s n
  let s1 := tap 0x0B n k (strandOf p k).tag (BitVec.ofNat 64 x) (BitVec.ofNat 64 l.i) (BitVec.ofNat 64 (stgField l)) s
  ringPut (n / 160) p.part 3 5 0
    [BitVec.ofNat 64 (s.tick % 2 ^ 48 * 2 ^ 16 + n % 2 ^ 10 * 2 ^ 6 + k * 16 + x * 4),
     BitVec.ofNat 64 (stgField l * 2 ^ 56 + l.i % 2 ^ 33)] s1

/-- Trace the iterations that the group in focus has started. -/
def traceGroup (n k : Nat) (s : State) : State :=
  let d := (spindleAt s n).dbg
  let b := strandAt s n k
  if !d.tracesStrand k then s
  else ((upto 4).filter s.cur.started.contains).foldl (fun s x =>
    match loopAt b x with | some l => if d.tracesLoop x then traceIter n k x l s else s | none => s) s

/-! ### What follows a group (R390, R391) -/

/-- Has the group in focus completed? -/
def groupDone (f : Focus) : Bool :=
  !f.again && f.late.isNone && (match f.raised with | some r => decide (r.kind = .after) | none => true)

/-- A stopping spindle's strand that has completed a group is held where it has come to its stop point (R391). `a` is the
strand before the group. -/
def stopAfter (a : Strand) (s : State) : State :=
  let st := me s
  if (mySpindle s).dbg.state = 1 ∧ st.run = .running ∧ stopPoint s.cur.started a st ∧ mayHold st then
    updMe (fun st => { holdStrand st with atStop := true }) s
  else s

/-- What follows a group: the trace of its loops, and the strand's stop point (R390, R391). -/
def noteGroup (a : Strand) (s : State) : State :=
  if groupDone s.cur then stopAfter a (traceGroup s.cur.spn s.cur.strand s) else s

/-! ### Accounting (R393, R394) -/

/-- Class of an engine queue in a cycle: 0 issuing, 1 waiting on a semaphore, 2 busy, 3 empty. A record that has left the
queue is not counted, and one that is head only from the next cycle on is not counted yet (R251, R393, R438). -/
def queueClass (c : Nat) (x : Queue) : Nat :=
  if x.faulted then 2
  else if c < x.busyUntil then 0
  else
    match x.recs with
    | [] => 3
    | r :: _ => if c < r.headAt then 3 else if !r.met then 1 else 2

/-- Class of a strand in a cycle; `issued` says that a group of it issues, also by its wait being met (R393). The cycle in which a SEMWAIT
issues and is not met counts as waiting (R438). DEDUCED (log entry 40): the meet is an issue. -/
def strandClass (issued : Bool) (st : Strand) : Nat :=
  if issued then 0
  else if st.run ≠ .running ∧ st.run ≠ .purged then 3
  else match st.wait with | some w => if w.code = 1 then 1 else 2 | none => 2

/-- The semaphore that an agent waits on. -/
def waitedSem (p : Spindle) (a : Nat) : Nat :=
  if a < 5 then ((queueAt p a).recs.head?.map Rec.wsem).getD 0
  else ((strandOf p (a - 5)).wait.map WaitSt.obj).getD 0

/-- Count one agent's cycle. -/
def countAgent (c : Nat) (issued : Option Nat) (p : Spindle) (a : Nat) : Spindle :=
  let k := if a < 5 then (if p.denied.contains a then 2 else queueClass c (queueAt p a)) else strandClass (decide (issued = some (a - 5)) || p.met.contains (a - 5)) (strandOf p (a - 5))
  let d := p.dbg
  { p with dbg := { d with
      acct := SMap.modify 0 d.acct (4 * a + k) (fun x => (x + 1) % 2 ^ 64)
      semk := if k = 1 then SMap.modify 0 d.semk (waitedSem p a) (fun x => (x + 1) % 2 ^ 64) else d.semk } }

/-- Does the task of a spindle reside on it in cycle `c`? (R119, R393, R436, R438) DEDUCED (log entry 40): from the start of strand 0. -/
def resides (c : Nat) (p : Spindle) : Bool := p.task.isSome && p.up.any fun u => decide (u ≤ c)

/-- Count a cycle of a spindle whose task is resident and not stopped by the debugger. -/
def countCycle (c : Nat) (issued : Option Nat) (p : Spindle) : Spindle :=
  if !resides c p || decide (p.dbg.state ≠ 0) then p else (upto 9).foldl (countAgent c issued) p

/-! ### The scope words (R395) -/

/-- A write of SCOPECNT (R5, R395). -/
def writeScopecnt (n : Nat) (v : Word) (s : State) : State :=
  let r := softWrite (raceKey 0 n) (spindleAt s n).dbg.scopecnt v s
  updDebug n (fun d => { d with scopecnt := r.1 }) r.2

/-- A write of SCOPEADR: 0 clears it (R5, R395). DESIGN CHOICE (log entry 109): another value is ignored. -/
def writeScopeadr (n : Nat) (v : Word) (s : State) : State :=
  if v ≠ 0 then s
  else
    let r := softWrite (raceKey 1 n) (spindleAt s n).dbg.scopeadr 0 s
    updDebug n (fun d => { d with scopeadr := r.1 }) r.2

/-- SCOPECNT is written. -/
def execScopecntWrite (n : Nat) (v : Word) (s : State) : Host.Outcome State Fault Refusal := .next (writeScopecnt n v s)

/-- SCOPEADR is written. -/
def execScopeadrWrite (n : Nat) (v : Word) (s : State) : Host.Outcome State Fault Refusal := .next (writeScopeadr n v s)

/-! ### Class 0x24 (R396 to R399) -/

/-- BKPT (R397). -/
def execBkpt (w : O3) (s : State) : Host.Outcome State Fault Refusal :=
  .next (whenGuard w.g w.gn (fun s =>
    if (mySpindle s).dbg.bken then stopRequest s.cur.spn 2 w.a.litVal s else s) s)

/-- TMARK (R398). -/
def execTmark (w : O3) (s : State) : Host.Outcome State Fault Refusal :=
  .next (whenGuard w.g w.gn (fun s =>
    tap 0x0A s.cur.spn s.cur.strand (me s).tag (BitVec.ofNat 64 (srcNum s w.a 8)) (srcZero s w.b) 0 s) s)

/-- WHORLSIG (R399). -/
def execWhorlsig (w : O3) (s : State) : Host.Outcome State Fault Refusal :=
  .next (whenGuard w.g w.gn (fun s =>
    if (mySpindle s).det && !(me s).privm then raiseNondet 0x1A 0 s
    else landS 1 w.dst (mySpindle s).whorlSig 0 (updMySpindle (fun p => { p with whorlSig := 0 }) s)) s)

end Sys2Proof.Machine
end

