-- ==== Sys2Proof/Machine/Queues.lean ====
section
/-! DEFINITION. The command processor's queues: descriptors, the notify register, taking packets, what it reads and writes
in memory (R68 to R70, R355 to R360, R366, R367). -/

namespace Sys2Proof.Machine

/-! ### Memory as the command processor reaches it -/

/-- The pieces of a range of `n` bytes that lie within 64 KiB pages; `k` bounds their number. -/
def pagePieces : Nat → Nat → Nat → List (Nat × Nat)
  | 0, _, _ => []
  | k + 1, va, n =>
    if n = 0 then [] else (va, min n (2 ^ 16 - va % 2 ^ 16)) :: pagePieces k (va + (2 ^ 16 - va % 2 ^ 16)) (n - (2 ^ 16 - va % 2 ^ 16))

/-- Bytes at a virtual address of a partition; none where a page is unmapped or not resident, or data are poisoned. -/
def cpBytes (s : State) (p va n : Nat) : Option (List Byte) :=
  (pagePieces (n / 2 ^ 16 + 2) va n).foldl (fun (a : Option (List Byte)) x =>
    match a, physOf s p x.1 with
    | some bs, some pa => if readPoison s none pa x.2 = 0 then some (bs ++ homeBytes s none pa x.2) else none
    | _, _ => none) (some [])

/-- `n` words at a virtual address. -/
def cpWords (s : State) (p va n : Nat) : Option (List Word) :=
  (cpBytes s p va (8 * n)).map fun bs => (pieces 8 n bs).map fun b => BitVec.ofNat 64 (ofBytes b)

/-- Write bytes of one page at their home for queue `q`; nothing is written where the page is not there or the home refuses. -/
def cpWrite (q p va : Nat) (bs : List Byte) (s : State) : State :=
  match physOf s p va with
  | some pa => if refusesAny s none pa bs.length then s else writeNow 0 (cpAgent q) none pa bs s
  | none => s

/-- What the command processor gains for queue `q` by a read of a word at its home. -/
def cpGain (q pa : Nat) (s : State) : State := gainLast 0 (cpAgent q) none pa 8 s

/-- Change a word at its home for queue `q`. -/
def cpAtomic (q p va : Nat) (f : Nat → Nat) (s : State) : State :=
  match physOf s p va with
  | some pa =>
    if refusesAny s none pa 8 then s
    else
      let s1 := cpGain q pa s
      homeWrite (atomOrigin s1 none pa 8 (originOf s1 0 (cpAgent q))) none pa (toBytes (f (ofBytes (homeBytes s none pa 8)) % 2 ^ 64) 8) false
        (issueWrite 0 (cpAgent q) s1)
  | none => s

/-- A release of the command processor for queue `q`, with mask 0x1F (R359, R364, R368). -/
def cpRelease (q : Nat) (s : State) : State := noteRelease 0 (cpAgent q) 0x1F s

/-- The command processor has read a word at a virtual address for queue `q`, with an acquire of mask 0x1F (R365, R373). -/
def cpAcquire (q p va : Nat) (s : State) : State :=
  match physOf s p va with
  | some pa => noteAcquire 0 (cpAgent q) 0x1F (cpGain q pa s)
  | none => s

/-- The add of −1 to a completion signal, after a release; address 0 is none (R359, R360, R368). -/
def signalDone (q p va : Nat) (s : State) : State :=
  let s1 := cpRelease q s
  if va = 0 then s1 else cpAtomic q p va (fun x => x + (2 ^ 64 - 1)) s1

/-- Write a completion record, then apply the completion signal (R360). -/
def writeRecord (q p crec csig : Nat) (ws : List Word) (s : State) : State :=
  signalDone q p csig (if crec = 0 then s else cpWrite q p crec (wordBytes ws) s)

/-! ### Packets (R68, R69) -/

/-- Word `i` of a packet. -/
def pktWord (w : List Word) (i : Nat) : Nat := (nth 0 w i).toNat
/-- KIND. -/
def pktKind (w : List Word) : Nat := bits (pktWord w 0) 0 8
/-- BARRIER. -/
def pktBarrier (w : List Word) : Bool := bitOf (pktWord w 0) 14
/-- VALID. -/
def pktValid (w : List Word) : Bool := bitOf (pktWord w 0) 15
/-- KFLAGS. -/
def pktFlags (w : List Word) : Nat := bits (pktWord w 0) 32 8
/-- RQTAG. -/
def pktTag (w : List Word) : BitVec 16 := BitVec.ofNat 16 (bits (pktWord w 0) 48 16)

/-- The partition of a queue. -/
def queuePart (s : State) (q : Nat) : Nat := (cmdqAt s q).bind.toNat % 64

/-- Is the queue bound? -/
def queueBound (s : State) (q : Nat) : Bool := (cmdqAt s q).bind.getLsbD 15

/-- Slots of a ring. -/
def ringSlots (x : CmdQ) : Nat := 2 ^ bits x.d0.toNat 8 4

/-- Address of slot `i` of a ring. -/
def slotVa (x : CmdQ) (i : Nat) : Nat := bits x.d0.toNat 12 45 * 4096 + 64 * (i % ringSlots x)

/-- The bits that may be set in words 1 to 7 of a packet of a kind, and in KFLAGS (R361 to R370). -/
def pktMasks (kind : Nat) : List Nat × Nat :=
  let va := 2 ^ 57 - 1
  let all := 2 ^ 64 - 1
  match kind with
  | 1 => ([0, 0, 0, 0, 0, 0, 0], 0)
  | 2 => ([va, va, all, all, va, va, 0xFFFF_0000_0000], 0x0F)
  | 3 => ([va, 0xFFFF, va, va, 0, 0, 0], 0)
  | 4 => ([va, all, 0, 0, 0, 0, 0], 0x07)
  | 5 => ([va, all, 0xFFFF_FFFF, 0, 0, 0, 0], 0x03)
  | 6 => ([2 ^ 48 - 1, 0xFFFF_0000_0000, 0xFFFF_FFFF, 0xFF_00FF, 0, 0, 0], 0)
  | 7 => ([va, va, 2 ^ 48 - 1, 0, 0, 0, 0], 0)
  | _ => ([va, va, 0, 0, 0, 0, 0], 0xFF)

/-- Has a number no bit outside a mask? -/
def within (x mask : Nat) : Bool := x &&& mask = x

/-- Are a packet's reserved bits and reserved KFLAGS values zero? (R6, R70) -/
def pktClean (w : List Word) : Bool :=
  let m := pktMasks (pktKind w)
  within (pktWord w 0) 0xFFFF_00FF_0000_C0FF && within (pktFlags w) m.2 &&
    ((m.1.zip (w.drop 1)).all fun x => within x.2.toNat x.1) && !(decide (pktKind w = 4) && decide (2 ≤ pktFlags w % 4))

/-- Why a packet stops its queue when it is taken, 0 where it does not (R70, R357, R362, R367, R369). -/
def takeReason (x : CmdQ) (w : List Word) : Nat :=
  let k := pktKind w
  if 0x10 ≤ k ∧ k ≤ 0x13 then 2
  else if k = 0 ∨ 8 < k then 1
  else if !pktClean w then 3
  else if k = 2 ∧ bits x.d0.toNat 3 2 < bits (pktFlags w) 1 2 then 4
  else if k = 8 ∧ !bitOf x.d0.toNat 2 then 8
  else 0

/-- SPAN of a STEPOPEN (R366). -/
def spanOf (w : List Word) : Nat := bits (pktWord w 4) 16 8

/-- STEPGRP of a STEPOPEN. -/
def openGrp (w : List Word) : Nat := bits (pktWord w 2) 32 16

/-- Is a span valid? (R367) -/
def spanOk (w : List Word) (kept : List (List Word)) : Bool :=
  let n := kept.length
  let last := nth [] kept (n - 1)
  decide (pktKind last = 7) && decide (pktWord last 3 % 2 ^ 48 = pktWord w 1 % 2 ^ 48) && kept.all (fun k => pktTag k = pktTag w) &&
    (kept.take (n - 1)).all (fun k => pktKind k ≠ 6 && pktKind k ≠ 7 && pktKind k ≠ 8 &&
      (pktKind k ≠ 2 || (bitOf (pktFlags k) 3 && decide (bits (pktWord k 7) 32 16 = openGrp w))))

/-! ### Taking packets (R356, R367) -/

/-- Stop a queue (R357). -/
def stopQueue (q reason : Nat) (s : State) : State := updCmdq q (fun x => { x with state := 2, reason := reason }) s

/-- A packet as it is taken. -/
def newPkt (idx : Nat) (w : List Word) : Pkt :=
  { idx := idx, w := w, started := false, since := 0, span := none, task := none, graph := none, kept := [], ord := 0, phase := 0 }

/-- Change packet `k` of a queue. -/
def updPkt (q k : Nat) (f : Pkt → Pkt) (s : State) : State :=
  updCmdq q (fun x => { x with pkts := x.pkts.map fun y => if y.idx = k then f y else y }) s

/-- Packet `k` of a queue. -/
def pktAt (s : State) (q k : Nat) : Option Pkt := (cmdqAt s q).pkts.find? fun y => y.idx = k

/-- A packet has completed. -/
def dropPkt (q k : Nat) (s : State) : State := updCmdq q (fun x => { x with pkts := x.pkts.filter fun y => y.idx ≠ k }) s

/-- The STEPOPEN that is taking its span. -/
def spanTaker (x : CmdQ) : Option Pkt := x.pkts.find? fun y => pktKind y.w = 6 && decide (y.phase = 0)

/-- A packet of a span is taken: a bad one, or a span that turns out invalid once it is taken whole, discards STEPOPEN and span. A
RESYNC makes the span invalid, on every queue (R367). -/
def takeSpan (q : Nat) (o : Pkt) (w : List Word) (s : State) : State :=
  let r := takeReason (cmdqAt s q) w
  let kept := o.kept ++ [w]
  if r ≠ 0 ∧ r ≠ 8 then stopQueue q r (dropPkt q o.idx s)
  else if kept.length < spanOf o.w then updPkt q o.idx (fun y => { y with kept := kept }) s
  else if spanOk o.w kept then updPkt q o.idx (fun y => { y with kept := kept, phase := 1 }) s
  else stopQueue q 6 (dropPkt q o.idx s)

/-- Are DEADLINE and SPAN of a STEPOPEN legal? (R366, R367) -/
def openLegal (w : List Word) : Bool := decide (pktWord w 3 % 2 ^ 32 ≠ 0) && decide (2 ≤ spanOf w) && decide (spanOf w ≤ 64)

/-- A packet outside any span is taken. -/
def takePkt (q idx : Nat) (w : List Word) (s : State) : State :=
  let r := takeReason (cmdqAt s q) w
  if r ≠ 0 then stopQueue q r s
  else if pktKind w = 7 then stopQueue q 6 s
  else if pktKind w = 6 ∧ !openLegal w then stopQueue q 6 s
  else updCmdq q (fun x => { x with pkts := x.pkts ++ [newPkt idx w] }) s

/-- Pass over slots that a purge has emptied (R379). -/
def passGone (x : CmdQ) : CmdQ :=
  x.gone.foldl (fun x _ => if x.gone.contains x.rptr then { x with rptr := x.rptr + 1, gone := x.gone.filter (· ≠ x.rptr) } else x) x

/-- Does the command processor take packets of a queue? (R356, R367, R403, R412, R343) -/
def mayTake (s : State) (q : Nat) : Bool :=
  let x := cmdqAt s q
  decide (x.state = 1) && queueBound s q && bitOf (partWord s (queuePart s q) 0) 63 && decide (x.rptr < x.wptr.toNat) &&
    decide (s.dev.svc ≠ 0) && (match spanTaker x with | some o => decide (o.idx + 1 + spanOf o.w ≤ x.base + x.wptr.toNat) | none => true)

/-! ### Registers of a queue (R355 to R357, R402) -/

/-- A producer writes WPTR. -/
def execNotifyWptrWrite (q : Nat) (v : Word) (s : State) : Host.Outcome State Fault Refusal :=
  .next (if q < 1024 then writeWptr q v s else s)

/-- QSTS is written. -/
def execQstsWrite (q : Nat) (v : Word) (s : State) : Host.Outcome State Fault Refusal :=
  .next (if q < 1024 then writeQsts q v s else s)

/-- The writable bits of descriptor word 0. -/
def descMask : Word := 0x01FF_FFFF_FFFF_FF1F

/-- Word 0 of a descriptor as a write leaves it: PRIVQ only on queues of function 0, EN only with a legal LOG2SLOTS. -/
def descWord (x : CmdQ) (v : Word) : Word :=
  let w := v &&& descMask
  let w1 := if bits x.bind.toNat 8 7 = 0 ∧ x.bind.getLsbD 15 then w else w &&& ~~~(4 : Word)
  if bits w.toNat 8 4 < 4 then w1 &&& ~~~(1 : Word) else w1

/-- A descriptor word is written: enabling sets WPTR and RPTR to 0, and the packets taken before go on, started or not. The numbers of
packets go on from those of before (R355, R358). DESIGN CHOICE (log entry 119): a span that is being taken goes on with the slots of the
ring as it is then. -/
def writeDesc (word : Nat) (v : Word) (x : CmdQ) : CmdQ :=
  if word = 1 then { x with d1 := v &&& 0xFFFF }
  else
    let w := descWord x v
    let on := w.getLsbD 0
    let was := x.d0.getLsbD 0
    let x1 := { x with d0 := w }
    if on && !was then { x1 with wptr := 0, rptr := 0, state := 1, reason := 0, gone := [], base := x.base + x.rptr }
    else if on then x1
    else { x1 with state := 0 }

/-- A queue descriptor is written. -/
def execQueueDescriptorWrite (q word : Nat) (v : Word) (s : State) : Host.Outcome State Fault Refusal :=
  .next (if q < 1024 ∧ word < 2 then updCmdq q (writeDesc word v) s else s)

end Sys2Proof.Machine
end

