-- ==== Sys2Proof/Machine/Loader.lean ====
section
/-! DEFINITION. The loader: the checks of a LAUNCH on its image, placement table and partition word, and the task that they
leave (R78 to R84, R170, R362, R363, R406); the completion record (R360). -/

namespace Sys2Proof.Machine

/-! ### Reading the image (R78 to R81) -/

/-- A check of the loader: the launch status where it fails. -/
abbrev Check (α : Type) := Except Nat α

/-- Fail with a status unless a condition holds. -/
def ensure (n : Nat) (b : Bool) : Check Unit := if b then .ok () else .error n

/-- Bytes of the image or of the placement table; status 0x08 where they cannot be read (R363). -/
def readImage (s : State) (p va n : Nat) : Check (List Byte) :=
  match cpBytes s p (va % 2 ^ 57) n with
  | some bs => .ok bs
  | none => .error 8

/-- Words of the image. -/
def readWords (s : State) (p va n : Nat) : Check (List Nat) := do
  let bs ← readImage s p va (8 * n)
  return (pieces 8 n bs).map ofBytes

/-- A section: its kind, offset and size (R79). -/
structure Section where
  kind : Nat
  off : Nat
  size : Nat

/-- The sections of a section table's words. -/
def sectionsOf : List Nat → List Section
  | a :: b :: ws => ⟨bits a 56 8, b, bits a 0 32⟩ :: sectionsOf ws
  | _ => []

/-- The section of a kind. -/
def sectionOf (k : Nat) (xs : List Section) : Option Section := xs.find? fun x => x.kind = k

/-- Pairs of words. -/
def pairsOf : List Nat → List (Nat × Nat)
  | a :: b :: ws => (a, b) :: pairsOf ws
  | _ => []

/-- No two items of a list are related. -/
def noneMeet {α : Type} (f : α → α → Bool) : List α → Bool
  | [] => true
  | x :: xs => !xs.any (f x) && noneMeet f xs

/-- Status 0x01: the header (R78). -/
def checkHeader (image : Nat) (w : List Nat) : Check Unit :=
  ensure 1 (decide (nth 0 w 0 = 0x4249_4E31_0001_0040) && decide (bits (nth 0 w 1) 0 16 = 0) && decide (nth 0 w 3 < 2 ^ 24) &&
    decide (bits (nth 0 w 1) 16 8 = 64) && decide (1 ≤ bits (nth 0 w 1) 48 16) && decide (bits (nth 0 w 1) 48 16 ≤ 4) &&
    decide (bits (nth 0 w 1) 24 8 ≤ 32) && aligned image 4096)

/-- Status 0x02: the section table and ENTRY (R79). DESIGN CHOICE (log entry 113): it covers the reserved field of an entry. -/
def checkSections (ws : List Nat) (entry : Nat) : Check Unit :=
  let xs := sectionsOf ws
  ensure 2 ((pairsOf ws).all (fun x => decide (bits x.1 32 24 = 0)) && xs.all (fun x => decide (1 ≤ x.kind) && decide (x.kind ≤ 4)) &&
    noneMeet (fun a b => decide (a.kind = b.kind)) xs && xs.all (fun x => (x.kind ≠ 1 || x.size % 8 = 0) && (x.kind ≠ 2 || x.size = 2048)) &&
    (match sectionOf 1 xs with | some t => decide (entry < t.size) | none => false) && aligned entry 8)

/-- Status 0x03: the placement table's entries. -/
def checkPlace (ps : List Nat) : Check Unit :=
  ensure 3 (ps.all (fun e => decide (e < 2 ^ 10) && decide (bits e 3 5 ≤ 19)) && noneMeet (fun a b => decide (a = b)) ps)

/-- Status 0x04: the partition word (R170). -/
def checkPword (pw need : Nat) : Check Unit :=
  ensure 4 (decide (pw < 2 ^ 24) && decide (bits pw 16 8 = 1) && decide (1 ≤ bits pw 8 8) && decide (1 + bits pw 8 8 + bits pw 0 8 ≤ 64) &&
    decide (bits need 16 8 ≤ 1) && decide (bits need 8 8 ≤ bits pw 8 8) && decide (bits need 0 8 ≤ bits pw 0 8))

/-- The value with which a descriptor of the image takes effect as SPLDEF or LZDEF; a zone has tags where base and slot size
are multiples of 4096 (R80, R287). -/
def descValue (d : Nat × Nat) : Nat :=
  let slots := bits d.1 40 8
  let bytes := bits d.1 0 32 % 2 ^ 24
  if bits d.1 56 8 = 1 then d.2 % 2 ^ 32 * 2 ^ 32 + slots * 2 ^ 24 + bytes
  else d.2 % 2 ^ 24 * 2 ^ 40 + (slots - 1) % 16 * 2 ^ 36 + bits d.1 32 8 % 64 * 2 ^ 30 +
    b2n (aligned d.2 4096 && aligned bytes 4096) * 2 ^ 29 + bytes

/-- Is a descriptor one that SPLDEF or LZDEF would accept? (R80, R83) DESIGN CHOICE (log entry 114): a spool's SEM must be 0. -/
def descOkAt (sg : Nat) (d : Nat × Nat) : Bool :=
  let slots := bits d.1 40 8
  let sem := bits d.1 32 8
  decide (bits d.1 48 8 < 16) && decide (bits d.1 0 32 < 2 ^ 24) && decide (d.2 < 2 ^ 24) &&
    (if bits d.1 56 8 = 1 then decide (sem = 0) && spoolOk (descValue d) sg
     else decide (bits d.1 56 8 = 2) && decide (1 ≤ slots) && decide (slots ≤ 16) && decide (sem < 64) && zoneDescOk (descValue d) sg)

/-- The scratchpad range of a descriptor. -/
def descRange (d : Nat × Nat) : Nat × Nat := (d.2, bits d.1 40 8 * bits d.1 0 32)

/-- Status 0x05: scratchpad contents and descriptors. -/
def checkObjects (sg scr : Nat) (ds : List (Nat × Nat)) : Check Unit :=
  ensure 5 (decide (scr ≤ sg * 65536) && ds.all (descOkAt sg) &&
    noneMeet (fun a b => decide (bits a.1 48 16 = bits b.1 48 16) ||
      rangesMeet (descRange a).1 (descRange a).2 (descRange b).1 (descRange b).2) ds)

/-- The stages of a schedule: for each channel COUNT and the offset of its first record (R81). -/
def stagesOf (k : Nat) (ws : List Nat) : List (List (Nat × Nat)) :=
  (pieces 4 k ws).map fun x => x.map fun w => (bits w 48 16, bits w 0 48)

/-- Status 0x05: a stage's records lie in the scratchpad. DESIGN CHOICE (log entry 115): a COUNT above 16 counts as 16 here. -/
def stageIn (sg : Nat) (st : List (Nat × Nat)) : Bool :=
  st.all fun c => decide (c.1 = 0) || decide (c.2 + 64 * min 16 c.1 ≤ sg * 65536)

/-- The schedule of an image, with statuses 0x05 and 0x06. -/
def loadSchedule (s : State) (p image off sg : Nat) : Check (List (List (Nat × Nat))) :=
  if off = 0 then .ok []
  else do
    let w ← readWords s p (image + off) 1
    let k := bits (nth 0 w 0) 0 16
    let legal := decide (1 ≤ k) && decide (k ≤ 4096)
    let ws ← readWords s p (image + off + 8) (if legal then 4 * k else 0)
    let st := stagesOf (if legal then k else 0) ws
    ensure 5 (st.all (stageIn sg))
    ensure 6 (legal && decide (nth 0 w 0 < 2 ^ 16) && st.all fun x => x.all fun c => decide (c.1 ≤ 16))
    return st

/-! ### The step group of a launch (R363, R406) -/

/-- Status 0x07: the request tag and the open contexts. -/
def checkTag (s : State) (t : Task) : Check Unit :=
  ensure 7 (if t.instep then (upto 16).any fun c => let g := ctxAt s c; g.used && g.isOpen && decide (g.grp = t.grp) && decide (g.tag = t.rqtag)
    else (openCtx s t.rqtag).isNone)

/-- The group that a launch runs in; status 0x09 where it has none. -/
def launchGroup (s : State) (t : Task) : Check Nat :=
  match (groupEntry s t.grp).filter fun e => decide (bits (groupWord s e 0) 48 6 = t.part) with
  | some _ => .ok t.grp
  | none =>
    let e := bits (partWord s t.part 0) 0 4
    if !t.instep && bitOf (groupWord s e 0) 63 then .ok (bits (groupWord s e 0) 32 16) else .error 9

/-! ### A launch (R83, R362) -/

/-- The task of a LAUNCH packet before the loader has read anything. -/
def taskOfPacket (s : State) (part : Nat) (w : List Word) (tag : BitVec 16) (q k : Nat) (node : Option (Nat × Nat)) : Task :=
  { st := .ready, rqtag := tag, part := part, grp := bits (pktWord w 7) 32 16, instep := bitOf (pktFlags w) 3, det := bitOf (pktFlags w) 0,
    prio := bits (pktFlags w) 1 2, image := pktWord w 1 % 2 ^ 57, place := [], pword := BitVec.ofNat 64 (pktWord w 3),
    eest := bits (pktWord w 4) 48 16, wdlim := BitVec.ofNat 64 (pktWord w 4 % 2 ^ 48), csig := pktWord w 5 % 2 ^ 57,
    crec := pktWord w 6 % 2 ^ 57, q := q, pkt := k, node := node, binding := [], rank := s.tick, skips := 0, tstart := 0, ndt := 0, nfault := 0,
    dt := none, ef := none, cbva := none, sched := [], entry := 0, consts := [], scr := [], descs := [], phasers := [], saved := [],
    bage := bits (partWord s part 0) 32 16, agelim := bits (partWord s part 0) 48 8, purged := none, purgeDt := none, bobs := [], wins := [] }

/-- The checks of the image, and what the task takes from it. DESIGN CHOICE (log entry 82): the contents of .scratch and .const are
read last, so another failure's status wins over theirs (R83, R363). DESIGN CHOICE (log entry 122): word 0 of the placement table has no bits
above NLOG, an illegal descriptor comes before an unreadable schedule, and a .text or .const OFFSET need be no multiple of 8 (R79, R83). -/
def loadImageOf (s : State) (place : Nat) (t : Task) : Check Task := do
  let p := t.part
  ensure 1 (aligned t.image 4096)
  let h ← readWords s p t.image 8
  checkHeader t.image h
  let ss ← readWords s p (t.image + nth 0 h 4) (2 * bits (nth 0 h 1) 48 16)
  checkSections ss (nth 0 h 2)
  let xs := sectionsOf ss
  ensure 3 (aligned place 8)
  let p0 ← readWords s p place 1
  ensure 3 (decide (nth 0 p0 0 < 2 ^ 16) && decide (1 ≤ nth 0 p0 0) && decide (nth 0 p0 0 ≤ 640))
  let pb ← readImage s p (place + 8) (2 * nth 0 p0 0)
  let ps := (pieces 2 (nth 0 p0 0) pb).map ofBytes
  checkPlace ps
  checkPword t.pword.toNat (nth 0 h 3)
  let sg := bits t.pword.toNat 8 8
  let size := fun k => ((sectionOf k xs).map Section.size).getD 0
  let off := fun k => t.image + ((sectionOf k xs).map Section.off).getD 0
  let ds ← readWords s p (t.image + nth 0 h 6) (2 * bits (nth 0 h 1) 24 8)
  checkObjects sg (size 3) (pairsOf ds)
  let st ← loadSchedule s p t.image (nth 0 h 7) sg
  checkTag s t
  let g ← launchGroup s t
  let scr ← readImage s p (off 3) (size 3)
  let cs ← readWords s p (off 2) (size 2 / 8)
  return { t with
    grp := g
    place := ps
    entry := addr57 (BitVec.ofNat 64 (off 1 + nth 0 h 2))
    cbva := if (sectionOf 2 xs).isSome then some (addr57 (BitVec.ofNat 64 (off 2))) else none
    sched := st
    consts := cs.map (BitVec.ofNat 64)
    scr := scr
    descs := pairsOf ds }

/-- The loader's answer to a LAUNCH packet: a launch status, or the task. -/
def loadTask (s : State) (part : Nat) (w : List Word) (tag : BitVec 16) (q k : Nat) (node : Option (Nat × Nat)) : Check Task :=
  loadImageOf s (pktWord w 2 % 2 ^ 57) (taskOfPacket s part w tag q k node)

/-! ### Completion records (R360) -/

/-- The words of a completion record of a task. -/
def taskRecord (t : Task) (lstat outcome tend : Nat) : List Word :=
  let d := (if outcome = 2 then t.purgeDt else t.dt).getD (0, 0, 0, 0)
  let f := t.ef.getD (0, 0, 0)
  [BitVec.ofNat 64 (lstat * 2 ^ 56 + outcome * 2 ^ 48 + min 65535 t.ndt * 2 ^ 16 + min 65535 t.nfault),
   BitVec.ofNat 64 t.tstart,
   BitVec.ofNat 64 tend,
   d.1,
   addr57 d.2.1,
   BitVec.ofNat 64 (f.1 % 256 * 2 ^ 56 + f.2.1 % 16 * 2 ^ 52 + f.2.2 % 1024 * 2 ^ 32 + d.2.2.1 % 1024 * 2 ^ 16 + d.2.2.2 % 4 * 2 ^ 12),
   if outcome = 2 then (t.purged.getD t.rqtag).zeroExtend 64 else 0,
   0]

/-- Write the record of a task and apply its signal. -/
def finishRecord (t : Task) (lstat outcome : Nat) (s : State) : State :=
  writeRecord t.q t.part t.crec t.csig (taskRecord t lstat outcome s.tick) s

/-- The task that starts nothing: a LAUNCH that a purge removes, or that the loader refuses. -/
def emptyTask (s : State) (part : Nat) (w : List Word) (tag : BitVec 16) (q k : Nat) : Task := taskOfPacket s part w tag q k none

end Sys2Proof.Machine
end

