-- ==== Sys2Proof/Machine/Packets.lean ====
section
/-! DEFINITION. When packets start, and NOP, LAUNCH, SIGNAL, WAITSIG, STEPOPEN, the opening of an attempt, and STEPCLOSE
(R358, R361 to R368). -/

namespace Sys2Proof.Machine

/-! ### Start rules (R358) -/

/-- The packets of a queue taken before a packet, of the same span or of none, that have not completed. -/
def earlierPkts (x : CmdQ) (y : Pkt) : List Pkt := x.pkts.filter fun z => decide (z.idx < y.idx) && decide (z.span = y.span)

/-- Do the earlier packets let a packet start? -/
def orderAllows (x : CmdQ) (y : Pkt) : Bool :=
  let es := earlierPkts x y
  es.all (·.started) && (!pktBarrier y.w || es.isEmpty) && es.all fun z => pktKind z.w ≠ 5 && pktKind z.w ≠ 6

/-- Is the attempt that a STEPOPEN has opened still open? `since` of a STEPOPEN is the number of its attempt. -/
def attemptOpen (s : State) (o : Pkt) : Bool :=
  match groupCtx s (openGrp o.w) with
  | some c => (ctxAt s c).isOpen && decide ((ctxAt s c).opened = o.since)
  | none => false

/-- May a packet start? Under containment lost nothing does (R343). -/
def mayStart (s : State) (q : Nat) (y : Pkt) : Bool :=
  let x := cmdqAt s q
  !y.started && decide (s.dev.svc ≠ 3) && orderAllows x y &&
    (match y.span with
     | none => true
     | some o => match pktAt s q o with
       | some p => decide (p.phase = 3) && attemptOpen s p
       | none => false)

/-- Act on packet `k` of a queue where it is of a kind and a condition holds. -/
def withPkt (q k kind : Nat) (ok : State → Pkt → Bool) (f : Pkt → State → State) (s : State) : State :=
  match pktAt s q k with
  | some y => if pktKind y.w = kind ∧ ok s y then f y s else s
  | none => s

/-- Start packet `k` of a kind. -/
def startPkt (q k kind : Nat) (f : Pkt → State → State) (s : State) : State := withPkt q k kind (fun s y => mayStart s q y) f s

/-- Note that a packet has started. -/
def noteStart (y : Pkt) : Pkt := { y with started := true }

/-- Stop a queue that runs. -/
def stopRunning (q reason : Nat) (s : State) : State := if (cmdqAt s q).state = 1 then stopQueue q reason s else s

/-! ### NOP, LAUNCH, SIGNAL, WAITSIG -/

/-- NOP (R361). -/
def execPacketNop (q k : Nat) (s : State) : Host.Outcome State Fault Refusal := .next (startPkt q k 1 (fun y s => dropPkt q y.idx s) s)

/-- A task enters the ready set, and a round is due (R376). -/
def enterReady (t : Task) (s : State) : State :=
  { s with tasks := SMap.set none s.tasks s.nextTask (some t), nextTask := s.nextTask + 1, rounds := s.rounds + 1 }

/-- A LAUNCH starts: the loader refuses it, or its task is ready (R358, R363, R367). -/
def startLaunch (q : Nat) (y : Pkt) (s : State) : State :=
  let p := queuePart s q
  match loadTask s p y.w (pktTag y.w) q y.idx none with
  | .ok t => enterReady t (updPkt q y.idx (fun y => { noteStart y with task := some s.nextTask }) s)
  | .error l =>
    let s1 := dropPkt q y.idx (finishRecord (emptyTask s p y.w (pktTag y.w) q y.idx) l 1 s)
    if y.span.isSome then castEarly (startPurge p (pktTag y.w) s1) else s1

/-- LAUNCH (R362, R363). -/
def execLaunch (q k : Nat) (s : State) : Host.Outcome State Fault Refusal := .next (startPkt q k 2 (startLaunch q) s)

/-- The word that SIGNAL writes over `old`. -/
def signalWord (w : List Word) (old : Nat) : Nat := if pktFlags w % 4 = 1 then old + pktWord w 2 else pktWord w 2

/-- SIGNAL's release, its write and its interrupt. -/
def startSignal (q : Nat) (y : Pkt) (s : State) : State :=
  let x := cmdqAt s q
  let s1 := dropPkt q y.idx (cpAtomic q (queuePart s q) (pktWord y.w 1 % 2 ^ 57) (signalWord y.w) (cpRelease q s))
  if bitOf (pktFlags y.w) 2 && x.d0.getLsbD 1 then raiseVector (bits x.bind.toNat 8 7) (bits x.d1.toNat 0 16) s1 else s1

/-- SIGNAL (R364). -/
def execSignal (q k : Nat) (s : State) : Host.Outcome State Fault Refusal := .next (startPkt q k 4 (startSignal q) s)

/-- Is WAITSIG's condition met by a word? -/
def waitsigMet (w : List Word) (v : Nat) : Bool :=
  match pktFlags w % 4 with
  | 0 => decide (v = pktWord w 2)
  | 1 => decide (v ≠ pktWord w 2)
  | 2 => decide (pktWord w 2 ≤ v)
  | _ => decide (v < pktWord w 2)

/-- WAITSIG reads its word: it completes where the condition holds, and stops the queue where the word cannot be read. -/
def readWaitsig (q : Nat) (y : Pkt) (s : State) : State :=
  match cpWords s (queuePart s q) (pktWord y.w 1 % 2 ^ 57) 1 with
  | none => stopRunning q 9 (dropPkt q y.idx s)
  | some ws =>
    let s1 := cpAcquire q (queuePart s q) (pktWord y.w 1 % 2 ^ 57) s
    if waitsigMet y.w (nth 0 ws 0).toNat then dropPkt q y.idx s1 else s1

/-- WAITSIG (R365). -/
def execWaitsig (q k : Nat) (s : State) : Host.Outcome State Fault Refusal :=
  .next (startPkt q k 5 (fun y s => readWaitsig q y (updPkt q y.idx (fun y => { noteStart y with since := s.tick }) s)) s)

/-- A started WAITSIG reads its word again. -/
def execWaitsigReread (q k : Nat) (s : State) : Host.Outcome State Fault Refusal :=
  .next (withPkt q k 5 (fun s y => y.started && decide (s.dev.svc ≠ 3)) (readWaitsig q) s)

/-- Has a WAITSIG's timeout elapsed? -/
def waitsigLate (s : State) (y : Pkt) : Bool :=
  let n := pktWord y.w 3 % 2 ^ 32
  y.started && decide (s.dev.svc ≠ 3) && decide (n ≠ 0) && decide (y.since + n ≤ s.tick)

/-- The timeout of a WAITSIG elapses: unless its condition is met by now, the queue stops, and the packet is complete. -/
def expireWaitsig (q : Nat) (y : Pkt) (s : State) : State :=
  let s1 := readWaitsig q y s
  if (pktAt s1 q y.idx).isSome then stopRunning q 7 (dropPkt q y.idx s1) else s1

/-- WAITSIG's timeout. -/
def execWaitsigTimeout (q k : Nat) (s : State) : Host.Outcome State Fault Refusal :=
  .next (withPkt q k 5 waitsigLate (expireWaitsig q) s)

/-! ### STEPOPEN and attempts (R322, R366, R367) -/

/-- STEPOPEN takes the context of its group, or a free one (R321). -/
def execStepopen (q k : Nat) (s : State) : Host.Outcome State Fault Refusal :=
  .next (startPkt q k 6 (fun y s =>
    match ctxFor s (openGrp y.w) with
    | some c =>
      if y.phase = 1 ∧ s.dev.svc = 2 then assignCtx c (openGrp y.w) (updPkt q y.idx (fun y => { noteStart y with phase := 2, ord := 0 }) s)
      else s
    | none => s) s)

/-- The packets of a span, numbered from the one after STEPOPEN. -/
def spanPkts (o : Nat) : Nat → List (List Word) → List Pkt
  | _, [] => []
  | i, w :: ws => { newPkt i w with span := some o } :: spanPkts o (i + 1) ws

/-- Open the attempt of a STEPOPEN in a context. -/
def beginAttempt (q c : Nat) (y : Pkt) (s : State) : State :=
  let s1 := openAttempt c (pktTag y.w) (pktWord y.w 1 % 2 ^ 48) (pktWord y.w 3 % 2 ^ 32) y.ord s
  updCmdq q (fun x => { x with pkts := x.pkts ++ spanPkts y.idx (y.idx + 1) y.kept })
    (updPkt q y.idx (fun y => { y with phase := 3, since := (ctxAt s1 c).opened }) s1)

/-- The STEPOPEN of a queue that is to open an attempt. -/
def openWaiter (s : State) (q : Nat) : Option Pkt := (cmdqAt s q).pkts.find? fun y => pktKind y.w = 6 && decide (y.phase = 2)

/-- The command processor opens an attempt. -/
def execAttemptOpen (q : Nat) (s : State) : Host.Outcome State Fault Refusal :=
  .next (match openWaiter s q with
    | none => s
    | some y =>
      match groupCtx s (openGrp y.w) with
      | some c =>
        if mayOpen s c ∧ !purging s (queuePart s q) (pktTag y.w) ∧ s.dev.svc = 2 then beginAttempt q c y s else s
      | none => s)

/-! ### STEPCLOSE (R333, R367, R368) -/

/-- The other packets of a STEPCLOSE's span that have not completed. -/
def spanOthers (x : CmdQ) (y : Pkt) : List Pkt := x.pkts.filter fun z => decide (z.span = y.span) && decide (z.idx ≠ y.idx)

/-- Do bobbin elements or flits of a tag remain under way? -/
def bobbinsOut (s : State) (grp : Nat) (tag : BitVec 16) : Bool :=
  (usedBobbins s).any (fun x => decide (x.2.tag = tag) && decide (x.2.grp = grp)) || s.flits.any fun b => decide (b.tag = tag) && decide (b.grp = grp)

/-- Have the packets of the span, what its tasks sent, and the windows of the step come to an end? -/
def spanDone (s : State) (q c : Nat) (y : Pkt) : Bool :=
  let os := spanOthers (cmdqAt s q) y
  let g := ctxAt s c
  os.all (fun z => z.started && decide (pktKind z.w ≠ 2) && decide (pktKind z.w ≠ 3) && decide (pktKind z.w ≠ 5)) &&
    (!pktBarrier y.w || os.isEmpty) && !bobbinsOut s g.grp g.tag &&
    s.windows.all fun x => !windowOfStep s g x.2 || x.2.queue.isEmpty

/-- The decision on an attempt. -/
def attemptHist (s : State) (o : Pkt) : Option Hist :=
  (groupCtx s (openGrp o.w)).bind fun c => (ctxAt s c).hist.find? fun h => h.seqno = o.since

/-- Take the packets of a span out, STEPCLOSE among them. -/
def dropSpan (q o : Nat) (s : State) : State := updCmdq q (fun x => { x with pkts := x.pkts.filter fun z => z.span ≠ some o }) s

/-- The last attempt has been decided: the result and the signal are written (R368). -/
def closeStep (q : Nat) (o y : Pkt) (h : Hist) (s : State) : State :=
  let p := queuePart s q
  let s1 := cpWrite q p (pktWord y.w 1 % 2 ^ 57) (wordBytes [decisionWord h]) s
  releaseCtxs (dropPkt q o.idx (dropSpan q o.idx (signalDone q p (pktWord y.w 2 % 2 ^ 57) s1)))

/-- Does a packet outlast the decision on its attempt: another one, STEPCLOSE, or a launch or graph that has started? -/
def outlasts (o y z : Pkt) : Bool :=
  decide (z.span ≠ some o.idx) || decide (z.idx = y.idx) || (z.started && (decide (pktKind z.w = 2) || decide (pktKind z.w = 3)))

/-- After the decision: packets not started are not started, started launches and graphs run to their ends, and the step closes
or is replayed. -/
def afterDecision (q : Nat) (o y : Pkt) (h : Hist) (s : State) : State :=
  let s1 := updCmdq q (fun x => { x with pkts := x.pkts.filter (outlasts o y) }) s
  if !(spanOthers (cmdqAt s1 q) y).isEmpty then s1
  else if h.commit || decide (pktWord o.w 4 % 2 ^ 8 < o.ord + 1) then closeStep q o y h s1
  else updPkt q o.idx (fun o => { o with phase := 2, ord := o.ord + 1 }) (dropSpan q o.idx s1)

/-- STEPCLOSE acts: it casts the vote of an attempt whose span has come to its end, and then acts on the decision. -/
def closeSpan (q : Nat) (o y : Pkt) (s : State) : State :=
  if attemptOpen s o then
    match groupCtx s (openGrp o.w) with
    | some c => if !y.started && spanDone s q c y then
        updPkt q y.idx noteStart (if (ctxAt s c).cast.isSome then s else castVote c s)
      else s
    | none => s
  else
    match attemptHist s o with
    | some h => afterDecision q o y h s
    | none => s

/-- STEPCLOSE (R368). -/
def execStepclose (q k : Nat) (s : State) : Host.Outcome State Fault Refusal :=
  .next (withPkt q k 7 (fun s _ => decide (s.dev.svc ≠ 3)) (fun y s =>
    match y.span.bind (pktAt s q) with
    | some o => if o.phase = 3 then closeSpan q o y s else s
    | none => s) s)

end Sys2Proof.Machine
end

