-- ==== Sys2Proof/Machine/Graphs.lean ====
section
/-! DEFINITION. Task graphs: GRAPH, its validation, and the nodes (R370 to R374). -/

namespace Sys2Proof.Machine

/-! ### Bodies (R371) -/

/-- The indices that a word of successors lists. -/
def succOf (w : Nat) : List Nat := ((upto 4).map fun i => bits w (16 * i) 16).filter (· ≠ 0xFFFF)

/-- The indices that words of a node list. -/
def succsOf (w : List Word) (is : List Nat) : List Nat := is.flatMap fun i => succOf (pktWord w i)

/-- NPRED of a node. -/
def npred (w : List Word) : Nat := bits (pktWord w 2) 48 16
/-- FIRST of a LOOP. -/
def loopFirst (w : List Word) : Nat := bits (pktWord w 2) 16 16
/-- LAST of a LOOP. -/
def loopLast (w : List Word) : Nat := bits (pktWord w 2) 0 16
/-- Is a node a LOOP? -/
def isLoop (w : List Word) : Bool := pktKind w = 0x12

/-- The default of a SWITCH. -/
def switchDefault (w : List Word) : List Nat := (bits (pktWord w 7) 0 16 :: []).filter (· ≠ 0xFFFF)

/-- The successors that a node lists, FIRST of a LOOP left out. -/
def listedBy (w : List Word) : List Nat :=
  if pktKind w = 0x13 then succsOf w [3, 4, 5, 6] ++ switchDefault w else succsOf w [3, 4]

/-- All edges of a node. -/
def edgesOf (w : List Word) : List Nat := listedBy w ++ (if isLoop w then [loopFirst w] else [])

/-! ### Validation (R372) -/

/-- The bits that may be set in words 1 to 7 of a node. -/
def nodeMasks (kind : Nat) : List Nat :=
  let va := 2 ^ 57 - 1
  let all := 2 ^ 64 - 1
  let np := 0xFFF * 2 ^ 48
  match kind with
  | 0x12 => [va, np + (2 ^ 48 - 1), all, all, 0, 0, 0]
  | 0x13 => [va, np, all, all, all, all, 0xFFFF]
  | _ => [va, np, all, all, 0, 0, 0]

/-- Is a node's header and body well formed? -/
def nodeOk (w : List Word) : Bool :=
  decide (0x10 ≤ pktKind w) && decide (pktKind w ≤ 0x13) && pktValid w && within (pktWord w 0) 0xFFFF_0000_0000_80FF &&
    ((nodeMasks (pktKind w)).zip (w.drop 1)).all (fun x => within x.2.toNat x.1)

/-- Is node `i` in the body of a LOOP? -/
def inBody (l : List Word) (i : Nat) : Bool := isLoop l && decide (loopFirst l ≤ i) && decide (i ≤ loopLast l)

/-- One round of taking out the nodes that no remaining node lists. -/
def prune (ns : List (List Word)) (left : List Nat) : List Nat :=
  left.filter fun i => left.any fun j => (edgesOf (nth [] ns j)).contains i

/-- The nodes that remain after `k` rounds. -/
def pruned (ns : List (List Word)) : Nat → List Nat → List Nat
  | 0, left => left
  | k + 1, left => if (prune ns left).length = left.length then left else pruned ns k (prune ns left)

/-- Do the edges into and out of the body of LOOP `k` keep to it, but for the LOOP's own edge to FIRST? -/
def bodyClosed (ns : List (List Word)) (k : Nat) : Bool :=
  let l := nth [] ns k
  (upto ns.length).all fun i =>
    let es := if i = k then listedBy l else edgesOf (nth [] ns i)
    es.all fun j => inBody l i = inBody l j

/-- Do two bodies overlap without one containing the other? -/
def bodiesCross (a b : List Word) : Bool :=
  let f := loopFirst a; let l := loopLast a; let f' := loopFirst b; let l' := loopLast b
  decide (f ≤ l') && decide (f' ≤ l) && !(decide (f ≤ f') && decide (l' ≤ l)) && !(decide (f' ≤ f) && decide (l ≤ l'))

/-- Is LOOP `i` of a body legal? -/
def loopOk (ns : List (List Word)) (i : Nat) : Bool :=
  let l := nth [] ns i
  !isLoop l || (decide (loopFirst l ≤ loopLast l) && decide (loopLast l < ns.length) && !inBody l i && bodyClosed ns i)

/-- Is a graph body valid as far as its nodes say? -/
def bodyOk (ns : List (List Word)) : Bool :=
  let es := ns.flatMap edgesOf
  ns.all nodeOk && es.all (fun i => decide (i < ns.length)) &&
    (upto ns.length).all (fun i => decide (npred (nth [] ns i) = es.count i)) && (pruned ns ns.length (upto ns.length)).isEmpty &&
    (upto ns.length).all (loopOk ns) && noneMeet bodiesCross (ns.filter isLoop)

/-- The LAUNCH packet that a TASK node names; nothing for another node, none where it is not one. -/
def launchOf (s : State) (p : Nat) (w : List Word) : Option (List Word) :=
  if pktKind w ≠ 0x10 then some []
  else if pktWord w 1 % 64 ≠ 0 then none
  else match cpWords s p (pktWord w 1) 8 with
    | some l => if pktKind l = 2 ∧ pktClean l then some l else none
    | none => none

/-- The LAUNCH packets of a body, by node. -/
def launchesOf (s : State) (p : Nat) (ns : List (List Word)) : Option (List (List Word)) :=
  ns.foldr (fun w a => match launchOf s p w, a with
    | some l, some ls => some (l :: ls)
    | _, _ => none) (some [])

/-! ### Marks (R373) -/

/-- Words of node `n`. -/
def nodeOf (g : GraphSt) (n : Nat) : List Word := nth [] g.nodes n

/-- State of node `n`. -/
def nodeSt (g : GraphSt) (n : Nat) : NodeSt := SMap.get .start g.st n

/-- Change the state of node `n`. -/
def updNode (n : Nat) (f : NodeSt → NodeSt) (g : GraphSt) : GraphSt := { g with st := SMap.modify .start g.st n f }

/-- Send marks along edges. -/
def sendMarks (es : List (Nat × Bool)) (g : GraphSt) : GraphSt :=
  es.foldl (fun g e => updNode e.1 (fun x => { x with arrived := x.arrived + 1, live := x.live + b2n e.2 }) g) g

/-- Has every edge of a waiting node arrived? -/
def nodeDue (g : GraphSt) (n : Nat) : Bool := decide ((nodeSt g n).st = 0) && decide ((nodeSt g n).arrived = npred (nodeOf g n))

/-- Is a due node to run? -/
def nodeLive (g : GraphSt) (n : Nat) : Bool := decide (npred (nodeOf g n) = 0) || decide (0 < (nodeSt g n).live)

/-- Mark all edges of a node alike. -/
def allEdges (w : List Word) (live : Bool) : List (Nat × Bool) := (edgesOf w).map fun i => (i, live)

/-- A node is skipped, and sends dead on every edge. -/
def skipNode (n : Nat) (g : GraphSt) : GraphSt :=
  sendMarks (allEdges (nodeOf g n) false) (updNode n (fun x => { x with st := 3 }) g)

/-- Skip the due nodes without a live edge, at most `k` of them. -/
def settle : Nat → GraphSt → GraphSt
  | 0, g => g
  | k + 1, g =>
    match (upto g.nodes.length).find? fun n => nodeDue g n && !nodeLive g n with
    | some n => settle k (skipNode n g)
    | none => g

/-- Skip what is due and dead. -/
def settleAll (g : GraphSt) : GraphSt := settle g.nodes.length g

/-- Has a node completed, been skipped, or been left untouched by a LOOP that has ended? -/
def resolved (g : GraphSt) (n : Nat) : Bool :=
  let x := nodeSt g n
  decide (2 ≤ x.st) || (decide (x.st = 0) &&
    (upto g.nodes.length).any fun l => inBody (nodeOf g l) n && decide ((nodeSt g l).st = 2))

/-! ### Running a graph -/

/-- Graph store `i`. -/
def graphAt (s : State) (i : Nat) : Option GraphSt := SMap.get none s.graphs i

/-- Replace graph store `i`. -/
def setGraph (i : Nat) (g : Option GraphSt) (s : State) : State := { s with graphs := SMap.set none s.graphs i g }

/-- The record of a GRAPH (R360). -/
def graphRecord (g : GraphSt) (tend : Nat) : List Word :=
  [BitVec.ofNat 64 (if g.purged then 2 * 2 ^ 48 else 0), BitVec.ofNat 64 g.tstart, BitVec.ofNat 64 tend, 0, 0, 0,
   if g.purged then g.tag.zeroExtend 64 else 0, BitVec.ofNat 64 g.bad]

/-- A graph whose nodes have all come to their ends completes (R358). -/
def graphDone (i : Nat) (s : State) : State :=
  match graphAt s i with
  | none => s
  | some g =>
    if (upto g.nodes.length).all (resolved g) then
      dropPkt g.q g.pkt (setGraph i none (writeRecord g.q g.part g.crec g.csig (graphRecord g s.tick) s))
    else s

/-- Change a graph store, settle it, and see whether it is done. -/
def updGraph (i : Nat) (f : GraphSt → GraphSt) (s : State) : State :=
  match graphAt s i with
  | some g => graphDone i (setGraph i (some (settleAll (f g))) s)
  | none => s

/-- A node completes with marks. -/
def completeNode (i n : Nat) (es : List (Nat × Bool)) (s : State) : State :=
  updGraph i (fun g => sendMarks es (updNode n (fun x => { x with st := 2 }) g)) s

/-- The lowest node that is due. -/
def firstDue (g : GraphSt) : Option Nat := (upto g.nodes.length).find? fun n => nodeDue g n && nodeLive g n

/-- Act on node `n` of a kind that starts now, or that runs already. -/
def withNode (i n kind : Nat) (start : GraphSt → State → State) (running : GraphSt → State → State) (s : State) : State :=
  match graphAt s i with
  | none => s
  | some g =>
    if pktKind (nodeOf g n) ≠ kind ∨ s.dev.svc = 3 then s
    else if firstDue g = some n then
      let g1 := updNode n (fun x => { x with st := 1 }) g
      start g1 (setGraph i (some g1) s)
    else if (nodeSt g n).st = 1 then running g s
    else s

/-- A task of a node did not complete with OUTCOME 0. -/
def noteBad (n : Nat) (g : GraphSt) : GraphSt := { g with bad := min g.bad n }

/-- The marks of a TASK. -/
def taskMarks (g : GraphSt) (n : Nat) : List (Nat × Bool) := allEdges (nodeOf g n) true

/-- A TASK node starts: its launch is refused, or its task is ready. -/
def startTaskNode (i n : Nat) (g : GraphSt) (s : State) : State :=
  let w := nth [] g.launches n
  match loadTask s g.part w (pktTag (nodeOf g n)) g.q g.pkt (some (i, n)) with
  | .ok t => enterReady t (setGraph i (some (updNode n (fun x => { x with task := some s.nextTask }) g)) s)
  | .error l =>
    completeNode i n (taskMarks g n) (setGraph i (some (noteBad n g)) (finishRecord (emptyTask s g.part w (pktTag (nodeOf g n)) g.q g.pkt) l 1 s))

/-- A TASK node (R373). -/
def execTaskNode (g n : Nat) (s : State) : Host.Outcome State Fault Refusal := .next (withNode g n 0x10 (startTaskNode g n) (fun _ s => s) s)

/-- Read the word of a control node, and go on where it can be read. -/
def withNodeWord (g : GraphSt) (n : Nat) (k : Nat → State → State) (s : State) : State :=
  match cpWords s g.part (pktWord (nodeOf g n) 1) 1 with
  | some ws => k (nth 0 ws 0).toNat (cpAcquire g.q g.part (pktWord (nodeOf g n) 1) s)
  | none => s

/-- The marks of a COND. -/
def condMarks (w : List Word) (v : Nat) : List (Nat × Bool) :=
  ((succsOf w [3]).map fun i => (i, decide (v ≠ 0))) ++ ((succsOf w [4]).map fun i => (i, decide (v = 0)))

/-- A COND node reads its predicate. -/
def condStep (i n : Nat) (g : GraphSt) (s : State) : State :=
  withNodeWord g n (fun v s => completeNode i n (condMarks (nodeOf g n) v) s) s

/-- A COND node (R373). -/
def execCondNode (g n : Nat) (s : State) : Host.Outcome State Fault Refusal := .next (withNode g n 0x11 (condStep g n) (condStep g n) s)

/-- The case that a selector chooses, 16 for the default. -/
def chosenCase (w : List Word) (v : Nat) : Nat :=
  if v < 16 ∧ bits (pktWord w (3 + v / 4)) (16 * (v % 4)) 16 ≠ 0xFFFF then v else 16

/-- The marks of a SWITCH. -/
def switchMarks (w : List Word) (v : Nat) : List (Nat × Bool) :=
  (((upto 16).map fun c => (bits (pktWord w (3 + c / 4)) (16 * (c % 4)) 16, decide (chosenCase w v = c))) ++
    [(bits (pktWord w 7) 0 16, decide (chosenCase w v = 16))]).filter fun e => e.1 ≠ 0xFFFF

/-- A SWITCH node reads its selector. -/
def switchStep (i n : Nat) (g : GraphSt) (s : State) : State :=
  withNodeWord g n (fun v s => completeNode i n (switchMarks (nodeOf g n) v) s) s

/-- A SWITCH node (R373). -/
def execSwitchNode (g n : Nat) (s : State) : Host.Outcome State Fault Refusal :=
  .next (withNode g n 0x13 (switchStep g n) (switchStep g n) s)

/-- A LOOP ends, live to its successors (R374). -/
def endLoop (i n : Nat) (g : GraphSt) (s : State) : State := completeNode i n ((listedBy (nodeOf g n)).map fun j => (j, true)) s

/-- An iteration starts: live goes to FIRST. -/
def enterIteration (n left : Nat) (g : GraphSt) : GraphSt :=
  sendMarks [(loopFirst (nodeOf g n), true)] (updNode n (fun x => { x with iter := left }) g)

/-- A LOOP that has its trip count. -/
def beginLoop (i n count : Nat) (g : GraphSt) (s : State) : State :=
  if count = 0 then endLoop i n g s else updGraph i (enterIteration n count) s

/-- A LOOP reads its trip count. -/
def startLoop (i n : Nat) (g : GraphSt) (s : State) : State :=
  if pktWord (nodeOf g n) 1 = 0 then beginLoop i n (bits (pktWord (nodeOf g n) 2) 32 16) g s
  else withNodeWord g n (fun v s => beginLoop i n v g s) s

/-- A node waits anew; one that a purge has taken is skipped (R379). -/
def NodeSt.again (x : NodeSt) : NodeSt := { NodeSt.start with st := if x.gone then 3 else 0, gone := x.gone }

/-- Every node of a body waits anew. -/
def resetBody (w : List Word) (g : GraphSt) : GraphSt :=
  let body := (upto g.nodes.length).filter (inBody w)
  let g1 := body.foldl (fun g j => updNode j NodeSt.again g) g
  (body.filter fun j => (nodeSt g j).gone).foldl (fun g j => sendMarks (allEdges (nodeOf g j) false) g) g1

/-- A LOOP runs: it reads its count, or ends an iteration whose body has come to its end. -/
def loopStep (i n : Nat) (g : GraphSt) (s : State) : State :=
  let w := nodeOf g n
  let x := nodeSt g n
  if x.iter = 0 then startLoop i n g s
  else if !((upto g.nodes.length).all fun j => !inBody w j || resolved g j) then s
  else if x.iter = 1 then endLoop i n g s
  else updGraph i (fun g => enterIteration n (x.iter - 1) (resetBody w g)) s

/-- A LOOP node (R374). -/
def execLoopNode (g n : Nat) (s : State) : Host.Outcome State Fault Refusal := .next (withNode g n 0x12 (startLoop g n) (loopStep g n) s)

/-! ### GRAPH (R370) -/

/-- The graph that a body starts. -/
def newGraph (q part : Nat) (y : Pkt) (ns ls : List (List Word)) : GraphSt :=
  { q := q, pkt := y.idx, part := part, tag := pktTag y.w, nodes := ns, launches := ls, st := [], csig := pktWord y.w 3 % 2 ^ 57,
    crec := pktWord y.w 4 % 2 ^ 57, bad := 0xFFFF, tstart := 0, purged := false }

/-- A GRAPH is rejected: it completes with no effect, and the queue stops. -/
def rejectGraph (q reason : Nat) (y : Pkt) (s : State) : State := stopRunning q reason (dropPkt q y.idx s)

/-- GRAPH loads its body into store `i`. -/
def loadGraph (q i : Nat) (y : Pkt) (s : State) : State :=
  let p := queuePart s q
  let n := pktWord y.w 2
  let a := pktWord y.w 1
  if n = 0 ∨ 4096 < n ∨ a % 64 ≠ 0 then rejectGraph q 5 y s
  else
    match cpWords s p a (8 * n) with
    | none => rejectGraph q 9 y s
    | some ws =>
      let ns := pieces 8 n ws
      if ns.any fun w => decide (1 ≤ pktKind w) && decide (pktKind w ≤ 8) then rejectGraph q 2 y s
      else if !bodyOk ns then rejectGraph q 5 y s
      else
        match launchesOf s p ns with
        | none => rejectGraph q 5 y s
        | some ls =>
          if ls.any fun l => decide (bits (cmdqAt s q).d0.toNat 3 2 < bits (pktFlags l) 1 2) then rejectGraph q 4 y s
          else
            setGraph i (some (newGraph q p y ns ls)) (updPkt q y.idx (fun y => { noteStart y with graph := some i }) s)

/-- GRAPH (R370): it waits for a free store. -/
def execGraph (q k : Nat) (s : State) : Host.Outcome State Fault Refusal :=
  .next (startPkt q k 3 (fun y s =>
    match (upto 64).find? fun i => (graphAt s i).isNone with
    | some i => loadGraph q i y s
    | none => s) s)

end Sys2Proof.Machine
end

