-- ==== Sys2Proof/Machine/Schedule.lean ====
section
/-! DEFINITION. Binding, launch, scheduling rounds, pre-emption and resumption, completion of tasks, and what a purge takes
away (R14, R83, R118, R119, R253, R278, R304, R307, R308, R340, R359, R360, R363, R375 to R379). -/

namespace Sys2Proof.Machine

/-! ### Bindings (R375) -/

/-- The flips of a grid in their order. -/
def flips : List (Bool × Bool) := [(false, false), (false, true), (true, false), (true, true)]

/-- Integers from `-n` to `n`, rising. -/
def range0 (n : Nat) : List Int := (upto (2 * n + 1)).map fun (i : Nat) => (i : Int) - n

/-- A flip and a translation of a coordinate. -/
def moveCoord (f : Bool) (t : Int) (c : Nat) : Int := (if f then -(c : Int) else c) + t

/-- Where a map of a grid of `rows` by `cols` takes cell `x`, if that lies in the grid. -/
def moveCell (rows cols : Nat) (f : Bool × Bool) (tr tc : Int) (x : Nat) : Option Nat :=
  let r := moveCoord f.1 tr (x / cols)
  let c := moveCoord f.2 tc (x % cols)
  if 0 ≤ r ∧ r < rows ∧ 0 ≤ c ∧ c < cols then some (r.toNat * cols + c.toNat) else none

/-- Try the maps of a grid of `rows` by `cols` in their order, translations fastest. -/
def tryMaps {α : Type} (rows cols : Nat) (k : (Nat → Option Nat) → Option α) : Option α :=
  flips.findSome? fun f => (range0 (2 * rows)).findSome? fun tr => (range0 (2 * cols)).findSome? fun tc => k (moveCell rows cols f tr tc)

/-- The image of a logical spindle under maps of dies and skeins. -/
def moveSpindle (die skein : Nat → Option Nat) (e : Nat) : Option Nat :=
  match die (bits e 8 2), skein (bits e 3 5) with
  | some d, some k => some (160 * d + 8 * k + e % 8)
  | _, _ => none

/-- The pairs of logical and physical spindles of a placement, if every image is there and free. -/
def imagesOf (free : Nat → Bool) (f : Nat → Option Nat) (place : List Nat) : Option (List (Nat × Nat)) :=
  place.foldr (fun e a => match f e, a with
    | some n, some l => if free (skeinOf n) then some ((e, n) :: l) else none
    | _, _ => none) (some [])

/-- The first binding of a placement that fits on the free skeins. -/
def findBinding (free : Nat → Bool) (place : List Nat) : Option (List (Nat × Nat)) :=
  tryMaps 2 2 fun die =>
    if place.all fun e => (die (bits e 8 2)).isSome then
      tryMaps 4 5 fun skein => imagesOf free (moveSpindle die skein) place
    else none

/-- The skeins that a task holds. -/
def Task.skeins (t : Task) : List Nat :=
  if t.st = .resident ∨ t.st = .stopping ∨ t.st = .restoring then t.binding.map fun x => skeinOf x.2 else []

/-- The skeins that the resident tasks hold, but for some tasks. -/
def heldSkeins (s : State) (without : List Nat) : List Nat :=
  s.tasks.flatMap fun x => match x.2 with | some t => if without.contains x.1 then [] else t.skeins | none => []

/-- May a task of a partition take a skein, once some tasks are gone? Under reduced service only the lowest die serves. -/
def skeinFree (s : State) (p : Nat) (held : List Nat) (k : Nat) : Bool :=
  inPartition s p (8 * k) && !held.contains k &&
    (decide (s.dev.svc ≠ 1) || decide ((upto 4).find? (fun d => s.dev.dieok.getLsbD d) = some (k / 20)))

/-- The binding of a task, once some tasks are gone. -/
def bindingFor (s : State) (t : Task) (without : List Nat) : Option (List (Nat × Nat)) :=
  let held := heldSkeins s without
  findBinding (skeinFree s t.part held) t.place

/-! ### Launch (R83, R84, R363) -/

/-- Apply a descriptor of the image to a spindle (R80). -/
def applyDesc (p : Spindle) (d : Nat × Nat) : Spindle :=
  let i := bits d.1 48 8
  if bits d.1 56 8 = 1 then setSpool i (.ofDesc (descValue d)) p
  else { p with zones := SMap.set none p.zones i (some (zoneOf (descValue d) 0)) }

/-- CR.DOM of a task on a logical spindle. -/
def domWord (s : State) (t : Task) (l : Nat) : Word := BitVec.ofNat 64 (t.grp * 2 ^ 32 + ownPkg s t.grp * 2 ^ 16 + l)

/-- CR.STEP of a task (R323). -/
def stepWord (s : State) (t : Task) : Word :=
  if t.instep then BitVec.ofNat 64 (2 ^ 63 + (match groupCtx s t.grp with | some c => (ctxAt s c).stepno | none => 0)) else 0

/-- Strand 0 of a task that is bound, before its start (R83, R436). -/
def firstStrand (t : Task) : Strand := { Strand.start with run := .running, pc := t.entry, tag := t.rqtag, hold := .launch }

/-- Debug words at launch: the fields that system software sets stay (R390, R394, R395). -/
def launchDebug (d : Debug) : Debug := { Debug.start with ctl := d.ctl }

/-- A spindle as launch leaves it; the pool keeps what it held, under `.scratch`. -/
def launchSpindle (s : State) (id : Nat) (t : Task) (l n : Nat) : Spindle :=
  let p := spindleAt s n
  let q := { Spindle.start with
    task := some id
    lcode := l
    part := t.part
    sg := bits t.pword.toNat 8 8
    ag := bits t.pword.toNat 0 8
    strands := SMap.set .start [] 0 (firstStrand t)
    scratch := p.scratch
    poison := p.poison
    cbank := SMap.setList 0 [] 0 t.consts
    matrix := { Matrix.start with seed := s.free }
    tvec := BitVec.ofNat 64 (bits (partWord s t.part 4) 3 54 * 8)
    det := t.det
    prio := t.prio
    step := stepWord s t
    dom := domWord s t l
    wdlim := t.wdlim
    dbg := launchDebug p.dbg }
  t.descs.foldl applyDesc (scratchWrite 0 t.scr false q)

/-- Change task `id`. -/
def updTask (id : Nat) (f : Task → Task) (s : State) : State := { s with tasks := SMap.modify none s.tasks id (Option.map f) }

/-- Task `id`. -/
def taskAt (s : State) (id : Nat) : Option Task := SMap.get none s.tasks id

/-- Note the start of a graph's first task. -/
def noteGraphStart (t : Task) (s : State) : State :=
  match t.node with
  | some (g, _) => { s with graphs := SMap.modify none s.graphs g (Option.map fun x => if x.tstart = 0 then { x with tstart := s.tick } else x) }
  | none => s

/-- A task is launched on a binding: its group holds a context. Every strand 0 is to start (R436). -/
def launchTask (id : Nat) (t : Task) (b : List (Nat × Nat)) (s : State) : State :=
  let s0 := match ctxFor s t.grp with | some c => assignCtx c t.grp s | none => s
  let t1 := { t with st := .resident, binding := b, bage := bits (partWord s t.part 0) 32 16 }
  let s1 := b.foldl (fun s x => setSpindle x.2 (launchSpindle s id t1 x.1 x.2) s) s0
  { s1 with
    tasks := SMap.set none s1.tasks id (some t1)
    launched := s1.launched ++ [(s.tick, t.eest)]
    free := s1.free + 1 }

/-- Is strand 0 of a spindle still to start? -/
def toStart (p : Spindle) : Bool := decide ((strandOf p 0).hold = .launch)

/-- Strand 0 of a spindle starts in the next cycle, from which on the task resides there (R436, R438). -/
def startSpindle (c : Nat) (p : Spindle) : Spindle :=
  { updStrandOf 0 (fun st => { st with hold := .none, readyAt := c + 1 }) p with up := some (c + 1) }

/-- The first strands of a resident task start, some time after it was bound: this is its TSTART (R360, R436). -/
def startTask (id : Nat) (t : Task) (s : State) : State :=
  let s1 := t.binding.foldl (fun s x => updSpindle x.2 (fun p => if toStart p then startSpindle s.cycle p else p) s) s
  noteGraphStart t (updTask id (fun t => { t with tstart := if t.tstart = 0 then s.tick else t.tstart }) s1)

/-- Put a saved spindle of a task on a physical one: its pool and words move with it, what debug software has set stays, and
its held blocks are allocated there (R119, R394). -/
def placeSaved (n : Nat) (p : Spindle) (s : State) : State :=
  let d := (spindleAt s n).dbg
  let s1 := setSpindle n { p with stopping := true, up := none, dbg := { p.dbg with ctl := d.ctl } } s
  (upto 16).foldl (fun s b =>
    let x := blockAt p b
    if x.st = .ready then fillBlock n x s else s) s1

/-- The saved spindle of a logical one. -/
def savedOf (t : Task) (l : Nat) : Spindle := ((t.saved.find? fun x => x.1 = l).map (·.2)).getD .start

/-- A pre-empted task is bound again; its restoring begins (R119, R375). -/
def rebindTask (id : Nat) (t : Task) (b : List (Nat × Nat)) (s : State) : State :=
  let s1 := b.foldl (fun s x => placeSaved x.2 (savedOf t x.1) s) s
  { s1 with
    tasks := SMap.set none s1.tasks id (some { t with st := .restoring, binding := b, saved := [] })
    launched := s1.launched ++ [(s.tick, t.eest)] }

/-! ### Scheduling rounds (R376 to R378) -/

/-- Where a ready task comes from: its graph store, or its queue. -/
def Task.source (t : Task) : Nat := match t.node with | some (g, _) => 1024 + g | none => t.q

/-- The tasks of the ready set. -/
def readyTasks (s : State) : List (Nat × Task) :=
  s.tasks.filterMap fun x => x.2.bind fun t => if t.st = .ready ∨ t.st = .away then some (x.1, t) else none

/-- Is a ready task older than another? -/
def olderTask (a b : Nat × Task) : Bool := decide (a.2.rank < b.2.rank) || (decide (a.2.rank = b.2.rank) && decide (a.1 < b.1))

/-- Does a candidate come before another: higher class first, then lower age rank? -/
def firstTask (a b : Nat × Task) : Bool := decide (b.2.prio < a.2.prio) || (decide (a.2.prio = b.2.prio) && olderTask a b)

/-- Insert an item into a list in order. -/
def insertBy {α : Type} (lt : α → α → Bool) (x : α) : List α → List α
  | [] => [x]
  | y :: ys => if lt x y then x :: y :: ys else y :: insertBy lt x ys

/-- A list in order. -/
def sortBy {α : Type} (lt : α → α → Bool) (xs : List α) : List α := xs.foldr (insertBy lt) []

/-- The candidates of a round: the oldest ready task of each source, in their order. -/
def candidates (s : State) : List (Nat × Task) :=
  let rs := readyTasks s
  sortBy firstTask (rs.filter fun x => !rs.any fun y => decide (y.2.source = x.2.source) && olderTask y x)

/-- PLIM (R416). -/
def plim (d : Device) : Nat := min d.plimset (min d.thermal d.imageLim)

/-- H: the power that is left for launches. -/
def headroom (s : State) : Int :=
  (plim s.dev : Int) - s.dev.pnow - ((s.launched.filter fun x => s.tick < x.1 + 100000).foldl (fun a x => a + x.2) 0 : Nat)

/-- Is a candidate blocking? (R377) -/
def blockingTask (t : Task) : Bool := decide (max 1 t.agelim ≤ t.skips)

/-- Does another candidate that blocks and has not launched hold a candidate back? -/
def heldBack (cs : List (Nat × Task)) (gone : List Nat) (c : Nat × Task) : Bool :=
  cs.any fun b => blockingTask b.2 && !gone.contains b.1 && decide (b.1 ≠ c.1) && decide (c.2.prio ≤ b.2.prio) &&
    (!blockingTask c.2 || firstTask b c)

/-- May a candidate launch, its binding aside? -/
def mayLaunch (s : State) (t : Task) : Bool :=
  (decide (s.dev.svc = 2) || (decide (s.dev.svc = 1) && decide (s.dev.stage ≠ 4))) && (ctxFor s t.grp).isSome &&
    (blockingTask t || decide ((t.eest : Int) ≤ headroom s))

/-- Tasks of a partition that are being stopped for others. -/
def stoppingTasks (s : State) : List Nat := s.tasks.filterMap fun x => x.2.bind fun t => if t.st = .stopping then some x.1 else none

/-- Does the task `a` start later than `b`? One that is still to start does. -/
def startsLater (a b : Task) : Bool := decide (b.tstart ≠ 0) && (decide (a.tstart = 0) || decide (b.tstart < a.tstart))

/-- Does victim `a` come before victim `b`? (R378) -/
def victimFirst (a b : Nat × Task) : Bool :=
  if a.2.instep ≠ b.2.instep then !a.2.instep
  else if a.2.prio ≠ b.2.prio then decide (a.2.prio < b.2.prio)
  else startsLater a.2 b.2

/-- The victims that a candidate may take, in their order. -/
def victimsFor (s : State) (t : Task) : List (Nat × Task) :=
  sortBy victimFirst (s.tasks.filterMap fun x => x.2.bind fun v =>
    if v.st = .resident ∧ v.part = t.part ∧ v.prio < t.prio then some (x.1, v) else none)

/-- Stop a task for another: its spindles start nothing more (R118). -/
def stopTask (id : Nat) (s : State) : State :=
  match taskAt s id with
  | some t => t.binding.foldl (fun s x => updSpindle x.2 (fun p => { p with stopping := true }) s) (updTask id (fun t => { t with st := .stopping }) s)
  | none => s

/-- Take victims until a binding fits; none where none ever does. -/
def takeVictims (s : State) (t : Task) : List Nat → List (Nat × Task) → Option (List Nat)
  | gone, vs =>
    if (bindingFor s t gone).isSome then some gone
    else match vs with
      | [] => none
      | v :: vs => takeVictims s t (gone ++ [v.1]) vs

/-- A candidate for which no binding fits pre-empts, where that makes one fit. -/
def preempt (t : Task) (s : State) : State :=
  match takeVictims s t (stoppingTasks s) (victimsFor s t) with
  | some vs => vs.foldl (fun s v => stopTask v s) s
  | none => s

/-- Launch a task, or bind it again. -/
def placeTask (id : Nat) (t : Task) (b : List (Nat × Nat)) (s : State) : State :=
  if t.st = .away then rebindTask id t b s else launchTask id t b s

/-- A round goes through its candidates: the state and the candidates launched so far. -/
def roundOver (cs : List (Nat × Task)) : List (Nat × Task) → List Nat → State → State × List Nat
  | [], gone, s => (s, gone)
  | c :: rest, gone, s =>
    if heldBack cs gone c then roundOver cs rest gone s
    else
      match bindingFor s c.2 [] with
      | some b => if mayLaunch s c.2 then roundOver cs rest (gone ++ [c.1]) (placeTask c.1 c.2 b s) else roundOver cs rest gone s
      | none => roundOver cs rest gone (preempt c.2 s)

/-- Count the candidates that a later one has passed. -/
def countSkips (gone : List Nat) : List (Nat × Task) → State → State
  | [], s => s
  | c :: rest, s =>
    countSkips gone rest (if !gone.contains c.1 ∧ rest.any (fun x => gone.contains x.1) then updTask c.1 (fun t => { t with skips := t.skips + 1 }) s else s)

/-- A scheduling round (R376). -/
def schedulingRound (s : State) : State :=
  let cs := candidates s
  let r := roundOver cs cs [] s
  let s1 := countSkips r.2 cs r.1
  { s1 with roundAt := s.tick + 10000, rounds := s.rounds - 1, launched := s1.launched.filter fun x => decide (s.tick < x.1 + 100000) }

/-- SCHEDULING_ROUND. -/
def execSchedulingRound (s : State) : Host.Outcome State Fault Refusal := .next (schedulingRound s)

/-! ### Ends of tasks (R359, R360) -/

/-- What the packet or node of a task sees of its end. -/
def endOfTask (t : Task) (outcome : Nat) (s : State) : State :=
  let s1 := { s with rounds := s.rounds + 1 }
  match t.node with
  | none => dropPkt t.q t.pkt s1
  | some (i, n) =>
    match graphAt s1 i with
    | some g => completeNode i n (taskMarks g n) (if outcome = 0 then s1 else setGraph i (some (noteBad n g)) s1)
    | none => s1

/-- A task ends: its record, its signal, its packet or node, and the contexts that nothing needs any more. -/
def finishTask (id : Nat) (t : Task) (outcome : Nat) (s : State) : State :=
  let s1 := finishRecord t 0 outcome s
  releaseCtxs (endOfTask t outcome { s1 with tasks := SMap.set none s1.tasks id none })

/-- OUTCOME of a task (R360). -/
def outcomeOf (t : Task) : Nat := if t.purged.isSome then 2 else if 0 < t.ndt ∨ 0 < t.nfault then 3 else 0

/-- Has a strand come to its end, with nothing of it under way? -/
def strandEnded (st : Strand) : Bool := decide (st.run ≠ .running) && st.landings.isEmpty && st.deposits.isEmpty && st.mem.isNone

/-- Is everything that a spindle has sent applied or reported? -/
def spindleDrained (s : State) (n : Nat) : Bool :=
  !(s.posted.any fun w => decide (w.spn = n)) && !(((usedBobbins s).map (·.2) ++ s.flits).any fun b => b.elems.any fun e => decide (e.spn = n)) &&
    !(s.windows.any fun x => x.2.queue.any fun q => decide (q.spn = n))

/-- Is a task complete on a spindle? (R359) -/
def spindleComplete (s : State) (n : Nat) : Bool :=
  let p := spindleAt s n
  (upto 4).all (fun k => strandEnded (strandOf p k)) && (upto 5).all (fun q => ((queueAt p q).recs.isEmpty || (queueAt p q).faulted) && (queueAt p q).done.isEmpty) &&
    spindleDrained s n

/-- Records queued behind FAULTED heads. -/
def behindFaults (p : Spindle) : Nat := (upto 5).foldl (fun a q => a + ((queueAt p q).recs.length - 1)) 0

/-- Release what a spindle of a task holds in memory: its writes, its blocks. -/
def releaseSpindle (n : Nat) (s : State) : State :=
  let s1 := writeBack (skeinOf n) ((upto 4).foldl (fun s k => tagLines n k 0x1F s) s)
  (upto 16).foldl (fun s b => if (blockAt (spindleAt s n) b).st = .free then s else releaseBlock n b s) s1

/-- The slots of the RPUT records left in FAULTED queues break. -/
def breakLeft (n : Nat) (s : State) : State :=
  (upto 5).foldl (fun s q => ((queueAt (spindleAt s n) q).recs.drop 1).foldl (fun s r => breakSlot n r s) s) s

/-- What a strand holds once its task is gone: its registers. -/
def Strand.left (st : Strand) : Strand :=
  { Strand.start with sreg := st.sreg, vreg := st.vreg, preg := st.preg, vmark := st.vmark, fpctl := st.fpctl }

/-- A spindle without its task: the pool and the registers keep their contents, and the counters stay readable (R394, R424). -/
def freeSpindle (n : Nat) (s : State) : State :=
  let p := spindleAt s n
  setSpindle n { Spindle.start with
    strands := (upto 4).foldl (fun m k => SMap.set .start m k (strandOf p k).left) []
    scratch := p.scratch
    poison := p.poison
    dbg := p.dbg } s

/-- Unbind the windows of a task, which keep what they hold; those of a step feed F.OVF (R301, R304). -/
def unbindWindows (id : Nat) (t : Task) (s : State) : State :=
  let mine := s.windows.filter fun x => decide (x.2.owner = some id)
  let s1 := if t.instep && mine.any (fun x => xwOver x.2) then voteFlags t.rqtag fOvf s else s
  { s1 with windows := mine.foldl (fun m x => SMap.set .start m x.1 { x.2 with owner := none }) s1.windows }

/-- The release of a task that is complete covers what its strands and channels have written and follow (R359). -/
def releaseTask (t : Task) (s : State) : State :=
  let f := fun (h : List Nat) (v : View) => joinNums (joinNums h v.hb) v.own
  let nums := t.binding.foldl (fun h x => (upto 9).foldl (fun h a => f h (viewOf s x.2 a)) h) []
  cpRelease t.q (updView 0 (cpAgent t.q) (fun v => { v with hb := joinNums v.hb nums }) s)

/-- The steps of R359 for a task that is complete everywhere. -/
def completeTask (id : Nat) (t : Task) (s : State) : State :=
  let ns := t.binding.map (·.2)
  let lost := ns.foldl (fun a n => a + behindFaults (spindleAt s n)) 0
  let s1 := ns.foldl (fun s n => breakLeft n (releaseSpindle n s)) (releaseTask t s)
  let s2 := castEarly (unbindWindows id t s1)
  let t1 := { t with nfault := t.nfault + lost }
  finishTask id t1 (outcomeOf t1) (ns.foldl (fun s n => freeSpindle n s) s2)

/-- TASK_COMPLETION (R359). -/
def execTaskCompletion (t : Nat) (s : State) : Host.Outcome State Fault Refusal :=
  .next (match taskAt s t with
    | some x =>
      if (x.st = .resident ∨ x.st = .stopping) ∧ s.dev.svc ≠ 3 ∧ (x.binding.all fun b => spindleComplete s b.2) then completeTask t x s else s
    | none => s)

/-! ### Pre-emption and resumption (R118, R119, R253, R278, R308) -/

/-- Is a strand at a group boundary with nothing of it under way? -/
def strandHeld (st : Strand) : Bool :=
  st.landings.isEmpty && st.deposits.isEmpty && st.handles.isEmpty && st.trap.isNone && (match st.mem with | some m => m.atom.isNone | none => true)

/-- Is a block at rest? -/
def blockAtRest (b : Block) : Bool := decide (b.st = .free) || decide (b.st = .ready)

/-- Is a message a chunk that a spindle of a task has sent, or the answer to one? -/
def packetOf (s : State) (t : Task) (m : NetMsg) : Bool :=
  let mine := fun n => t.binding.any fun x => decide (x.2 = n)
  match m with
  | .chunk c => decide (c.hdr.src = ownPkg s t.grp) && decide (c.hdr.grp = t.grp) && mine c.spn
  | .accept a => decide (a.hdr.dst = ownPkg s t.grp) && decide (a.hdr.grp = t.grp) && mine a.spn
  | _ => false

/-- Has a spindle of a victim stopped? -/
def spindleStopped (s : State) (n : Nat) : Bool :=
  let p := spindleAt s n
  (upto 4).all (fun k => strandHeld (strandOf p k)) && (upto 16).all (fun b => blockAtRest (blockAt p b)) &&
    (upto 5).all (fun q => decide ((queueAt p q).busyUntil ≤ s.cycle) && (queueAt p q).done.isEmpty && !chunkUnderWay (queueAt p q)) &&
    !(s.posted.any fun w => decide (w.spn = n)) && !(s.flits.any fun b => b.elems.any fun e => decide (e.spn = n)) &&
    !(s.windows.any fun x => x.2.queue.any fun q => decide (q.spn = n))

/-- A record that waits at its issue boundary: a read that is out is given up and made again, and a parked chunk is tried
again on resumption (R278). -/
def holdRec (r : Rec) : Rec := { r with sent := false, data := none, parked := none }

/-- A spindle as pre-emption saves it; one that the debugger has stopped is to stop again, a strand at its stop point at once
(R392). -/
def saveSpindle (p : Spindle) : Spindle :=
  let p1 := (upto 4).foldl (fun p k => updStrandOf k holdStrand p) p
  let p2 := (upto 5).foldl (fun p q => updQueue q (fun x => { x with recs := x.recs.map holdRec }) p) p1
  { p2 with dbg := { p2.dbg with state := min 1 p2.dbg.state } }

/-- Take the elements of some spindles out of a bobbin: what is taken, and what stays. -/
def splitBobbin (ns : List Nat) (b : Bobbin) : Bobbin × Bobbin :=
  ({ b with elems := b.elems.filter fun e => ns.contains e.spn }, { b with elems := b.elems.filter fun e => !ns.contains e.spn })

/-- Take the bobbin elements of some spindles out of bobbin `i`. -/
def takeElems (ns : List Nat) (i : Nat) (b : Bobbin) (s : State) : State :=
  let r := (splitBobbin ns b).2
  if r.elems.isEmpty then setBobbin i none s else setBobbin i (some r) s

/-- The logical spindle that a physical one stands for. -/
def logicalOf (t : Task) (n : Nat) : Nat := ((t.binding.find? fun x => x.2 = n).map (·.1)).getD 0

/-- The elements of a saved bobbin with the logical spindles of their writers. -/
def logicalElems (t : Task) (b : Bobbin) : Bobbin := { b with elems := b.elems.map fun e => { e with spn := logicalOf t e.spn } }

/-- Save a task, and free what it holds. Windows go under their logical die. -/
def saveTask (id : Nat) (t : Task) (s : State) : State :=
  let ns := t.binding.map (·.2)
  let bobs := (usedBobbins s).filter fun x => x.2.elems.any fun e => ns.contains e.spn
  let wins := s.windows.filter fun x => decide (x.2.owner = some id)
  let dieFor := fun (d : Nat) => ((t.binding.find? fun x => dieOf x.2 = d).map fun x => bits x.1 8 2).getD 0
  let t1 := { t with
    st := .away
    saved := t.binding.map fun x => (x.1, saveSpindle (spindleAt s x.2))
    bobs := bobs.map fun x => logicalElems t (splitBobbin ns x.2).1
    wins := wins.map fun x => (64 * dieFor (x.1 / 64) + x.1 % 64, x.2)
    binding := [] }
  let s1 := bobs.foldl (fun s x => takeElems ns x.1 x.2 s) s
  let s2 := ns.foldl (fun s n => (upto 16).foldl (fun s b =>
    if (blockAt (spindleAt s n) b).st = .free then s else releaseBlock n b s) s) s1
  let s3 := ns.foldl (fun s n => freeSpindle n s) s2
  { s3 with
    tasks := SMap.set none s3.tasks id (some t1)
    windows := wins.foldl (fun m x => SMap.set .start m x.1 .start) s3.windows
    rounds := s3.rounds + 1 }

/-- The slots of Whorls that watch a request tag of a partition note a pre-emption (R389). -/
def notePreempt (part : Nat) (tag : BitVec 16) (s : State) : State :=
  let hit := fun (a : Attach) => bitOf a.w0.toNat 61 && decide (bits a.w0.toNat 50 6 = part) && decide (bits a.w1.toNat 48 16 = tag.toNat)
  { s with whorls := s.whorls.map fun w => (w.1, { w.2 with slots := w.2.slots.map fun a => (a.1, if hit a.2 then { a.2 with w2 := a.2.w2 ||| 0x8000_0000_0000_0000 } else a.2) }) }

/-- The records of a queue whose last chunks wait at the channel make those issues again. -/
def recallQueue (ws : List ChunkMsg) (x : Queue) : Queue :=
  let out := fun (r : Rec) => (ws.filter fun c => c.recno = r.seq).length
  { x with
    recs := ((x.done.filter fun d => decide (0 < out d.r)).map Done.r ++ x.recs).map fun r => { r with n := r.n - out r, away := false }
    done := x.done.filter fun d => decide (out d.r = 0) }

/-- The chunks of a task's channels that wait for another task that is away have not left their channels (R308). -/
def recallChunks (t : Task) (s : State) : State :=
  t.binding.foldl (fun s b => [1, 2, 3, 4].foldl (fun s q =>
    let ws := waitingChunks s b.2 q
    if ws.isEmpty then s
    else updSpindle b.2 (updQueue q (recallQueue ws)) { s with net := s.net.filter fun m => !ws.any fun c => m = .chunk c }) s) s

/-- PREEMPT_SAVE: once every strand and engine of a victim has stopped, a victim of a step is discarded through a purge of its
tag, and any other is saved (R119). -/
def execPreemptSave (t : Nat) (s : State) : Host.Outcome State Fault Refusal :=
  .next (match taskAt s t with
    | some x =>
      let s0 := recallChunks x s
      if x.st = .stopping ∧ (x.binding.all fun b => spindleStopped s0 b.2) ∧ !(s0.net.any (packetOf s0 x)) then
        let s1 := notePreempt x.part x.rqtag s0
        if x.instep then castEarly (startPurge x.part x.rqtag s1) else saveTask t x s1
      else s
    | none => s)

/-- The physical spindle of a logical one. -/
def physicalOf (t : Task) (l : Nat) : Nat := ((t.binding.find? fun x => x.1 = l).map (·.2)).getD 0

/-- Where the saved windows of a task go. -/
def windowPlaces (t : Task) : List (Nat × Window) :=
  t.wins.map fun x => (64 * ((t.binding.find? fun b => bits b.1 8 2 = x.1 / 64).map fun b => dieOf b.2).getD 0 + x.1 % 64, x.2)

/-- A strand's handles, translated again (R179). -/
def renewHandles (s : State) (p : Nat) (st : Strand) : Strand :=
  (upto 16).foldl (fun st r =>
    let x := retranslate s p (hregOf st r)
    { st with hreg := SMap.set 0 st.hreg r x.1, hpa := SMap.set 0 st.hpa r x.2 }) st

/-- Put a saved bobbin into a free one of the die of its first writer; where none is free it leaves at once (R296). -/
def restoreBobbin (t : Task) (b : Bobbin) (s : State) : State :=
  let b1 := { b with elems := b.elems.map fun e => { e with spn := physicalOf t e.spn }, born := s.cycle, last := s.cycle }
  let die := dieOf ((b1.elems.head?.map BobElem.spn).getD 0)
  match (upto 64).find? fun j => (bobbinAt s (64 * die + j)).isNone with
  | some j => setBobbin (64 * die + j) (some b1) s
  | none => leaveBobbin (64 * die) 4 s |> setBobbin (64 * die) (some b1)

/-- A saved spindle runs again; where strand 0 has not started, it is still to start. -/
def wakeSpindle (s : State) (part : Nat) (p : Spindle) : Spindle :=
  { (upto 4).foldl (fun p k => updStrandOf k (renewHandles s part) p) p with stopping := false, up := if toStart p then none else some s.cycle }

/-- A task is resident again: its handles, windows and bobbins are there, and its spindles run. -/
def restoreTask (id : Nat) (t : Task) (s : State) : State :=
  let s1 := t.binding.foldl (fun s x => updSpindle x.2 (wakeSpindle s t.part) s) s
  let s2 := { s1 with windows := (windowPlaces t).foldl (fun m x => SMap.set .start m x.1 x.2) s1.windows }
  let s3 := t.bobs.foldl (fun s b => restoreBobbin t b s) s2
  updTask id (fun t => { t with st := .resident, bobs := [], wins := [] }) s3

/-- Is a window bound to no task, and is nothing on its way to it? -/
def windowFree (x : Window) : Bool := x.owner.isNone && x.queue.isEmpty

/-- RESUMPTION_RESTORE_DONE (R119); windows wait until theirs are bound to no other task on the new dies (R308). -/
def execResumptionRestoreDone (t : Nat) (s : State) : Host.Outcome State Fault Refusal :=
  .next (match taskAt s t with
    | some x =>
      if x.st = .restoring ∧ ((windowPlaces x).all fun w => windowFree (SMap.get .start s.windows w.1)) then restoreTask t x s else s
    | none => s)

/-! ### Purges (R253, R278, R307, R340, R379) -/

/-- A queue slot is taken out of the ring: its header is written back with VALID 0 (R356, R379). -/
def takeSlotOut (q i : Nat) (w : List Word) (s : State) : State :=
  updCmdq q (fun x => { x with gone := x.gone ++ [i] })
    (cpWrite q (queuePart s q) (slotVa (cmdqAt s q) i) (toBytes (pktWord w 0 - 0x8000) 8) s)

/-- The record and signal of a LAUNCH or GRAPH that a purge removes. -/
def removedRecord (p q k : Nat) (w : List Word) (tag : BitVec 16) (s : State) : State :=
  if pktKind w = 2 then finishRecord { emptyTask s p w tag q k with purged := some tag } 0 2 s
  else if pktKind w = 3 then
    writeRecord q p (pktWord w 4 % 2 ^ 57) (pktWord w 3 % 2 ^ 57)
      [0x0002_0000_0000_0000, 0, BitVec.ofNat 64 s.tick, 0, 0, 0, tag.zeroExtend 64, 0xFFFF] s
  else s

/-- Go through the slots of a ring from `i` on, at most `k` of them, and take out the packets of a tag. A STEPOPEN that has not
been taken keeps its place, with its span where it is one that it can take (R367, R379). -/
def purgeRing (q : Nat) (tag : BitVec 16) : Nat → Nat → State → State
  | 0, _, s => s
  | k + 1, i, s =>
    let x := cmdqAt s q
    if x.wptr.toNat ≤ i then s
    else match cpWords s (queuePart s q) (slotVa x i) 8 with
      | none => purgeRing q tag k (i + 1) s
      | some w =>
        if pktValid w && decide (pktKind w = 6) then purgeRing q tag k (i + 1 + (if openLegal w then spanOf w else 0)) s
        else if pktValid w && decide (pktTag w = tag) && !x.gone.contains i then
          purgeRing q tag k (i + 1) (removedRecord (queuePart s q) q (x.base + i) w tag (takeSlotOut q i w s))
        else purgeRing q tag k (i + 1) s

/-- Where the slots start that a purge may take out: after a span that is being taken. -/
def purgeFrom (x : CmdQ) : Nat := match spanTaker x with | some o => o.idx + 1 + spanOf o.w - x.base | none => x.rptr

/-- Does a purge remove a taken packet: one outside any span, of its tag, that has not started, or a WAITSIG? -/
def purgeTakes (tag : BitVec 16) (y : Pkt) : Bool :=
  decide (pktTag y.w = tag) && y.span.isNone && decide (pktKind y.w ≠ 6) && (!y.started || decide (pktKind y.w = 5))

/-- A purge acts on one queue. -/
def purgeQueue (q : Nat) (tag : BitVec 16) (s : State) : State :=
  let s1 := purgeRing q tag (ringSlots (cmdqAt s q)) (purgeFrom (cmdqAt s q)) s
  let out := (cmdqAt s1 q).pkts.filter (purgeTakes tag)
  updCmdq q passGone (out.foldl (fun s y => dropPkt q y.idx (removedRecord (queuePart s q) q y.idx y.w tag s)) s1)

/-- Does a node of a graph carry a tag? -/
def nodeTagged (g : GraphSt) (tag : BitVec 16) (n : Nat) : Bool := decide (pktTag (nodeOf g n) = tag) && decide (pktKind (nodeOf g n) ≠ 0)

/-- Does a node wait, or run a control that no task carries on? -/
def nodeIdle (g : GraphSt) (n : Nat) : Bool :=
  !resolved g n && (decide ((nodeSt g n).st = 0) || (decide ((nodeSt g n).st = 1) && decide (pktKind (nodeOf g n) ≠ 0x10)))

/-- A node that waits or runs is taken out of its graph: it counts as skipped. The body of a LOOP that runs ends its iteration. -/
def takeNode (n : Nat) (g : GraphSt) : GraphSt :=
  let es := if decide ((nodeSt g n).st = 1) && decide (0 < (nodeSt g n).iter) then listedBy (nodeOf g n) else edgesOf (nodeOf g n)
  sendMarks (es.map fun j => (j, false)) (updNode n (fun x => { x with st := 3 })
    (if pktKind (nodeOf g n) = 0x10 then noteBad n g else g))

/-- The record of a TASK node that a purge takes out. -/
def nodeRecord (g : GraphSt) (tag : BitVec 16) (s : State) (n : Nat) : State :=
  if pktKind (nodeOf g n) = 0x10 then removedRecord g.part g.q g.pkt (nth [] g.launches n) tag s else s

/-- A purge acts on one graph store: its nodes of the tag are taken out, and none of them runs again (R379). -/
def purgeGraph (i : Nat) (tag : BitVec 16) (s : State) : State :=
  match graphAt s i with
  | none => s
  | some g =>
    let mine := (upto g.nodes.length).filter (nodeTagged g tag)
    let out := mine.filter (nodeIdle g)
    updGraph i (fun g =>
        out.foldl (fun g n => takeNode n g)
          (mine.foldl (fun g n => updNode n (fun x => { x with gone := true }) g) { g with purged := g.purged || decide (g.tag = tag) }))
      (out.foldl (nodeRecord g tag) s)

/-- Does a spindle run a strand with a tag? -/
def runsTag (p : Spindle) (tag : BitVec 16) : Bool := (upto 4).any fun k => decide ((strandOf p k).run = .running) && decide ((strandOf p k).tag = tag)

/-- The strands of a task that a purge of a tag stops, as (logical spindle, strand, physical spindle), in order. -/
def purgedStrands (s : State) (t : Task) (tag : BitVec 16) : List (Nat × Nat × Nat) :=
  sortBy (fun a b => decide (a.1 * 4 + a.2.1 < b.1 * 4 + b.2.1)) (t.binding.flatMap fun x =>
    ((upto 4).filter fun k => ((strandAt s x.2 k).run = .running || (strandAt s x.2 k).run = .purged) && (strandAt s x.2 k).tag = tag).map fun k => (x.1, k, x.2))

/-- A strand that a purge stops. -/
def purgeStrand (st : Strand) : Strand :=
  if st.run = .running then { haltStrand st with run := .purged, trap := none, held := [], deposits := [] } else st

/-- Take the records of tags out of an engine queue. -/
def purgeEngine (c : Nat) (hit : Rec → Bool) (x : Queue) : Queue :=
  let keep := x.recs.filter fun r => !hit r
  let changed := match x.recs, keep with | r :: _, k :: _ => decide (r.seq ≠ k.seq) | _ :: _, [] => true | _, _ => false
  { x with
    recs := if changed then (match keep with | [] => [] | r :: rs => { r with headAt := max r.headAt (c + 1) } :: rs) else keep
    faulted := x.faulted && !changed
    done := x.done.filter fun d => !hit d.r }

/-- Take the records of tags out of the engine queues of a spindle; slots of removed RPUT records break, but for that of a FAULTED
head, which has (R292, R307). -/
def purgeEngines (n : Nat) (hit : Rec → Bool) (s : State) : State :=
  let p := spindleAt s n
  let out := (upto 5).flatMap fun q =>
    let x := queueAt p q
    ((if x.faulted then x.recs.drop 1 else x.recs) ++ x.done.map Done.r).filter hit
  let s1 := updSpindle n (fun p => (upto 5).foldl (fun p q => updQueue q (purgeEngine s.cycle hit) p) p) s
  out.foldl (fun s r => breakSlot n r s) s1

/-- A resident task is discarded by a purge: its strands and records stop, and its status keeps the first stopped strand. -/
def discardTask (id : Nat) (t : Task) (tag : BitVec 16) (s : State) : State :=
  let first := (purgedStrands s t tag).head?
  let dt := first.map fun x => ((strandAt s x.2.2 x.2.1).cause, (strandAt s x.2.2 x.2.1).epc, x.1, x.2.1)
  let s1 := t.binding.foldl (fun s x => purgeEngines x.2 (fun _ => true)
    (updSpindle x.2 (fun p => { (upto 4).foldl (fun p k => updStrandOf k purgeStrand p) p with stopping := false }) s)) s
  updTask id (fun t => { t with st := .resident, purged := some (t.purged.getD tag), purgeDt := t.purgeDt.or dt }) s1

/-- A purge acts on a task that is away: its saved records and bobbins of the tag go, and where it or a strand of it carries the
tag, it ends (R307, R340). -/
def purgeAway (id : Nat) (t : Task) (tag : BitVec 16) (s : State) : State :=
  let ends := decide (t.rqtag = tag) || t.saved.any fun x => runsTag x.2 tag
  let r := overSaved (fun n => purgeEngines n fun r => ends || decide (r.tag = tag)) t s
  let t1 := { r.1 with bobs := t.bobs.filter fun b => decide (b.tag ≠ tag) }
  if ends then finishTask id { t1 with purged := some tag } 2 r.2 else updTask id (fun _ => t1) r.2

/-- A purge acts on one task: a ready or pre-empted one of the tag ends, a resident one is discarded. -/
def purgeTask (id : Nat) (tag : BitVec 16) (s : State) : State :=
  match taskAt s id with
  | none => s
  | some t =>
    if t.st = .ready then (if t.rqtag = tag then finishTask id { t with purged := some tag } 2 s else s)
    else if t.st = .away then purgeAway id t tag s
    else if t.rqtag = tag ∨ !(purgedStrands s t tag).isEmpty then discardTask id t tag s
    else
      t.binding.foldl (fun s x => purgeEngines x.2 (fun r => decide (r.tag = tag)) s)
        (updTask id (fun t => { t with bobs := t.bobs.filter fun b => decide (b.tag ≠ tag) }) s)

/-- The tasks of a partition. -/
def tasksOf (s : State) (p : Nat) : List Nat := s.tasks.filterMap fun x => x.2.bind fun t => if t.part = p then some x.1 else none

/-- What a purge does to memory requests and bobbins of a tag (R307, R340). -/
def purgeFabric (p : Nat) (tag : BitVec 16) (s : State) : State :=
  let out := (usedBobbins s).filter fun x => decide (x.2.tag = tag) && decide (x.2.part = p)
  out.foldl (fun s x => setBobbin x.1 none s)
    { s with posted := s.posted.filter fun w => !(decide (w.tag = tag) && decide (w.part = p)) }

/-- Has every trap entry of a strand with the tag that has begun come to its end? At a stop point of the debugger none has (R340, R392). -/
def purgeReady (s : State) (p : Nat) (tag : BitVec 16) : Bool :=
  s.spindles.all fun x => decide (x.2.part ≠ p) || (upto 4).all fun k => decide ((strandOf x.2 k).tag ≠ tag) || (strandOf x.2 k).trap.isNone ||
    decide ((strandOf x.2 k).run ≠ .running) || (((strandOf x.2 k).atStop || decide ((strandOf x.2 k).hold = .launch)) && !x.2.stopping)

/-- A purge comes to its end: everything of the tag is gone, F.PURGE is set in an open attempt of the tag, and an aborted
attempt of the tag is over (R322, R340, R379). -/
def completePurge (p : Nat) (tag : BitVec 16) (s : State) : State :=
  let s1 := purgeFabric p tag s
  let s2 := (tasksOf s1 p).foldl (fun s t => purgeTask t tag s) s1
  let qs := (s2.queues.filter fun x => decide (x.2.bind.toNat % 64 = p) && x.2.bind.getLsbD 15).map (·.1)
  let s3 := qs.foldl (fun s q => purgeQueue q tag s) s2
  let gs := (s3.graphs.filter fun x => match x.2 with | some g => decide (g.part = p) | none => false).map (·.1)
  let s4 := castEarly (voteFlags tag fPurge (gs.foldl (fun s g => purgeGraph g tag s) s3))
  (upto 16).foldl (fun s c =>
      if (ctxAt s c).tag = tag ∧ groupPart s (ctxAt s c).grp = p ∧ !(ctxAt s c).isOpen then updCtx c (fun g => { g with purging := false }) s else s)
    { s4 with purges := s4.purges.filter (· ≠ (p, tag)) } |> releaseCtxs

/-- PURGE_COMPLETE (R340). -/
def execPurgeComplete (part : Nat) (tag : BitVec 16) (s : State) : Host.Outcome State Fault Refusal :=
  .next (if s.purges.contains (part, tag) ∧ purgeReady s part tag then completePurge part tag s else s)

end Sys2Proof.Machine
end

