-- ==== Sys2Proof/Machine/Whorl.lean ====
section
/-! DEFINITION. The Whorl: attach slots and their check, tenants, runs, and its 23 instructions (R380 to R389). -/

namespace Sys2Proof.Machine

/-! ### Attach slots (R382, R383) -/

/-- EN of a slot. -/
def Attach.en (a : Attach) : Bool := a.w0.getLsbD 63
/-- TENANT. -/
def Attach.tenant (a : Attach) : Nat := bits a.w0.toNat 50 6
/-- PSTART. -/
def Attach.pstart (a : Attach) : Nat := bits a.w0.toNat 15 11
/-- Program length. -/
def Attach.plen (a : Attach) : Nat := bits a.w0.toNat 9 6 + 1
/-- TBASE. -/
def Attach.tbase (a : Attach) : Nat := bits a.w1.toNat 29 15
/-- Table cells. -/
def Attach.tsize (a : Attach) : Nat := 2 ^ bits a.w1.toNat 44 4
/-- MAXC. -/
def Attach.maxc (a : Attach) : Nat := bits a.w1.toNat 4 9

/-- Program word `i`. -/
def progWord (w : Whorl) (i : Nat) : Nat := (SMap.get 0 w.prog i).toNat

/-- The words of a slot's program with their places, as far as the store goes. -/
def programOf (w : Whorl) (a : Attach) : List (Nat × Nat) :=
  ((upto a.plen).filter fun i => a.pstart + i < 2048).map fun i => (i, progWord w (a.pstart + i))

/-- The fields that an operation uses: D 8, A 4, B 2, IMM 1 (R387). -/
def whorlUses (op : Nat) : Nat :=
  nth 0 [0, 9, 9, 13, 7, 14, 13, 14, 14, 14, 14, 13, 13, 14, 14, 7, 7, 7, 7, 7, 5, 5, 6, 0] op

/-- Are the fields that a word does not use zero? -/
def whorlClean (x : Nat) : Bool :=
  let u := whorlUses (bits x 26 6)
  (bitOf u 3 || decide (bits x 22 4 = 0)) && (bitOf u 2 || decide (bits x 18 4 = 0)) && (bitOf u 1 || decide (bits x 14 4 = 0)) &&
    (bitOf u 0 || decide (bits x 0 14 = 0))

/-- Is the immediate of a word in its range? -/
def whorlRange (x : Nat) : Bool :=
  let op := bits x 26 6
  let imm := bits x 0 14
  (op ≠ 1 || decide (imm ≤ 5)) && ((op ≠ 0x0B && op ≠ 0x0C && op ≠ 0x15) || decide (imm ≤ 63))

/-- Is the branch at place `i` of a program of `n` words legal? -/
def whorlBranch (n : Nat) (x : Nat × Nat) : Bool :=
  let op := bits x.2 26 6
  decide (op < 0x0F) || decide (0x11 < op) || (decide (1 ≤ bits x.2 0 14) && decide (x.1 + bits x.2 0 14 ≤ n))

/-- Cost of a word (R387). -/
def whorlCost (x : Nat) : Nat := if bits x 26 6 = 0x13 then 4 else 1

/-- Cost of a slot's program. -/
def slotCost (w : Whorl) (a : Attach) : Nat := (programOf w a).foldl (fun c x => c + whorlCost x.2) 0

/-- Does the table of slot `i` meet that of another enabled slot? -/
def tableMeets (w : Whorl) (i : Nat) (a : Attach) : Bool :=
  (upto 32).any fun j => decide (j ≠ i) && (attachAt w j).en && rangesMeet a.tbase a.tsize (attachAt w j).tbase (attachAt w j).tsize

/-- BUDGET of a tenant. -/
def budgetOf (w : Whorl) (p : Nat) : Nat := bits (tenantWord w p 0) 0 20

/-- The number of the first check that slot `i` fails, 0 where it passes (R383). -/
def attachErr (w : Whorl) (i : Nat) (a : Attach) : Nat :=
  let ws := programOf w a
  let tap := bits a.w0.toNat 40 8
  let sk := bits a.w0.toNat 35 5
  if !(ws.all fun x => decide (1 ≤ bits x.2 26 6) && decide (bits x.2 26 6 ≤ 0x17)) then 1
  else if !(ws.all fun x => whorlClean x.2) then 2
  else if !(ws.all fun x => whorlRange x.2) then 3
  else if !(ws.all (whorlBranch a.plen)) then 4
  else if 2048 < a.pstart + a.plen then 5
  else if a.tbase % a.tsize ≠ 0 ∨ 32768 < a.tbase + a.tsize ∨ tableMeets w i a then 6
  else if budgetOf w a.tenant < slotCost w a then 7
  else if tap = 0 ∨ 0x0D < tap ∨ (19 < sk ∧ sk ≠ 31) then 8
  else if bitOf a.w0.toNat 62 && bitOf a.w0.toNat 61 then 9
  else 0

/-- The writable fields of word 0, EN left out. -/
def attachMask0 : Word := 0x60FC_FFFF_FFFF_FE00
/-- The writable fields of word 1. -/
def attachMask1 : Word := 0xFFFF_FFFF_FE00_0000

/-- Change slot `i`. -/
def updAttach (i : Nat) (f : Attach → Attach) (w : Whorl) : Whorl := { w with slots := SMap.set .start w.slots i (f (attachAt w i)) }

/-- A slot with a new word 0: with CTX = 0 its PRE and AWAY are 0 (R389). -/
def Attach.withWord0 (v : Word) (a : Attach) : Attach :=
  { a with w0 := v &&& attachMask0, w2 := if v.getLsbD 61 then a.w2 else a.w2 &&& 0xFFFF }

/-- A write of EN = 1 to slot `i`, which is not enabled: the check. -/
def enableSlot (i : Nat) (v : Word) (w : Whorl) : Whorl :=
  let a := (attachAt w i).withWord0 v
  let e := attachErr w i a
  let cost := if e = 0 then slotCost w a else a.maxc
  updAttach i (fun _ => { a with
    w0 := if e = 0 then a.w0 ||| 0x8000_0000_0000_0000 else a.w0
    w1 := (a.w1 &&& attachMask1) ||| BitVec.ofNat 64 (e * 2 ^ 20 + cost % 512 * 16) }) w

/-- A write of word 0 of slot `i` (R382). -/
def writeAttach0 (i : Nat) (v : Word) (w : Whorl) : Whorl :=
  if v.getLsbD 63 then (if (attachAt w i).en then w else enableSlot i v w)
  else updAttach i (fun a => { a.withWord0 v with queue := [] }) w

/-- ATTACH_SLOT_ENABLE (R383). -/
def execAttachSlotEnable (w slot : Nat) (v : Word) (s : State) : Host.Outcome State Fault Refusal :=
  .next (if w < 4 ∧ slot < 32 then updWhorl w (writeAttach0 slot (v ||| 0x8000_0000_0000_0000)) s else s)

/-- ATTACH_SLOT_DISABLE: EN becomes 0, and queued events are discarded (R382). -/
def execAttachSlotDisable (w slot : Nat) (s : State) : Host.Outcome State Fault Refusal :=
  .next (if w < 4 ∧ slot < 32 then
      updWhorl w (updAttach slot fun a => { a with w0 := a.w0 &&& 0x7FFF_FFFF_FFFF_FFFF, queue := [] }) s
    else s)

/-- A write of IRQSTS: each 1 clears its bit (R5, R382). -/
def clearIrqsts (w : Nat) (v : BitVec 32) (s : State) : State :=
  let old := (whorlAt s w).irqsts
  let r := softWrite (raceKey 4 w) (old.zeroExtend 64) ((old &&& ~~~v).zeroExtend 64) s
  updWhorl w (fun x => { x with irqsts := r.1.truncate 32 }) r.2

/-- The IRQ action of a slot sets its bit of IRQSTS (R5, R382). -/
def setIrqsts (w slot : Nat) (s : State) : State :=
  let r := hardWrite (raceKey 4 w) (BitVec.ofNat 64 (2 ^ slot)) ((whorlAt s w).irqsts.zeroExtend 64) (fun _ => BitVec.allOnes 64) s
  updWhorl w (fun x => { x with irqsts := r.1.truncate 32 }) r.2

/-- IRQSTS_CLEAR (R382). -/
def execIrqstsClear (w : Nat) (v : BitVec 32) (s : State) : Host.Outcome State Fault Refusal := .next (clearIrqsts w v s)

/-! ### Tenants (R385) -/

/-- A write of BUDGET: one that takes the sum of the tenants above 1,000,000 is ignored. -/
def writeBudget (p : Nat) (v : Word) (w : Whorl) : Whorl :=
  let b := bits v.toNat 0 20
  if 1000000 < ((upto 64).filter (· ≠ p)).foldl (fun a q => a + budgetOf w q) b then w
  else updTenant p 0 (fun x => BitVec.ofNat 64 (x.toNat / 2 ^ 20 * 2 ^ 20 + b)) w

/-- TENANT_BUDGET_WRITE (R385). -/
def execTenantBudgetWrite (w p : Nat) (v : Word) (s : State) : Host.Outcome State Fault Refusal :=
  .next (if w < 4 ∧ p < 64 then updWhorl w (writeBudget p v) s else s)

/-- USED of every tenant becomes 0. -/
def clearUsed (w : Whorl) : Whorl :=
  (upto 64).foldl (fun w p => updTenant p 0 (fun x => BitVec.ofNat 64 (bits x.toNat 0 20)) w) w

/-- BUDGET_WINDOW_RESET: at every tick that is a multiple of 1,000,000 (R385). -/
def execBudgetWindowReset (s : State) : Host.Outcome State Fault Refusal :=
  .next (if s.tick % 1000000 = 0 then { s with whorls := s.whorls.map fun x => (x.1, clearUsed x.2) } else s)

/-! ### Events and runs (R384) -/

/-- WHORL_EVENT_OFFER (R384). -/
def execWhorlEventOffer (e : TapEvent) (s : State) : Host.Outcome State Fault Refusal := .next (offerEvent e s)

/-- The slot that the round-robin serves next. -/
def nextRunSlot (w : Whorl) : Option Nat :=
  ((upto 32).map fun i => (w.last + 1 + i) % 32).find? fun i => (attachAt w i).en && !(attachAt w i).queue.isEmpty

/-- The head event of a slot leaves its queue: a run starts on it, or the budget drops it. -/
def startRun (d i : Nat) (s : State) : State :=
  let a := attachAt (whorlAt s d) i
  match a.queue with
  | [] => s
  | e :: es =>
    let s1 := updWhorl d (fun w => updAttach i (fun a => { a with queue := es }) { w with last := i }) s
    let t := tenantWord (whorlAt s d) a.tenant 0
    if bits t 24 20 + a.maxc ≤ bits t 0 20 then
      updWhorl d (fun w => { updTenant a.tenant 0 (fun x => x + BitVec.ofNat 64 (a.maxc * 2 ^ 24)) w with
        run := some { slot := i, ev := e, pc := a.pstart, regs := [], due := s.tick } }) s1
    else countDrop d a.tenant 32 s1

/-- WHORL_RUN_START (R384). -/
def execWhorlRunStart (w slot : Nat) (s : State) : Host.Outcome State Fault Refusal :=
  let x := whorlAt s w
  .next (if x.run.isNone ∧ x.next ≤ s.tick ∧ nextRunSlot x = some slot then startRun w slot s else s)

/-- Register `i` of a run. -/
def wreg (r : WRun) (i : Fin 16) : Word := SMap.get 0 r.regs i.val

/-- Write a register of a run. -/
def setWreg (i : Fin 16) (x : Word) (r : WRun) : WRun := { r with regs := SMap.set 0 r.regs i.val x }

/-- A run goes on at a program word after some ticks, or ends past the last word. A word takes its ticks also where it is the last of
its run. -/
def goOn (r : WRun) (pc ticks : Nat) (s : State) : State :=
  let a := attachAt (whorlAt s s.cur.whorl) r.slot
  updWhorl s.cur.whorl (fun w => { w with
    run := if a.pstart + a.plen ≤ pc then none else some { r with pc := pc, due := s.tick + ticks }
    next := s.tick + ticks }) s

/-- Act on the run of the Whorl in focus. -/
def withRun (k : WRun → State → State) (s : State) : State :=
  match (whorlAt s s.cur.whorl).run with
  | some r => k r s
  | none => s

/-- A word that writes register D. -/
def writeD (w : WW) (f : WRun → State → Word) (s : State) : State := withRun (fun r s => goOn (setWreg w.d (f r s) r) (r.pc + 1) 1 s) s

/-- The slot of the run of the Whorl in focus. -/
def runSlot (r : WRun) (s : State) : Attach := attachAt (whorlAt s s.cur.whorl) r.slot

/-- The number of Cell(x) of a slot (R386). -/
def cellAt (a : Attach) (x : Nat) : Nat := a.tbase + x % a.tsize

/-- Cell(x) of the run's slot. -/
def cellOf (r : WRun) (s : State) (x : Nat) : Word := SMap.get 0 (whorlAt s s.cur.whorl).cells (cellAt (runSlot r s) x)

/-- Write Cell(x). -/
def setCell (r : WRun) (x : Nat) (v : Word) (s : State) : State :=
  let i := cellAt (runSlot r s) x
  updWhorl s.cur.whorl (fun w => { w with cells := SMap.set 0 w.cells i v }) s

/-- Add to Cell(x), saturating. -/
def addCell (r : WRun) (x : Nat) (v : Word) (s : State) : State :=
  setCell r x (BitVec.ofNat 64 (min (2 ^ 64 - 1) ((cellOf r s x).toNat + v.toNat))) s

/-- IMM as a number. -/
def wwImm (w : WW) : Nat := w.imm.toNat
/-- IMM sign-extended. -/
def wwSigned (w : WW) : Word := signExtend w.imm.toNat 14

/-! ### The instructions (R387 to R389) -/

/-- Field `f` of an event. -/
def evField (e : TapEvent) (f : Nat) : Word := nth 0 [e.f0, e.f1, e.f2, e.f3, e.f4, e.f5] f

/-- LDE. -/
def execLde (w : WW) (s : State) : Host.Outcome State Fault Refusal := .next (writeD w (fun r _ => evField r.ev (wwImm w)) s)
/-- LDI. -/
def execLdi (w : WW) (s : State) : Host.Outcome State Fault Refusal := .next (writeD w (fun _ _ => wwSigned w) s)
/-- LDT. -/
def execLdt (w : WW) (s : State) : Host.Outcome State Fault Refusal :=
  .next (writeD w (fun r s => cellOf r s ((wreg r w.a).toNat + wwImm w)) s)
/-- STT. -/
def execStt (w : WW) (s : State) : Host.Outcome State Fault Refusal :=
  .next (withRun (fun r s => goOn r (r.pc + 1) 1 (setCell r ((wreg r w.a).toNat + wwImm w) (wreg r w.b) s)) s)
/-- ADD of the Whorl. -/
def execWhorlAdd (w : WW) (s : State) : Host.Outcome State Fault Refusal := .next (writeD w (fun r _ => wreg r w.a + wreg r w.b) s)
/-- ADDI of the Whorl. -/
def execWhorlAddi (w : WW) (s : State) : Host.Outcome State Fault Refusal := .next (writeD w (fun r _ => wreg r w.a + wwSigned w) s)
/-- SUB of the Whorl. -/
def execWhorlSub (w : WW) (s : State) : Host.Outcome State Fault Refusal := .next (writeD w (fun r _ => wreg r w.a - wreg r w.b) s)
/-- AND of the Whorl. -/
def execWhorlAnd (w : WW) (s : State) : Host.Outcome State Fault Refusal := .next (writeD w (fun r _ => wreg r w.a &&& wreg r w.b) s)
/-- OR of the Whorl. -/
def execWhorlOr (w : WW) (s : State) : Host.Outcome State Fault Refusal := .next (writeD w (fun r _ => wreg r w.a ||| wreg r w.b) s)
/-- XOR of the Whorl. -/
def execWhorlXor (w : WW) (s : State) : Host.Outcome State Fault Refusal := .next (writeD w (fun r _ => wreg r w.a ^^^ wreg r w.b) s)
/-- SHL of the Whorl. -/
def execWhorlShl (w : WW) (s : State) : Host.Outcome State Fault Refusal := .next (writeD w (fun r _ => wreg r w.a <<< (wwImm w)) s)
/-- SHR of the Whorl. -/
def execWhorlShr (w : WW) (s : State) : Host.Outcome State Fault Refusal := .next (writeD w (fun r _ => wreg r w.a >>> (wwImm w)) s)
/-- MIN of the Whorl. -/
def execWhorlMin (w : WW) (s : State) : Host.Outcome State Fault Refusal :=
  .next (writeD w (fun r _ => if wreg r w.a ≤ wreg r w.b then wreg r w.a else wreg r w.b) s)
/-- MAX of the Whorl. -/
def execWhorlMax (w : WW) (s : State) : Host.Outcome State Fault Refusal :=
  .next (writeD w (fun r _ => if wreg r w.a ≤ wreg r w.b then wreg r w.b else wreg r w.a) s)

/-- A branch: IMM words on where the test holds, else the next word. -/
def branchWord (w : WW) (test : Word → Word → Bool) (s : State) : State :=
  withRun (fun r s => goOn r (if test (wreg r w.a) (wreg r w.b) then r.pc + wwImm w else r.pc + 1) 1 s) s

/-- BEQ. -/
def execBeq (w : WW) (s : State) : Host.Outcome State Fault Refusal := .next (branchWord w (fun a b => decide (a = b)) s)
/-- BNE. -/
def execBne (w : WW) (s : State) : Host.Outcome State Fault Refusal := .next (branchWord w (fun a b => decide (a ≠ b)) s)
/-- BLT. -/
def execBlt (w : WW) (s : State) : Host.Outcome State Fault Refusal := .next (branchWord w (fun a b => decide (a < b)) s)

/-- LogBin (R388). -/
def logBin (a : Word) : Nat := if a = 0 then 0 else 64 - leadingZeros a.toNat 64

/-- HBIN. -/
def execHbin (w : WW) (s : State) : Host.Outcome State Fault Refusal :=
  .next (withRun (fun r s => goOn r (r.pc + 1) 1 (addCell r (wwImm w + logBin (wreg r w.a)) (wreg r w.b) s)) s)

/-- CMS: four ticks. -/
def execCms (w : WW) (s : State) : Host.Outcome State Fault Refusal :=
  .next (withRun (fun r s => goOn r (r.pc + 1) 4 ((upto 4).foldl (fun s i =>
    addCell r (wwImm w + 256 * i + (twistWord 0 (BitVec.ofNat 32 i) (wreg r w.a).toNat 0).toNat % 256) (wreg r w.b) s) s)) s)

/-- HLL. -/
def execHll (w : WW) (s : State) : Host.Outcome State Fault Refusal :=
  .next (withRun (fun r s =>
    let h0 := (twistWord 0 4 (wreg r w.a).toNat 0).toNat
    let h1 := (twistWord 0 4 (wreg r w.a).toNat 1).toNat
    let rho := leadingZeros (h1 * 2 ^ 24 + h0 / 256) 56 + 1
    let x := wwImm w + h0 % 256
    goOn r (r.pc + 1) 1 (setCell r x (BitVec.ofNat 64 (max (cellOf r s x).toNat rho)) s)) s)

/-- The physical spindle of an event; none with NOSPN = 1. -/
def evSpindle (e : TapEvent) : Option Nat := if bitOf e.f1.toNat 25 then none else some (bits e.f1.toNat 15 10)

/-- TACT bit `i` of a slot. -/
def Attach.acts (a : Attach) (i : Nat) : Bool := bitOf a.w1.toNat (25 + i)

/-- Set a bit of a spindle's signal word. -/
def Spindle.signal (id : Nat) (p : Spindle) : Spindle := { p with whorlSig := p.whorlSig ||| BitVec.ofNat 64 (2 ^ id) }

/-- Set a bit of the signal word of the event's task on the event's spindle: where the task runs now, or in what pre-emption has
saved of it. -/
def signalSpindle (e : TapEvent) (id : Nat) (s : State) : State :=
  match evSpindle e, e.task with
  | some _, some (t, l) =>
    let s1 := updTask t (fun x => { x with saved := x.saved.map fun y => if y.1 = l then (l, y.2.signal id) else y }) s
    match (taskAt s t).bind fun x => x.binding.find? fun b => b.1 = l with
    | some b => if (spindleAt s b.2).task = some t then updSpindle b.2 (Spindle.signal id) s1 else s1
    | none => s1
  | _, _ => s

/-- DSTOP stops the event's spindle where BKEN = 1. -/
def stopEvent (e : TapEvent) (s : State) : State :=
  match evSpindle e with
  | some n => if (spindleAt s n).dbg.bken then stopRequest n 3 0 s else s
  | none => s

/-- The actions of TRIG (R388). -/
def trigActions (r : WRun) (id : Nat) (s : State) : State :=
  let a := runSlot r s
  let d := s.cur.whorl
  let s1 := updWhorl d (updAttach r.slot fun a => { a with w2 := bumpField 0 a.w2 }) s
  let s2 := if a.acts 0 then raiseVector 0 (1 + d) (setIrqsts d r.slot s1) else s1
  let s3 := if a.acts 1 then signalSpindle r.ev id s2 else s2
  let s4 := if a.acts 2 then hardTenant d a.tenant 3 2 (fun x => x ||| 2) s3 else s3
  if a.acts 3 then stopEvent r.ev s4 else s4

/-- TRIG. -/
def execTrig (w : WW) (s : State) : Host.Outcome State Fault Refusal :=
  .next (withRun (fun r s => goOn r (r.pc + 1) 1 (if wreg r w.a ≠ 0 then trigActions r (wwImm w) s else s)) s)

/-- The record of an EMIT (R389). -/
def emitRecord (tick slot : Nat) (a : Attach) (x y : Word) : List Word :=
  [BitVec.ofNat 64 tick, BitVec.ofNat 64 (bits a.w2.toNat 63 1 * 2 ^ 63 + slot * 2 ^ 58 + bits a.w2.toNat 16 47), x, y]

/-- EMIT: the capture window ends. -/
def execEmit (w : WW) (s : State) : Host.Outcome State Fault Refusal :=
  .next (withRun (fun r s =>
    let a := runSlot r s
    let d := s.cur.whorl
    let s1 := ringPut d a.tenant 2 4 16 (emitRecord s.tick r.slot a (wreg r w.a) (wreg r w.b)) s
    goOn r (r.pc + 1) 1 (updWhorl d (updAttach r.slot fun a => { a with w2 := a.w2 &&& 0xFFFF }) s1)) s)

/-- EXIT ends the run. -/
def execExit (_w : WW) (s : State) : Host.Outcome State Fault Refusal :=
  .next (withRun (fun _ s => updWhorl s.cur.whorl (fun x => { x with run := none, next := s.tick + 1 }) s) s)

/-! ### Capture windows (R389) -/

/-- Is a slot's task pre-empted, and none of it resident? -/
def slotAway (s : State) (a : Attach) : Bool :=
  let mine := fun (t : Task) => decide (t.part = a.tenant) && decide (t.rqtag.toNat = bits a.w1.toNat 48 16)
  bitOf a.w0.toNat 61 &&
    s.tasks.any (fun x => match x.2 with | some t => mine t && (decide (t.st = .away) || decide (t.st = .restoring)) | none => false) &&
    !s.tasks.any fun x => match x.2 with | some t => mine t && (decide (t.st = .resident) || decide (t.st = .stopping)) | none => false

/-- AWAY grows by a tick, saturating. -/
def countAway (a : Attach) : Attach :=
  if bits a.w2.toNat 16 47 = 2 ^ 47 - 1 then a else { a with w2 := a.w2 + 0x1_0000 }

/-- A tick passes for the capture windows of every Whorl. -/
def awayTick (s : State) : State :=
  if s.whorls.isEmpty then s
  else
    let f := fun (a : Attach) => if slotAway s a then countAway a else a
    { s with whorls := s.whorls.map fun w => (w.1, { w.2 with slots := w.2.slots.map fun a => (a.1, f a.2) }) }

/-- One package tick. -/
def oneTick (s : State) : State :=
  let s1 := awayTick { s with tick := s.tick + 1 }
  match execBudgetWindowReset s1 with
  | .next t => t
  | _ => s1

end Sys2Proof.Machine
end

