-- ==== Sys2Proof/Machine/Device.lean ====
section
/-! DEFINITION. The device: host accesses, registers, partitions and their invalidation, power, start, service, the mailbox,
and the RESYNC summary (R5, R222, R326 to R328, R369, R400 to R417). -/

namespace Sys2Proof.Machine

/-! ### Words of the device block (R402, R411, R416) -/

/-- Change the device block. -/
def updDev (f : Device → Device) (s : State) : State := { s with dev := f s.dev }

/-- DEVSTS (R411). -/
def devsts (d : Device) : Word :=
  BitVec.ofNat 64 (d.stage * 2 ^ 60 + d.svc * 2 ^ 58 + b2n d.lock * 2 ^ 57 + d.fail * 2 ^ 48 + d.dieok.toNat * 2 ^ 44 + d.hbmok.toNat * 2 ^ 32)

/-- The power words (R416). -/
def powerWords (d : Device) : List Word :=
  [BitVec.ofNat 64 d.plimset, BitVec.ofNat 64 (plim d), BitVec.ofNat 64 d.pnow, BitVec.ofNat 64 d.icore, BitVec.ofNat 64 d.ipeak,
   BitVec.ofNat 64 d.throt]

/-- The byte of VFMAP for function `fn` from 1 on. -/
def vfByte (s : State) (fn : Nat) : Nat := (SMap.get 0 s.dev.vfmap (fn - 1)).toNat

/-- Is a function an enabled VF? -/
def vfOn (s : State) (fn : Nat) : Bool := decide (1 ≤ fn) && decide (fn ≤ 96) && bitOf (vfByte s fn) 7

/-- The partition of a VF. -/
def vfPart (s : State) (fn : Nat) : Nat := vfByte s fn % 64

/-- Eight bytes of VFMAP from byte `i` on. -/
def vfmapWord (s : State) (i : Nat) : Word := BitVec.ofNat 64 (ofBytes ((upto 8).map fun j => SMap.get 0 s.dev.vfmap (i + j)))

/-- A word of the device block. -/
def blockWord (s : State) (off : Nat) : Word :=
  if off = 0 then devsts s.dev
  else if off = 8 then s.dev.devcap
  else if off = 0x10 then s.dev.apbase
  else if off = 0x18 then BitVec.ofNat 64 s.dev.timectl
  else if 0x100 ≤ off ∧ off < 0x160 then vfmapWord s (off - 0x100)
  else if 0x200 ≤ off ∧ off < 0x230 then nth 0 (powerWords s.dev) ((off - 0x200) / 8)
  else 0

/-! ### Partitions (R403) -/

/-- Resident tasks of a partition. -/
def nres (s : State) (p : Nat) : Nat :=
  (s.tasks.filter fun x => match x.2 with | some t => decide (t.part = p) && decide (t.st ≠ .ready) && decide (t.st ≠ .away) | none => false).length

/-- The queues bound to a partition. -/
def boundQueues (s : State) (p : Nat) : List (Nat × CmdQ) := s.queues.filter fun x => x.2.bind.getLsbD 15 && decide (x.2.bind.toNat % 64 = p)

/-- Word 12: REFW, NSTOP, NRES. -/
def statusWord (s : State) (p : Nat) : Word :=
  BitVec.ofNat 64 (bits (partWord s p 12) 48 16 * 2 ^ 48 + ((boundQueues s p).filter fun x => x.2.state = 2).length % 2 ^ 16 * 2 ^ 32 + nres s p % 2 ^ 32)

/-- A word of a partition entry as it reads. -/
def entryWord (s : State) (p i : Nat) : Word :=
  if i = 12 then statusWord s p
  else if i = 10 then BitVec.ofNat 64 (partWord s p 10 % 2 ^ 63 + b2n (partAt s p).go * 2 ^ 63)
  else if i < 16 then BitVec.ofNat 64 (partWord s p i) else 0

/-- Count a refused write of the host (R222, R328, R401). -/
def countRefused (p : Nat) (s : State) : State :=
  { s with parts := SMap.modify .start s.parts p fun x => { x with w := SMap.modify 0 x.w 12 (bumpField 48) } }

/-- Is a partition locked: has it a resident task or an enabled queue? -/
def partLocked (s : State) (p : Nat) : Bool := decide (nres s p ≠ 0) || (boundQueues s p).any fun x => x.2.d0.getLsbD 0

/-- The skeins of two words. -/
def skeinMask (l h : Nat) : Nat := l + h % 2 ^ 16 * 2 ^ 64

/-- May a partition be enabled: are its skeins its own, and none disabled? -/
def mayEnable (s : State) (p : Nat) : Bool :=
  let mine := skeinMask (partWord s p 1) (partWord s p 2)
  (upto 64).all (fun q => decide (q = p) || !bitOf (partWord s q 0) 63 || decide (mine &&& skeinMask (partWord s q 1) (partWord s q 2) = 0)) &&
    (upto 80).all fun k => !bitOf mine k || !(SMap.get false s.dev.skeinsOff k)

/-- Word 0 as a write leaves it. -/
def entryWord0 (s : State) (p v : Nat) : Nat :=
  let old := partWord s p 0
  let en := if partLocked s p then bitOf old 63 else bitOf v 63 && mayEnable s p
  let agelim := if bits v 48 8 = 0 then bits old 48 8 else bits v 48 8
  let bage := if bits v 32 16 < 16 then bits old 32 16 else bits v 32 16
  b2n en * 2 ^ 63 + agelim * 2 ^ 48 + bage * 2 ^ 32 + v % 16

/-- The writable bits of words 1 to 14 of an entry. -/
def entryMask (i : Nat) : Nat :=
  nth 0 [0, 2 ^ 64 - 1, 0xFFFF, 0xF_FFFF_FFFF_F000, 0x01FF_FFFF_FFFF_FFF8, 0x01FF_FFFF_FF80_0000, 0x01FF_FFFF_FFFF_FF01, 0xFFFF_FFFF,
    0xF_FFFF_FFE0_0000, 0x01FF_FFF0_0000_0000, 0x01FF_FFFF_FFFF_0000, 0xFFFF_FFFF, 0, 0xFF_C000_0000, 0xFF_C000_0000] i

/-- The words that a lock protects whole: SKEINL, SKEINH, PTROOT, DEVVA, TWINOFF, APVA, MEMLO, MEMHI. -/
def lockedWord (i : Nat) : Bool := [1, 2, 3, 5, 8, 9, 13, 14].contains i

/-- Set a word of a partition entry. -/
def setEntry (p i v : Nat) (s : State) : State :=
  { s with parts := SMap.modify .start s.parts p fun x => { x with w := SMap.set 0 x.w i (BitVec.ofNat 64 v) } }

/-- First address of the range that an invalidation names. -/
def invLo (s : State) (p : Nat) : Nat := bits (partWord s p 10) 16 41 * 2 ^ 16
/-- The address past it. -/
def invHi (s : State) (p : Nat) : Nat := invLo s p + bits (partWord s p 11) 0 32 * 2 ^ 16

/-- A write of word 10: INVVA, and with GO = 1 an invalidation, complete at once where INVN is 0 (R405). -/
def writeGo (p : Nat) (v : Word) (s : State) : State :=
  if (partAt s p).go then s
  else
    let s1 := setEntry p 10 (v.toNat &&& entryMask 10) s
    if !v.getLsbD 63 ∨ bits (partWord s1 p 11) 0 32 = 0 then s1
    else clearHandles p (invLo s1 p) (invHi s1 p) { s1 with parts := SMap.modify .start s1.parts p fun x => { x with go := true } }

/-- INVALIDATE_GO (R405). -/
def execInvalidateGo (p : Nat) (v : Word) (s : State) : Host.Outcome State Fault Refusal := .next (if p < 64 then writeGo p v s else s)

/-- Does an access of `n` bytes at an address meet a range? -/
def accessMeets (lo hi : Nat) (va : Word) (n : Nat) : Bool := decide (va.toNat < hi) && decide (lo < va.toNat + n)

/-- Has a strand an access or a TRANS under way in a range? -/
def strandBusyIn (lo hi : Nat) (st : Strand) : Bool :=
  (match st.mem with
    | some m => !m.ready && ((m.reqs.any fun r => accessMeets lo hi r.2.1 r.2.2) || m.image.any fun i => accessMeets lo hi (BitVec.ofNat 64 i.1) ctxBytes)
    | none => false) || st.handles.any fun d => d.killed

/-- Has a record a read under way through a handle of a range? -/
def recBusyIn (lo hi : Nat) (r : Rec) : Bool :=
  r.sent && r.data.isNone && r.handles.any fun h => decide (hBase h.2 < hi) && decide (lo < hBase h.2 + hSize h.2)

/-- Is a block of a range being filled? -/
def blockFillsIn (lo hi : Nat) (b : Block) : Bool := decide (b.st = .filling) && accessMeets lo hi b.va (128 * b.lines)

/-- Is everything over that an invalidation waits for? (R179) -/
def invalidated (s : State) (p : Nat) : Bool :=
  let lo := invLo s p
  let hi := invHi s p
  !(s.posted.any fun w => decide (w.part = p) && accessMeets lo hi w.va w.data.length) &&
    s.spindles.all fun x => decide (x.2.part ≠ p) ||
      ((upto 4).all (fun k => !strandBusyIn lo hi (strandOf x.2 k)) && (upto 16).all (fun b => !blockFillsIn lo hi (blockAt x.2 b)) && (upto 5).all fun q => (queueRecs (queueAt x.2 q)).all fun r => !recBusyIn lo hi r)

/-- INVALIDATION_COMPLETE (R405). -/
def execInvalidationComplete (p : Nat) (s : State) : Host.Outcome State Fault Refusal :=
  .next (if (partAt s p).go ∧ invalidated s p then { s with parts := SMap.modify .start s.parts p fun x => { x with go := false } } else s)

/-- A write of a word of a partition entry (R403). -/
def writeEntry (p i : Nat) (v : Word) (s : State) : State :=
  if i = 0 then setEntry p 0 (entryWord0 s p v.toNat) s
  else if i = 10 then writeGo p v s
  else if i = 12 ∨ 14 < i ∨ (lockedWord i && partLocked s p) ∨ (i = 11 ∧ (partAt s p).go) then s
  else if i = 7 then setEntry p 7 (partWord s p 7 / 2 ^ 32 * 2 ^ 32 + v.toNat % 2 ^ 32) s
  else setEntry p i (v.toNat &&& entryMask i) s

/-- PARTITION_ENTRY_WRITE (R403). -/
def execPartitionEntryWrite (p word : Nat) (v : Word) (s : State) : Host.Outcome State Fault Refusal :=
  .next (if p < 64 then writeEntry p word v s else s)

/-! ### Queue bindings, step groups, ports (R402, R406, R408) -/

/-- A queue binding as a write leaves it: BV stays 0 where a VF is not that of the partition. -/
def bindingWord (s : State) (v : BitVec 16) : BitVec 16 :=
  let fn := bits v.toNat 8 7
  let ok := decide (fn = 0) || (decide (fn ≤ 96) && decide (vfPart s fn = v.toNat % 64))
  if ok then v &&& 0xFF3F else v &&& 0x7F3F

/-- Bind a queue; PRIVQ is for queues of function 0. -/
def bindQueue (q : Nat) (v : BitVec 16) (s : State) : State :=
  if (cmdqAt s q).d0.getLsbD 0 then s
  else
    let b := bindingWord s v
    updCmdq q (fun x => { x with bind := b, d0 := if b.getLsbD 15 && decide (bits b.toNat 8 7 = 0) then x.d0 else x.d0 &&& ~~~(4 : Word) }) s

/-- QUEUE_BINDING_WRITE (R402). -/
def execQueueBindingWrite (q : Nat) (v : BitVec 16) (s : State) : Host.Outcome State Fault Refusal :=
  .next (if q < 1024 then bindQueue q v s else s)

/-- The writable bits of a word of a step-group entry. -/
def groupMask (i : Nat) : Nat := nth 0 [0x803F_FFFF_7FFF_00FF, 0x7FFF, 0x7FFF_7FFF_7FFF_7FFF, 0x7FFF_7FFF_7FFF_7FFF, 0xF_FFFF_FFFF_F000] i

/-- Is a valid step-group entry in use: by a resident task, or by a context? -/
def groupLocked (s : State) (e : Nat) : Bool :=
  let g := bits (groupWord s e 0) 32 16
  bitOf (groupWord s e 0) 63 && ((groupTasks s g).any (fun t => decide (t.st ≠ .away)) || (groupCtx s g).isSome)

/-- May an entry become valid with a word 0? -/
def groupLegal (s : State) (e v : Nat) : Bool :=
  decide (bits v 4 4 ≤ 8) && decide (bits v 0 4 ≤ 5) &&
    !(upto 16).any fun x => decide (x ≠ e) && bitOf (groupWord s x 0) 63 && decide (bits (groupWord s x 0) 32 16 = bits v 32 16)

/-- A write of a word of a step-group entry. -/
def writeGroup (e i : Nat) (v : Word) (s : State) : State :=
  if groupLocked s e then s
  else
    let n := v.toNat &&& groupMask i
    let n1 := if i = 0 ∧ bitOf n 63 ∧ !groupLegal s e n then n % 2 ^ 63 else n
    { s with groups := SMap.modify [] s.groups e fun x => SMap.set 0 x i (BitVec.ofNat 64 n1) }

/-- STEP_GROUP_ENTRY_WRITE (R406). -/
def execStepGroupEntryWrite (e word : Nat) (v : Word) (s : State) : Host.Outcome State Fault Refusal :=
  .next (if e < 16 ∧ word < 8 then writeGroup e word v s else s)

/-! ### Host accesses (R326, R328, R401) -/

/-- Bytes that a read of device physical memory returns; a hole of the address space faults. -/
def readPa (s : State) (pa n : Nat) : Except Nat (List Byte) :=
  match (upto n).find? fun i => !paExists (pa + i) with
  | some i => .error (pa + i)
  | none => .ok (homeBytes s none pa n)

/-- The partitions whose open attempts refuse a byte of a write of the host. -/
def refusingParts (s : State) (pa n : Nat) : List Nat :=
  (((lineStarts pa n).filter (refuses s none)).filterMap fun a => (vpageAt s a).map fun v => groupPart s (ctxAt s v.ctx).grp).eraseDups

/-- Write device physical memory; versioned pages of an open attempt refuse the write, which counts for their partitions (R328). -/
def writePa (pa : Nat) (bs : List Byte) (s : State) : Except Nat State :=
  match (upto bs.length).find? fun i => !paExists (pa + i) with
  | some i => .error (pa + i)
  | none =>
    if refusesAny s none pa bs.length then
      .ok ((refusingParts s pa bs.length).foldl (fun s p => countRefused p s) s)
    else .ok (outsideWrite (hostAgent 0) false none pa bs s)

/-- The virtual address behind an offset of a VF's aperture. -/
def apertureVa (s : State) (p off : Nat) : Nat := bits (partWord s p 9) 36 21 * 2 ^ 36 + off % 2 ^ 36

/-- Read a piece of a page through a VF's aperture: all ones, and a count, where the walk finds nothing. -/
def readAperture (p va n : Nat) (s : State) : List Byte × State :=
  match translate s p va with
  | some x =>
    if x.dev then (devBytes s p (devOff va) n, s)
    else if x.nr then (List.replicate n 0xFF, countRefused p s)
    else (homeBytes s none (x.pa + va % x.size) n, s)
  | none => (List.replicate n 0xFF, countRefused p s)

/-- Write a piece of a page through the aperture of function `fn`. -/
def writeAperture (fn p va : Nat) (bs : List Byte) (s : State) : State :=
  match translate s p va with
  | some x =>
    if x.dev then
      match devStore p (bs.length + 1) (devOff va) bs s with
      | .ok s1 => s1
      | .error _ => countRefused p s
    else if x.nr || !x.wr || refusesAny s none (x.pa + va % x.size) bs.length then countRefused p s
    else outsideWrite (hostAgent fn) false none (x.pa + va % x.size) bs s
  | none => countRefused p s

/-- Read a range through a VF's aperture, page by page. -/
def readVf (p va n : Nat) (s : State) : List Byte × State :=
  (pagePieces (n / 2 ^ 16 + 2) va n).foldl (fun a x => let r := readAperture p x.1 x.2 a.2; (a.1 ++ r.1, r.2)) ([], s)

/-- Write a range through the aperture of function `fn`, page by page. -/
def writeVf (fn p va : Nat) (bs : List Byte) (s : State) : State :=
  ((pagePieces (bs.length / 2 ^ 16 + 2) va bs.length).foldl (fun (a : List Byte × State) x =>
    (a.1.drop x.2, writeAperture fn p x.1 (a.1.take x.2) a.2)) (bs, s)).2

/-- Does a notify page or a page of the object window belong to a VF? -/
def vfPage (s : State) (fn off : Nat) : Bool :=
  if off < 2 ^ 22 then
    (cmdqAt s (off / 4096)).bind.getLsbD 15 && decide (bits (cmdqAt s (off / 4096)).bind.toNat 8 7 = fn)
  else decide ((off - 2 ^ 22) / 4096 < 640) && inPartition s (vfPart s fn) ((off - 2 ^ 22) / 4096)

/-- A word of a VF's BAR0. -/
def vfWord (s : State) (fn off : Nat) : Word := if vfPage s fn off then devWord s (vfPart s fn) off else 0

/-- The host stores a word in a VF's BAR0: what is refused counts. -/
def vfStore (fn off : Nat) (v : Word) (s : State) : State :=
  if !vfOn s fn || !vfPage s fn off then s
  else
    match devStoreWord (vfPart s fn) off v s with
    | .ok s1 => s1
    | .error _ => countRefused (vfPart s fn) s

/-- OBJECT_WINDOW_SEMAPHORE_STORE (R222). -/
def execObjectWindowSemaphoreStore (fn sp k : Nat) (v : Word) (s : State) : Host.Outcome State Fault Refusal :=
  .next (if sp < 640 ∧ k < 64 then vfStore fn (2 ^ 22 + 4096 * sp + 8 * k) v s else s)

/-- OBJECT_WINDOW_SPOOL_STORE (R222): `half` 0 is the descriptor, 1 the state word. -/
def execObjectWindowSpoolStore (fn sp n half : Nat) (v : Word) (s : State) : Host.Outcome State Fault Refusal :=
  .next (if sp < 640 ∧ n < 16 ∧ half < 2 then vfStore fn (2 ^ 22 + 4096 * sp + 0x200 + 32 * n + 8 * half) v s else s)

/-- OBJECT_WINDOW_PHASER_STORE (R222): `off` 0 is PHASE, what follows is ignored. -/
def execObjectWindowPhaserStore (fn sp n off : Nat) (v : Word) (s : State) : Host.Outcome State Fault Refusal :=
  .next (if sp < 640 ∧ n < 16 ∧ off < 32 then vfStore fn (2 ^ 22 + 4096 * sp + 0x400 + 32 * n + off / 8 * 8) v s else s)

/-! ### Registers of the physical function (R401) -/

/-- The mailbox bytes of a word at an offset of the data area. -/
def mboxWord (s : State) (i : Nat) : Word := BitVec.ofNat 64 (ofBytes (SMap.getList 0 s.dev.mbox i 8))

/-- A word of a debug page: the images of the strands stand there while STATE is STOPPED (R120, R390, R394, R395). -/
def debugWord (p : Spindle) (off : Nat) : Word :=
  let d := p.dbg
  let k := (off - 0x1_0000) / ctxBytes
  if 0x1_0000 ≤ off then
    (if k < 4 ∧ d.state = 2 then BitVec.ofNat 64 (imgWord (wholeImage k p (strandOf p k)) ((off - 0x1_0000) % ctxBytes)) else 0)
  else if off = 0 then dbgctlWord d
  else if off = 8 then d.scopecnt
  else if off = 0x10 then d.scopeadr
  else if 0x100 ≤ off ∧ off < 0x220 then BitVec.ofNat 64 (SMap.get 0 d.acct ((off - 0x100) / 8))
  else if 0x220 ≤ off ∧ off < 0x420 then BitVec.ofNat 64 (SMap.get 0 d.semk ((off - 0x220) / 8))
  else 0

/-- A word of the window of Whorl `d`. -/
def whorlWord (s : State) (d off : Nat) : Word :=
  let w := whorlAt s d
  if off < 0x400 then
    let a := attachAt w (off / 32)
    nth 0 [a.w0, a.w1, a.w2, 0] (off % 32 / 8)
  else if off = 0x400 then w.irqsts.zeroExtend 64
  else if 0x1000 ≤ off ∧ off < 0x2000 then BitVec.ofNat 64 (tenantWord w ((off - 0x1000) / 64) (off % 64 / 8))
  else if 0x2000 ≤ off ∧ off < 0x4000 then
    let i := (off - 0x2000) / 4
    BitVec.ofNat 64 (progWord w i + progWord w (i + 1) * 2 ^ 32)
  else if 0x1_0000 ≤ off ∧ off < 0x5_0000 then SMap.get 0 w.cells ((off - 0x1_0000) / 8)
  else if 0x10_0000 ≤ off ∧ (off - 0x10_0000) / 2 ^ 18 < 160 then
    debugWord (spindleAt s (160 * d + (off - 0x10_0000) / 2 ^ 18)) ((off - 0x10_0000) % 2 ^ 18)
  else 0

/-- The 8-byte word at an offset of the PF's BAR0. -/
def regWord (s : State) (off : Nat) : Word :=
  if off < 0x1_0000 then blockWord s off
  else if off < 0x1_4000 then entryWord s ((off - 0x1_0000) / 256) (off % 256 / 8)
  else if off < 0x1_8000 then
    let x := cmdqAt s ((off - 0x1_4000) / 16)
    if off % 16 / 8 = 0 then x.d0 else x.d1
  else if off < 0x1_8800 then
    let q := (off - 0x1_8000) / 2
    BitVec.ofNat 64 ((upto 4).foldl (fun a i => a + (cmdqAt s (q + i)).bind.toNat * 2 ^ (16 * i)) 0)
  else if off < 0x1_8C00 then BitVec.ofNat 64 (groupWord s ((off - 0x1_8800) / 64) (off % 64 / 8))
  else if off < 0x1_8CA0 then BitVec.ofNat 64 (b2n (portAt s ((off - 0x1_8C00) / 8)).en * 2 ^ 63)
  else if off < 0x2_0000 then 0
  else if off < 0x3_0000 then
    if off = 0x2_0000 then s.dev.mboxCmd
    else if off = 0x2_0008 then BitVec.ofNat 64 s.dev.mboxSts
    else if off = 0x2_0010 then s.dev.mboxArg
    else if 0x2_0040 ≤ off then mboxWord s (off - 0x2_0040) else 0
  else if 0x400_0000 ≤ off ∧ off < 0x440_0000 then
    let x := cmdqAt s ((off - 0x400_0000) / 4096)
    if off % 4096 / 8 = 0 then x.wptr else if off % 4096 / 8 = 1 then qstsWord x else 0
  else if 0x1000_0000 ≤ off ∧ off < 0x2000_0000 then whorlWord s ((off - 0x1000_0000) / 2 ^ 26) (off % 2 ^ 26)
  else 0

/-- Bytes of a register space given by its words. -/
def spaceBytes (f : Nat → Word) (off n : Nat) : List Byte := (upto n).map fun i => nth 0 (toBytes (f ((off + i) / 8 * 8)).toNat 8) ((off + i) % 8)

/-- HOST_MEMORY_READ (R326, R401). Function 0 reads device memory through BAR2 below 2^36 and its registers above; another
function its partition's addresses below 2^36 and its BAR0 above. -/
def execHostMemoryRead (fn addr n : Nat) (s : State) : Host.Outcome State Fault Refusal :=
  let put := fun (bs : List Byte) (s : State) => updDev (fun d => { d with hostRead := bs }) s
  if fn = 0 then
    if 2 ^ 36 ≤ addr then .next (put (spaceBytes (regWord s) (addr - 2 ^ 36) n) s)
    else
      match readPa s (bits s.dev.apbase.toNat 36 28 * 2 ^ 36 + addr) n with
      | .ok bs => .next (put bs s)
      | .error pa => .fault (.noSuchAddress pa)
  else if !vfOn s fn then .next (put (List.replicate n 0xFF) s)
  else if 2 ^ 36 ≤ addr then .next (put (spaceBytes (vfWord s fn) (addr - 2 ^ 36) n) s)
  else
    let r := readVf (vfPart s fn) (apertureVa s (vfPart s fn) addr) n s
    .next (put r.1 r.2)

/-! ### Time and power (R409, R416, R417) -/

/-- TIMECTL_WRITE: 3 leaves it unchanged (R409). -/
def execTimectlWrite (v : Word) (s : State) : Host.Outcome State Fault Refusal :=
  .next (if v.toNat % 4 = 3 then s else updDev (fun d => { d with timectl := v.toNat % 4 }) s)

/-- TICK_DISCIPLINE: with a discipline in force, LOCK follows the phase error, and one increment is added or withheld, at most one in
10,000 ticks (R409). The counter never moves backward: withholding takes the place of the next increment. -/
def execTickDiscipline (add : Option Bool) (err : Nat) (s : State) : Host.Outcome State Fault Refusal :=
  let s1 := updDev (fun d => { d with lock := decide (err < 200) }) s
  let s2 := updDev (fun d => { d with lastCorr := some s.tick }) s1
  .next (if s.dev.timectl = 0 then s
    else if s.dev.lastCorr.any fun t => decide (s.tick < t + 10000) then s1
    else match add with
      | none => s1
      | some true => oneTick s2
      | some false => { s2 with frac := s2.frac - s2.den })

/-- Run the spindles at a clock. The part of a tick that has passed stays, in parts of a tick that both it and a spindle cycle are
whole numbers of (R12). -/
def setClock (mhz : Nat) (s : State) : State :=
  let g := Nat.gcd s.frac.natAbs s.den
  let d := Nat.lcm (s.den / g) mhz
  { s with mhz := mhz, den := d, frac := s.frac / (g : Int) * (d / (s.den / g) : Nat) }

/-- While PNOW exceeds PLIM the clock goes down (R417). -/
def keepLimit (s : State) : State := if plim s.dev < s.dev.pnow then setClock (max 1 (s.mhz - 1)) s else s

/-- PLIMSET_WRITE: 100 to 2400; other writes are ignored (R416). -/
def execPlimsetWrite (v : Word) (s : State) : Host.Outcome State Fault Refusal :=
  .next (if 100 ≤ v.toNat % 4096 ∧ v.toNat % 4096 ≤ 2400 then keepLimit (updDev (fun d => { d with plimset := v.toNat % 4096 }) s) else s)

/-- IPEAK_CLEAR (R5, R416). -/
def execIpeakClear (s : State) : Host.Outcome State Fault Refusal :=
  let r := softWrite (raceKey 5 0) (BitVec.ofNat 64 s.dev.ipeak) 0 s
  .next (updDev (fun d => { d with ipeak := r.1.toNat }) r.2)

/-- The full spindle clock of a service level in MHz (R12, R412). -/
def fullClock (d : Device) : Nat := if d.svc = 1 then 550 else 1100

/-- What the core rails may carry, in A (R417). -/
def railLimit : Nat := 5000

/-- Do the core rails carry their limit by a report? -/
def reportFull (r : PowerReport) : Bool := decide (railLimit ≤ max r.icore r.peak)

/-- Must the controller act on a report: have the core rails carried their limit for 5,000 ticks? (R417) -/
def surgeOver (s : State) (r : PowerReport) : Bool := reportFull r && s.dev.surge.any fun t => decide (t + 5000 ≤ s.tick)

/-- The power that the controller reports, the mean current below the limit that no window of 10,000 ticks is at, and whether it holds
sub-array wakes: it does where it must act, and then the current is below the limit (R416, R417). -/
def reportPower (hold : Bool) (r : PowerReport) (s : State) : State :=
  let act := surgeOver s r
  let icore := min (railLimit - 1) r.icore
  let peak := max icore (min (if act then railLimit - 1 else railLimit) r.peak)
  let x := hardWrite (raceKey 5 0) (BitVec.allOnes 64) (BitVec.ofNat 64 s.dev.ipeak) (fun w => BitVec.ofNat 64 (max w.toNat peak)) s
  updDev (fun d => { d with
    wakeHold := hold || act
    pnow := r.pnow % 4096
    icore := icore
    ipeak := x.1.toNat
    surge := if reportFull r && !act then some (d.surge.getD s.tick) else none }) x.2

/-- The clock that the controller runs the spindles at when it asks for one: never above the full clock, and lower than now while PNOW
exceeds PLIM (R12, R417). -/
def controlledClock (mhz : Nat) (s : State) : Nat :=
  max 1 (min mhz (if plim s.dev < s.dev.pnow then min (s.mhz - 1) (fullClock s.dev) else fullClock s.dev))

/-- POWER_THROTTLE: the controller's clock, its hold of wakes, and what it reports (R416, R417). -/
def execPowerThrottle (mhz : Nat) (hold : Bool) (r : PowerReport) (s : State) : Host.Outcome State Fault Refusal :=
  let s1 := reportPower hold r s
  .next (setClock (controlledClock (if surgeOver s r then min mhz (s.mhz - 1) else mhz) s1) s1)

/-- THERMAL_LIMIT_CHANGE (R416). -/
def execThermalLimitChange (watts : Nat) (s : State) : Host.Outcome State Fault Refusal :=
  .next (keepLimit (updDev (fun d => { d with thermal := watts % 4096 }) s))

/-! ### Start and service (R410 to R412) -/

/-- A change of STAGE or SVC raises PF vector 0 (R411). -/
def setStage (stage svc : Nat) (s : State) : State :=
  if s.dev.stage = stage ∧ s.dev.svc = svc then s
  else raiseVector 0 0 (updDev (fun d => { d with stage := stage, svc := svc }) s)

/-- SVC after a step of bring-up to `svc`: containment lost stays (R412). -/
def svcAfter (d : Device) (svc : Nat) : Nat := if d.svc = 3 then 3 else svc

/-- Start fails with a reason. -/
def failStart (reason : Nat) (s : State) : State := setStage 15 (svcAfter s.dev 0) (updDev (fun d => { d with fail := reason }) s)

/-- LENGTH of an image. -/
def imageLength (img : List Byte) : Nat := ofBytes (img.take 4)

/-- Is the header of an image well formed, and all of the image there? -/
def imageShaped (img : List Byte) : Bool :=
  decide (ofBytes ((img.drop 4).take 4) = 0x4346_4731) && decide (imageLength img % 64 = 0) && ((img.drop 8).take 4).all (· = 0) &&
    ((img.drop 16).take 48).all (· = 0) && decide (img.length = 64 + imageLength img + 1280 + 1793)

/-- The first 64 bytes of SHAKE256 of a message. -/
def digest (msg : List Byte) : List Byte := (upto 64).map (Config.digestByte msg)

/-- Header and body of an image. -/
def imageSigned (img : List Byte) : List Byte := img.take (64 + imageLength img)
/-- The signature of an image. -/
def imageSig (img : List Byte) : List Byte := (img.drop (64 + imageLength img)).take 1280
/-- The signer's public key. -/
def imageKey (img : List Byte) : List Byte := (img.drop (64 + imageLength img + 1280)).take 1793

/-- What an accepted image sets: the values of "cfg" (R402, R410, R416). -/
def takeImage (img : List Byte) (s : State) : State :=
  let body := (imageSigned img).drop 64
  setStage 1 (svcAfter s.dev 0) (updDev (fun d => { d with
    svn := ofBytes ((img.drop 12).take 4)
    image := imageSigned img
    devcap := 0x0140_0400 ||| (Config.imageDies body).zeroExtend 64
    skeinsOff := (upto 80).foldl (fun m k => SMap.set false m k (Config.imageSkeinOff body k)) []
    plimset := max 100 (min 2400 (Config.imagePlimset body))
    imageLim := min 2400 (Config.imageLimit body) }) s)

/-- The ROM checks an image: its shape, the digest of its key, its signature (R410, R411). -/
def checkImage (img : List Byte) (s : State) : State :=
  if !imageShaped img then failStart 1 s
  else if digest (imageKey img) ≠ (upto 64).map Config.rootByte then failStart 3 s
  else if !Config.falconOk (imageKey img) (digest (imageSigned img)) (imageSig img) then failStart 2 s
  else takeImage img s

/-- The device after a reset: the ROM runs with what the flash holds, or waits for the mailbox. What stands in the plan of
the environment, and the count of the free values, go on. -/
def restart (img : Option (List Byte)) (s : State) : State :=
  let s1 := { State.reset with agenda := s.agenda, upsets := s.upsets, free := s.free }
  match img with
  | some x => checkImage x s1
  | none => s1

/-- POWER_ON_RESET (R410). -/
def execPowerOnReset (img : Option (List Byte)) (s : State) : Host.Outcome State Fault Refusal := .next (restart img s)

/-- FUNDAMENTAL_RESET (R410). -/
def execFundamentalReset (img : Option (List Byte)) (s : State) : Host.Outcome State Fault Refusal := .next (restart img s)

/-- PF_FUNCTION_LEVEL_RESET (R410). -/
def execPfFunctionLevelReset (img : Option (List Byte)) (s : State) : Host.Outcome State Fault Refusal := .next (restart img s)

/-- VF_FUNCTION_LEVEL_RESET: EN becomes 0 on the VF's queues, and their tasks run on (R410). -/
def execVfFunctionLevelReset (vf : Nat) (s : State) : Host.Outcome State Fault Refusal :=
  let hit := fun (x : CmdQ) => x.bind.getLsbD 15 && decide (bits x.bind.toNat 8 7 = vf)
  .next (if vf = 0 then s
    else (s.queues.filter fun x => hit x.2).foldl (fun s x => updCmdq x.1 (fun y => writeDesc 0 (y.d0 &&& ~~~(1 : Word)) y) s) s)

/-- The spindles run at the full clock of the service level, so far as the controller lets them (R12, R412, R417). -/
def fullSpeed (s : State) : State := setClock (controlledClock (fullClock s.dev) s) s

/-- HBM_TRAINING_COMPLETE: die bring-up and HBM training advance STAGE, DIEOK and HBMOK; from the first die on there is reduced
service (R411, R412). -/
def execHbmTrainingComplete (dies : BitVec 4) (hbm : BitVec 12) (good : Bool) (s : State) : Host.Outcome State Fault Refusal :=
  let ok := dies &&& s.dev.devcap.truncate 4
  let up := updDev (fun d => { d with dieok := ok, hbmok := hbm }) s
  .next (if s.dev.stage = 1 then
      (if good ∧ ok ≠ 0 then fullSpeed (setStage 2 (svcAfter s.dev 1) up) else failStart 4 s)
    else if s.dev.stage = 2 ∨ s.dev.stage = 3 then
      (if good then setStage (s.dev.stage + 1) (svcAfter s.dev 1) up else failStart 5 s)
    else s)

/-- SERVICE_FULL (R412). -/
def execServiceFull (s : State) : Host.Outcome State Fault Refusal :=
  .next (if s.dev.stage = 4 ∧ s.dev.svc = 1 ∧ (upto 64).all (fun p => nres s p = 0) then fullSpeed (setStage 4 2 s) else s)

/-! ### The mailbox (R414, R415) -/

/-- Put a result at the data area; STS is 2. -/
def mboxDone (bs : List Byte) (s : State) : State := updDev (fun d => { d with mboxSts := 2, mbox := SMap.setList 0 d.mbox 0 bs }) s

/-- A command is refused. -/
def mboxRefuse (s : State) : State := updDev (fun d => { d with mboxSts := 3 }) s

/-- CMD 1: load an image of `len` bytes from the data area, at STAGE 0 only. -/
def mailboxLoad (len : Nat) (s : State) : State :=
  if s.dev.stage = 0 then checkImage (SMap.getList 0 s.dev.mbox 0 len) (mboxDone [] s) else mboxRefuse s

/-- MAILBOX_LOAD_IMAGE (R414). -/
def execMailboxLoadImage (len : Nat) (s : State) : Host.Outcome State Fault Refusal := .next (if s.dev.mboxSts = 1 then s else mailboxLoad len s)

/-- The public key of a base die. -/
def dieKey (die : Nat) : List Byte := (upto 1793).map (Config.keyByte die)

/-- MAILBOX_READ_KEY (R414). -/
def execMailboxReadKey (die : Nat) (s : State) : Host.Outcome State Fault Refusal :=
  .next (if s.dev.mboxSts = 1 then s else mboxDone (dieKey (die % 4)) s)

/-- The bytes of a register range in steps of words. -/
def regBytes (s : State) (off words : Nat) : List Byte := wordBytes ((upto words).map fun i => regWord s (off + 8 * i))

/-- Bytes 0x000 to 0x1EF of the report (R415). -/
def reportBody (s : State) : List Byte :=
  SMap.getList 0 s.dev.mbox 0 32 ++ toBytes s.dev.svn 8 ++ toBytes (devsts s.dev).toNat 8 ++ digest s.dev.image ++
    digest (regBytes s 0x1_0000 2048 ++ regBytes s 0x1_8000 256 ++ regBytes s 0x100 12) ++
    digest (regBytes s 0x1_8800 128 ++ regBytes s 0x1_8C00 20) ++ (upto 4).flatMap fun d => digest (dieKey d)

/-- MAILBOX_ATTEST (R415). -/
def execMailboxAttest (s : State) : Host.Outcome State Fault Refusal :=
  .next (if s.dev.mboxSts = 1 then s
    else
      let r := reportBody s
      mboxDone (r ++ (upto 1280).map (Config.signByte (digest r))) s)

/-- A write of CMD. -/
def mailboxCommand (v : Word) (s : State) : State :=
  let s1 := updDev (fun d => { d with mboxCmd := v }) s
  let out := fun (o : Host.Outcome State Fault Refusal) => match o with | .next t => t | _ => s1
  if s.dev.mboxSts = 1 then s
  else if v = 1 then out (execMailboxLoadImage s.dev.mboxArg.toNat s1)
  else if v = 2 then out (execMailboxReadKey (s.dev.mboxArg.toNat % 4) s1)
  else if v = 3 then out (execMailboxAttest s1)
  else mboxRefuse s1

/-! ### Register writes (R5, R382, R385, R390, R395, R401, R402) -/

/-- A write of DBGCTL (R390). -/
def writeDbgctl (n : Nat) (v : Word) (s : State) : State :=
  let s1 := updDebug n (fun d => { d with ctl := v &&& 0xFFC0_0000 }) s
  let s2 := if v.getLsbD 20 then resumeSpindle n s1 else s1
  if v.getLsbD 21 then stopRequest n 1 0 s2 else s2

/-- A write of a word of a debug page. -/
def writeDebug (n off : Nat) (v : Word) (s : State) : State :=
  if off = 0 then writeDbgctl n v s
  else if off = 8 then writeScopecnt n v s
  else if off = 0x10 then writeScopeadr n v s
  else s

/-- A ring word of a tenant as a write leaves it: enabling the ring clears its producer count. -/
def writeRing (p i : Nat) (was : Bool) (v : Word) (w : Whorl) : Whorl :=
  let w1 := updTenant p i (fun _ => v) w
  if v.getLsbD 0 && !was then updTenant p (i + 2) (fun x => x &&& 0xFFFF_FFFF) w1 else w1

/-- A write of a word of a tenant block (R5, R385). -/
def writeTenant (d p i : Nat) (v : Word) (s : State) : State :=
  let old := SMap.get 0 (whorlAt s d).tenants (8 * p + i)
  let was := old.getLsbD 0
  if i = 0 then updWhorl d (writeBudget p v) s
  else if i = 1 then
    let r := softWrite (raceKey 2 (64 * d + p)) old v s
    updWhorl d (updTenant p 1 fun _ => r.1) r.2
  else if i = 2 then updWhorl d (writeRing p 2 was (v &&& 0x01FF_FFFF_FFFF_FF01)) s
  else if i = 3 then
    let r := softWrite (raceKey 3 (64 * d + p)) old (v &&& 0x01FF_FFFF_FFFF_FF03) s
    updWhorl d (writeRing p 3 was r.1) r.2
  else if i = 4 ∨ i = 5 then updWhorl d (updTenant p i (fun x => (x &&& 0xFFFF_FFFF_0000_0000) ||| (v &&& 0xFFFF_FFFF))) s
  else s

/-- Does program word `i` belong to an enabled slot? -/
def progLocked (w : Whorl) (i : Nat) : Bool :=
  (upto 32).any fun j => let a := attachAt w j; a.en && decide (a.pstart ≤ i) && decide (i < a.pstart + a.plen)

/-- Does cell `i` belong to an enabled slot? -/
def cellLocked (w : Whorl) (i : Nat) : Bool :=
  (upto 32).any fun j => let a := attachAt w j; a.en && decide (a.tbase ≤ i) && decide (i < a.tbase + a.tsize)

/-- A write of a program word. -/
def writeProg (i : Nat) (v : BitVec 32) (w : Whorl) : Whorl := if progLocked w i then w else { w with prog := SMap.set 0 w.prog i v }

/-- A write of a word of a Whorl's window (R382, R385). -/
def writeWhorl (d off : Nat) (v : Word) (s : State) : State :=
  if off < 0x400 then
    let i := off / 32
    if off % 32 / 8 = 0 then updWhorl d (writeAttach0 i v) s
    else if off % 32 / 8 = 1 then
      updWhorl d (fun w => if (attachAt w i).en then w
        else updAttach i (fun a => { a with w1 := (v &&& attachMask1) ||| (a.w1 &&& ~~~attachMask1) }) w) s
    else s
  else if off = 0x400 then clearIrqsts d (v.truncate 32) s
  else if 0x1000 ≤ off ∧ off < 0x2000 then writeTenant d ((off - 0x1000) / 64) (off % 64 / 8) v s
  else if 0x2000 ≤ off ∧ off < 0x4000 then
    let i := (off - 0x2000) / 4
    updWhorl d (fun w => writeProg (i + 1) ((v >>> 32).truncate 32) (writeProg i (v.truncate 32) w)) s
  else if 0x1_0000 ≤ off ∧ off < 0x5_0000 then
    let i := (off - 0x1_0000) / 8
    updWhorl d (fun w => if cellLocked w i then w else { w with cells := SMap.set 0 w.cells i v }) s
  else if 0x10_0000 ≤ off ∧ (off - 0x10_0000) / 2 ^ 18 < 160 then
    writeDebug (160 * d + (off - 0x10_0000) / 2 ^ 18) ((off - 0x10_0000) % 2 ^ 18) v s
  else s

/-- What an event leaves where it does not fault. -/
def thenState (s : State) (o : Host.Outcome State Fault Refusal) : State := match o with | .next t => t | _ => s

/-- A write of a word of the device block. -/
def writeBlock (off : Nat) (v : Word) (s : State) : State :=
  if off = 0x10 then updDev (fun d => { d with apbase := v &&& 0xFFFF_FFF0_0000_0000 }) s
  else if off = 0x18 then thenState s (execTimectlWrite v s)
  else if 0x100 ≤ off ∧ off < 0x160 then
    updDev (fun d => { d with vfmap := SMap.setList 0 d.vfmap (off - 0x100) ((toBytes v.toNat 8).map fun b => b &&& 0xBF) }) s
  else if off = 0x200 then thenState s (execPlimsetWrite v s)
  else if off = 0x220 then thenState s (execIpeakClear s)
  else s

/-- A write of the 8-byte word at an offset of the PF's BAR0. -/
def writeReg (off : Nat) (v : Word) (s : State) : State :=
  if off < 0x1_0000 then writeBlock off v s
  else if off < 0x1_4000 then writeEntry ((off - 0x1_0000) / 256) (off % 256 / 8) v s
  else if off < 0x1_8000 then updCmdq ((off - 0x1_4000) / 16) (writeDesc (off % 16 / 8) v) s
  else if off < 0x1_8800 then
    (upto 4).foldl (fun s i => bindQueue ((off - 0x1_8000) / 2 + i) (BitVec.ofNat 16 (bits v.toNat (16 * i) 16)) s) s
  else if off < 0x1_8C00 then writeGroup ((off - 0x1_8800) / 64) (off % 64 / 8) v s
  else if off < 0x1_8CA0 then
    let i := (off - 0x1_8C00) / 8
    let s1 := if v.getLsbD 62 then thenState s (execPortRetrain i s) else s
    thenState s1 (execPortEnable i (v.getLsbD 63) s1)
  else if off < 0x2_0000 then s
  else if off < 0x3_0000 then
    if off = 0x2_0000 then mailboxCommand v s
    else if off = 0x2_0010 then updDev (fun d => { d with mboxArg := v }) s
    else if 0x2_0040 ≤ off then updDev (fun d => { d with mbox := SMap.setList 0 d.mbox (off - 0x2_0040) (toBytes v.toNat 8) }) s else s
  else if 0x400_0000 ≤ off ∧ off < 0x440_0000 then
    let q := (off - 0x400_0000) / 4096
    if off % 4096 / 8 = 0 then writeWptr q v s else if off % 4096 / 8 = 1 then writeQsts q v s else s
  else if 0x1000_0000 ≤ off ∧ off < 0x2000_0000 then writeWhorl ((off - 0x1000_0000) / 2 ^ 26) (off % 2 ^ 26) v s
  else s

/-- REGISTER_WRITE (R5). -/
def execRegisterWrite (off : Nat) (v : Word) (s : State) : Host.Outcome State Fault Refusal := .next (writeReg (off / 8 * 8) v s)

/-- Store bytes in a register space word by word; a store of part of a word stores the word with its other bytes as they
stand. `k` bounds the words. -/
def storeSpace (get : State → Nat → Word) (put : Nat → Word → State → State) : Nat → Nat → List Byte → State → State
  | 0, _, _, s => s
  | k + 1, off, bs, s =>
    if bs.isEmpty then s
    else
      let a := off / 8 * 8
      let n := 8 - off % 8
      storeSpace get put k (off + n) (bs.drop n) (put a (mergeWord (get s a) (off % 8) (bs.take n)) s)

/-- HOST_MEMORY_WRITE (R328, R401). The places are those of HOST_MEMORY_READ. -/
def execHostMemoryWrite (fn addr : Nat) (data : List Byte) (s : State) : Host.Outcome State Fault Refusal :=
  let words := data.length / 8 + 2
  if fn = 0 then
    if 2 ^ 36 ≤ addr then .next (storeSpace regWord writeReg words (addr - 2 ^ 36) data s)
    else
      match writePa (bits s.dev.apbase.toNat 36 28 * 2 ^ 36 + addr) data s with
      | .ok s1 => .next s1
      | .error pa => .fault (.noSuchAddress pa)
  else if !vfOn s fn then .next s
  else if 2 ^ 36 ≤ addr then .next (storeSpace (fun s => vfWord s fn) (vfStore fn) words (addr - 2 ^ 36) data s)
  else .next (writeVf fn (vfPart s fn) (apertureVa s (vfPart s fn) addr) data s)

/-! ### RESYNC (R369, R413) -/

/-- A context's 8 words of the summary. -/
def ctxSummary (g : Ctx) : List Word :=
  [BitVec.ofNat 64 (b2n g.isOpen * 2 ^ 63 + b2n (g.isOpen && g.cast.isSome) * 2 ^ 62 + g.vflags.toNat * 2 ^ 48 + g.grp % 2 ^ 16 * 2 ^ 32 + g.tag.toNat),
   BitVec.ofNat 64 g.stepno, BitVec.ofNat 64 (g.att.toNat + g.ord % 2 ^ 16 * 2 ^ 48), BitVec.ofNat 64 g.td,
   (g.hist.getLast?.map decisionWord).getD 0, 0, 0, 0]

/-- A partition's two words of the summary. -/
def partSummary (s : State) (p : Nat) : List Word :=
  [statusWord s p,
   BitVec.ofNat 64 (b2n (bitOf (partWord s p 0) 63) * 2 ^ 63 + ((boundQueues s p).foldl (fun a x => a + x.2.rptr) 0) % 2 ^ 32)]

/-- A bit for each queue. -/
def queueBits (s : State) (f : CmdQ → Bool) : List Word := (upto 16).map fun i => BitVec.ofNat 64 (maskOf (fun j => f (cmdqAt s (64 * i + j))) 64)

/-- `n` zero words. -/
def zeroWords (n : Nat) : List Word := List.replicate n 0

/-- The summary (R413). -/
def summary (s : State) : List Word :=
  let grp := if bitOf (groupWord s 0 0) 63 then bits (groupWord s 0 0) 32 16 else 2 ^ 16
  [BitVec.ofNat 64 (2 ^ 48 + s.dev.svc), devsts s.dev, BitVec.ofNat 64 s.tick] ++ zeroWords 5 ++ ((upto 16).flatMap fun c => ctxSummary (ctxAt s c)) ++
    ((upto 4).map fun i => mcWord s 0 (2 + i)) ++ zeroWords 4 ++ ((upto 20).map fun i => portWord s i grp) ++ zeroWords 4 ++
    ((upto 64).flatMap fun p => partSummary s p) ++ queueBits s (fun x => x.state = 2) ++ queueBits s (fun x => x.d0.getLsbD 0) ++
    powerWords s.dev ++ zeroWords 2 ++ zeroWords 176

/-- A RESYNC starts at its take, with the summary of that moment; other packets start later (R369). -/
def startAtTake (q k : Nat) (s : State) : State :=
  updPkt q k (fun y => if pktKind y.w = 8 then { y with started := true, kept := [summary s] } else y) s

/-- The command processor reads the header of the next slot and takes a packet that is there (R356). Under containment lost
it takes only RESYNC of privileged queues (R412). -/
def execQueuePoll (q : Nat) (s : State) : Host.Outcome State Fault Refusal :=
  let s0 := updCmdq q passGone s
  let x := cmdqAt s0 q
  let p := queuePart s0 q
  let va := slotVa x x.rptr
  .next (if !mayTake s0 q then s0
    else match cpWords s0 p va 8 with
      | none => stopQueue q 9 s0
      | some w =>
        if !pktValid w || (decide (s.dev.svc = 3) && !(decide (pktKind w = 8) && bitOf x.d0.toNat 2)) then s0
        else
          let s1 := updCmdq q (fun x => { x with rptr := x.rptr + 1 })
            (cpWrite q p va (toBytes ((pktWord w 0) - 0x8000) 8) s0)
          match spanTaker x with
          | some o => takeSpan q o w s1
          | none => startAtTake q (x.base + x.rptr) (takePkt q (x.base + x.rptr) w s1))

/-- RESYNC writes the summary of its take, then its signal receives its add (R369). -/
def execResync (q k : Nat) (s : State) : Host.Outcome State Fault Refusal :=
  .next (withPkt q k 8 (fun _ y => y.started) (fun y s =>
    let p := queuePart s q
    dropPkt q y.idx (cpAtomic q p (pktWord y.w 2 % 2 ^ 57) (fun x => x + (2 ^ 64 - 1))
      (cpWrite q p (pktWord y.w 1 % 2 ^ 57) (wordBytes (nth [] y.kept 0)) s))) s)

end Sys2Proof.Machine
end

