-- ==== Sys2Proof/Machine/LatchUnit.lean ====
section
/-! DEFINITION. Latch-unit words, class 0x0A (R88, R144 to R146). -/

namespace Sys2Proof.Machine

/-- A word names latch `n`: it becomes PENDING, what it held or awaited is discarded, and the result is deposited after
`lat` cycles (R88, R135). -/
def depositIn (lat n : Nat) (lanes : List Lane) (x : Word) (f : Flags) (shadow : Option (BitVec 32)) (s : State) : State :=
  updMe (fun st => { setLatch n ⟨.pending, [], 0, 0⟩ st with
    deposits := (st.deposits.filter fun d => !(decide (d.latch = n) && decide (d.handler = st.exl))) ++
      [{ due := s.cycle + lat, latch := n, lanes := lanes, word := x, flags := f, handler := st.exl, shadow := shadow,
         addr := s.cur.addr, second := s.cur.second }] }) s

/-- Run a vector latch word: lanes that take no part deposit 0 (R144, R145). -/
def vecLatch (op : Nat) (w : O3) (f : Fp → Fp → FpF) (s : State) : State :=
  whenLanes 0x0A op w [w.ty] true (fun s =>
    let rs := overLanes (guardMask s w.g w.gn) 1 fun l _ =>
      elemOf2 s w f (fun _ _ => .product) (fpAt .f32 s w.a l 0) (fpAt .f32 s w.b l 0)
    let h := checkShadow (unitCode (inClusterB 0x0A op w) true) (shadowRows .f32 rs) s
    depositIn 14 w.c.litVal (lanesFrom .f32 rs) 0 (flagsOf rs) h.1 h.2) s

/-- VDIV (R145). -/
def execVdiv (w : O3) (s : State) : Host.Outcome State Fault Refusal :=
  .next (vecLatch 0x01 w divExact s)

/-- VSQRT (R145). -/
def execVsqrt (w : O3) (s : State) : Host.Outcome State Fault Refusal :=
  .next (vecLatch 0x02 w (fun a _ => sqrtExact a) s)

/-- VRSQRT (R145). -/
def execVrsqrt (w : O3) (s : State) : Host.Outcome State Fault Refusal :=
  .next (vecLatch 0x03 w (fun a _ => rsqrtExact a) s)

/-- VRCP (R145). -/
def execVrcp (w : O3) (s : State) : Host.Outcome State Fault Refusal :=
  .next (vecLatch 0x04 w (fun a _ => divExact (.fin false 1 0) a) s)

/-- VEXP2 (R145). -/
def execVexp2 (w : O3) (s : State) : Host.Outcome State Fault Refusal :=
  .next (vecLatch 0x05 w (fun a _ => exp2Exact a) s)

/-- VLOG2 (R145). -/
def execVlog2 (w : O3) (s : State) : Host.Outcome State Fault Refusal :=
  .next (vecLatch 0x06 w (fun a _ => log2Exact a) s)

/-- Deposit the field of a DIV or REM, extended by the type's signedness (R146). -/
def scalarLatch (w : O3) (f : Int → Int → Nat × Bool) (s : State) : State :=
  whenGuard w.g w.gn (fun s =>
    let lit := srcWord litSigned s
    let r := f (tyInt w.ty (lit w.a).toNat) (tyInt w.ty (lit w.b).toNat)
    depositIn 22 w.c.litVal [] (if w.ty.signed then signExtend r.1 w.ty.width else zeroExtend r.1 w.ty.width)
      (flIf r.2 flISAT) none s) s

/-- DIV: rounded toward zero, all ones by 0; .sat clamps the one quotient that does not fit (R146). -/
def execDiv (w : O3) (s : State) : Host.Outcome State Fault Refusal :=
  .next (scalarLatch w (fun a b =>
    let q : Int := if b = 0 then (if w.ty.signed then -1 else (2 : Int) ^ w.ty.width - 1) else Int.tdiv a b
    if modSatBit w.mod then (if w.ty.signed then satS q w.ty.width else satU q w.ty.width)
    else (wrap q w.ty.width, false)) s)

/-- REM: the sign of a, and a itself by 0 (R146). -/
def execRem (w : O3) (s : State) : Host.Outcome State Fault Refusal :=
  .next (scalarLatch w (fun a b => (wrap (if b = 0 then a else Int.tmod a b) w.ty.width, false)) s)

end Sys2Proof.Machine
end

