-- ==== Sys2Proof/Machine/Writeback.lean ====
section
/-! DEFINITION. What befalls a strand between its groups: landings, deposits, the end of idle counts, trap entry, the
watchdog and the tick that TICKW awaits (R86, R88, R106, R115, R121, R221). -/

namespace Sys2Proof.Machine

/-! ### Landings (R86, R111, R112, R134 to R137) -/

/-- Does a landing write stage predicates? -/
def Landing.isStages (g : Landing) : Bool := match g.target with | .stages _ _ => true | _ => false

/-- Does a landing come before one of an earlier issue: is it due earlier, or with a write of stage predicates, which wins
(R92)? -/
def Landing.before (g x : Landing) : Bool := decide (g.due < x.due) || (decide (g.due = x.due) && x.isStages && !g.isStages)

/-- Insert a landing behind those due no later. -/
def insertDue (g : Landing) : List Landing → List Landing
  | [] => [g]
  | x :: xs => if g.before x then g :: x :: xs else x :: insertDue g xs

/-- Landings by cycle, those of one cycle in the order of their issue, writes of stage predicates last (R92, R169). -/
def byDue (ls : List Landing) : List Landing := ls.foldl (fun a g => insertDue g a) []

/-- SHADOW of a word of the strand itself, found at its landing or deposit (R63, R117, R137). -/
def lateShadow (n k : Nat) (addr : Word) (second handler : Bool) (d : BitVec 32) (s : State) : State :=
  deliverReq n k ⟨0x0A, d, second, .imprecise, 0, addr⟩ (some handler) (noteCorrupt n k 2 addr d s)

/-- One landing: the register, the flags, the residency flags, and the trap found for it, where the strand still runs (R117). -/
def landOne (n k : Nat) (g : Landing) (s : State) : State :=
  let s1 := updStrand n k (fun st => { orFlagsIn s.cycle g.flags (writeTarget g.target st) with resid := st.resid ||| g.resid }) s
  let take := fun (t : TrapReq) (s : State) => if (strandAt s n k).run = .running then takeTrap n k t s else s
  match g.target, g.shadow with
  | .trap t, some d => take t (noteCorrupt n k 2 g.addr d s1)
  | .trap t, none => take t s1
  | .met, some d => noteCorrupt n k 2 g.addr d s1
  | _, some d => lateShadow n k g.addr g.second g.excl d s1
  | _, none => s1

/-- The writes of a strand that are due land. -/
def execFixedLatencyWriteback (n k : Nat) (s : State) : Host.Outcome State Fault Refusal :=
  let due := byDue ((strandAt s n k).landings.filter fun g => decide (g.due ≤ s.cycle))
  .next (due.foldl (fun s g => landOne n k g s)
    (updStrand n k (fun st => { st with landings := st.landings.filter fun g => !decide (g.due ≤ s.cycle) }) s))

/-! ### Deposits (R88, R116, R137) -/

/-- The latch that a deposit makes. -/
def Deposit.full (d : Deposit) : Latch := { st := .full, lanes := d.lanes, word := d.word, flags := d.flags }

/-- A deposit goes to the bank of its word; one of a handler that has returned is lost. -/
def depositLatch (d : Deposit) (st : Strand) : Strand :=
  if d.handler = st.exl then { st with latch := SMap.set .start st.latch d.latch d.full, hold := if st.hold = .latch d.latch then .none else st.hold }
  else if st.exl then { st with saved := SMap.set .start st.saved d.latch d.full }
  else st

/-- One deposit: the latch, the flags, and SHADOW. -/
def depositOne (n k : Nat) (d : Deposit) (s : State) : State :=
  let s1 := updStrand n k (fun st => orFlagsIn s.cycle d.flags (depositLatch d st)) s
  match d.shadow with | some x => lateShadow n k d.addr d.second d.handler x s1 | none => s1

/-- The results that are due are deposited. -/
def execLatchDeposit (n k : Nat) (s : State) : Host.Outcome State Fault Refusal :=
  let due := (strandAt s n k).deposits.filter fun d => decide (d.due ≤ s.cycle)
  .next (due.foldl (fun s d => depositOne n k d s)
    (updStrand n k (fun st => { st with deposits := st.deposits.filter fun d => !decide (d.due ≤ s.cycle) }) s))

/-! ### Idle counts, YIELD, trap entry (R106, R107, R115) -/

/-- Is a strand's idle count or YIELD over? -/
def idleOver (c : Nat) (st : Strand) : Bool :=
  match st.hold with
  | .nop => decide (st.readyAt ≤ c)
  | .yield others stop => others.isEmpty || decide (stop ≤ c)
  | _ => false

/-- The idle count of a NOP or a YIELD ends. -/
def execIdleCountEnd (n k : Nat) (s : State) : Host.Outcome State Fault Refusal :=
  .next (if idleOver s.cycle (strandAt s n k) then updStrand n k (fun st => { st with hold := .none }) s else s)

/-- Is a strand's trap entry due: nothing of it in flight, and no atomic request out? At a stop point of the debugger it
waits, but where its task is pre-empted, and so does that of a strand that has not started (R115, R118, R242, R392, R436). -/
def trapDue (stopping : Bool) (st : Strand) : Bool :=
  st.trap.isSome && st.landings.isEmpty && ((!st.atStop && decide (st.hold ≠ .launch)) || stopping) && decide (st.run = .running) &&
    (match st.mem with | some m => m.atom.isNone | none => true)

/-- Trap entry after the last landing. -/
def execTakeTrap (n k : Nat) (s : State) : Host.Outcome State Fault Refusal :=
  let st := strandAt s n k
  .next (match st.trap with
    | some r => if trapDue (spindleAt s n).stopping st then enterTrap n k r st.trapAt s else s
    | none => s)

/-! ### The watchdog (R121) -/

/-- CR.WDOG counts a cycle of a spindle whose task is resident and not stopped; reaching a CR.WDLIM that is not 0 is noted
once until the next write. -/
def countWatchdog (c : Nat) (p : Spindle) : Spindle :=
  if !resides c p || p.stopping || decide (p.dbg.state ≠ 0) then p
  else { p with wdog := p.wdog + 1, wdDue := p.wdDue || (p.wdArmed && decide (p.wdlim ≠ 0) && decide (p.wdog + 1 = p.wdlim)) }

/-- WATCHDOG goes to the lowest strand that runs. -/
def execWatchdogExpiry (n : Nat) (s : State) : Host.Outcome State Fault Refusal :=
  .next (if (spindleAt s n).wdDue then
      let s1 := updSpindle n (fun p => { p with wdDue := false, wdArmed := false }) s
      match (upto 4).find? fun k => (strandAt s n k).run = .running with
      | some k => deliverTrap n k 0x12 0 0 none s1
      | none => s1
    else s)

/-! ### The replies to atomic requests (R241, R242) -/

/-- The word of an atomic request completes: its destination lands two cycles on, and the strand goes on after it (R242). -/
def finishAtomic (n k : Nat) (m : MemOp) (a : AtomReq) (old : Nat) (s : State) : State :=
  let s1 := { s with cur := focusOn n k m.at_ a.next }
  let x := if a.ty.signed then signExtend old a.ty.width else zeroExtend old a.ty.width
  noteGroup (strandAt s n k) (completeSeq (landAt 2 (.s a.dst x) 0 (updMe (fun st => { st with mem := none }) s1)))

/-- The write of an atomic request as a posted one: what the home and a refusal name, and where it comes from. -/
def requestWrite (s : State) (n k : Nat) (m : MemOp) (a : AtomReq) (r : Nat × Word × Nat) : Posted :=
  { spn := n, strand := k, va := r.2.1, pa := r.1, data := [], atom := none, part := (spindleAt s n).part,
    tag := (strandAt s n k).tag, grp := m.c0, att := m.att, exl := (strandAt s n k).exl, rel := a.rel, hn := a.hn, whole := false, lane := 0, marked := false,
    org := atomOrigin s m.att r.1 r.2.2 a.org }

/-- The home performs the atomic request of a strand, and the reply completes its word, no earlier than 40 cycles after the
request was sent. Earlier stores of the strand and the writes that the request's clock names come first, and what its acquire waits
for; poison raises POISON precisely, and nothing is written (R228, R229,
R241, R242). A request of an attempt that is closed is discarded (R324), and its word sends it again. -/
def execAtomicReply (n k : Nat) (s : State) : Host.Outcome State Fault Refusal :=
  .next (match (strandAt s n k).mem with
    | none => s
    | some m =>
      match m.atom, m.reqs with
      | some a, r :: _ =>
        let part := (spindleAt s n).part
        let len := r.2.2
        if stale s (strandAt s n k).tag m.att then updStrand n k (fun st => { st with mem := none }) s
        else if hasPosted s n k || decide (s.cycle < m.c0 + 40) || !homeReady s a.org r.1 s.posted then s
        else if inDevice s part r.2.1.toNat then
          let old := ofBytes (devBytes s part (devOff r.2.1.toNat) len)
          match requestNew a old with
          | none => finishAtomic n k m a old s
          | some new =>
            match devStore part (len + 1) (devOff r.2.1.toNat) (toBytes new len) s with
            | .ok s1 => finishAtomic n k m a old s1
            | .error _ => finishAtomic n k m a old s
        else
          match loadPoison s m.att [r] with
          | some q =>
            raisePoison q.1 r.2.1 (updStrand n k (fun st => { st with mem := none }) { s with cur := focusOn n k m.at_ a.next })
          | none =>
            let old := ofBytes (homeBytes s m.att r.1 len)
            let s1 := noteAcquire n k m.acq (gainLast n k m.att r.1 len (requestLines n k m r s))
            if m.acq ≠ 0 ∧ !acquireClear s (skeinOf n) m.acq (viewOf s1 n k).hb then s
            else match requestNew a old with
            | none => finishAtomic n k m a old s1
            | some new =>
              let w := requestWrite s n k m a r
              if refusesAny s m.att r.1 len then refuseWrite w (finishAtomic n k m a old s1)
              else finishAtomic n k m a old (applyWrite w (toBytes new len) s1)
      | _, _ => s)

/-! ### TICKW (R221) -/

/-- The tick reaches the target of a waiting TICKW, and its word completes in this cycle. -/
def execTickTargetReached (n k : Nat) (s : State) : Host.Outcome State Fault Refusal :=
  let st := strandAt s n k
  .next (match st.wait, fetchWord s n k st.pc with
    | some x, .word w =>
      if x.code = 4 ∧ x.target ≤ s.tick then
        match decodeWord w with
        | .ok (.tickw o) =>
          match execTickw o { s with cur := focusOn n k st.pc (addr57 (st.pc + 8)) } with
          | .next s1 => if s1.cur.again then s1 else noteGroup st (completeGroup (updSpindle n (fun p => { p with met := k :: p.met }) s1))
          | _ => s
        | _ => s
      else s
    | _, _ => s)

end Sys2Proof.Machine
end

