-- ==== Sys2Proof/Machine/Dispatch.lean ====
section
/-! DEFINITION. One arm per row of the opcode table: which meaning an instruction or event has. -/

namespace Sys2Proof.Machine

/-- The meaning of an instruction or event. -/
def exec (i : Instr) (s : State) : Host.Outcome State Fault Refusal :=
  match i with
  | .add w => Sys2Proof.Machine.execAdd w s
  | .sub w => Sys2Proof.Machine.execSub w s
  | .mul w => Sys2Proof.Machine.execMul w s
  | .mulh w => Sys2Proof.Machine.execMulh w s
  | .madd w => Sys2Proof.Machine.execMadd w s
  | .and w => Sys2Proof.Machine.execAnd w s
  | .or w => Sys2Proof.Machine.execOr w s
  | .xor w => Sys2Proof.Machine.execXor w s
  | .andn w => Sys2Proof.Machine.execAndn w s
  | .shl w => Sys2Proof.Machine.execShl w s
  | .shr w => Sys2Proof.Machine.execShr w s
  | .sra w => Sys2Proof.Machine.execSra w s
  | .rotl w => Sys2Proof.Machine.execRotl w s
  | .min w => Sys2Proof.Machine.execMin w s
  | .max w => Sys2Proof.Machine.execMax w s
  | .abs w => Sys2Proof.Machine.execAbs w s
  | .neg w => Sys2Proof.Machine.execNeg w s
  | .clz w => Sys2Proof.Machine.execClz w s
  | .popc w => Sys2Proof.Machine.execPopc w s
  | .bfx w => Sys2Proof.Machine.execBfx w s
  | .bfi w => Sys2Proof.Machine.execBfi w s
  | .cmp w => Sys2Proof.Machine.execCmp w s
  | .sel w => Sys2Proof.Machine.execSel w s
  | .mov w => Sys2Proof.Machine.execMov w s
  | .idx w => Sys2Proof.Machine.execIdx w s
  | .li w => Sys2Proof.Machine.execLi w s
  | .lih w => Sys2Proof.Machine.execLih w s
  | .addi w => Sys2Proof.Machine.execAddi w s
  | .muli w => Sys2Proof.Machine.execMuli w s
  | .andi w => Sys2Proof.Machine.execAndi w s
  | .ori w => Sys2Proof.Machine.execOri w s
  | .xori w => Sys2Proof.Machine.execXori w s
  | .br w => Sys2Proof.Machine.execBr w s
  | .call w => Sys2Proof.Machine.execCall w s
  | .calli w => Sys2Proof.Machine.execCalli w s
  | .ret w => Sys2Proof.Machine.execRet w s
  | .jmpi w => Sys2Proof.Machine.execJmpi w s
  | .loop w => Sys2Proof.Machine.execLoop w s
  | .loopi w => Sys2Proof.Machine.execLoopi w s
  | .movl w => Sys2Proof.Machine.execMovl w s
  | .nop w => Sys2Proof.Machine.execNop w s
  | .halt w => Sys2Proof.Machine.execHalt w s
  | .yield w => Sys2Proof.Machine.execYield w s
  | .trap w => Sys2Proof.Machine.execTrap w s
  | .eret w => Sys2Proof.Machine.execEret w s
  | .mfcr w => Sys2Proof.Machine.execMfcr w s
  | .mtcr w => Sys2Proof.Machine.execMtcr w s
  | .strstart w => Sys2Proof.Machine.execStrstart w s
  | .strwait w => Sys2Proof.Machine.execStrwait w s
  | .strid w => Sys2Proof.Machine.execStrid w s
  | .setfp w => Sys2Proof.Machine.execSetfp w s
  | .ctxsv w => Sys2Proof.Machine.execCtxsv w s
  | .ctxld w => Sys2Proof.Machine.execCtxld w s
  | .vadd w => Sys2Proof.Machine.execVadd w s
  | .vsub w => Sys2Proof.Machine.execVsub w s
  | .vmul w => Sys2Proof.Machine.execVmul w s
  | .vfma w => Sys2Proof.Machine.execVfma w s
  | .vfms w => Sys2Proof.Machine.execVfms w s
  | .vfnma w => Sys2Proof.Machine.execVfnma w s
  | .vmin w => Sys2Proof.Machine.execVmin w s
  | .vmax w => Sys2Proof.Machine.execVmax w s
  | .vabs w => Sys2Proof.Machine.execVabs w s
  | .vneg w => Sys2Proof.Machine.execVneg w s
  | .vscale w => Sys2Proof.Machine.execVscale w s
  | .vcmp w => Sys2Proof.Machine.execVcmp w s
  | .vclass w => Sys2Proof.Machine.execVclass w s
  | .viadd w => Sys2Proof.Machine.execViadd w s
  | .visub w => Sys2Proof.Machine.execVisub w s
  | .vimul w => Sys2Proof.Machine.execVimul w s
  | .vimulh w => Sys2Proof.Machine.execVimulh w s
  | .vimadd w => Sys2Proof.Machine.execVimadd w s
  | .vimin w => Sys2Proof.Machine.execVimin w s
  | .vimax w => Sys2Proof.Machine.execVimax w s
  | .viabs w => Sys2Proof.Machine.execViabs w s
  | .vand w => Sys2Proof.Machine.execVand w s
  | .vor w => Sys2Proof.Machine.execVor w s
  | .vxor w => Sys2Proof.Machine.execVxor w s
  | .vandn w => Sys2Proof.Machine.execVandn w s
  | .vnot w => Sys2Proof.Machine.execVnot w s
  | .vshl w => Sys2Proof.Machine.execVshl w s
  | .vshr w => Sys2Proof.Machine.execVshr w s
  | .vsra w => Sys2Proof.Machine.execVsra w s
  | .vrotl w => Sys2Proof.Machine.execVrotl w s
  | .vicmp w => Sys2Proof.Machine.execVicmp w s
  | .vsel w => Sys2Proof.Machine.execVsel w s
  | .vclz w => Sys2Proof.Machine.execVclz w s
  | .vpopc w => Sys2Proof.Machine.execVpopc w s
  | .vdiv w => Sys2Proof.Machine.execVdiv w s
  | .vsqrt w => Sys2Proof.Machine.execVsqrt w s
  | .vrsqrt w => Sys2Proof.Machine.execVrsqrt w s
  | .vrcp w => Sys2Proof.Machine.execVrcp w s
  | .vexp2 w => Sys2Proof.Machine.execVexp2 w s
  | .vlog2 w => Sys2Proof.Machine.execVlog2 w s
  | .div w => Sys2Proof.Machine.execDiv w s
  | .rem w => Sys2Proof.Machine.execRem w s
  | .vcvt w => Sys2Proof.Machine.execVcvt w s
  | .vcvtsr w => Sys2Proof.Machine.execVcvtsr w s
  | .vpack w => Sys2Proof.Machine.execVpack w s
  | .vunpack w => Sys2Proof.Machine.execVunpack w s
  | .vbcast w => Sys2Proof.Machine.execVbcast w s
  | .vperm w => Sys2Proof.Machine.execVperm w s
  | .vshuf w => Sys2Proof.Machine.execVshuf w s
  | .vrot w => Sys2Proof.Machine.execVrot w s
  | .vcompress w => Sys2Proof.Machine.execVcompress w s
  | .vexpand w => Sys2Proof.Machine.execVexpand w s
  | .viota w => Sys2Proof.Machine.execViota w s
  | .vmovx w => Sys2Proof.Machine.execVmovx w s
  | .vmovs w => Sys2Proof.Machine.execVmovs w s
  | .vins w => Sys2Proof.Machine.execVins w s
  | .vredadd w => Sys2Proof.Machine.execVredadd w s
  | .vredmax w => Sys2Proof.Machine.execVredmax w s
  | .vredmin w => Sys2Proof.Machine.execVredmin w s
  | .vscan w => Sys2Proof.Machine.execVscan w s
  | .vrng w => Sys2Proof.Machine.execVrng w s
  | .vrngf w => Sys2Proof.Machine.execVrngf w s
  | .pand w => Sys2Proof.Machine.execPand w s
  | .por w => Sys2Proof.Machine.execPor w s
  | .pxor w => Sys2Proof.Machine.execPxor w s
  | .pandn w => Sys2Proof.Machine.execPandn w s
  | .pnot w => Sys2Proof.Machine.execPnot w s
  | .pset w => Sys2Proof.Machine.execPset w s
  | .pget w => Sys2Proof.Machine.execPget w s
  | .pcnt w => Sys2Proof.Machine.execPcnt w s
  | .pfirst w => Sys2Proof.Machine.execPfirst w s
  | .pmov w => Sys2Proof.Machine.execPmov w s
  | .ld w => Sys2Proof.Machine.execLd w s
  | .st w => Sys2Proof.Machine.execSt w s
  | .vld w => Sys2Proof.Machine.execVld w s
  | .vst w => Sys2Proof.Machine.execVst w s
  | .vldx w => Sys2Proof.Machine.execVldx w s
  | .vstx w => Sys2Proof.Machine.execVstx w s
  | .vlds w => Sys2Proof.Machine.execVlds w s
  | .vsts w => Sys2Proof.Machine.execVsts w s
  | .sld w => Sys2Proof.Machine.execSld w s
  | .sst w => Sys2Proof.Machine.execSst w s
  | .cbload w => Sys2Proof.Machine.execCbload w s
  | .trans w => Sys2Proof.Machine.execTrans w s
  | .hrel w => Sys2Proof.Machine.execHrel w s
  | .hchk w => Sys2Proof.Machine.execHchk w s
  | .ldblk w => Sys2Proof.Machine.execLdblk w s
  | .blkwait w => Sys2Proof.Machine.execBlkwait w s
  | .wbblk w => Sys2Proof.Machine.execWbblk w s
  | .evblk w => Sys2Proof.Machine.execEvblk w s
  | .reschk w => Sys2Proof.Machine.execReschk w s
  | .pgreq w => Sys2Proof.Machine.execPgreq w s
  | .replay w => Sys2Proof.Machine.execReplay w s
  | .semsig w => Sys2Proof.Machine.execSemsig w s
  | .semwait w => Sys2Proof.Machine.execSemwait w s
  | .semset w => Sys2Proof.Machine.execSemset w s
  | .semrd w => Sys2Proof.Machine.execSemrd w s
  | .spldef w => Sys2Proof.Machine.execSpldef w s
  | .spfillw w => Sys2Proof.Machine.execSpfillw w s
  | .spfreew w => Sys2Proof.Machine.execSpfreew w s
  | .sppub w => Sys2Proof.Machine.execSppub w s
  | .spret w => Sys2Proof.Machine.execSpret w s
  | .phreg w => Sys2Proof.Machine.execPhreg w s
  | .phdrop w => Sys2Proof.Machine.execPhdrop w s
  | .pharr w => Sys2Proof.Machine.execPharr w s
  | .phwait w => Sys2Proof.Machine.execPhwait w s
  | .pharw w => Sys2Proof.Machine.execPharw w s
  | .tickw w => Sys2Proof.Machine.execTickw w s
  | .fence w => Sys2Proof.Machine.execFence w s
  | .atom w => Sys2Proof.Machine.execAtom w s
  | .atomr w => Sys2Proof.Machine.execAtomr w s
  | .cas w => Sys2Proof.Machine.execCas w s
  | .swap w => Sys2Proof.Machine.execSwap w s
  | .mqpush w => Sys2Proof.Machine.execMqpush w s
  | .qstatRead w => Sys2Proof.Machine.execQstatRead w s
  | .qstatSkip w => Sys2Proof.Machine.execQstatSkip w s
  | .qstatFlush w => Sys2Proof.Machine.execQstatFlush w s
  | .qstatMxcap w => Sys2Proof.Machine.execQstatMxcap w s
  | .qstatClear w => Sys2Proof.Machine.execQstatClear w s
  | .cqpush w => Sys2Proof.Machine.execCqpush w s
  | .cstage w => Sys2Proof.Machine.execCstage w s
  | .cdrain w => Sys2Proof.Machine.execCdrain w s
  | .lzdefZone w => Sys2Proof.Machine.execLzdefZone w s
  | .lzdefBinding w => Sys2Proof.Machine.execLzdefBinding w s
  | .lzres w => Sys2Proof.Machine.execLzres w s
  | .lzrel w => Sys2Proof.Machine.execLzrel w s
  | .lzwait w => Sys2Proof.Machine.execLzwait w s
  | .lzstat w => Sys2Proof.Machine.execLzstat w s
  | .bst w => Sys2Proof.Machine.execBst w s
  | .batom w => Sys2Proof.Machine.execBatom w s
  | .bflush w => Sys2Proof.Machine.execBflush w s
  | .bflushall w => Sys2Proof.Machine.execBflushall w s
  | .bstat w => Sys2Proof.Machine.execBstat w s
  | .xwdef w => Sys2Proof.Machine.execXwdef w s
  | .xadd w => Sys2Proof.Machine.execXadd w s
  | .xwread w => Sys2Proof.Machine.execXwread w s
  | .xwclr w => Sys2Proof.Machine.execXwclr w s
  | .lnkstat w => Sys2Proof.Machine.execLnkstat w s
  | .stepid w => Sys2Proof.Machine.execStepid w s
  | .vote w => Sys2Proof.Machine.execVote w s
  | .stepwait w => Sys2Proof.Machine.execStepwait w s
  | .losschk w => Sys2Proof.Machine.execLosschk w s
  | .rqtag w => Sys2Proof.Machine.execRqtag w s
  | .mcread w => Sys2Proof.Machine.execMcread w s
  | .mcackLog w => Sys2Proof.Machine.execMcackLog w s
  | .mcackPoison w => Sys2Proof.Machine.execMcackPoison w s
  | .mcackSuspect w => Sys2Proof.Machine.execMcackSuspect w s
  | .tagpurge w => Sys2Proof.Machine.execTagpurge w s
  | .scrub w => Sys2Proof.Machine.execScrub w s
  | .verdef w => Sys2Proof.Machine.execVerdef w s
  | .bkpt w => Sys2Proof.Machine.execBkpt w s
  | .tmark w => Sys2Proof.Machine.execTmark w s
  | .whorlsig w => Sys2Proof.Machine.execWhorlsig w s
  | .fixedLatencyWriteback sp st => Sys2Proof.Machine.execFixedLatencyWriteback sp st s
  | .idleCountEnd sp st => Sys2Proof.Machine.execIdleCountEnd sp st s
  | .latchDeposit sp st => Sys2Proof.Machine.execLatchDeposit sp st s
  | .handleDeposit sp st => Sys2Proof.Machine.execHandleDeposit sp st s
  | .takeTrap sp st => Sys2Proof.Machine.execTakeTrap sp st s
  | .watchdogExpiry sp => Sys2Proof.Machine.execWatchdogExpiry sp s
  | .waitTimeout sp st => Sys2Proof.Machine.execWaitTimeout sp st s
  | .loadDataReturn sp st => Sys2Proof.Machine.execLoadDataReturn sp st s
  | .storeApply n => Sys2Proof.Machine.execStoreApply n s
  | .atomApply n => Sys2Proof.Machine.execAtomApply n s
  | .atomicReply sp st => Sys2Proof.Machine.execAtomicReply sp st s
  | .blockFillDone sp b => Sys2Proof.Machine.execBlockFillDone sp b s
  | .blockWritebackDone sp b => Sys2Proof.Machine.execBlockWritebackDone sp b s
  | .blockEvictDone sp b => Sys2Proof.Machine.execBlockEvictDone sp b s
  | .phaserGatherReceive m => Sys2Proof.Machine.execPhaserGatherReceive m s
  | .phaserReleaseReceive sp lit => Sys2Proof.Machine.execPhaserReleaseReceive sp lit s
  | .mma sp => Sys2Proof.Machine.execMma sp s
  | .mmaz sp => Sys2Proof.Machine.execMmaz sp s
  | .bload sp => Sys2Proof.Machine.execBload sp s
  | .accld sp => Sys2Proof.Machine.execAccld sp s
  | .accst sp => Sys2Proof.Machine.execAccst sp s
  | .mxt sp => Sys2Proof.Machine.execMxt sp s
  | .copy sp ch => Sys2Proof.Machine.execCopy sp ch s
  | .copyacc sp ch => Sys2Proof.Machine.execCopyacc sp ch s
  | .fill sp ch => Sys2Proof.Machine.execFill sp ch s
  | .gather sp ch => Sys2Proof.Machine.execGather sp ch s
  | .rput sp ch => Sys2Proof.Machine.execRput sp ch s
  | .engineRecordComplete sp q => Sys2Proof.Machine.execEngineRecordComplete sp q s
  | .subarrayWakeDone sp x => Sys2Proof.Machine.execSubarrayWakeDone sp x s
  | .subarrayGate sp x => Sys2Proof.Machine.execSubarrayGate sp x s
  | .rputChunkReceive m => Sys2Proof.Machine.execRputChunkReceive m s
  | .rputChunkAccept m => Sys2Proof.Machine.execRputChunkAccept m s
  | .slotCreditReceive m => Sys2Proof.Machine.execSlotCreditReceive m s
  | .cancelNoticeReceive m => Sys2Proof.Machine.execCancelNoticeReceive m s
  | .bobbinAgeExpiry die b => Sys2Proof.Machine.execBobbinAgeExpiry die b s
  | .bobbinFlitReceive m => Sys2Proof.Machine.execBobbinFlitReceive m s
  | .bobbinCompletionReceive m => Sys2Proof.Machine.execBobbinCompletionReceive m s
  | .xaddApply die w => Sys2Proof.Machine.execXaddApply die w s
  | .portTrained port peerPort es => Sys2Proof.Machine.execPortTrained port peerPort es s
  | .portFailure port => Sys2Proof.Machine.execPortFailure port s
  | .trainingRetry port => Sys2Proof.Machine.execTrainingRetry port s
  | .flitCrcResend port => Sys2Proof.Machine.execFlitCrcResend port s
  | .peerEntryExchange port es => Sys2Proof.Machine.execPeerEntryExchange port es s
  | .attemptOpen q => Sys2Proof.Machine.execAttemptOpen q s
  | .voteDeadline c => Sys2Proof.Machine.execVoteDeadline c s
  | .childVoteDeadline c child => Sys2Proof.Machine.execChildVoteDeadline c child s
  | .voteReceive m => Sys2Proof.Machine.execVoteReceive m s
  | .decisionReceive m => Sys2Proof.Machine.execDecisionReceive m s
  | .purgeComplete part tag => Sys2Proof.Machine.execPurgeComplete part tag s
  | .scrubberVisit block => Sys2Proof.Machine.execScrubberVisit block s
  | .inFieldTest skein pass => Sys2Proof.Machine.execInFieldTest skein pass s
  | .containmentLost => Sys2Proof.Machine.execContainmentLost s
  | .notifyWptrWrite q v => Sys2Proof.Machine.execNotifyWptrWrite q v s
  | .queuePoll q => Sys2Proof.Machine.execQueuePoll q s
  | .qstsWrite q v => Sys2Proof.Machine.execQstsWrite q v s
  | .queueDescriptorWrite q word v => Sys2Proof.Machine.execQueueDescriptorWrite q word v s
  | .packetNop q k => Sys2Proof.Machine.execPacketNop q k s
  | .launch q k => Sys2Proof.Machine.execLaunch q k s
  | .graph q k => Sys2Proof.Machine.execGraph q k s
  | .signal q k => Sys2Proof.Machine.execSignal q k s
  | .waitsig q k => Sys2Proof.Machine.execWaitsig q k s
  | .waitsigReread q k => Sys2Proof.Machine.execWaitsigReread q k s
  | .waitsigTimeout q k => Sys2Proof.Machine.execWaitsigTimeout q k s
  | .stepopen q k => Sys2Proof.Machine.execStepopen q k s
  | .stepclose q k => Sys2Proof.Machine.execStepclose q k s
  | .resync q k => Sys2Proof.Machine.execResync q k s
  | .taskNode g n => Sys2Proof.Machine.execTaskNode g n s
  | .condNode g n => Sys2Proof.Machine.execCondNode g n s
  | .loopNode g n => Sys2Proof.Machine.execLoopNode g n s
  | .switchNode g n => Sys2Proof.Machine.execSwitchNode g n s
  | .schedulingRound => Sys2Proof.Machine.execSchedulingRound s
  | .preemptSave t => Sys2Proof.Machine.execPreemptSave t s
  | .taskCompletion t => Sys2Proof.Machine.execTaskCompletion t s
  | .hostMemoryRead fn addr n => Sys2Proof.Machine.execHostMemoryRead fn addr n s
  | .hostMemoryWrite fn addr data => Sys2Proof.Machine.execHostMemoryWrite fn addr data s
  | .objectWindowSemaphoreStore fn sp k v => Sys2Proof.Machine.execObjectWindowSemaphoreStore fn sp k v s
  | .objectWindowSpoolStore fn sp n half v => Sys2Proof.Machine.execObjectWindowSpoolStore fn sp n half v s
  | .objectWindowPhaserStore fn sp n off v => Sys2Proof.Machine.execObjectWindowPhaserStore fn sp n off v s
  | .partitionEntryWrite p word v => Sys2Proof.Machine.execPartitionEntryWrite p word v s
  | .invalidateGo p v => Sys2Proof.Machine.execInvalidateGo p v s
  | .invalidationComplete p => Sys2Proof.Machine.execInvalidationComplete p s
  | .queueBindingWrite q v => Sys2Proof.Machine.execQueueBindingWrite q v s
  | .stepGroupEntryWrite e word v => Sys2Proof.Machine.execStepGroupEntryWrite e word v s
  | .portEnable port en => Sys2Proof.Machine.execPortEnable port en s
  | .portRetrain port => Sys2Proof.Machine.execPortRetrain port s
  | .timectlWrite v => Sys2Proof.Machine.execTimectlWrite v s
  | .plimsetWrite v => Sys2Proof.Machine.execPlimsetWrite v s
  | .ipeakClear => Sys2Proof.Machine.execIpeakClear s
  | .powerThrottle mhz hold r => Sys2Proof.Machine.execPowerThrottle mhz hold r s
  | .registerWrite off v => Sys2Proof.Machine.execRegisterWrite off v s
  | .powerOnReset img => Sys2Proof.Machine.execPowerOnReset img s
  | .fundamentalReset img => Sys2Proof.Machine.execFundamentalReset img s
  | .pfFunctionLevelReset img => Sys2Proof.Machine.execPfFunctionLevelReset img s
  | .vfFunctionLevelReset vf => Sys2Proof.Machine.execVfFunctionLevelReset vf s
  | .serviceFull => Sys2Proof.Machine.execServiceFull s
  | .mailboxLoadImage len => Sys2Proof.Machine.execMailboxLoadImage len s
  | .mailboxReadKey die => Sys2Proof.Machine.execMailboxReadKey die s
  | .mailboxAttest => Sys2Proof.Machine.execMailboxAttest s
  | .attachSlotEnable w slot v => Sys2Proof.Machine.execAttachSlotEnable w slot v s
  | .attachSlotDisable w slot => Sys2Proof.Machine.execAttachSlotDisable w slot s
  | .irqstsClear w v => Sys2Proof.Machine.execIrqstsClear w v s
  | .tenantBudgetWrite w p v => Sys2Proof.Machine.execTenantBudgetWrite w p v s
  | .budgetWindowReset => Sys2Proof.Machine.execBudgetWindowReset s
  | .whorlEventOffer e => Sys2Proof.Machine.execWhorlEventOffer e s
  | .whorlRunStart w slot => Sys2Proof.Machine.execWhorlRunStart w slot s
  | .lde w => Sys2Proof.Machine.execLde w s
  | .ldi w => Sys2Proof.Machine.execLdi w s
  | .ldt w => Sys2Proof.Machine.execLdt w s
  | .stt w => Sys2Proof.Machine.execStt w s
  | .whorlAdd w => Sys2Proof.Machine.execWhorlAdd w s
  | .whorlAddi w => Sys2Proof.Machine.execWhorlAddi w s
  | .whorlSub w => Sys2Proof.Machine.execWhorlSub w s
  | .whorlAnd w => Sys2Proof.Machine.execWhorlAnd w s
  | .whorlOr w => Sys2Proof.Machine.execWhorlOr w s
  | .whorlXor w => Sys2Proof.Machine.execWhorlXor w s
  | .whorlShl w => Sys2Proof.Machine.execWhorlShl w s
  | .whorlShr w => Sys2Proof.Machine.execWhorlShr w s
  | .whorlMin w => Sys2Proof.Machine.execWhorlMin w s
  | .whorlMax w => Sys2Proof.Machine.execWhorlMax w s
  | .beq w => Sys2Proof.Machine.execBeq w s
  | .bne w => Sys2Proof.Machine.execBne w s
  | .blt w => Sys2Proof.Machine.execBlt w s
  | .hbin w => Sys2Proof.Machine.execHbin w s
  | .cms w => Sys2Proof.Machine.execCms w s
  | .hll w => Sys2Proof.Machine.execHll w s
  | .trig w => Sys2Proof.Machine.execTrig w s
  | .emit w => Sys2Proof.Machine.execEmit w s
  | .exit w => Sys2Proof.Machine.execExit w s
  | .debugStopreq sp => Sys2Proof.Machine.execDebugStopreq sp s
  | .debugResume sp => Sys2Proof.Machine.execDebugResume sp s
  | .debugStopped sp => Sys2Proof.Machine.execDebugStopped sp s
  | .allstopRequestReceive sp => Sys2Proof.Machine.execAllstopRequestReceive sp s
  | .scopecntWrite sp v => Sys2Proof.Machine.execScopecntWrite sp v s
  | .scopeadrWrite sp v => Sys2Proof.Machine.execScopeadrWrite sp v s
  | .tickTargetReached sp st => Sys2Proof.Machine.execTickTargetReached sp st s
  | .linkLoss port => Sys2Proof.Machine.execLinkLoss port s
  | .tickDiscipline add err => Sys2Proof.Machine.execTickDiscipline add err s
  | .thermalLimitChange watts => Sys2Proof.Machine.execThermalLimitChange watts s
  | .voteResend n => Sys2Proof.Machine.execVoteResend n s
  | .cancelNoticeResend n => Sys2Proof.Machine.execCancelNoticeResend n s
  | .resumptionRestoreDone t => Sys2Proof.Machine.execResumptionRestoreDone t s
  | .copyReadReturn sp ch => Sys2Proof.Machine.execCopyReadReturn sp ch s
  | .hbmTrainingComplete dies hbm good => Sys2Proof.Machine.execHbmTrainingComplete dies hbm good s

end Sys2Proof.Machine
end

