-- ==== Sys2Proof/Machine/Issue.lean ====
section
/-! DEFINITION. The issue of a group: fetch, decode, its words one after the other, and what its end does (R45, R58, R59,
R85, R91, R112, R114, R136, R187). -/

namespace Sys2Proof.Machine

/-- Go on with the next state of an outcome. -/
def thenDo (o : Host.Outcome State Fault Refusal) (k : State → Host.Outcome State Fault Refusal) :
    Host.Outcome State Fault Refusal :=
  match o with
  | .next s => k s
  | .fault f => .fault f
  | .refused r => .refused r

/-- May strand `k` of spindle `n` issue its next group in this cycle? (R85) -/
def mayIssue (s : State) (n k : Nat) : Bool :=
  let p := spindleAt s n
  decide (p.issued = 0) && !p.stopping && decide (p.dbg.state ≠ 2) && eligible s n k

/-! ### The end of a group -/

/-- The focus on the next group of a strand. -/
def groupFocus (s : State) (n k : Nat) (pair : Bool) : Focus :=
  let st := strandAt s n k
  { focusOn n k st.pc (addr57 (st.pc + (if pair then 16 else 8))) with pair := pair, pre := some st }

/-- The end of a word that issued alone. -/
def soloEnd (s : State) : State :=
  if s.cur.raised.isSome || s.cur.late.isSome then s
  else if s.cur.again then updMe (fun st => { st with readyAt := s.cycle + 1 }) s
  else completeGroup (updMe (fun st => { st with mem := none }) s)

/-- The state before a pair, with the focus as its words left it: neither word has had an effect. -/
def undoPair (s0 s : State) : State := { s0 with upsets := s.upsets, cur := s.cur }

/-- The writes of an interlocked pair land together, no earlier than the interlocked word's (R136). -/
def holdWrites (s0 s : State) : State :=
  let old := (strandAt s0 s.cur.spn s.cur.strand).landings.length
  updMe (fun st => { st with landings := st.landings.take old ++ (st.landings.drop old).map fun g => { g with due := max g.due s.cur.holdTo } }) s

/-- A VOTE3 or SHADOW that a word of the pair has met is noted. -/
def noteMet (s : State) : State :=
  match s.cur.corrupt with
  | some x => noteCorrupt s.cur.spn s.cur.strand x.1 x.2.1 x.2.2 s
  | none => s

/-- A precise trap of a pair: neither word has an effect, but for the flags of FPX (R112, R114). -/
def pairTrap (s0 s : State) (r : TrapReq) : State :=
  noteMet (takeTrap s.cur.spn s.cur.strand r (updMe (orFlags s.cur.flags) (undoPair s0 s)))

/-- A pair that a trap found at a landing undoes: until then neither word has an effect (R136). -/
def pairLate (s0 s : State) (g : Landing) : State :=
  updMe (fun st => { st with landings := st.landings ++ s.cur.met.toList ++ [g], readyAt := g.due }) (undoPair s0 s)

/-- The end of a pair whose words have run. -/
def pairEnd (s0 s : State) : State :=
  if s.cur.again then updMe (fun st => { st with hold := (me s).hold, readyAt := s.cycle + 1 }) (undoPair s0 s)
  else
    match s.cur.raised, s.cur.late with
    | some r, l =>
      if r.kind ≠ .after then pairTrap s0 s r
      else
        match l with
        | some g => pairLate s0 s g
        | none =>
          let s1 := completeGroup (holdWrites s0 s)
          takeTrap s.cur.spn s.cur.strand { r with epc := (me s1).pc } s1
    | none, some g => pairLate s0 s g
    | none, none => completeGroup (holdWrites s0 s)

/-- Has the first word of a pair raised a precise trap, or must the pair issue again? -/
def pairOver (f : Focus) : Bool :=
  f.again || (match f.raised with | some r => decide (r.kind ≠ .after) | none => false)

/-- The focus moves to the second word of the pair. -/
def secondWord (s : State) : State :=
  updCur (fun f => { f with second := true, addr := addr57 (f.group + 8), raised := none, late := none }) s

/-- Of two late traps of a pair the one that is taken, the earlier, and a SHADOW that the other meets in the same cycle: it counts in the
vote (R39, R114, R137). -/
def joinLate (a b : Option Landing) : Option Landing × Option Landing :=
  match a, b with
  | some x, some y =>
    let w := if y.due < x.due then (y, x) else (x, y)
    (some w.1, if w.2.due = w.1.due ∧ w.2.shadow.isSome then some { w.2 with target := .met, flags := 0 } else none)
  | none, y => (y, none)
  | x, none => (x, none)

/-- What both words of a pair have raised: a precise trap before an after trap, and of two late ones the earlier (R114). -/
def joinWords (a s : State) : State :=
  updCur (fun f => { f with
    raised := match a.cur.raised, f.raised with
      | some x, some y => if y.kind = .after then some x else some y
      | none, y => y
      | x, none => x
    late := (joinLate a.cur.late f.late).1
    met := (joinLate a.cur.late f.late).2 }) s

/-- Run the words of a pair, and end it (R58). -/
def runPair (i j : Instr) (s : State) : Host.Outcome State Fault Refusal :=
  thenDo (exec i s) fun a =>
    if pairOver a.cur then .next (pairEnd s a)
    else thenDo (exec j (secondWord a)) fun b => .next (pairEnd s (joinWords a b))

/-- Run a word alone, and end its group. -/
def runSolo (i : Instr) (s : State) : Host.Outcome State Fault Refusal := thenDo (exec i s) fun a => .next (soloEnd a)

/-! ### Around a group -/

/-- An issue of strand `k` counts for the strands that wait in a YIELD (R107). -/
def leaveYield (k : Nat) (st : Strand) : Strand :=
  match st.hold with
  | .yield others c => { st with hold := .yield (others.filter (· ≠ k)) c }
  | _ => st

/-- Strand `k` has taken the issue of this cycle (R85); `anew` says that a group of it issues, and not a word that issues
again or waits (R393). -/
def markIssue (k : Nat) (anew : Bool) (p : Spindle) : Spindle :=
  { ((upto 4).filter (· ≠ k)).foldl (fun p j => if (strandOf p j).hold = .none then p else updStrandOf j (leaveYield k) p) p with
    last := k, issued := if anew then k + 1 else k + 5 }

/-- Does a group issue, `a` being its strand before it? A word that must issue again does not, but for an access that is
sent, whose completion then does not (R393). -/
def issuesAnew (a : Strand) (s : State) : Bool := a.mem.isNone && (!s.cur.again || (me s).mem.isSome)

/-- What an issue leaves behind. -/
def afterIssue (n k : Nat) (a : Strand) (s : State) : State :=
  updSpindle n (markIssue k (issuesAnew a s)) (noteGroup a s)

/-- The mark of the first 64-byte unit of a vector register that a word takes in under its guard, 0 where all are good. A store
carries the marks of what it stores on (R338). -/
def wordMark (st : Strand) (i : Instr) : Nat :=
  match i.form with
  | .o3 _ _ w =>
    let m := (if w.gn then ~~~pregOf st w.g.val else pregOf st w.g.val).toNat
    [w.a, w.b, w.c].foldl (fun x src =>
      match src with
      | .v r => (upto 4).foldl (fun x j => if x = 0 ∧ bits m (16 * j) 16 ≠ 0 then vmarkOf st r.val j else x) x
      | _ => x) 0
  | _ => 0

/-- The word of a group that takes a poisoned vector register unit in: whether it is the second, and the mark. -/
def groupMark (st : Strand) (i : Instr) (j : Option Instr) : Option (Bool × Nat) :=
  if st.vmark.isEmpty then none
  else if wordMark st i ≠ 0 then some (false, wordMark st i)
  else match j with
    | some y => if wordMark st y ≠ 0 then some (true, wordMark st y) else none
    | none => none

/-- Issue the next group of strand `k` of spindle `n` (R45, R58, R59, R85, R338). -/
def issueGroup (n k : Nat) (s : State) : Host.Outcome State Fault Refusal :=
  let a := strandAt s n k
  let out := fun t => Host.Outcome.next (afterIssue n k a t)
  match fetchGroup s n k with
  | .stall => .next s
  | .poison src va => out (raisePoison src va { s with cur := groupFocus s n k false })
  | .words w1 w2 =>
    match decodeGroup w1 w2 with
    | .error e => out (raiseIllegal e.cls e.op e.reason { s with cur := { groupFocus s n k false with second := e.second } })
    | .ok (i, j) =>
      match groupMark a i j with
      | some x => out (raisePoison x.2 0 { s with cur := { groupFocus s n k false with second := x.1 } })
      | none =>
        match j with
        | none => thenDo (runSolo i { s with cur := groupFocus s n k false }) out
        | some j => thenDo (runPair i j { s with cur := groupFocus s n k true }) out

/-- The first strand of spindle `n` that may issue, from the one after the last (R85). -/
def nextStrand (s : State) (n : Nat) : Option Nat :=
  ((upto 4).map fun i => ((spindleAt s n).last + 1 + i) % 4).find? (mayIssue s n)

/-- The next issue of this cycle: spindle and strand. -/
def nextIssue (s : State) : Option (Nat × Nat) := s.spindles.findSome? fun x => (nextStrand s x.1).map fun k => (x.1, k)

/-- A strand whose wait is over, and not by a trap, issues in this cycle: DEDUCED (log entry 40), from R393. -/
def noteMeet (n k : Nat) (s : State) : State :=
  if (strandAt s n k).wait.isNone && s.cur.raised.isNone then updSpindle n (fun p => { p with met := k :: p.met }) s else s

/-- A word of a strand that waits in a class 0x14 wait or STEPWAIT takes its turn in the service of a cycle (R201, R203). -/
def rerunWord (n k : Nat) (s : State) : State :=
  match fetchGroup s n k with
  | .words w1 w2 =>
    match decodeGroup w1 w2 with
    | .ok (i, none) =>
      match runSolo i { s with cur := groupFocus s n k false } with
      | .next t => { noteGroup (strandAt s n k) (noteMeet n k t) with cur := .start }
      | _ => s
    | _ => s
  | _ => s

end Sys2Proof.Machine
end

