-- ==== Sys2Proof/Machine/Clock.lean ====
section
/-! DEFINITION. What the machine does by itself: the events that are due, the order in which they come within a cycle, the
end of a cycle, and the package ticks that pass with it. Where the manual fixes no order, this is the model's. -/

namespace Sys2Proof.Machine

/-- An outcome that changes the state. -/
def changes (s : State) (o : Host.Outcome State Fault Refusal) : Option (Host.Outcome State Fault Refusal) :=
  match o with
  | .next t => if t = s then none else some (.next t)
  | o => some o

/-- Package ticks that pass with a spindle cycle, and the part of a tick that remains, in parts of which a tick has `den` (R12, R409). -/
def ticksOf (frac : Int) (den mhz : Nat) : Nat × Int :=
  let f := frac + (1000 * (den / mhz) : Nat)
  if f < den then (0, f) else ((f / den).toNat, f % den)

/-- Must something that may come up to `bound` ticks after tick `t0` come in this cycle, since the next one is later? -/
def lastCycle (s : State) (t0 bound : Nat) : Bool := decide (t0 + bound < s.tick + (ticksOf s.frac s.den s.mhz).1)

/-- Is a spindle's task stopped by the debugger or pre-empted? Then the bounds of R230 and R242 do not hold. -/
def boundless (p : Spindle) : Bool := decide (p.dbg.state ≠ 0) || p.stopping

/-! ### Strands -/

/-- Does a strand's load have its answer now? An L2 hit answers 20 cycles on, other paths later (R187). -/
def loadDue (s : State) (n k : Nat) (m : MemOp) : Bool :=
  !m.ready && m.atom.isNone && !m.reqs.isEmpty && (stale s (strandAt s n k).tag m.att || loadReady s n k m)

/-- The reply to an atomic request, where the home can perform it. It comes no earlier than 40 cycles after the request, and 4,000 ticks after
it at the latest: `held` leaves it out before (R242). -/
def replyMove (held : Bool) (s : State) (n k : Nat) : Option (Host.Outcome State Fault Refusal) :=
  if (strandAt s n k).mem.any fun m => m.atom.isSome && (!held || (lastCycle s m.t0 4000 && !boundless (spindleAt s n))) then
    changes s (execAtomicReply n k s)
  else none

/-- Does a load hit in the L2, so that the time of its answer is fixed? (R187) -/
def loadHits (s : State) (n : Nat) (m : MemOp) : Bool := m.reqs.all (requestHits s n m)

/-- What is due for a strand; `held` leaves out what comes at no fixed time. A handle on its way was issued before a write that lands
with it (R178). -/
def strandMove (held : Bool) (s : State) (n k : Nat) : Option (Host.Outcome State Fault Refusal) :=
  let st := strandAt s n k
  if st.handles.any (fun d => decide (d.due ≤ s.cycle)) then some (execHandleDeposit n k s)
  else if st.landings.any (fun g => decide (g.due ≤ s.cycle)) then some (execFixedLatencyWriteback n k s)
  else if st.deposits.any (fun d => decide (d.due ≤ s.cycle)) then some (execLatchDeposit n k s)
  else if idleOver s.cycle st then some (execIdleCountEnd n k s)
  else if trapDue (spindleAt s n).stopping st then some (execTakeTrap n k s)
  else if st.mem.any (fun m => loadDue s n k m && (!held || loadHits s n m)) then some (execLoadDataReturn n k s)
  else replyMove held s n k

/-! ### Spindles -/

/-- What is due for an engine queue before the strands issue: a completion. -/
def queueMove (s : State) (n q : Nat) : Option (Host.Outcome State Fault Refusal) :=
  if (queueAt (spindleAt s n) q).done.head?.any (fun d => decide (d.due ≤ s.cycle) && recordApplied s n q d.r) then
    some (execEngineRecordComplete n q s)
  else none

/-! ### The turns of the queues at the banks (R172, R250, R271) -/

/-- A queue has had its turn, and took its banks. -/
def takeTurn (q : Nat) (bs : List Nat) (p : Spindle) : Spindle := takeBanks bs { p with served := q :: p.served }

/-- A queue has had its turn, and was denied a bank: a chunk under way takes a cycle more (R271). -/
def denyTurn (c q : Nat) (p : Spindle) : Spindle :=
  updQueue q (fun x => if c < x.busyUntil then { x with busyUntil := x.busyUntil + 1 } else x)
    { p with served := q :: p.served, denied := q :: p.denied }

/-- The turn of a queue behind the strands: the next cycle of its chunk, or the head's next issue, where no bank that it
needs is taken. The request of a memory source needs those of a GATHER's index, and its issue comes in the cycle after its data at the
earliest (R172, R250, R271, R275). -/
def bankTurn (held : Bool) (s : State) (n q : Nat) : Option (Host.Outcome State Fault Refusal) :=
  let p := spindleAt s n
  let x := queueAt p q
  let taken := fun bs : List Nat => bs.any fun b => p.banks.contains b
  match x.recs with
  | [] => none
  | r :: _ =>
    if p.served.contains q || !mayIssueRec p r || x.faulted then none
    else if s.cycle < x.busyUntil then
      let bs := headBanks s n q { r with n := r.n - 1 }
      some (.next (updSpindle n (if taken bs then denyTurn s.cycle q else takeTurn q bs) s))
    else if !headReady s n q r then none
    else if q ≠ 0 ∧ r.fromMemory = true ∧ r.sent = false ∧ r.data.isNone ∧ requestBanks r = [] then changes s (headIssue s n q r)
    else if r.sent = true ∧ r.data.isNone then
      if held then none else match changes s (execCopyReadReturn n (q - 1) s) with
      | some (.next t) => some (.next (updSpindle n (fun p => { p with served := q :: p.served }) t))
      | o => o
    else
      let bs := if q ≠ 0 ∧ r.fromMemory = true ∧ r.data.isNone then requestBanks r else headBanks s n q r
      match changes s (headIssue s n q r) with
      | some (.next t) => some (.next (updSpindle n (if taken bs then denyTurn s.cycle q else takeTurn q bs) (if taken bs then s else t)))
      | o => o

/-- What the engines do behind the strands' issues of a cycle: the matrix engine first, then the channels in order. -/
def engineMove (held : Bool) (s : State) : Option (Host.Outcome State Fault Refusal) :=
  s.spindles.findSome? fun x => (upto 5).findSome? (bankTurn held s x.1)

/-- What is due for a block. -/
def blockMove (s : State) (n b : Nat) : Option (Host.Outcome State Fault Refusal) :=
  match (blockAt (spindleAt s n) b).st with
  | .filling => some (execBlockFillDone n b s)
  | .writing => some (execBlockWritebackDone n b s)
  | .evicting => some (execBlockEvictDone n b s)
  | _ => none

/-- Must the release of a phaser's phase reach a spindle now, by the bound of its level? (R216) -/
def releaseLast (s : State) (ph : Nat) (x : Phaser) : Bool :=
  match phLevel ph with
  | 0 => decide (x.overC + 2 ≤ s.cycle)
  | 1 => decide (x.overC + 24 ≤ s.cycle)
  | 2 => decide (x.overC + 96 ≤ s.cycle)
  | 3 => lastCycle s x.overT 600
  | _ => lastCycle s x.overT 12000

/-- The phasers whose phase a spindle has not seen: those that its strands are registered on, and its own (R216, R222). `held` leaves out
those whose bound is not reached. -/
def staleView (held : Bool) (s : State) (n : Nat) : Option Nat :=
  let p := spindleAt s n
  (p.phasers.map (·.1) ++ (upto 4).flatMap fun k => (strandOf p k).regs.map PhReg.ph).find? fun ph =>
    decide (SMap.get 0 p.phView ph ≠ (phaserAt s p ph).phase) && (!held || releaseLast s ph (phaserAt s p ph))

/-- What is due for the stores and the power of a spindle's engines, its phasers, its debugger. -/
def spindleMove (held : Bool) (s : State) (n : Nat) : Option (Host.Outcome State Fault Refusal) :=
  let p := spindleAt s n
  if p.wdDue then some (execWatchdogExpiry n s)
  else if p.dbg.stopIn && !held then some (execAllstopRequestReceive n s)
  else
    match p.matrix.waking.find? fun x => decide (x.2 ≤ s.cycle) && !s.dev.wakeHold with
    | some x => some (execSubarrayWakeDone n x.1 s)
    | none =>
      match p.matrix.awake.find? fun x => decide (SMap.get 0 p.matrix.used x.1 + 2048 < s.cycle) && !arrayNeeded p x.1 with
      | some x => some (execSubarrayGate n x.1 s)
      | none =>
        match staleView held s n with
        | some ph => some (execPhaserReleaseReceive n ph s)
        | none => if p.dbg.state = 1 then changes s (execDebugStopped n s) else none

/-- What is due on a spindle. -/
def spindleMoves (held : Bool) (s : State) (n : Nat) : Option (Host.Outcome State Fault Refusal) :=
  ((upto 4).findSome? (strandMove held s n)).or
    (((spindleMove held s n).or ((upto 5).findSome? (queueMove s n))).or
      (if held then none else (spindleAt s n).blocks.findSome? fun x => blockMove s n x.1))

/-! ### Memory and fabric -/

/-- May a write that comes from `o` wait, or is it 4,000 ticks since its issue? (R230) -/
def writeDue (held : Bool) (s : State) (n : Nat) (o : Origin) : Bool := !held || (lastCycle s o.tick 4000 && !boundless (spindleAt s n))

/-- The oldest posted write that its home can take reaches it; `held` leaves out those that may still wait. -/
def postedMove (held : Bool) (s : State) : Option (Host.Outcome State Fault Refusal) :=
  (upto s.posted.length).findSome? fun i => s.posted[i]?.bind fun w =>
    if writeDue held s w.spn w.org && mayApply s i w then some (if w.atom.isSome then execAtomApply i s else execStoreApply i s) else none

/-- Addends reach their window; `held` leaves out those that may still wait. -/
def addendMove (held : Bool) (s : State) : Option (Host.Outcome State Fault Refusal) :=
  s.windows.findSome? fun x => x.2.queue.head?.bind fun q =>
    if writeDue held s q.spn q.org && mayAdd s (x.1 / 64) q then some (execXaddApply (x.1 / 64) (x.1 % 64) s) else none

/-- An invalidation reaches its L2; `held` leaves out those that may still be on their way (R230, R235). -/
def invalMove (held : Bool) (s : State) : Option (Host.Outcome State Fault Refusal) :=
  (s.invals.find? fun i => !held || lastCycle s i.tick 4000).map fun i => .next (deliverInval i s)

/-- What is due on the way to memory: writes, addends and invalidations. -/
def memoryMove (held : Bool) (s : State) : Option (Host.Outcome State Fault Refusal) :=
  ((postedMove held s).or (addendMove held s)).or (invalMove held s)

/-- A message that this device has sent to itself arrives. -/
def netMove (s : State) (m : NetMsg) : Option (Host.Outcome State Fault Refusal) :=
  match m with
  | .chunk c => if c.hdr.src = c.hdr.dst then changes s (execRputChunkReceive c s) else none
  | .accept c => if c.hdr.src = c.hdr.dst then changes s (execRputChunkAccept c s) else none
  | .credit c => if c.hdr.src = c.hdr.dst then changes s (execSlotCreditReceive c s) else none
  | .cancel c => if c.hdr.src = c.hdr.dst then changes s (execCancelNoticeReceive c s) else none
  | .decision d c => if d = ownPkg s c.grp then changes s (execDecisionReceive c s) else none
  | _ => none

/-- What is due of bobbins and messages. -/
def fabricMove (held : Bool) (s : State) : Option (Host.Outcome State Fault Refusal) :=
  match s.bobbins.find? fun x => x.2.any fun b => decide (b.born + b.bage ≤ s.cycle) with
  | some x => some (execBobbinAgeExpiry (x.1 / 64) (x.1 % 64) s)
  | none => if held then none else s.net.findSome? (netMove s)

/-- What is due of a port: the end of its patience with a lost link or with training (R302, R408). -/
def portMove (s : State) (i : Nat) (x : Port) : Option (Host.Outcome State Fault Refusal) :=
  if x.st = 2 ∧ x.down ∧ x.since + 20000 ≤ s.tick then some (execPortFailure i s)
  else if x.st = 1 ∧ x.since + 50000000 ≤ s.tick then some (execTrainingRetry i s)
  else none

/-! ### Steps and the command processor -/

/-- What is due of a step context: the deadlines of votes (R333, R334). -/
def ctxMove (s : State) (c : Nat) : Option (Host.Outcome State Fault Refusal) :=
  let g := ctxAt s c
  if !g.isOpen then none
  else if g.cast.isNone ∧ g.td ≤ s.tick then changes s (execVoteDeadline c s)
  else if g.td + 2400 * treeHeight s g.grp ≤ s.tick then (treeKids s g.grp).findSome? fun k => changes s (execChildVoteDeadline c k s)
  else none

/-- What is due of a packet that has been taken. -/
def packetMove (s : State) (q : Nat) (y : Pkt) : Option (Host.Outcome State Fault Refusal) :=
  match pktKind y.w with
  | 1 => changes s (execPacketNop q y.idx s)
  | 2 => changes s (execLaunch q y.idx s)
  | 3 => changes s (execGraph q y.idx s)
  | 4 => changes s (execSignal q y.idx s)
  | 5 => if y.started then (changes s (execWaitsigReread q y.idx s)).or (changes s (execWaitsigTimeout q y.idx s))
         else changes s (execWaitsig q y.idx s)
  | 6 => (changes s (execStepopen q y.idx s)).or (if y.phase = 2 then changes s (execAttemptOpen q s) else none)
  | 7 => changes s (execStepclose q y.idx s)
  | 8 => changes s (execResync q y.idx s)
  | _ => none

/-- What is due of a queue: its packets in their order, then the next one of the ring. -/
def cmdqMove (s : State) (q : Nat) (x : CmdQ) : Option (Host.Outcome State Fault Refusal) :=
  (x.pkts.findSome? (packetMove s q)).or (if mayTake s q then changes s (execQueuePoll q s) else none)

/-- What is due of a node of a graph. -/
def nodeMove (s : State) (i : Nat) (g : GraphSt) (n : Nat) : Option (Host.Outcome State Fault Refusal) :=
  match pktKind (nodeOf g n) with
  | 0x10 => changes s (execTaskNode i n s)
  | 0x11 => changes s (execCondNode i n s)
  | 0x12 => changes s (execLoopNode i n s)
  | 0x13 => changes s (execSwitchNode i n s)
  | _ => none

/-- What is due of a graph. -/
def graphMove (s : State) (i : Nat) (g : GraphSt) : Option (Host.Outcome State Fault Refusal) :=
  (upto g.nodes.length).findSome? (nodeMove s i g)

/-- What is due of a task: its start, its end, its save, its return. A task on whose spindles a group has issued in this cycle is
resident to the end of the cycle. -/
def taskMove (s : State) (t : Nat) (x : Task) : Option (Host.Outcome State Fault Refusal) :=
  if x.binding.any fun b => decide ((spindleAt s b.2).issued ≠ 0) then none else
  match x.st with
  | .resident => if x.binding.any fun b => toStart (spindleAt s b.2) then some (.next (startTask t x s)) else changes s (execTaskCompletion t s)
  | .stopping => (changes s (execTaskCompletion t s)).or (changes s (execPreemptSave t s))
  | .restoring => changes s (execResumptionRestoreDone t s)
  | _ => none

/-- A block that holds back an attempt is visited by the scrubber (R331). -/
def scrubMove (s : State) : Option (Host.Outcome State Fault Refusal) :=
  s.queues.findSome? fun x => (openWaiter s x.1).bind fun y => (groupCtx s (openGrp y.w)).bind fun c =>
    if (ctxAt s c).isOpen then none else (openBlocks s c).head?.bind fun b => changes s (execScrubberVisit b.1 s)

/-- What is due of the command processor. -/
def commandMove (s : State) : Option (Host.Outcome State Fault Refusal) :=
  ((s.purges.findSome? fun x => if purgeReady s x.1 x.2 then some (execPurgeComplete x.1 x.2 s) else none).or
    (s.tasks.findSome? fun x => x.2.bind (taskMove s x.1))).or
  ((s.queues.findSome? fun x => cmdqMove s x.1 x.2).or
    ((s.graphs.findSome? fun x => x.2.bind (graphMove s x.1)).or
      ((if s.dev.stage = 4 ∧ s.dev.svc = 1 ∧ (upto 64).all (fun p => nres s p = 0) then some (execServiceFull s)
        else if 0 < s.rounds ∨ (s.roundAt ≤ s.tick ∧ !s.tasks.isEmpty) then some (execSchedulingRound s) else none).or (scrubMove s))))

/-! ### Whorls -/

/-- A Whorl executes the next word of its run (R384). -/
def runWord (s : State) (d pc : Nat) : Host.Outcome State Fault Refusal :=
  let s1 := { s with cur := { Focus.start with whorl := d } }
  match decodeWhorl (SMap.get 0 (whorlAt s d).prog pc).toNat with
  | some i => exec i s1
  | none => execExit ⟨0, 0, 0, 0⟩ s1

/-- What is due of a Whorl: the next word of its run, or a run on the next event. -/
def whorlMove (s : State) (d : Nat) (w : Whorl) : Option (Host.Outcome State Fault Refusal) :=
  match w.run with
  | some r => if r.due ≤ s.tick then some (runWord s d r.pc) else none
  | none => if w.next ≤ s.tick then (nextRunSlot w).map fun i => execWhorlRunStart d i s else none

/-! ### What goes next within a cycle -/

/-- What comes at no time that the manual fixes: the command processor acts, invalidations of handles end. -/
def openMove (s : State) : Option (Host.Outcome State Fault Refusal) :=
  (commandMove s).or
    (s.parts.findSome? fun x => if x.2.go then changes s (execInvalidationComplete x.1 s) else none)

/-- The event that is due next in this cycle outside the Whorls; `held` leaves out those that come at no fixed time. -/
def nextMove (held : Bool) (s : State) : Option (Host.Outcome State Fault Refusal) :=
  (s.spindles.findSome? fun x => spindleMoves held s x.1).or
    (((fabricMove held s).or (memoryMove held s)).or
      (((s.ports.findSome? fun x => portMove s x.1 x.2).or (s.ctxs.findSome? fun x => ctxMove s x.1)).or
        (if held then none else openMove s)))

/-- What the Whorls do in this cycle, behind the strands' issues and the engines: a bit that TRIG sets in the cycle of a WHORLSIG is set
after its read (R399). -/
def whorlMoves (s : State) : Option (Host.Outcome State Fault Refusal) := s.whorls.findSome? fun x => whorlMove s x.1 x.2

/-! ### The end of a cycle -/

/-- A strand that waits takes its turn, unless its spindle is being stopped (R201, R203, R391). -/
def serveStrand (n k : Nat) (s : State) : State :=
  let p := spindleAt s n
  let st := strandOf p k
  if st.wait.isSome && decide (st.run = .running) && st.trap.isNone && !st.atStop && !p.stopping && decide (p.dbg.state ≠ 2) &&
      !purging s p.part st.tag then rerunWord n k s
  else s

/-- A wait whose limit has passed times out (R203). -/
def timeOut (n k : Nat) (s : State) : State :=
  match execWaitTimeout n k s with
  | .next t => { t with cur := .start }
  | _ => s

/-- The strand of which a group has issued in this cycle (R393). -/
def issuedStrand (p : Spindle) : Option Nat := if p.issued = 0 ∨ 4 < p.issued then none else some (p.issued - 1)

/-- A spindle's counters at the end of a cycle, and its strands at their stop points. -/
def closeSpindle (c : Nat) (p : Spindle) : Spindle := { stopStrands (countWatchdog c (countCycle c (issuedStrand p) p)) with
    issued := 0, banks := [], served := [], denied := [], met := [], waited := false }

/-- The end of a cycle on a spindle: waits in the order of R201, parked accesses, timeouts, counters. -/
def endSpindle (n : Nat) (s : State) : State :=
  let s1 := [1, 2, 3, 4].foldl (fun s q => enterParked n q s) (serveQueues n s)
  let s2 := (upto 4).foldl (fun s k => serveStrand n k s) s1
  updSpindle n (closeSpindle s.cycle) ((upto 4).foldl (fun s k => timeOut n k s) (updSpindle n (fun p => { p with waited := true }) s2))

/-- Both copies of a version block whose metadata is lost become poisoned, and F.CORRUPT is set (R343). -/
def loseMeta (pa : Nat) (s : State) : State :=
  let b := pa / 256 * 256
  match vpageAt s pa with
  | none => s
  | some v =>
    let s1 := [b, b + 128].foldl (fun s a => markCopies memSide a 1 (markLine (a + v.twin) 1 (markLine a 1 s))) s
    if (ctxAt s1 v.ctx).isOpen then castEarly (updCtx v.ctx (fun g => { g with vflags := g.vflags ||| fCorrupt }) s1) else s1

/-- A 64-byte unit of a spindle's pool goes wrong: of vector registers, of scratchpad, or of accumulators (R10, R338). -/
def strikePool (u : Nat) (p : Spindle) : Spindle :=
  let acc := (64 - p.ag) * 1024
  if u < 1024 then updStrandOf (u / 256) (fun st => { st with vmark := SMap.set 0 st.vmark (u % 256) 4 }) p
  else if acc ≤ u then { p with accPoison := SMap.set 0 p.accPoison (u - acc) 4 }
  else { p with poison := SMap.set 0 p.poison (u - 1024) 4 }

/-- An error of the memories or of the accumulator strikes, or a cache gives up a line (R40, R261, R329, R338, R343). -/
def strike (s : State) : State :=
  match s.upsets with
  | .hbmError pa :: r => markLine pa 1 { s with upsets := r }
  | .cacheError pa :: r => markCopies memSide pa 2 { s with upsets := r }
  | .l2Error k pa :: r => markCopies k pa 3 { s with upsets := r }
  | .l2Evict k pa :: r => evictCopies k pa { s with upsets := r }
  | .cacheEvict pa :: r => evictCopies memSide pa { s with upsets := r }
  | .poolError n u :: r => updSpindle n (strikePool u) { s with upsets := r }
  | .metaError pa :: r => loseMeta pa { s with upsets := r }
  | .accError n row col x :: r => updMatrix n (fun m => { m with acc := SMap.set 0 m.acc (64 * row + col) x }) { s with upsets := r }
  | _ => s

/-- The limits of waits on spindles that the debugger stops stand still (R392). -/
def shiftWaits (n : Nat) (p : Spindle) : Spindle :=
  if p.dbg.state = 0 then p
  else (upto 4).foldl (fun p k =>
    if (strandOf p k).wait.isSome then updStrandOf k (fun st => { st with wait := st.wait.map fun w => { w with since := w.since + n } }) p else p) p

/-- What the Whorls do at a package tick that no spindle cycle follows at once: at most `k` moves (R384). -/
def whorlTick : Nat → State → State
  | 0, s => s
  | k + 1, s => match whorlMoves s with | some (.next t) => whorlTick k t | _ => s

/-- Package ticks pass. Behind each but the last the Whorls execute what is due, so that they execute one word a tick also where the spindle
clock is slower; the last one's comes with the next cycle (R384). -/
def passTicks : Nat → State → State
  | 0, s => s
  | k + 1, s => let s1 := oneTick s; passTicks k (if k = 0 then s1 else whorlTick (4 * s1.whorls.length) s1)

/-- Time passes: a cycle, and the ticks that go with it; THROT counts those with the clock lowered (R416). -/
def advance (s : State) : State :=
  let t := ticksOf s.frac s.den s.mhz
  let s1 := passTicks t.1 { s with
    cycle := s.cycle + 1
    frac := t.2
    races := []
    spindles := s.spindles.map fun x => (x.1, shiftWaits t.1 x.2) }
  if s1.mhz < fullClock s1.dev then { s1 with dev := { s1.dev with throt := s1.dev.throt + t.1 } } else s1

/-- The end of a cycle. -/
def endCycle (s : State) : State := advance (strike ((s.spindles.map (·.1)).foldl (fun s n => endSpindle n s) s))

/-- One move of the machine by itself: what is due, else the next issue of the cycle, else an engine's, else a Whorl's, else the cycle
ends. `held` leaves out what comes at no time that the manual fixes. -/
def ownMove (held : Bool) (s : State) : Host.Outcome State Fault Refusal :=
  match nextMove held s with
  | some o => o
  | none =>
    match nextIssue s with
    | some x => issueGroup x.1 x.2 s
    | none =>
      match (engineMove held s).or (whorlMoves s) with
      | some o => o
      | none => .next (endCycle s)

end Sys2Proof.Machine
end

