-- ==== Sys2Proof/Machine/Step.lean ====
section
/-! DEFINITION. One step of the machine, and the placing of an instruction where the next step fetches it. -/

namespace Sys2Proof.Machine

/-- A step leaves no word in focus, and a vote that has turned non-zero in it is cast (R333). -/
def atRest (o : Host.Outcome State Fault Refusal) : Host.Outcome State Fault Refusal :=
  match o with
  | .next s => .next (castEarly { s with cur := .start })
  | .fault f => .fault f
  | .refused r => .refused r

/-- One step: the plan of the environment comes first, an event that it names or a turn of the machine's own, with or without what comes
at no fixed time; else the machine moves by itself. -/
def step (s : State) : Host.Outcome State Fault Refusal :=
  match s.agenda with
  | .event i :: r => atRest (exec i { s with agenda := r, cur := .start })
  | .timed :: r => atRest (ownMove false { s with agenda := r })
  | .held :: r => atRest (ownMove true { s with agenda := r })
  | [] => atRest (ownMove false s)

/-! ### Placing an instruction -/

/-- Where the placed strand word lies, virtually and physically: one large page, reached through one table. -/
def placeVa : Nat := 0x800_0000

/-- Write the table of the placed page at 0x1000: entry 0 leads to the table itself, entry 64 is the leaf (R404). -/
def placeTable (s : State) : State :=
  setMemBytes 0x1200 (toBytes (2 ^ 63 + 2 ^ 62 + 2 ^ 60 + placeVa) 8) (setMemBytes 0x1000 (toBytes (2 ^ 63 + 0x1000) 8) s)

/-- A strand that issues at an address next. -/
def aimStrand (c : Nat) (va : Word) (st : Strand) : Strand :=
  { st with run := .running, pc := va, readyAt := c, hold := .none, wait := none, arrived := false, mem := none, trap := none,
            landings := [], deposits := [], handles := [], atStop := false }

/-- Strand 0 of spindle 0 stands at a strand word in partition 0. -/
def placeStrand (w : Nat) (s : State) : State :=
  let s1 := setMemBytes placeVa (toBytes w 8 ++ List.replicate 8 0) (placeTable s)
  let s2 := { s1 with parts := SMap.modify .start s1.parts 0 fun x =>
    { x with w := SMap.set 0 (SMap.set 0 (SMap.set 0 x.w 3 0x1000) 13 0) 14 (BitVec.ofNat 64 (2 ^ 30)) } }
  updSpindle 0 (fun p => updStrandOf 0 (aimStrand s.cycle (BitVec.ofNat 64 placeVa))
    { p with part := 0, last := 3, issued := 0, stopping := false, dbg := { p.dbg with state := 0 } }) s2

/-- The run of Whorl 0 stands at a program word of slot 0, whose program has 64 words. -/
def placeWhorl (w : Nat) (s : State) : State :=
  updWhorl 0 (fun x => { x with
    slots := SMap.set .start x.slots 0 { attachAt x 0 with w0 := 0x7E00 }
    prog := SMap.set 0 x.prog 0 (BitVec.ofNat 32 w)
    run := some { slot := 0, ev := ⟨0, 0, 0, 0, 0, 0, 0, none⟩, pc := 0, regs := [], due := s.tick } }) s

/-- `s` with an instruction placed where the next step fetches it: a Whorl word of 32 bits, or a strand word. -/
def State.withFetchWord (s : State) (nbits w : Nat) : State := if nbits = 32 then placeWhorl w s else placeStrand w s

end Sys2Proof.Machine
end

