-- ==== Sys2Proof/Safety.lean ====
section
/-! DEFINITION. The terms that claims use: what a sound state is, what a word leaves behind, and what a frame keeps. -/

namespace Sys2Proof.Machine

/-! ### Sound states -/

/-- The canonical form of memory: addresses strictly rise, and no byte is listed that an unlisted address reads as. -/
abbrev Memory.wf (m : List Host.Cell) : Bool := SMap.wf memDefault m

/-- The form that every step keeps: memory is canonical, and no word is in focus between steps. -/
def State.sound (s : State) : Prop := Memory.wf s.mem = true ∧ s.cur = .start

/-- A turn of the machine's own, taken at `s1`: the plan has ended, or names such a turn, `held` where it leaves out what comes at no fixed
time; and of what the turn takes nothing is due before the next issue. -/
def State.quiet (held : Bool) (s s1 : State) : Prop :=
  ((s.agenda = [] ∧ held = false ∧ s1 = s) ∨ ∃ r, s.agenda = (if held then .held else .timed) :: r ∧ s1 = { s with agenda := r }) ∧
    nextMove held s1 = none

/-! ### When a word has its effect -/

/-- Lane 0 of the guard is true, and no upset strikes. -/
def goes (g : Fin 16) (gn : Bool) (s : State) : Prop := guard0 s g gn = true ∧ s.upsets = []

/-- The word may execute with these floating-point types: full service or an offered type, and no DYN with RSR (R56, R412). -/
def fpMayRun (s : State) (w : O3) (ts : List Ty) (dyn : Bool) : Prop :=
  ts.all (servedType s) = true ∧ (dyn = true → ¬(w.mod.toNat % 8 = 7 ∧ bits (rd s).fpctl.toNat 20 3 = 4))

/-! ### What a word leaves behind -/

/-- An integer result through the common write of R96, landing after one cycle, or two when voted. -/
def scalarWrite (w : O3) (x : Int) (s : State) : State :=
  landS (voteLat w.v 1) w.dst (commonWrite w.ty (modSatBit w.mod) x).1 (commonWrite w.ty (modSatBit w.mod) x).2 s

/-- An immediate word's result through the common write of R96 with MOD[3] = 0. -/
def immWrite (w : I32) (x : Int) (s : State) : State :=
  landS (voteLat w.v 1) w.dst (commonWrite w.ty false x).1 (commonWrite w.ty false x).2 s

/-- The SHADOW that the results of a word raise: of the first lane and element whose shadow's result is not near its own (R39,
R137). -/
def shadowFound (cls op : Nat) (latch : Bool) (w : O3) (t : Ty) (rs : List (List ElemRes)) : Option (BitVec 32) :=
  shadowOf (unitCode (inClusterB cls op w) latch) (shadowRows t rs) none

/-- The results of operation `op` of class 0x08: lanes and flags of the elements of the active lanes, and the check of each
against its shadow. -/
def vecWrite (op : Nat) (w : O3) (f : Nat → Nat → ElemRes) (s : State) : State :=
  let rs := overLanes (guardMask s w.g w.gn) w.ty.elems f
  deliverFp 4 (dstVector w.dst (guardMask s w.g w.gn) (lanesFrom w.ty rs)) (flagsOf rs) (shadowFound 0x08 op false w w.ty rs) s

/-- An integer vector word's results, element by element, through the write of R96. -/
def vecIntWrite (w : O3) (f : Nat → Nat → Int) (s : State) : State :=
  landAt 2 (dstVector w.dst (guardMask s w.g w.gn) (lanesFrom w.ty (overLanes (guardMask s w.g w.gn) w.ty.elems
      fun l e => narrowField w.ty (modSatBit w.mod) (f l e))))
    (flagsOf (overLanes (guardMask s w.g w.gn) w.ty.elems fun l e => narrowField w.ty (modSatBit w.mod) (f l e))) s

/-- The results of latch word `op`, a function of each lane's operands, whose shadow reads them cut (R39): the lanes that take
no part deposit 0. -/
def latchWrite (op : Nat) (w : O3) (f : Fp → Fp → FpF) (s : State) : State :=
  let rs := overLanes (guardMask s w.g w.gn) 1 fun l _ =>
    roundElem s w (f (fpAt .f32 s w.a l 0) (fpAt .f32 s w.b l 0)) (f (fpAt .f32 s w.a l 0).short (fpAt .f32 s w.b l 0).short) .product
  depositIn 14 w.c.litVal (lanesFrom .f32 rs) 0 (flagsOf rs) (shadowFound 0x0A op true w .f32 rs) s

/-- Lanes moved under the guard after `n` cycles. -/
def laneWrite (n : Nat) (w : O3) (f : Nat → Lane) (s : State) : State :=
  deliverData n (tyIsFp w.ty) (dstVector w.dst (guardMask s w.g w.gn) ((upto 64).map f)) 0 none s

/-! ### Accesses to memory and scratchpad -/

/-- An access of `len` bytes through the handle of a word passes every check of R186: the handle is valid and resident, the
offset aligned and in its page, stores permitted where it stores, and the page not of the device region. -/
def accessGood (s : State) (w : O3) (al len : Nat) (store : Bool) : Prop :=
  let h := hregOf (rd s) (hNum w.a)
  hV h = true ∧ hNR h = false ∧ offsetOf s w.b % al = 0 ∧ offsetOf s w.b + len ≤ hSize h ∧ (store = true → hWR h = true) ∧
    inDevice s (mySpindle s).part (hBase h + offsetOf s w.b) = false

/-- The virtual address that a word's handle and offset name. -/
def accessVa (s : State) (w : O3) : Nat := hBase (hregOf (rd s) (hNum w.a)) + offsetOf s w.b

/-- The physical address that a word's handle and offset name. -/
def accessPa (s : State) (w : O3) : Nat := SMap.get 0 (rd s).hpa (hNum w.a) + offsetOf s w.b

/-- An indexed access passes every check of R191. -/
def indexedGood (s : State) (w : O3) (store : Bool) : Prop :=
  let h := hregOf (rd s) (hNum w.a)
  hV h = true ∧ hNR h = false ∧ offsetOf s w.b % 4 = 0 ∧ laneOut s w (hSize h) = none ∧ (store = true → hWR h = true) ∧
    inDevice s (mySpindle s).part (hBase h) = false

/-- No store, atomic operation, addend, bobbin or flit of a strand is still out: a release completes at once. -/
def nothingOut (s : State) (n k : Nat) : Prop :=
  hasPosted s n k = false ∧ hasAddend s n k = false ∧ ∀ b ∈ (usedBobbins s).map (·.2) ++ s.flits, holdsOf b n k = false

/-- The state behind a release of the strand in focus with a mask, of no class where the mask is 0 (R231, R235). -/
def released (mask : BitVec 5) (s : State) : State := if mask = 0 then s else endRelease s.cur.spn s.cur.strand mask s

/-- The strand in focus sends requests to memory and waits for their answer. -/
def sends (acq : BitVec 5) (reqs : List (Nat × Word × Nat)) (s : State) : State :=
  again (updMe (fun st => { st with mem := some (.sent s.cycle s.tick s.cur.addr (attOf s st.tag) acq reqs) }) s)

/-- A strand's scratchpad range is aligned, in its granules, and no unordered entry or open slot lies under it. -/
def scratchGood (s : State) (wr : Bool) (off len : Nat) : Prop :=
  off % 4 = 0 ∧ off + len ≤ (mySpindle s).sg * 65536 ∧
    ((mySpindle s).det = true → zoneFault (mySpindle s) (unitsOf off len) = none ∧
      overlapFault (mySpindle s) 5 (nextEntry (mySpindle s)) wr (unitsOf off len) = none)

/-- The state behind an entry of the strands: the banks it takes, and the overlap checker's record, kept in determinism mode
only. -/
def entered (wr : Bool) (us : List Nat) (s : State) : State :=
  let t := updMySpindle (takeBanks (us.map unitBank)) s
  if (mySpindle t).det then updMySpindle (noteEntry wr us) t else t

/-! ### Accesses of the engines -/

/-- An engine's scratchpad accesses of one issue pass every check: tile tags, open slots, unordered entries, poison (R252). -/
def engineGood (s : State) (n q : Nat) (r : Rec) (chk : Option (BitVec 16 × Nat × Nat)) (reads writes : List (Nat × Nat)) : Prop :=
  let p := spindleAt s n
  let units := fun xs : List (Nat × Nat) => xs.flatMap fun x => unitsOf x.1 x.2
  (∀ c, chk = some c → ∀ t ∈ tilesOf c.2.1 c.2.2, tileTag p t = c.1) ∧
  (p.det = true → zoneFault p (units reads ++ units writes) = none ∧ overlapFault p q r.vt false (units reads) = none ∧
    overlapFault p q r.vt true (units writes) = none) ∧
  ∀ x ∈ reads, scratchPoison p x.1 x.2 = none

/-- The overlap checker's record of an engine's accesses, kept in determinism mode only. -/
def engineNoted (n q seq : Nat) (reads writes : List (Nat × Nat)) (s : State) : State :=
  let units := fun xs : List (Nat × Nat) => xs.flatMap fun x => unitsOf x.1 x.2
  if (spindleAt s n).det then updSpindle n (fun p => noteUnits q seq true (units writes) (noteUnits q seq false (units reads) p)) s else s

/-- The source chunk of a copy record's issue is there, as `bs`: in scratchpad, or returned from memory; `t` is the state
after its reading. -/
def readsChunk (n q : Nat) (r : Rec) (off : Int) (len : Nat) (s : State) (bs : List Byte) (t : State) : Prop :=
  let o := off.toNat
  let chk := if r.chk then some (r.dtag 0, o, len) else none
  (r.sp 0 = false ∧ engineGood s n q r chk [(o, len)] [] ∧ t = engineNoted n q r.seq [(o, len)] [] s ∧
    bs = scratchBytes (spindleAt t n) o len) ∨
  (r.sp 0 = true ∧ r.data = some bs ∧ t = s)

/-- The destination of a copy record's issue takes a chunk: scratchpad, or pages that are there; `t` is the state after. -/
def putsChunk (n q : Nat) (r : Rec) (bs : List Byte) (s t : State) : Prop :=
  let off := r.byte (dstOperand r) r.n
  let va := recordVa r 1 (16 * r.addr (dstOperand r) r.n)
  (r.sp 1 = false ∧ engineGood s n q r none [] [(off, bs.length)] ∧
    t = countIssue n q r.units (updSpindle n (scratchWrite off bs false) (engineNoted n q r.seq [] [(off, bs.length)] s))) ∨
  (r.sp 1 = true ∧ ∃ rs, recordReqs s (spindleAt s n).part va bs.length true = .ok rs ∧
    t = countIssue n q r.units (writeReqs n q r rs bs s))

/-! ### Frames -/

/-- Everything of a state but its spindles, its focus, its upsets and the Whorls, which watch every word and count what they drop. -/
def sameOutside (s t : State) : Prop :=
  t = { s with spindles := t.spindles, cur := t.cur, upsets := t.upsets, whorls := t.whorls, races := t.races }

/-- Every strand but one is as before, on every spindle. -/
def otherStrands (n k : Nat) (s t : State) : Prop := ∀ m j, ¬(m = n ∧ j = k) → strandAt t m j = strandAt s m j

/-- A strand's registers of every kind that a program names. -/
def sameRegs (a b : Strand) : Prop :=
  b.sreg = a.sreg ∧ b.vreg = a.vreg ∧ b.preg = a.preg ∧ b.hreg = a.hreg ∧ b.slab = a.slab

/-- Every byte of memory reads as before. -/
def sameMemory (s t : State) : Prop := ∀ a, memByte t a = memByte s a

end Sys2Proof.Machine
end

