-- ==== Sys2Proof/Certificates/Slice0/Obligations.lean ====
section
/-! DEFINITION. The statements about this machine, from the numbered rules of the spec. -/

open Sys2Proof Sys2Proof.Machine

/-! ### Scalar, control and system words -/

/-- R96, R97, R100: The integer operations of class 0x01 that compute on exact integers, for every type, vote and .sat. The
immediate words. -/
def Obligations.ScalarIntegerResults : Prop :=
  (∀ (w : O3) (s : State), goes w.g w.gn s →
    let a := scalarVal w.ty s w.a
    let b := scalarVal w.ty s w.b
    let c := scalarVal w.ty s w.c
    exec (.add w) s = .next (scalarWrite w (a + b) s) ∧
    exec (.sub w) s = .next (scalarWrite w (a - b) s) ∧
    exec (.mul w) s = .next (scalarWrite w (a * b) s) ∧
    exec (.mulh w) s = .next (scalarWrite w (a * b / (2 : Int) ^ w.ty.width) s) ∧
    exec (.madd w) s = .next (scalarWrite w (a * b + c) s) ∧
    exec (.shl w) s = .next (scalarWrite w (a * (2 : Int) ^ (b % 64).toNat) s) ∧
    exec (.abs w) s = .next (scalarWrite w (if a < 0 then -a else a) s) ∧
    exec (.neg w) s = .next (scalarWrite w (-a) s) ∧
    exec (.mov w) s = .next (scalarWrite w a s) ∧
    (w.ty ≠ .f32 → exec (.min w) s = .next (scalarWrite w (if a ≤ b then a else b) s)) ∧
    (w.ty ≠ .f32 → exec (.max w) s = .next (scalarWrite w (if a ≤ b then b else a) s))) ∧
  (∀ (w : I32) (s : State), goes w.g w.gn s →
    let d := tyInt w.ty (dstRead s w.dst).toNat
    let x := immVal w.ty w.imm
    let n := w.ty.width
    exec (.li w) s = .next (immWrite w x s) ∧
    exec (.lih w) s = .next (landS (voteLat w.v 1) w.dst
      (BitVec.ofNat 64 (w.imm.toNat * 2 ^ 32 + (dstRead s w.dst).toNat % 2 ^ 32)) 0 s) ∧
    exec (.addi w) s = .next (immWrite w (d + x) s) ∧
    exec (.muli w) s = .next (immWrite w (d * x) s) ∧
    exec (.andi w) s = .next (immWrite w ((wrap d n &&& wrap x n : Nat) : Int) s) ∧
    exec (.ori w) s = .next (immWrite w ((wrap d n ||| wrap x n : Nat) : Int) s) ∧
    exec (.xori w) s = .next (immWrite w ((wrap d n ^^^ wrap x n : Nat) : Int) s))

/-- R39, R93, R97 to R99: The operations of class 0x01 that work on the field of the type's width. Minimum, maximum and
comparison on .f32, comparison and selection of integers, and the loop index. An enabled flag is not raised in the cases
stated, and a minimum or maximum is near its shadow's, whose operands are cut. A voted word whose copies do not agree. Where
two agree, their effect takes place, the spindle's count of corrections grows by 1 and the word's address enters the log while
it has room; where all differ, nothing changes but that VOTE3 is raised and F.CORRUPT set. `s` is the state without the upset;
the copies vote before the guard is looked at (log entry 111: the model's choice). Where the manual leaves a choice it follows
the model's, log entries 106, 111. -/
def Obligations.ScalarFieldResults : Prop :=
  (∀ (w : O3) (s : State), goes w.g w.gn s →
    let n := w.ty.width
    let a := scalarBits w.ty s w.a
    let b := scalarBits w.ty s w.b
    let pos := (scalarSrc w.ty s w.b).toNat % 64
    let len := min ((scalarSrc w.ty s w.c).toNat % 128) 64
    let x := (scalarVal w.ty s w.a / (2 : Int) ^ pos % (2 : Int) ^ len).toNat
    exec (.and w) s = .next (scalarWrite w ((a &&& b : Nat) : Int) s) ∧
    exec (.or w) s = .next (scalarWrite w ((a ||| b : Nat) : Int) s) ∧
    exec (.xor w) s = .next (scalarWrite w ((a ^^^ b : Nat) : Int) s) ∧
    exec (.andn w) s = .next (scalarWrite w ((a &&& (2 ^ n - 1 - b) : Nat) : Int) s) ∧
    exec (.shr w) s = .next (scalarWrite w ((a / 2 ^ (b % 64) : Nat) : Int) s) ∧
    exec (.sra w) s = .next (scalarWrite w (signedValue a n / (2 : Int) ^ min (b % 64) (n - 1)) s) ∧
    exec (.rotl w) s = .next (scalarWrite w ((rotl a (b % n) n : Nat) : Int) s) ∧
    exec (.clz w) s = .next (scalarWrite w ((leadingZeros a n : Nat) : Int) s) ∧
    exec (.popc w) s = .next (scalarWrite w ((ones a n : Nat) : Int) s) ∧
    (modSatBit w.mod = false → exec (.bfx w) s =
      .next (scalarWrite w (if len = 0 then 0 else if w.ty.signed then signedValue x len else (x : Int)) s)) ∧
    (modSatBit w.mod = false → exec (.bfi w) s =
      .next (scalarWrite w (bfiRes n (dstRead s w.dst).toNat a (scalarSrc w.ty s w.b).toNat (scalarSrc w.ty s w.c).toNat) s))) ∧
  (∀ (w : O3) (s : State), goes w.g w.gn s →
    let a := scalarBits .f32 s w.a
    let b := scalarBits .f32 s w.b
    let near := fun most : Bool => shadowOf 4
      [[some ⟨.product, (minMaxFp .fp32 most a b).1, (minMaxFp .fp32 most (shortEnc .fp32 a) (shortEnc .fp32 b)).1⟩]] none = none
    (w.ty = .f32 → enabled (me s) (minMaxFp .fp32 false a b).2 = 0 → near false → exec (.min w) s =
      .next (landS (voteLat w.v 1) w.dst (BitVec.ofNat 64 (minMaxFp .fp32 false a b).1) (minMaxFp .fp32 false a b).2 s)) ∧
    (w.ty = .f32 → enabled (me s) (minMaxFp .fp32 true a b).2 = 0 → near true → exec (.max w) s =
      .next (landS (voteLat w.v 1) w.dst (BitVec.ofNat 64 (minMaxFp .fp32 true a b).1) (minMaxFp .fp32 true a b).2 s)) ∧
    (w.ty = .f32 → enabled (me s) (sigFlags [Fp.decode .fp32 a, Fp.decode .fp32 b]) = 0 → exec (.cmp w) s =
      .next (landS (voteLat w.v 1) w.dst (condWord w.dst (condFp w.mod.toNat (Fp.decode .fp32 a) (Fp.decode .fp32 b)))
        (sigFlags [Fp.decode .fp32 a, Fp.decode .fp32 b]) s)) ∧
    (w.ty ≠ .f32 → exec (.cmp w) s = .next (landS (voteLat w.v 1) w.dst
        (condWord w.dst (condInt w.mod.toNat (scalarVal w.ty s w.a) (scalarVal w.ty s w.b))) 0 s)) ∧
    (modSatBit w.mod = false → exec (.sel w) s =
      .next (scalarWrite w (if selCond w s then scalarVal w.ty s w.a else scalarVal w.ty s w.b) s)) ∧
    (modSatBit w.mod = false → exec (.idx w) s = .next (scalarWrite w
      (((loopAt (rd s) w.a.litVal).map fun l => l.i).getD 0 : Nat) s))) ∧
  ((∀ (s : State), s.upsets = [] →
    let n := s.cur.spn
    let k := s.cur.strand
    let fares := fun i : Instr =>
      (∃ t, exec i s = .next t ∧ exec i { s with upsets := [.voteOne n k] } = .next (logCorrection n k s.cur.addr t)) ∧
      exec i { s with upsets := [.voteAll n k] } = .next (meetCorrupt 1 0 (raise 0x0B 0 0 s))
    (∀ w : O3, w.v = true →
      (∀ c ∈ [Instr.add, .sub, .mul, .mulh, .madd, .and, .or, .xor, .andn, .shl, .shr, .sra, .rotl, .min, .max, .abs, .neg, .clz,
        .popc, .cmp, .sel, .mov, .idx, .bfx, .bfi, .calli, .ret, .jmpi, .halt, .yield], fares (c w)) ∧
      (guard0 s w.g w.gn = true → (latchAt (rd s) w.a.litVal).st ≠ .pending → fares (.movl w))) ∧
    (∀ w : I32, w.v = true → ∀ c ∈ [Instr.li, .lih, .addi, .muli, .andi, .ori, .xori], fares (c w)) ∧
    (∀ w : B24, w.v = true → ∀ c ∈ [Instr.br, .call, .loop, .loopi], fares (c w)) ∧
    (∀ w : FormN, w.v = true → fares (.nop w))) ∧
  (∀ (n k : Nat) (a : Word) (s : State),
    let p := spindleAt s n
    spindleAt (logCorrection n k a s) n = { p with
      cvotes := min (2 ^ 32 - 1) (p.cvotes + 1)
      corr := if p.corr.length < 16 then p.corr ++ [(k, a)] else p.corr }))

/-- R96: The common write. Without .sat the result wraps to the type's width; with it, it is clamped to the type's range, and
ISAT is set exactly when it is clamped; the field is then extended by the type's signedness. -/
def Obligations.CommonWriteValue : Prop :=
  ∀ (t : Ty) (x : Int), t.isIntB = true →
    let lo : Int := if t.signed then -(2 : Int) ^ (t.width - 1) else 0
    let hi : Int := if t.signed then (2 : Int) ^ (t.width - 1) - 1 else (2 : Int) ^ t.width - 1
    (commonWrite t false x).2 = 0 ∧
    (∃ y : Int, lo ≤ y ∧ y ≤ hi ∧ y % (2 : Int) ^ t.width = x % (2 : Int) ^ t.width ∧
      (commonWrite t false x).1 = BitVec.ofInt 64 y) ∧
    (commonWrite t true x).1 = BitVec.ofInt 64 (max lo (min hi x)) ∧
    ((commonWrite t true x).2 = flISAT ↔ x < lo ∨ hi < x) ∧
    ((commonWrite t true x).2 = 0 ↔ lo ≤ x ∧ x ≤ hi)

/-- R85, R89, R90, R92, R95, R102 to R107, R112: Transfers of control, HALT, YIELD and NOP. YIELD waits for the strands that
are eligible now. Entering a hardware loop, leaving out a loop with T = 0, and MOVL, which waits on a PENDING latch, and after
the copy of a FULL one raises FPX where the deposit left an enabled flag. With T = 0 the loop is left inactive and control
passes to the group after the one that holds the end address (log entry 116, the model's choice: one word on where the word
there cannot be fetched). A latch that MOVL has read is EMPTY, but where a latch-unit word of the group has already made it
PENDING (log entry 112: the model's choice). Where the manual leaves a choice it follows the model's, log entries 111, 112,
116. -/
def Obligations.TransferResults : Prop :=
  ((∀ (w : B24) (s : State), goes w.g w.gn s →
    let t := addr57 (s.cur.addr + BitVec.ofInt 64 (w.off.toInt * 8))
    exec (.br w) s = .next (transfer t s) ∧
    ((rd s).depth ≠ 80 → exec (.call w) s = .next (transfer t (updMe (rasPush (addr57 s.cur.next)) s)))) ∧
  (∀ (w : O3) (s : State), goes w.g w.gn s →
    let t := srcZero s w.a
    (t.toNat % 8 = 0 → exec (.jmpi w) s = .next (transfer (addr57 t) s)) ∧
    (t.toNat % 8 = 0 → (rd s).depth ≠ 80 →
      exec (.calli w) s = .next (transfer (addr57 t) (updMe (rasPush (addr57 s.cur.next)) s))) ∧
    ((rasTop (rd s)).toNat % 8 = 0 → (rd s).depth ≠ 0 →
      exec (.ret w) s = .next (transfer (addr57 (rasTop (rd s))) (updMe rasPop s))) ∧
    exec (.halt w) s = .next (updMe haltStrand s) ∧
    (let others := (upto 4).filter fun k => k ≠ s.cur.strand && eligible s s.cur.spn k
     exec (.yield w) s =
      .next (if others.isEmpty then s else updMe (fun st => { st with hold := .yield others (s.cycle + 4) }) s))) ∧
  (∀ (w : FormN) (s : State), s.upsets = [] → exec (.nop w) s =
    .next (if w.count = 0 then s
      else lockUntil (s.cycle + w.count.toNat + 1) (updMe (fun st => { st with hold := .nop }) s)))) ∧
  ((∀ (w : B24) (s : State) (t n : Nat), goes w.g w.gn s →
    ¬(2 ≤ n ∧ (modLoop (rd s)).any (fun x => x ≠ w.lid.val) = true) →
    let e := addr57 (s.cur.addr + BitVec.ofInt 64 (w.off.toInt * 8))
    let l : LoopSt := { start := addr57 s.cur.next, stop := e, k := t + n - 1, i := 0, s := n, t := t }
    let entered := if t = 0 then updCur (fun f => { f with next := afterGroup s s.cur.spn s.cur.strand e }) (updMe (dropLoop w.lid.val) s)
      else updCur (fun f => { f with started := w.lid.val :: f.started }) (updMe (enterLoop s.cycle w.lid.val l) s)
    ((srcZero s (loopSource w.aux)).toNat % 2 ^ 32 = t → (srcZero s (loopSource w.aux)).toNat / 2 ^ 32 % 8 + 1 = n →
      exec (.loop w) s = .next entered) ∧
    (w.aux.toNat = t → n = 1 → exec (.loopi w) s = .next entered)) ∧
  (∀ (w : O3) (s : State), goes w.g w.gn s →
    let l := latchAt (rd s) w.a.litVal
    let moved := updMe (fun st => if (latchAt st w.a.litVal).st = .full then setLatch w.a.litVal .start st else st)
      (if w.a.litVal ≤ 3 then landAt (voteLat w.v 2) (dstVector w.dst allLanes l.lanes) 0 s
       else landAt (voteLat w.v 1) (dstScalar w.dst l.word) 0 s)
    (l.st = .full → enabled (rd s) l.flags = 0 → exec (.movl w) s = .next moved) ∧
    (l.st = .full → enabled (rd s) l.flags ≠ 0 →
      exec (.movl w) s = .next (raiseAfter 0x09 (l.flags.toNat % 32) moved)) ∧
    (l.st = .pending → exec (.movl w) s = .next (again (updMe (fun st => { st with hold := .latch w.a.litVal }) s)))))

/-- R59, R89, R92, R102, R103, R105, R108, R109, R124, R126: Where the control words trap: a full or empty return-address
store, a target that is not aligned, a loop with two stages or more beside another one, a latch that is EMPTY. What the system
words raise: PRIV in the unprivileged view on a register that it does not read or may not write, and on ERET; ILLEGAL on a
number that is not assigned; ERET outside a handler, or to an address that is not aligned; STRSTART of a strand that runs or
is stopped by a double trap, and of another one at an address not aligned. -/
def Obligations.ControlTraps : Prop :=
  ((∀ (w : B24) (s : State), goes w.g w.gn s →
    ((rd s).depth = 80 → exec (.call w) s = .next (raise 0x0C (det 1 0) 0 s)) ∧
    ((srcZero s (loopSource w.aux)).toNat / 2 ^ 32 % 8 ≠ 0 → (modLoop (rd s)).any (fun x => x ≠ w.lid.val) = true →
      exec (.loop w) s = .next (raiseSched 0xE1 w.lid.val s))) ∧
  (∀ (w : O3) (s : State), goes w.g w.gn s →
    ((srcZero s w.a).toNat % 8 ≠ 0 → exec (.calli w) s = .next (raiseAlign 0 s) ∧ exec (.jmpi w) s = .next (raiseAlign 0 s)) ∧
    ((srcZero s w.a).toNat % 8 = 0 → (rd s).depth = 80 → exec (.calli w) s = .next (raise 0x0C (det 1 0) 0 s)) ∧
    ((rd s).depth = 0 → exec (.ret w) s = .next (raise 0x0C (det 2 0) 0 s)) ∧
    ((rd s).depth ≠ 0 → (rasTop (rd s)).toNat % 8 ≠ 0 → exec (.ret w) s = .next (raiseAlign 0 s)) ∧
    ((latchAt (rd s) w.a.litVal).st = .empty → exec (.movl w) s = .next (raiseSched 0xE0 w.a.litVal s)))) ∧
  (∀ (w : O3) (s : State), guard0 s w.g w.gn = true →
    let n := srcNum s w.a 8
    ((me s).privm = false →
      (0x08 ≤ n → n ≤ 0x10 → exec (.mfcr w) s = .next (raisePriv s)) ∧
      ((n = 0x02 ∨ (0x08 ≤ n ∧ n ≤ 0x12)) → exec (.mtcr w) s = .next (raisePriv s)) ∧
      exec (.eret w) s = .next (raisePriv s)) ∧
    (0x13 < n → exec (.mfcr w) s = .next (raiseIllegal 0x04 0x03 5 s) ∧ exec (.mtcr w) s = .next (raiseIllegal 0x04 0x04 5 s)) ∧
    ((me s).privm = true → (me s).exl = false → exec (.eret w) s = .next (raiseSched 0xE2 0 s)) ∧
    ((me s).privm = true → (me s).exl = true → (me s).epc.toNat % 8 ≠ 0 → exec (.eret w) s = .next (raiseAlign 0 s)) ∧
    ((strandAt s s.cur.spn (srcNum s w.a 2)).run = .running ∨ (strandAt s s.cur.spn (srcNum s w.a 2)).run = .dtrap →
      exec (.strstart w) s = .next (raiseSched 0xE3 (srcNum s w.a 2) s)) ∧
    ((strandAt s s.cur.spn (srcNum s w.a 2)).run = .idle ∨ (strandAt s s.cur.spn (srcNum s w.a 2)).run = .halted → (srcZero s w.b).toNat % 8 ≠ 0 →
      exec (.strstart w) s = .next (raiseAlign 0 s)))

/-- R111, R123 to R130: The system words. SETFP, and MTCR of FPCTL, leave the bits set that a landing or a deposit of the same
cycle sets, and clear those of earlier ones: that the wait of R125 and R129 ends in the cycle of the last landing is the
model's choice (log entry 37). Where the manual leaves a choice it follows the model's, log entries 37, 123. -/
def Obligations.SystemResults : Prop :=
  ∀ (w : O3) (s : State), guard0 s w.g w.gn = true →
    let n := srcNum s w.a 8
    exec (.trap w) s = .next (raiseAfter 0x80 (det n 0) s) ∧
    ((me s).privm = true → (me s).exl = true → (me s).epc.toNat % 8 = 0 → exec (.eret w) s = .next (returnTrap s)) ∧
    (∀ x, crRead s s.cur.spn (mySpindle s) (me s) n = some x → (crHidden n = true → (me s).privm = true) →
      (n = 1 → flagsInFlight (me s) = false) → exec (.mfcr w) s = .next (landS 1 w.dst x 0 s)) ∧
    (n ≤ 0x13 → (crSystem n = true → (me s).privm = true) → (n = 1 → flagsInFlight (me s) = false) →
      exec (.mtcr w) s = .next (crWrite n (srcZero s w.b) s)) ∧
    (let k := srcNum s w.a 2
     ((strandAt s s.cur.spn k).run = .idle ∨ (strandAt s s.cur.spn k).run = .halted) → (srcZero s w.b).toNat % 8 = 0 →
      exec (.strstart w) s =
        .next (updStrand s.cur.spn k (startStrand (me s) (addr57 (srcZero s w.b)) (srcZero s w.c) (s.cycle + 2)) s)) ∧
    ((∀ k, k < 4 → bitOf (srcNum s w.a 4) k = true → k ≠ s.cur.strand →
        (strandAt s s.cur.spn k).run ≠ .running ∧ (strandAt s s.cur.spn k).run ≠ .purged) →
      exec (.strwait w) s = .next (landS 1 w.dst (BitVec.ofNat 64 (maskOf (fun k =>
        bitOf (srcNum s w.a 4) k && k ≠ s.cur.strand && (strandAt s s.cur.spn k).run = .dtrap) 4)) 0 s)) ∧
    exec (.strid w) s = .next (landS 1 w.dst (BitVec.ofNat 64 s.cur.strand) 0 s) ∧
    (flagsInFlight (me s) = false → exec (.setfp w) s = .next (landS 1 w.dst (me s).fpctl 0
      (updMe (fun st => { st with fpctl := fpctlWrite (me s).fpctl (srcZero s w.a) (srcZero s w.b) |||
        (if st.hwAt = s.cycle then st.hwFlags.zeroExtend 64 else 0) }) s)))

/-! ### Vector words -/

/-- R39, R97, R112, R134 to R143: The floating-point vector words, element by element, with no upset and where the mode and
the type may run. `a l e` and so on are the values of element e of lane l; the shadow computes with them cut to sign, exponent
and three fraction bits (log entry 106: how, is the model's choice). How a floating-point word delivers. Outside the
interlocked mode the result and flags of a vector word land together after L cycles, and with them a SHADOW that it has found;
in it, an enabled flag or a SHADOW lets nothing of the word take effect but a precise FPX or SHADOW at the landing, and the
next group and the writes of a pair wait for the landing. A scalar word raises both precisely in either mode. F.CORRUPT is set
whatever trap a word with a SHADOW raises. A word that meets both an enabled flag and a SHADOW raises FPX: that order is the
model's choice (log entry 124). Where the manual leaves a choice it follows the model's, log entries 14, 106, 124. -/
def Obligations.VectorFloatResults : Prop :=
  (∀ (w : O3) (s : State), s.upsets = [] → fpMayRun s w [w.ty] true →
    let f := fmtOf w.ty
    let a := fpAt w.ty s w.a
    let b := fpAt w.ty s w.b
    let c := fpAt w.ty s w.c
    let a' := fun l e => (a l e).short
    let b' := fun l e => (b l e).short
    let c' := fun l e => (c l e).short
    exec (.vadd w) s = .next (vecWrite 0x01 w (fun l e =>
      roundElem s w (addExact (a l e) (b l e)) (addExact (a' l e) (b' l e)) (sumRow (a l e) (b l e))) s) ∧
    exec (.vsub w) s = .next (vecWrite 0x02 w (fun l e =>
      roundElem s w (addExact (a l e) (b l e).negate) (addExact (a' l e) (b' l e).negate) (sumRow (a l e) (b l e))) s) ∧
    exec (.vmul w) s = .next (vecWrite 0x03 w (fun l e =>
      roundElem s w (mulExact (a l e) (b l e)) (mulExact (a' l e) (b' l e)) .product) s) ∧
    exec (.vfma w) s = .next (vecWrite 0x04 w (fun l e => roundElem s w (fmaExact false (a l e) (b l e) (c l e))
      (fmaExact false (a' l e) (b' l e) (c' l e)) (sumRow (mulExact (a l e) (b l e)).1 (c l e))) s) ∧
    exec (.vfms w) s = .next (vecWrite 0x05 w (fun l e => roundElem s w (fmaExact false (a l e) (b l e) (c l e).negate)
      (fmaExact false (a' l e) (b' l e) (c' l e).negate) (sumRow (mulExact (a l e) (b l e)).1 (c l e))) s) ∧
    exec (.vfnma w) s = .next (vecWrite 0x06 w (fun l e => roundElem s w (fmaExact true (a l e) (b l e) (c l e))
      (fmaExact true (a' l e) (b' l e) (c' l e)) (sumRow (mulExact (a l e) (b l e)).1 (c l e))) s) ∧
    exec (.vmin w) s = .next (vecWrite 0x07 w (fun l e => minMaxElem s w false l e) s) ∧
    exec (.vmax w) s = .next (vecWrite 0x08 w (fun l e => minMaxElem s w true l e) s) ∧
    exec (.vabs w) s = .next (vecWrite 0x09 w (fun l e => signElem f (encAt w.ty s w.a l e) false) s) ∧
    exec (.vneg w) s = .next (vecWrite 0x0A w (fun l e =>
      signElem f (encAt w.ty s w.a l e) (!bitOf (encAt w.ty s w.a l e) (w.ty.width - 1))) s) ∧
    (let n := fun l e => signedValue (encAt w.ty s w.b l e) w.ty.width
     exec (.vscale w) s = .next (vecWrite 0x0B w (fun l e =>
      roundElem s w (scaleFp (a l e) (n l e)) (scaleFp (a' l e) (n l e)) .product) s)) ∧
    exec (.vclass w) s = .next (vecWrite 0x0D w (fun l e => ⟨2 ^ classBit f (encAt w.ty s w.a l e), 0, none⟩) s) ∧
    (let m := guardMask s w.g w.gn
     let e := w.c.litVal / 8
     exec (.vcmp w) s = .next (deliverFp 4
       (dstPred w.dst m (BitVec.ofNat 64 (maskOf (fun l => condFp (w.c.litVal % 8) (a l e) (b l e)) 64)))
       ((upto 64).foldl (fun fl l => if m.getLsbD l then fl ||| sigFlags [a l e, b l e] else fl) (0 : Flags)) none s))) ∧
  ((∀ (n : Nat) (t : Target) (f : Flags) (s : State),
    (tenOf (rd s) = 0 → deliverFp n t f none s = landAt n t f s ∧
      ∀ dt, deliverFp n t f (some dt) s = updMe (fun st => { st with landings := st.landings ++
        [⟨s.cycle + n, t, f, 0, some dt, s.cur.addr, s.cur.second, st.exl⟩] }) s) ∧
    (tenOf (rd s) ≠ 0 → f &&& tenOf (rd s) = 0 →
      deliverFp n t f none s = lockUntil (s.cycle + n)
        (updCur (fun c => { c with holdTo := max c.holdTo (s.cycle + n) }) (landAt n t f s)) ∧
      ∀ dt, deliverFp n t f (some dt) s = raiseLate n (trapOf 0x0A dt.toNat .precise s.cur.group 0 s) 0 (some dt) s) ∧
    (tenOf (rd s) ≠ 0 → f &&& tenOf (rd s) ≠ 0 →
      ∀ sh, deliverFp n t f sh s = raiseLate n (trapOf 0x09 (f.toNat % 32) .precise s.cur.group 0 s) f sh s)) ∧
  (∀ (n : Nat) (d : Dst) (x : Word) (f : Flags) (s : State),
    (f &&& tenOf (me s) = 0 → deliverScalarFp n d x f none s = landS n d x f s ∧
      ∀ dt, deliverScalarFp n d x f (some dt) s = meetCorrupt 2 dt (raise 0x0A dt.toNat 0 s)) ∧
    (f &&& tenOf (me s) ≠ 0 →
      deliverScalarFp n d x f none s = raise 0x09 (f.toNat % 32) 0 (keepFlags f s) ∧
      ∀ dt, deliverScalarFp n d x f (some dt) s = meetCorrupt 2 dt (raise 0x09 (f.toNat % 32) 0 (keepFlags f s)))))

/-- R147 to R150: The integer vector words, element by element on the elements' bits; shifts take their amount from bits [5:0]
of the element of b. -/
def Obligations.VectorIntegerResults : Prop :=
  ∀ (w : O3) (s : State),
    let n := w.ty.width
    let a := encAt w.ty s w.a
    let b := encAt w.ty s w.b
    let x := fun l e => tyInt w.ty (a l e)
    let y := fun l e => tyInt w.ty (b l e)
    let z := fun l e => tyInt w.ty (encAt w.ty s w.c l e)
    exec (.viadd w) s = .next (vecIntWrite w (fun l e => x l e + y l e) s) ∧
    exec (.visub w) s = .next (vecIntWrite w (fun l e => x l e - y l e) s) ∧
    exec (.vimul w) s = .next (vecIntWrite w (fun l e => x l e * y l e) s) ∧
    exec (.vimulh w) s = .next (vecIntWrite w (fun l e => x l e * y l e / (2 : Int) ^ n) s) ∧
    exec (.vimadd w) s = .next (vecIntWrite w (fun l e => x l e * y l e + z l e) s) ∧
    exec (.vimin w) s = .next (vecIntWrite w (fun l e => if x l e ≤ y l e then x l e else y l e) s) ∧
    exec (.vimax w) s = .next (vecIntWrite w (fun l e => if x l e ≤ y l e then y l e else x l e) s) ∧
    exec (.viabs w) s = .next (vecIntWrite w (fun l e => if x l e < 0 then -x l e else x l e) s) ∧
    exec (.vand w) s = .next (vecIntWrite w (fun l e => ((a l e &&& b l e : Nat) : Int)) s) ∧
    exec (.vor w) s = .next (vecIntWrite w (fun l e => ((a l e ||| b l e : Nat) : Int)) s) ∧
    exec (.vxor w) s = .next (vecIntWrite w (fun l e => ((a l e ^^^ b l e : Nat) : Int)) s) ∧
    exec (.vandn w) s = .next (vecIntWrite w (fun l e => ((a l e &&& (2 ^ n - 1 - b l e) : Nat) : Int)) s) ∧
    exec (.vnot w) s = .next (vecIntWrite w (fun l e => ((2 ^ n - 1 - a l e : Nat) : Int)) s) ∧
    exec (.vshl w) s = .next (vecIntWrite w (fun l e => x l e * (2 : Int) ^ (b l e % 64)) s) ∧
    exec (.vshr w) s = .next (vecIntWrite w (fun l e => ((a l e / 2 ^ (b l e % 64) : Nat) : Int)) s) ∧
    exec (.vsra w) s = .next (vecIntWrite w (fun l e => signedValue (a l e) n / (2 : Int) ^ min (b l e % 64) (n - 1)) s) ∧
    exec (.vrotl w) s = .next (vecIntWrite w (fun l e => ((rotl (a l e) (b l e % 64 % n) n : Nat) : Int)) s) ∧
    exec (.vclz w) s = .next (vecIntWrite w (fun l e => ((leadingZeros (a l e) n : Nat) : Int)) s) ∧
    exec (.vpopc w) s = .next (vecIntWrite w (fun l e => ((ones (a l e) n : Nat) : Int)) s) ∧
    exec (.vicmp w) s = .next (landAt 2 (dstPred w.dst (guardMask s w.g w.gn) (BitVec.ofNat 64 (maskOf (fun l =>
      condInt (w.c.litVal % 8) (x l (w.c.litVal / 8)) (y l (w.c.litVal / 8))) 64))) 0 s) ∧
    exec (.vsel w) s = .next (landAt 2 (dstVector w.dst (guardMask s w.g w.gn) ((upto 64).map fun l =>
      if (srcPred s w.c).getLsbD l then srcLane w.ty s w.a l else srcLane w.ty s w.b l)) 0 s)

/-- R39, R88, R137, R144 to R146: The words that deposit into a result latch; the shadow of a function of FP32 operands
computes it with the operands cut (log entry 106: how, is the model's choice). Where the manual leaves a choice it follows the
model's, log entries 14, 33, 106. -/
def Obligations.LatchWordResults : Prop :=
  (∀ (w : O3) (s : State), s.upsets = [] → fpMayRun s w [w.ty] true →
    exec (.vdiv w) s = .next (latchWrite 0x01 w divExact s) ∧
    exec (.vsqrt w) s = .next (latchWrite 0x02 w (fun a _ => sqrtExact a) s) ∧
    exec (.vrsqrt w) s = .next (latchWrite 0x03 w (fun a _ => rsqrtExact a) s) ∧
    exec (.vrcp w) s = .next (latchWrite 0x04 w (fun a _ => divExact (.fin false 1 0) a) s) ∧
    exec (.vexp2 w) s = .next (latchWrite 0x05 w (fun a _ => exp2Exact a) s) ∧
    exec (.vlog2 w) s = .next (latchWrite 0x06 w (fun a _ => log2Exact a) s)) ∧
  (∀ (w : O3) (s : State), guard0 s w.g w.gn = true →
    let n := w.ty.width
    let a := tyInt w.ty (srcWord litSigned s w.a).toNat
    let b := tyInt w.ty (srcWord litSigned s w.b).toNat
    let q : Int := if b = 0 then (if w.ty.signed then -1 else (2 : Int) ^ n - 1) else a.tdiv b
    let r : Int := if b = 0 then a else a.tmod b
    let x := if modSatBit w.mod then (if w.ty.signed then satS q n else satU q n) else (wrap q n, false)
    let ext := fun y : Nat => if w.ty.signed then signExtend y n else zeroExtend y n
    exec (.div w) s = .next (depositIn 22 w.c.litVal [] (ext x.1) (flIf x.2 flISAT) none s) ∧
    exec (.rem w) s = .next (depositIn 22 w.c.litVal [] (ext (wrap r n)) 0 none s))

/-- R154, R157 to R160, R165 to R167: Conversions, reductions, scans and random numbers, with no upset and where the mode and
the types may run, and the SHADOW that each may find (log entry 106: how a shadow computes is the model's choice). Where the
manual leaves a choice it follows the model's, log entries 14, 106. -/
def Obligations.ConvertReduceResults : Prop :=
  ∀ (w : O3) (s : State), s.upsets = [] →
    let m := guardMask s w.g w.gn
    (fpMayRun s w [w.ty, cvtFrom w] true → exec (.vcvt w) s = .next (convert 0x01 w (fun _ _ => rmOf s w) s)) ∧
    (fpMayRun s w [w.ty, cvtFrom w] false → exec (.vcvtsr w) s = .next (convert 0x02 w (fun l e =>
      .rsr (draw s w.b (lanePos (pbWord s w.b 2) l + e) 0)) s)) ∧
    (fpMayRun s w [] (w.ty = .f32) → exec (.vredadd w) s = .next (reduceWord w (sumElem s w (actUpTo m 63)) s)) ∧
    exec (.vredmax w) s = .next (reduceWord w (extremeElem s w true) s) ∧
    exec (.vredmin w) s = .next (reduceWord w (extremeElem s w false) s) ∧
    (fpMayRun s w [] (w.ty = .f32) →
      let rs := overLanes m 1 fun l _ => sumElem s w (actUpTo m l)
      exec (.vscan w) s = .next (deliverData 6 (w.ty = .f32) (dstVector w.dst m (lanesFrom w.ty rs)) (flagsOf rs)
        (shadowFound 0x0B 0x12 false w w.ty rs) s)) ∧
    exec (.vrng w) s = .next (landAt 4 (dstVector w.dst m ((upto 64).map fun l =>
      if m.getLsbD l then BitVec.ofNat 32 (draw s w.a (lanePos (pbWord s w.a 2) l) (w.c.litVal % 4)) else 0)) 0 s) ∧
    (let x := fun l : Nat => Fp.fin false (draw s w.a (lanePos (pbWord s w.a 2) l) (w.c.litVal % 4) / 256 + w.c.litVal / 4) (-24)
     let rs := overLanes m 1 fun l _ =>
       (⟨(roundFp .fp32 .rne false (x l)).1, 0, some (.product, (roundFp .fp32 .rne false (x l).short).1)⟩ : ElemRes)
     exec (.vrngf w) s = .next (deliverFp 5 (dstVector w.dst m (lanesFrom .f32 rs)) 0 (shadowFound 0x0B 0x14 false w .f32 rs) s))

/-- R153, R161 to R164, R168: The words that move lanes; VINS writes the other lanes of its guard as it reads them at issue.
The predicate words, under the guard lane by lane; PCNT and PFIRST count and find among the lanes of the guard. -/
def Obligations.LaneMoveResults : Prop :=
  (∀ (w : O3) (s : State),
    let a := laneBits s w.a
    let b := laneBits s w.b
    let n := (srcWord litSigned s w.b).toNat % 64
    let p := srcPred s w.b
    (fpMayRun s w [w.ty] false → exec (.vpack w) s = .next (laneWrite 2 w (packLane s w) s)) ∧
    (fpMayRun s w [w.ty] false → exec (.vunpack w) s = .next (laneWrite 2 w (fun l =>
      let k := 64 * w.c.litVal + l
      let f := elemOf w.ty (a (k / w.ty.elems)) (k % w.ty.elems)
      (if w.ty.signed then signExtend f w.ty.width else zeroExtend f w.ty.width).truncate 32) s)) ∧
    exec (.vbcast w) s = .next (laneWrite 2 w (fun _ => a n) s) ∧
    exec (.vperm w) s = .next (laneWrite 2 w (fun l => a ((b l).toNat % 64)) s) ∧
    exec (.vshuf w) s = .next (laneWrite 2 w (fun l =>
      if w.c.litVal = 0 then (if l % 2 = 0 then a (l / 2) else b ((l - 1) / 2))
      else if w.c.litVal = 1 then (if l % 2 = 0 then a (32 + l / 2) else b (32 + (l - 1) / 2))
      else if w.c.litVal = 2 then (if l < 32 then a (2 * l) else b (2 * (l - 32)))
      else (if l < 32 then a (2 * l + 1) else b (2 * (l - 32) + 1))) s) ∧
    exec (.vrot w) s = .next (laneWrite 2 w (fun l => a ((l + n) % 64)) s) ∧
    exec (.vcompress w) s = .next (laneWrite 3 w (fun l => ((oneAt p l).map a).getD 0) s) ∧
    exec (.vexpand w) s = .next (laneWrite 3 w (fun l => if p.getLsbD l then a (ones p.toNat l) else 0) s) ∧
    exec (.viota w) s = .next (laneWrite 2 w (fun l =>
      (srcWord litSigned s w.a + BitVec.ofNat 64 l * srcWord litSigned s w.b).truncate 32) s) ∧
    exec (.vmovx w) s = .next (laneWrite 2 w a s) ∧
    (guard0 s w.g w.gn = true → exec (.vmovs w) s = .next (landS 2 w.dst
      (if w.ty = .s32 then signExtend (a n).toNat 32 else zeroExtend (a n).toNat 32) 0 s)) ∧
    exec (.vins w) s = .next (landAt 2 (dstVector w.dst (guardMask s w.g w.gn) ((upto 64).map fun l =>
      if l = n then (srcWord litSigned s w.a).truncate 32 else dstLane s w.dst l)) 0 s)) ∧
  (∀ (w : O3) (s : State),
    let a := srcPred s w.a
    let b := srcPred s w.b
    let m := guardMask s w.g w.gn
    let put := fun x : Word => Host.Outcome.next (landAt 1 (dstPred w.dst m x) 0 s)
    exec (.pand w) s = put (a &&& b) ∧
    exec (.por w) s = put (a ||| b) ∧
    exec (.pxor w) s = put (a ^^^ b) ∧
    exec (.pandn w) s = put (a &&& ~~~b) ∧
    exec (.pnot w) s = put (~~~a) ∧
    exec (.pmov w) s = put a ∧
    exec (.pset w) s = put (BitVec.ofNat 64 (maskOf (fun l =>
      if w.a.isV then decide (laneBits s w.a l ≠ 0) else decide (l < min ((srcZero s w.a).toNat % 2 ^ 32) 64)) 64)) ∧
    exec (.pget w) s = .next (landAt 2 (dstVector w.dst m ((upto 64).map fun l =>
      if a.getLsbD l then BitVec.allOnes 32 else 0)) 0 s) ∧
    exec (.pcnt w) s = .next (landS 2 w.dst (BitVec.ofNat 64 (ones (a &&& m).toNat 64)) 0 s) ∧
    exec (.pfirst w) s = .next (landS 2 w.dst (BitVec.ofNat 64 ((lowestOne (a &&& m).toNat 0 64).getD 64)) 0 s))

/-- R163: VCOMPRESS and VEXPAND. `m j` is the number of lanes below j whose bit of the predicate is 1; the guard chooses which
positions are written; PCNT of the predicate is the number of elements moved. -/
def Obligations.CompressExpand : Prop :=
  ∀ (w : O3) (s : State),
    let p := srcPred s w.b
    let m := fun j : Nat => ((List.range j).filter fun i => p.getLsbD i).length
    let a := laneBits s w.a
    (∃ f, exec (.vcompress w) s = .next (laneWrite 3 w f s) ∧ (∀ j, j < 64 → p.getLsbD j = true → f (m j) = a j) ∧
      ∀ l, m 64 ≤ l → f l = 0) ∧
    (∃ g, exec (.vexpand w) s = .next (laneWrite 3 w g s) ∧ ∀ l, l < 64 → g l = if p.getLsbD l then a (m l) else 0) ∧
    (∀ q : O3, q.a = w.b → guardMask s q.g q.gn = allLanes →
      exec (.pcnt q) s = .next (landS 2 q.dst (BitVec.ofNat 64 (m 64)) 0 s))

/-- R153, R164: VMOVS, and VINS at the landing of what it writes: the lanes of the guard, of which lane n takes the word and
every other one its value in the issue cycle. -/
def Obligations.LaneExtractInsert : Prop :=
  ∀ (w : O3) (s : State),
    let n := (srcWord litSigned s w.b).toNat % 64
    let x := laneBits s w.a n
    (guard0 s w.g w.gn = true →
      (w.ty = .b32 → exec (.vmovs w) s = .next (landS 2 w.dst (x.zeroExtend 64) 0 s)) ∧
      (w.ty = .s32 → exec (.vmovs w) s = .next (landS 2 w.dst (x.signExtend 64) 0 s))) ∧
    ∃ t, exec (.vins w) s = .next (landAt 2 t 0 s) ∧ ∀ (r : Fin 64) (st : Strand) (l : Nat), w.dst = .v r → l < 64 →
      laneOf (writeTarget t st) r.val l = if (guardMask s w.g w.gn).getLsbD l = true then
        (if l = n then (srcWord litSigned s w.a).truncate 32 else laneOf (rd s) r.val l) else laneOf st r.val l

/-! ### Memory words -/

/-- R181, R187, R190, R191, R194: The loads. A first issue that passes the checks sends its requests; once the data are there
and not poisoned, the word delivers them; an LD from a page that is not resident delivers zero and a residency flag. Where the
manual leaves a choice it follows the model's, log entries 17, 19, 20. -/
def Obligations.LoadResults : Prop :=
  (∀ (w : O3) (s : State), guard0 s w.g w.gn = true → (me s).mem = none →
    let n := w.ty.width / 8
    let req := fun len : Nat => (accessPa s w, BitVec.ofNat 64 (accessVa s w), len)
    let acq : BitVec 5 := if w.mod.toNat % 4 = 1 then BitVec.ofNat 5 w.c.litVal else 0
    (accessGood s w n n false → exec (.ld w) s = .next (sends acq [req n] s)) ∧
    (accessGood s w 4 256 false → exec (.vld w) s = .next (sends acq [req 256] s)) ∧
    (indexedGood s w false → exec (.vldx w) s = .next (sends 0 ((upto 64).map fun l =>
      (SMap.get 0 (rd s).hpa (hNum w.a) + laneOff s w l,
       BitVec.ofNat 64 (hBase (hregOf (rd s) (hNum w.a)) + laneOff s w l), 4)) s)) ∧
    (∀ base rs, (taskOf s (mySpindle s)).bind Task.cbva = some base →
      cbRequests s (mySpindle s).part base.toNat w.a.litVal (w.b.litVal + 1) = some rs →
      exec (.cbload w) s = .next (sends 0 rs s))) ∧
  (∀ (w : O3) (s : State) (m : MemOp), (me s).mem = some m → m.ready = true → m.poison = none →
    let t := updMe (fun st => { st with mem := none }) s
    let lanes := landAt 2 (dstVector w.dst allLanes (lanesOfBytes m.data)) 0 t
    let words := (pieces 8 (w.b.litVal + 1) m.data).map fun b => BitVec.ofNat 64 (ofBytes b)
    exec (.ld w) s = .next (landS 2 w.dst (loadValue w.ty m.data) 0 t) ∧
    exec (.vld w) s = .next lanes ∧
    exec (.vldx w) s = .next lanes ∧
    exec (.cbload w) s = .next (updMySpindle (fun p => { p with cbank := SMap.setList 0 p.cbank w.a.litVal words }) t)) ∧
  (∀ (w : O3) (s : State), guard0 s w.g w.gn = true → (me s).mem = none → hV (hregOf (rd s) (hNum w.a)) = true →
    hNR (hregOf (rd s) (hNum w.a)) = true → offsetOf s w.b % (w.ty.width / 8) = 0 →
    offsetOf s w.b + w.ty.width / 8 ≤ hSize (hregOf (rd s) (hNum w.a)) →
    exec (.ld w) s = .next (landAbsent 2 (dstScalar w.dst 0) 1 s))

/-- R171, R174, R175, R184, R187, R190 to R193, R231, R338: The stores, once nothing of the strand is out for their release to
wait for. Nothing is written in memory yet: each piece is posted, with the mark of the lanes it holds, and the home applies it
(the statement MemoryEvents). Scratchpad and spill slab; a unit that holds lanes gone wrong takes their mark on. Where the
manual leaves a choice it follows the model's, log entries 17, 22. -/
def Obligations.StoreResults : Prop :=
  (∀ (w : O3) (s : State), guard0 s w.g w.gn = true → (accessMask w = 0 ∨ nothingOut s s.cur.spn s.cur.strand) →
    let n := w.ty.width / 8
    let post := fun (unit : Nat) (bad : Nat → Bool) (bs : List Byte) => (upto (bs.length / unit)).foldl (fun t i =>
      postPiece (accessPa s w) bs.length (bad i) (lineSpoilt (accessPa s w) unit (bs.length / unit) bad i) (hNum w.a) (BitVec.ofNat 64 (accessVa s w + unit * i)) (accessPa s w + unit * i)
        ((bs.drop (unit * i)).take unit) (accessMask w) t) (released (accessMask w) s)
    (accessGood s w n n true → exec (.st w) s = .next (post n (fun _ => false) (toBytes (dstRead s w.dst).toNat n))) ∧
    (accessGood s w 4 256 true → exec (.vst w) s =
      .next (post 4 (fun l => decide (storedMark s w (l / 16) ≠ 0)) (storedLanes s w))) ∧
    (indexedGood s w true → exec (.vstx w) s = .next ((upto 64).foldl (fun t l =>
      postLane l (decide (storedMark s w (l / 16) ≠ 0)) (hNum w.a)
        (BitVec.ofNat 64 (hBase (hregOf (rd s) (hNum w.a)) + laneOff s w l))
        (SMap.get 0 (rd s).hpa (hNum w.a) + laneOff s w l) (toBytes (dstLane s w.dst l).toNat 4) t) s))) ∧
  (∀ (w : O3) (s : State), guard0 s w.g w.gn = true →
    let off := offsetOf s w.a
    (scratchGood s false off 256 → scratchPoison (mySpindle (entered false (unitsOf off 256) s)) off 256 = none →
      (w.mod.toNat % 2 = 1 → ∀ t ∈ tilesOf off 256, tileTag (mySpindle s) t = (srcZero s w.c).truncate 16) →
      let t := entered false (unitsOf off 256) s
      exec (.vlds w) s = .next (landAt 4 (dstVector w.dst allLanes (lanesOfBytes (scratchBytes (mySpindle t) off 256))) 0 t)) ∧
    (scratchGood s true off 256 →
      let t := entered true (unitsOf off 256) s
      exec (.vsts w) s = .next (updMySpindle (fun p =>
        markStored off (fun i => storedMark t w i ≠ 0) (scratchWrite off (storedLanes t w) false p)) t)) ∧
    exec (.sld w) s = .next (landS 1 w.dst (SMap.get 0 (rd s).slab (w.mod.toNat % 8 * 256 + w.a.litVal)) 0 s) ∧
    exec (.sst w) s = .next (updMe (fun st => { st with
      slab := SMap.set 0 st.slab (w.mod.toNat % 8 * 256 + w.a.litVal) (dstRead s w.dst) }) s))

/-- R180, R186: What an access through a handle raises, in the order of the checks, for LD and ST alike. -/
def Obligations.AccessTraps : Prop :=
  ∀ (w : O3) (s : State), guard0 s w.g w.gn = true → (me s).mem = none →
    let n := w.ty.width / 8
    let h := hregOf (rd s) (hNum w.a)
    let off := offsetOf s w.b
    let both := fun t : State => exec (.ld w) s = .next t ∧ exec (.st w) s = .next t
    (hV h = false → both (raiseHandle 1 (hNum w.a) 0 (BitVec.ofNat 64 off) s)) ∧
    (hV h = true → off % n ≠ 0 → both (raiseAlign (BitVec.ofNat 64 (hBase h + off)) s)) ∧
    (hV h = true → off % n = 0 → hSize h < off + n →
      both (raiseHandle 2 (hNum w.a) 0 (BitVec.ofNat 64 (hBase h + max off (hSize h))) s)) ∧
    (hV h = true → off % n = 0 → off + n ≤ hSize h → hWR h = false →
      exec (.st w) s = .next (raiseHandle 4 (hNum w.a) 0 (BitVec.ofNat 64 (hBase h + off)) s)) ∧
    (hV h = true → off % n = 0 → off + n ≤ hSize h → hWR h = true → hNR h = true →
      exec (.st w) s = .next (raiseHandle 3 (hNum w.a) 0 (BitVec.ofNat 64 (hBase h + off)) s))

/-- R130, R176, R178, R184, R196 to R199, R228, R338: Handles, blocks, residency and page requests. The context image words on
a page of memory. The first issue takes the image's addresses, and the word issues again for 576 cycles; then CTXSV posts the
image once nothing is on its way to the saved latches or the handles, and CTXLD loads it once nothing of the strand's own, nor
an invalidation, stands before its loads. Where the manual leaves a choice it follows the model's, log entries 32, 34, 35,
100, 103, 119. -/
def Obligations.HandleBlockResults : Prop :=
  (∀ (w : O3) (s : State), guard0 s w.g w.gn = true →
    let h := hregOf (rd s) (hNum w.a)
    let d := (srcZero s w.c).toNat
    let b := srcNum s w.a 4
    let x := blockAt (mySpindle s) b
    (∀ r, w.dst = .h r → exec (.trans w) s = .next (updMe (fun st => { st with handles := st.handles ++
      [{ due := s.cycle + 24, h := r.val, value := (handleFor s (mySpindle s).part (srcZero s w.a).toNat).1,
         pa := (handleFor s (mySpindle s).part (srcZero s w.a).toNat).2, va := srcZero s w.a, killed := false }] }) s)) ∧
    (∀ r, w.dst = .h r → exec (.hrel w) s = .next (landAt 1 (.h r.val 0) 0 s)) ∧
    exec (.hchk w) s = .next (landS 1 w.dst h 0 s) ∧
    (let n := d % 64 + 1
     accessGood s w 128 (128 * n) false → (blockAt (mySpindle s) (d / 2 ^ 16 % 16)).st = .free →
      exec (.ldblk w) s = .next (updMySpindle (setBlock (d / 2 ^ 16 % 16)
        ⟨.filling, BitVec.ofNat 64 (accessVa s w), accessPa s w, n, d / 2 ^ 8 % 64, attOf s (me s).tag, strandHands s s.cur.spn s.cur.strand⟩) s)) ∧
    (x.st = .free ∨ x.st = .ready → exec (.blkwait w) s = .next s) ∧
    (x.st ≠ .free → x.st ≠ .ready → exec (.blkwait w) s = .next (again s)) ∧
    (x.st = .ready → exec (.wbblk w) s = .next (updMySpindle (setBlock b { x with st := .writing }) s)) ∧
    (x.st = .ready → exec (.evblk w) s = .next (updMySpindle (setBlock b { x with st := .evicting }) s)) ∧
    (x.st ≠ .ready → exec (.wbblk w) s = .next (raiseSched 0xE5 b s) ∧ exec (.evblk w) s = .next (raiseSched 0xE5 b s)) ∧
    exec (.reschk w) s = .next (landS 1 w.dst (me s).resid 0 (updMe (fun st => { st with resid := 0 }) s)) ∧
    (hV h = true → hNR h = false →
      exec (.pgreq w) s = .next (raiseSem s.cur.spn w.b.litVal 1 (mySpindle s).q5vt
        (carrySem s.cur.spn w.b.litVal (strandHands s s.cur.spn s.cur.strand) s))) ∧
    (∀ t, hV h = true → hNR h = true → appendRequest (mySpindle s).part (hBase h) s.cur.spn s.cur.strand w.b.litVal 1 false
      (me s).tag (strandHands s s.cur.spn s.cur.strand) s = some t → exec (.pgreq w) s = .next t) ∧
    ((me s).privm = true → exec (.replay w) s = .next (replayRequests (mySpindle s).part s))) ∧
  (∀ (w : O3) (s : State), guard0 s w.g w.gn = true → (me s).privm = true → (me s).exl = true →
    ((me s).mem = none →
      let out := fun x => { MemOp.sent s.cycle s.tick s.cur.addr x 0 [] with image := some (accessVa s w, accessPa s w) }
      let first := again (updMe (fun st => { st with mem := some (out (attOf s st.tag)) }) s)
      (accessGood s w 64 ctxBytes true → exec (.ctxsv w) s = .next first) ∧
      (accessGood s w 64 ctxBytes false → exec (.ctxld w) s = .next first)) ∧
    (∀ m va pa, (me s).mem = some m → m.image = some (va, pa) →
      let ended := updMe fun st => { st with mem := none }
      (s.cycle + 1 < m.c0 + 576 → exec (.ctxsv w) s = .next (again s) ∧ exec (.ctxld w) s = .next (again s)) ∧
      (m.c0 + 576 ≤ s.cycle + 1 → inDevice s (mySpindle s).part va = false →
        ((∀ n, n < 6 → (SMap.get .start (me s).saved n).st ≠ .pending) → (me s).handles = [] →
          exec (.ctxsv w) s = .next (postImage (imageMark (me s)) (hNum w.a) va pa (ctxBytes / 8) 0
            (ctxImage s.cur.strand (mySpindle s) (me s)) (ended s))) ∧
        (awaitsOwn s s.cur.spn s.cur.strand (attOf s (me s).tag) 8 pa ctxBytes = false →
          awaitsInval s s.cur.spn s.cur.strand pa ctxBytes = false →
          ownPoison s s.cur.spn s.cur.strand (attOf s (me s).tag) [imageReq va pa] = none →
          let img := readCtxImage va pa s
          ctxRefusal img.1 = 0 → exec (.ctxld w) s = .next (updMe (loadImage s (mySpindle s).part img.1) (ended img.2))))))

/-- R231 to R233, R239 to R243: FENCE with nothing out, and the atomic words at their issue outside determinism mode. ATOM is
posted; the others send a request and wait for the reply (the statement MemoryEvents). In determinism mode ATOMR, CAS and SWAP
raise NONDET, and so does ATOM on .f32. Where the manual leaves a choice it follows the model's, log entries 18, 22. -/
def Obligations.FenceAtomicResults : Prop :=
  (∀ (w : O3) (s : State), guard0 s w.g w.gn = true → nothingOut s s.cur.spn s.cur.strand →
    let n := w.ty.width / 8
    let rel := orderMaskOf 2 w.c
    let m := BitVec.ofNat 5 w.b.litVal
    let behind := tagLines s.cur.spn s.cur.strand m (released m s)
    let acquired := fun t : State => noteAcquire s.cur.spn s.cur.strand m t
    let clear := fun t : State => acquireClear t (skeinOf s.cur.spn) m (me (acquired t)).view.hb
    (w.a.litVal = 1 → exec (.fence w) s = .next (if clear s then acquired s else again s)) ∧
    (w.a.litVal ≠ 1 → w.a.litVal ≠ 3 → exec (.fence w) s = .next behind) ∧
    (w.a.litVal = 3 → exec (.fence w) s = .next (if clear (released m s) then tagLines s.cur.spn s.cur.strand m (acquired (released m s))
      else again (released m s))) ∧
    ((mySpindle s).det = false → accessGood s w n n true →
      exec (.atom w) s = .next (postAtom (some (w.mod, w.ty)) (hNum w.a) (BitVec.ofNat 64 (accessVa s w)) (accessPa s w)
        (toBytes (dstRead s w.dst).toNat n) rel (released rel s)) ∧
      ((me s).mem = none →
        let r := released rel s
        let req := fun (op : Nat) (y : Word) =>
          let a : AtomReq := { op := op, ty := w.ty, x := dstRead r w.dst, y := y, dst := dstNum w.dst, acq := orderMaskOf 1 w.c,
                               rel := rel, next := r.cur.next, hn := hNum w.a, org := originOf r s.cur.spn s.cur.strand }
          let m := MemOp.sent r.cycle r.tick r.cur.addr (attOf r (me r).tag) a.acq
            [(accessPa s w, BitVec.ofNat 64 (accessVa s w), n)]
          Host.Outcome.next (again (updMe (fun st => { st with mem := some { m with atom := some a } })
            (tickDie s.cur.spn s.cur.strand a.org (issueWrite s.cur.spn s.cur.strand r))))
        exec (.atomr w) s = req w.mod.toNat 0 ∧
        exec (.cas w) s = req 7 (sregOf (rd s) (dstNum w.dst + 1)) ∧
        exec (.swap w) s = req 6 0))) ∧
  (∀ (w : O3) (s : State), guard0 s w.g w.gn = true → (mySpindle s).det = true → (me s).mem = none →
    exec (.atomr w) s = .next (raiseNondet 0x21 3 s) ∧
    exec (.cas w) s = .next (raiseNondet 0x21 4 s) ∧
    exec (.swap w) s = .next (raiseNondet 0x21 5 s) ∧
    (w.ty = .f32 → exec (.atom w) s = .next (raiseNondet 0x22 2 s)))

/-! ### Synchronisation and engines -/

/-- R200, R201, R203, R205 to R208, R221, R231: The semaphore words, SEMWAIT in the turn in which its semaphore holds enough,
TICKW at its tick. A raise saturates the count at 2^32 − 1, and OVF is set when the exact sum passes it and is never cleared.
A waiting word of class 0x14 at its first issue starts its wait for its object, and acts in a later turn. Where the manual
leaves a choice it follows the model's, log entry 41. -/
def Obligations.SemaphoreResults : Prop :=
  (∀ (w : O3) (s : State),
    let k := semNum s w
    let v := srcNum s w.b 32
    (guard0 s w.g w.gn = true →
      exec (.semsig w) s = .next
        (raiseSem s.cur.spn k v (mySpindle s).q5vt (carrySem s.cur.spn k (strandHands s s.cur.spn s.cur.strand) s)) ∧
      (((mySpindle s).det = true → semNamed (mySpindle s) k = false) → exec (.semset w) s = .next
        (updMySpindle (updSem k (setSem s.cycle v (if (mySpindle s).det then (mySpindle s).q5vt else []))) s)) ∧
      (((mySpindle s).det = true → (me s).privm = true) → exec (.semrd w) s = .next (landS 1 w.dst (BitVec.ofNat 64
        ((if (semAt (mySpindle s) k).ovf then 2 ^ 32 else 0) + (semAt (mySpindle s) k).count.toNat)) 0 s))) ∧
    (∀ x, (me s).wait = some x → x.target ≤ (semAt (mySpindle s) x.obj).count.toNat →
      exec (.semwait w) s = .next (meetWait x (updMe (fun st => { st with wait := none, arrived := false }) s))) ∧
    (∀ x, (me s).wait = some x → (semAt (mySpindle s) x.obj).count.toNat < x.target → exec (.semwait w) s = .next (again s)) ∧
    (∀ x, (me s).wait = some x → x.target ≤ s.tick → ((mySpindle s).det = true → w.dst.isS = false) →
      exec (.tickw w) s = .next (landS0 w.dst (BitVec.ofNat 64 s.tick)
        (updMe (fun st => { st with wait := none, arrived := false }) s)))) ∧
  (∀ (s : State) (n k v : Nat) (vt : SMap Nat),
    let x := semAt (spindleAt s n) k
    let y := semAt (spindleAt (raiseSem n k v vt s) n) k
    y.count.toNat = min (2 ^ 32 - 1) (x.count.toNat + v) ∧
    y.ovf = (x.ovf || decide (2 ^ 32 - 1 < x.count.toNat + v)) ∧
    (∀ j, j ≠ k → semAt (spindleAt (raiseSem n k v vt s) n) j = semAt (spindleAt s n) j)) ∧
  (∀ (w : O3) (s : State), guard0 s w.g w.gn = true → (me s).wait = none →
    let begins := fun (code obj limit target : Nat) =>
      Host.Outcome.next (again (updMe (fun st => { st with wait := some ⟨code, obj, s.tick, limit, target, s.cycle⟩ }) s))
    exec (.semwait w) s = begins 1 (semNum s w) w.c.litVal (srcNum s w.b 32) ∧
    ((spoolAt (mySpindle s) (spoolNum s w)).on = true →
      exec (.spfreew w) s = begins 2 (spoolNum s w) w.c.litVal 0 ∧ exec (.spfillw w) s = begins 2 (spoolNum s w) w.c.litVal 0) ∧
    (∀ r, regOf (me s) w.a.litVal = some r → r.drop = false → r.mode &&& 2 = 2 →
      exec (.phwait w) s = begins 3 w.a.litVal w.c.litVal 0) ∧
    (((mySpindle s).det = true → w.dst.isS = false) → exec (.tickw w) s = begins 4 0 0 (srcZero s w.a).toNat) ∧
    exec (.cdrain w) s = begins 4 (srcNum s w.a 4) w.c.litVal 0)

/-- R210 to R212, R215 to R219: The spool words; SPFREEW and SPFILLW in the turn in which a slot is there. Registering on and
leaving a phaser, and the arrival and the wait in their turn. A step-group phaser's counts go up the commit tree at each
change of them (log entry 108: what the message carries is the model's choice). Where the manual leaves a choice it follows
the model's, log entries 41, 43, 108. -/
def Obligations.SpoolResults : Prop :=
  (∀ (w : O3) (s : State),
    let i := spoolNum s w
    let x := spoolAt (mySpindle s) i
    let d := (srcZero s w.b).toNat
    let t := updMe (fun st => { st with wait := none, arrived := false }) s
    (guard0 s w.g w.gn = true →
      ((x.on = true → x.idle = true) → spoolOk d (mySpindle s).sg = true →
        exec (.spldef w) s = .next (updMySpindle (setSpool i (.ofDesc d)) s)) ∧
      (x.on = true → x.pclaim ≠ 0 → exec (.sppub w) s =
        .next (updMySpindle (setSpool i { x with pclaim := x.pclaim - 1, ready := x.ready + 1 }) s)) ∧
      (x.on = true → x.cclaim ≠ 0 → exec (.spret w) s =
        .next (updMySpindle (setSpool i { x with head := (x.head + 1) % x.slots, cclaim := x.cclaim - 1 }) s))) ∧
    (∀ y, (me s).wait = some y → y.obj = i → x.on = true → spoolAt (mySpindle t) i = x →
      (0 < x.slots - x.pclaim - x.ready - x.cclaim → exec (.spfreew w) s =
        .next (landS 1 w.dst (BitVec.ofNat 64 (x.base + x.tail * x.bytes)) 0
          (updMySpindle (setSpool i { x with tail := (x.tail + 1) % x.slots, pclaim := x.pclaim + 1 }) t))) ∧
      (0 < x.ready → exec (.spfillw w) s =
        .next (landS 1 w.dst (BitVec.ofNat 64 (x.base + (x.head + x.cclaim) % x.slots * x.bytes)) 0
          (updMySpindle (setSpool i { x with ready := x.ready - 1, cclaim := x.cclaim + 1 }) t))))) ∧
  (∀ (w : O3) (s : State),
    let lit := w.a.litVal
    let x := phaserAt s (mySpindle s) lit
    (guard0 s w.g w.gn = true →
      (regOf (me s) lit = none → (me s).regs.length < 8 →
        (phLevel lit = 4 → ∃ t, taskOf s (mySpindle s) = some t ∧ t.instep = true) →
        let r := newReg lit w.b.litVal (phSeen (mySpindle s) lit) x
        exec (.phreg w) s = .next (gatherOut s.cur.spn lit none (setPhaser s.cur.spn lit r.2
          (updMe (fun st => { st with regs := st.regs ++ [r.1] }) s)))) ∧
      (∀ r, regOf (me s) lit = some r → r.drop = false → (r.pend = true ∨ r.mode % 2 = 0) →
        exec (.phdrop w) s = .next (updMe (fun st => { st with regs := st.regs.filter fun q => q.ph ≠ lit }) s)) ∧
      (∀ r, regOf (me s) lit = some r → r.drop = false → r.pend = false → r.mode % 2 = 1 → r.arrph ≠ x.phase →
        exec (.phdrop w) s = .next (gatherOut s.cur.spn lit none
          (arrive s.cur.spn lit (strandHands s s.cur.spn s.cur.strand)
            (updMe (updReg lit fun r => { r with drop := true, arrph := x.phase }) s)))) ∧
      (∀ r, regOf (me s) lit = some r → r.drop = false → r.pend = false → r.mode % 2 = 1 → r.arrph = x.phase →
        exec (.phdrop w) s = .next (updMe (updReg lit fun r => { r with drop := true, arrph := x.phase }) s))) ∧
    (∀ y r, (me s).wait = some y → regOf (me s) lit = some r → r.drop = false →
      (let b := beginRelease s.cur.spn s.cur.strand (phMask lit) s
       r.mode &&& 1 = 1 → (me b).wait = some y → regLive b lit = true → hasArrived b lit = false → arrivalReleased b lit = true →
        exec (.pharr w) s = .next (makeArrival lit (updMe (fun st => { st with wait := none, arrived := false }) b))) ∧
      (r.mode &&& 2 = 2 → phasePassed s lit = true →
        exec (.phwait w) s = .next (passPhase w lit (updMe (fun st => { st with wait := none, arrived := false }) s))) ∧
      (let b := arriveOnce w lit (beginRelease s.cur.spn s.cur.strand (phMask lit) s)
       r.mode &&& 3 = 3 → (∃ z, (me b).wait = some z) → (me b).arrived = true → phasePassed b lit = true →
        exec (.pharw w) s = .next (passPhase w lit (updMe (fun st => { st with wait := none, arrived := false }) b)))))

/-- R256, R257, R281 to R283: The pushes of engine records, where the record passes its checks and its queue has room, and
CDRAIN's end. QSTAT reads the status of a queue and then performs its action. Where the manual leaves a choice it follows the
model's, log entries 41, 47, 54, 55. -/
def Obligations.PushResults : Prop :=
  (∀ (w : O3) (s : State), guard0 s w.g w.gn = true →
    let off := srcNum s w.a 32
    (off % 64 = 0 → off + 64 ≤ (mySpindle s).sg * 65536 → scratchPoison (mySpindle s) off 64 = none →
      scratchGood s false off 64 →
      let ws := recordWords (mySpindle s) off
      let t := entered false (unitsOf off 64) s
      (let r := newRec s off ws (pushBias s w.b) (pushBias s w.c)
       matrixRefusal s (pushBias s w.b) r = none → (queueAt (mySpindle s) 0).recs.length < 16 →
        exec (.mqpush w) s = .next (appendRec 0 r (landNext w 0 t))) ∧
      (let q := srcNum s w.c 2 + 1
       let r := attachHandles (rd s) (newRec s off ws (pushBias s w.b) 0)
       copyRefusal 0x03 s (pushBias s w.b) r = none → bindRefusal (mySpindle s) r = none →
        (queueAt (mySpindle s) q).recs.length < 16 → exec (.cqpush w) s = .next (pushCopy q r (landNext w q t)))) ∧
    (∀ t st, taskOf s (mySpindle s) = some t → t.sched[srcNum s w.a 12]? = some st →
      let us := (stageRecs st).flatMap fun x => unitsOf x.2 64
      (∀ x ∈ stageRecs st, scratchPoison (mySpindle s) x.2 64 = none) → stageRoom (mySpindle s) st = true →
      ((mySpindle s).det = true → zoneFault (mySpindle s) us = none ∧
        overlapFault (mySpindle s) 5 (nextEntry (mySpindle s)) false us = none) →
      ∀ s1 s2, stagePush (stageRecs st) s = .ok s1 → stagePush (stageRecs st) (entered false us s) = .ok s2 →
        exec (.cstage w) s = .next s2) ∧
    (∀ x, (me s).wait = some x → (∀ c, c < 4 → bitOf x.obj c = true → drained (mySpindle s) c = true) →
      let t := updMe (fun st => { st with wait := none, arrived := false }) s
      exec (.cdrain w) s = .next (landS0 w.dst (BitVec.ofNat 64 (faultedMask (mySpindle t) x.obj)) t))) ∧
  (∀ (w : O3) (s : State), guard0 s w.g w.gn = true → srcNum s w.a 3 ≤ 4 →
    let q := srcNum s w.a 3
    let t := landS 1 w.dst (queueWord s s.cur.spn q) 0 s
    (((mySpindle s).det = true → (me s).privm = true) →
      exec (.qstatRead w) s = .next t ∧
      ((queueAt (mySpindle s) q).faulted = true → exec (.qstatSkip w) s = .next (updMySpindle (updQueue q (dropFaulted s.cycle)) t)) ∧
      ((queueAt (mySpindle s) q).faulted = false → exec (.qstatSkip w) s = .next (raiseSched 0xEB q s)) ∧
      exec (.qstatFlush w) s = .next (flushQueue q t) ∧
      exec (.qstatClear w) s = .next (updMySpindle (updQueue q fun x => { x with flags := 0 }) t)) ∧
    exec (.qstatMxcap w) s = .next (landS 1 w.dst mxcap 0 s))

/-! ### Creel, bobbins and windows -/

/-- R225, R231, R289 to R291, R310 to R313: The words of landing zones, LZRES and LZWAIT in the turn in which a slot is there.
Where the manual leaves a choice it follows the model's, log entry 41. -/
def Obligations.LandingZoneResults : Prop :=
  ∀ (w : O3) (s : State),
    let z := zoneNum s w
    let d := (srcZero s w.b).toNat
    let t := updMe (fun st => { st with wait := none, arrived := false }) s
    (guard0 s w.g w.gn = true →
      ((∀ x, zoneAt (mySpindle s) z = some x → x.taken = 0 ∧ ∀ j, j < x.slots → (slotAt x j).st ≠ .inflight) →
        zoneDescOk d (mySpindle s).sg = true →
        exec (.lzdefZone w) s = .next (updMySpindle (fun p => { p with zones := SMap.set none p.zones z (some
          { base := d / 2 ^ 40 % 2 ^ 24, slots := d / 2 ^ 36 % 16 + 1, bytes := d % 2 ^ 24, sem := d / 2 ^ 30 % 64,
            tags := decide (d / 2 ^ 29 % 2 = 1), head := 0, taken := 0, slot := [], flags := 0, owner := s.cur.strand,
            binder := none }) }) s)) ∧
      ((∀ b, bindAt (mySpindle s) z = some b → b.resv = [] ∧ b.att = 0) → bindDescOk d (srcZero s w.c).toNat = true →
        exec (.lzdefBinding w) s = .next (updMySpindle (fun p => { p with binds := SMap.set none p.binds z (some
          { za := srcZero s w.c, slots := d / 2 ^ 36 % 16 + 1, bytes := d % 2 ^ 24, next := 0, credits := d / 2 ^ 36 % 16 + 1,
            resv := [], att := 0, kr := 0, cancels := [] }) }) s)) ∧
      (∀ x, zoneAt (mySpindle s) z = some x → 0 < x.taken →
        let us := unitsOf (x.base + x.head * x.bytes) x.bytes
        ((mySpindle s).det = true → zoneFault (mySpindle s) us = none ∧
          overlapFault (mySpindle s) 5 (nextEntry (mySpindle s)) true us = none) →
        exec (.lzrel w) s = .next (returnSlot z x (entered true us s))) ∧
      (((mySpindle s).det = true → (me s).privm = true) → exec (.lzstat w) s = .next (landS 1 w.dst
        (if w.b.litVal = 0 then ((zoneAt (mySpindle s) z).map zoneWord).getD 0 else ((bindAt (mySpindle s) z).map bindWord).getD 0) 0 s))) ∧
    (∀ y b, (me s).wait = some y → y.obj = z → bindAt (mySpindle s) z = some b → bindAt (mySpindle t) z = some b → 0 < b.credits →
      let seq := 1 + b.kr % 65535
      exec (.lzres w) s = .next (landS 1 w.dst (BitVec.ofNat 64 (seq * 2 ^ 16 + b.next)) 0 (updMySpindle (updBind z fun b =>
        { b with next := (b.next + 1) % b.slots, credits := b.credits - 1, resv := b.resv ++ [(b.next, seq)], kr := b.kr + 1 }) t))) ∧
    (∀ y x, (me s).wait = some y → y.obj = z → zoneAt (mySpindle s) z = some x → zoneAt (mySpindle t) z = some x →
      x.taken < x.slots → let j := (x.head + x.taken) % x.slots
      ((slotAt x j).st = .arrived → exec (.lzwait w) s = .next (landS 1 w.dst
        (BitVec.ofNat 64 (0 * 2 ^ 63 + expectedSeq x j % 2 ^ 16 * 2 ^ 32 + (x.base + j * x.bytes) % 2 ^ 32)) 0
        (updMySpindle (updZone z fun x => { updSlot j (fun y => { y with st := .consumed }) x with taken := x.taken + 1 })
          (updMe (fun st => { st with view := st.view.handed 4 (slotAt x j).carry }) t)))) ∧
      ((slotAt x j).st = .broken → exec (.lzwait w) s = .next (landS 1 w.dst
        (BitVec.ofNat 64 (1 * 2 ^ 63 + expectedSeq x j % 2 ^ 16 * 2 ^ 32 + (x.base + j * x.bytes) % 2 ^ 32)) 0
        (updMySpindle (updZone z fun x => { updSlot j (fun y => y) x with taken := x.taken + 1 }) t))))

/-- R296, R297, R303, R314 to R316: The words of bobbins. An element goes into the open bobbin of its key, or into a free one.
An append puts the element last; the bobbin whose sixteenth element it is leaves at once. Where the manual leaves a choice it
follows the model's, log entry 57. -/
def Obligations.BobbinResults : Prop :=
  (∀ (w : O3) (s : State), guard0 s w.g w.gn = true →
    let va := (srcZero s w.a).toNat % 2 ^ 57
    let pkg := srcNum s w.b 15
    let elem := fun op : Option (BitVec 4) => BobElem.mk (va % 2 ^ 16) (decide (w.ty.width = 64)) op w.ty (dstRead s w.dst)
      s.cur.spn s.cur.strand
    let room := fun i b => openBobbin s (dieOf s.cur.spn) (mySpindle s).part (domGrp (mySpindle s)) (me s).tag pkg (va / 2 ^ 16) = some i ∧
      bobbinAt s i = some b
    (va % (w.ty.width / 8) = 0 → pkg ≠ domPkg (mySpindle s) → (∀ i b, room i b →
      exec (.bst w) s = .next (appendElem i b (elem none) s) ∧
      (((mySpindle s).det = true → w.ty ≠ .f32) → exec (.batom w) s = .next (appendElem i b (elem (some w.mod)) s)))) ∧
    (va % (w.ty.width / 8) = 0 → pkg = domPkg (mySpindle s) → (mySpindle s).det = false →
      exec (.bst w) s = .next (raise 0x10 (8 * 2 ^ 24 + pkg) (BitVec.ofNat 64 va) s) ∧
      exec (.batom w) s = .next (raise 0x10 (8 * 2 ^ 24 + pkg) (BitVec.ofNat 64 va) s)) ∧
    exec (.bflush w) s = .next (flushBobbins (some (srcNum s w.a 15)) s) ∧
    exec (.bflushall w) s = .next (flushBobbins none s) ∧
    (((mySpindle s).det = true → (me s).privm = true) → exec (.bstat w) s = .next (landS 1 w.dst (bstatWord s) 0 s))) ∧
  (∀ (i : Nat) (b : Bobbin) (e : BobElem) (s : State),
    (b.elems.length ≠ 15 → bobbinAt (appendElem i b e s) i = some { b with elems := b.elems ++ [e], last := s.cycle }) ∧
    (b.elems.length = 15 → appendElem i b e s = leaveBobbin i 0 (setBobbin i (some { b with elems := b.elems ++ [e], last := s.cycle }) s)))

/-- R36 to R38, R229, R301, R317 to R320: The words of exact-sum windows, XWREAD once 24 cycles have passed and its own
addends are applied, and LNKSTAT. Where the manual leaves a choice it follows the model's, log entries 18, 58, 64. -/
def Obligations.WindowResults : Prop :=
  ∀ (w : O3) (s : State),
    let i := srcNum s w.a 6
    let x := winAt s (dieOf s.cur.spn) i
    let o := originOf s s.cur.spn s.cur.strand
    let mine := fun q : XAddOp => decide (q.spn = s.cur.spn) && decide (q.strand = s.cur.strand)
    let wipe := fun x : Window => { x with acc := 0, cnt := 0, ovf := false, queue := x.queue.filter fun q => !mine q,
                                           deps := o.num :: o.dep, clk := o.clk }
    let write := fun f : Window → Window => Host.Outcome.next
      (updWin (dieOf s.cur.spn) i f (tickDie s.cur.spn s.cur.strand o (issueWrite s.cur.spn s.cur.strand s)))
    (guard0 s w.g w.gn = true →
      (∀ e, signedValue (srcZero s w.b).toNat 16 = e → -192 ≤ e → e ≤ 64 → (x.owner = none ∨ x.owner = (mySpindle s).task) →
        exec (.xwdef w) s = write fun x => { wipe x with owner := (mySpindle s).task, e := e, step := myAttempt s }) ∧
      (x.owner.isSome = true → x.owner = (mySpindle s).task →
        (x.queue.length < 16 → servedType s w.ty = true → exec (.xadd w) s = write fun x => { x with queue := x.queue ++
          [⟨s.cur.spn, s.cur.strand, (me s).tag, xaddLanes s w, w.ty, attOf s (me s).tag, o⟩] }) ∧
        exec (.xwclr w) s = write wipe) ∧
      (srcNum s w.a 5 ≤ 19 → ((mySpindle s).det = true → (me s).privm = true) →
        exec (.lnkstat w) s = .next (landS 1 w.dst (portWord s (srcNum s w.a 5) (domGrp (mySpindle s))) 0 s))) ∧
    (∀ m, (me s).mem = some m → x.owner.isSome = true → x.owner = (mySpindle s).task → m.c0 + 24 ≤ s.cycle →
      xaddPending s x s.cur.spn s.cur.strand = false →
      exec (.xwread w) s = .next (landS 1 w.dst (xwValue x w.b.litVal).1 (xwValue x w.b.litVal).2
        (updMe (fun st => { st with mem := none, view := st.view.sawWindow x }) s)))

/-! ### Steps, debug words and the Whorl -/

/-- R345: STEPID. -/
def Obligations.StepIdValues : Prop :=
  ∀ (w : O3) (s : State), guard0 s w.g w.gn = true → (mySpindle s).step.getLsbD 63 = true →
    (w.a.litVal = 0 → exec (.stepid w) s = .next (landS 1 w.dst (mySpindle s).step 0 s)) ∧
    (w.a.litVal = 1 → ¬((mySpindle s).det = true ∧ (me s).privm = false) → ∀ c, myCtx s = some c →
      exec (.stepid w) s = .next (landS 1 w.dst (BitVec.ofNat 64 (ctxAt s c).ord) 0 s)) ∧
    (w.a.litVal = 1 → (mySpindle s).det = true → (me s).privm = false → exec (.stepid w) s = .next (raise 0x08 0x18000000 0 s))

/-- R344 to R354: The words of step transactions. STEPWAIT is met in the turn in which its step has a decision. What the words
of step transactions raise. Where the manual leaves a choice it follows the model's, log entries 41, 68, 69, 71, 72, 73, 75.
-/
def Obligations.StepWordResults : Prop :=
  (∀ (w : O3) (s : State),
    let p := mySpindle s
    let tag := (srcZero s w.a).truncate 16
    let h := hregOf (rd s) (hNum w.a)
    let lo := (srcZero s w.b).toNat % 2 ^ 57
    let len := (srcZero s w.c).toNat
    let part := fun f : Part → Part => ({ s with parts := SMap.modify .start s.parts p.part f } : State)
    (guard0 s w.g w.gn = true →
      (p.step.getLsbD 63 = true →
        (∀ a, srcNum s w.a 8 = a → a % 4 + 32 * (a / 32 % 2) = a → exec (.vote w) s = .next (postFlags (BitVec.ofNat 6 a) s)) ∧
        (isSpike (Fp.decode .fp32 (srcNum s w.a 32)) (lossLimit s w.b) = true →
          exec (.losschk w) s = .next (landS0 w.dst 1 (postFlags 0x01 s))) ∧
        (isSpike (Fp.decode .fp32 (srcNum s w.a 32)) (lossLimit s w.b) = false →
          exec (.losschk w) s = .next (landS0 w.dst 0 s))) ∧
      ((w.a.isNone = true → exec (.rqtag w) s = .next (landS 1 w.dst ((me s).tag.zeroExtend 64) 0 s)) ∧
       (w.a.isNone = false → (me s).privm = true → exec (.rqtag w) s =
         .next (landS 1 w.dst ((me s).tag.zeroExtend 64) 0 (updMe (fun st => { st with tag := tag }) s)))) ∧
      (w.a.litVal = 0 → (p.det = true → (me s).privm = true) →
        exec (.mcread w) s = .next (landS 1 w.dst (BitVec.ofNat 64 p.cvotes) 0 s)) ∧
      ((me s).privm = true →
        exec (.mcread w) s = .next (landS 1 w.dst (if w.a.litVal = 0 then BitVec.ofNat 64 p.cvotes
          else if w.a.litVal = 1 then corrWord p else mcWord s p.part w.a.litVal) 0 s) ∧
        exec (.mcackLog w) s = .next (updMySpindle (fun p => { p with corr := p.corr.drop 1 }) s) ∧
        exec (.mcackPoison w) s = .next (part fun x => { x with poison := none }) ∧
        (∀ d, (partAt s p.part).suspect = some d → skeinFenced s d.1 = true →
          exec (.mcackSuspect w) s = .next (part fun x => { x with suspect := none, suspectVote := false })) ∧
        (tag ≠ (me s).tag → exec (.tagpurge w) s = .next (castEarly (startPurge p.part tag s))) ∧
        (verdefReason s p.part w.a.litVal lo len = 0 →
          (∀ x, regionAt s p.part w.a.litVal = some x → exec (.verdef w) s = .next (undefineRegion p.part w.a.litVal x s)) ∧
          (∀ c, regionAt s p.part w.a.litVal = none → myCtx s = some c →
            exec (.verdef w) s = .next (defineRegion p.part w.a.litVal lo len c s)))) ∧
      (tag = (me s).tag → exec (.tagpurge w) s =
        .next (updMe (fun st => { st with run := .purged }) (castEarly (startPurge p.part tag s)))) ∧
      (hV h = true → hNR h = false → exec (.scrub w) s =
         .next (if hVers h then normalisePage (SMap.get 0 (rd s).hpa (hNum w.a)) (hSize h) s else s))) ∧
    (∀ y v, (me s).wait = some y → waitAnswer s y = some v →
      waitAnswer (updMe (fun st => { st with wait := none, arrived := false }) s) y = some v →
      exec (.stepwait w) s = .next (landS 1 w.dst v 0 (updMe (fun st => { st with wait := none, arrived := false }) s)))) ∧
  (∀ (w : O3) (s : State), guard0 s w.g w.gn = true →
    let p := mySpindle s
    (p.step.getLsbD 63 = false → ∀ e : O3 → Instr, e = .stepid ∨ e = .vote ∨ e = .losschk →
      exec (e w) s = .next (raiseSched 0xF4 0 s)) ∧
    (p.step.getLsbD 63 = true → srcNum s w.a 48 = p.step.toNat % 2 ^ 48 → (me s).wait = none →
      exec (.stepwait w) s = .next (raiseSched 0xF5 0 s)) ∧
    ((me s).privm = false →
      exec (.mcackLog w) s = .next (raisePriv s) ∧ exec (.mcackPoison w) s = .next (raisePriv s) ∧
      exec (.mcackSuspect w) s = .next (raisePriv s) ∧ exec (.verdef w) s = .next (raisePriv s) ∧
      ((srcZero s w.a).truncate 16 ≠ (me s).tag → exec (.tagpurge w) s = .next (raisePriv s)) ∧
      (w.a.isNone = false → exec (.rqtag w) s = .next (raisePriv s)) ∧
      (w.a.litVal ≠ 0 → exec (.mcread w) s = .next (raisePriv s)) ∧
      (w.a.litVal = 0 → p.det = true → exec (.mcread w) s = .next (raiseNondet 0x19 0 s))) ∧
    ((me s).privm = true → (∀ d, (partAt s p.part).suspect = some d → skeinFenced s d.1 = false) →
      exec (.mcackSuspect w) s = .next (raiseSched 0xF7 0 s)) ∧
    (∀ r, verdefReason s p.part w.a.litVal ((srcZero s w.b).toNat % 2 ^ 57) (srcZero s w.c).toNat = r → r ≠ 0 → (me s).privm = true →
      exec (.verdef w) s = .next (raiseSched 0xF6 r s)))

/-- R5, R390 to R392, R395, R397 to R399: BKPT requests a stop where BKEN is set, TMARK offers an event, WHORLSIG takes the
signal word. Stop requests, which go to the task's other spindles where ALLSTOP is set, resuming, the stop itself, and the
scope words, in which a field that hardware has updated in the cycle keeps that update. Where the manual leaves a choice it
follows the model's, log entries 91, 109. -/
def Obligations.DebugWordResults : Prop :=
  (∀ (w : O3) (s : State), guard0 s w.g w.gn = true →
    ((mySpindle s).dbg.ctl.getLsbD 23 = true → exec (.bkpt w) s = .next (stopRequest s.cur.spn 2 w.a.litVal s)) ∧
    ((mySpindle s).dbg.ctl.getLsbD 23 = false → exec (.bkpt w) s = .next s) ∧
    exec (.tmark w) s = .next (tap 0x0A s.cur.spn s.cur.strand (me s).tag (BitVec.ofNat 64 (srcNum s w.a 8)) (srcZero s w.b) 0 s) ∧
    (((mySpindle s).det = true → (me s).privm = true) → exec (.whorlsig w) s =
      .next (landS 1 w.dst (mySpindle s).whorlSig 0 (updMySpindle (fun p => { p with whorlSig := 0 }) s))) ∧
    ((mySpindle s).det = true → (me s).privm = false → exec (.whorlsig w) s = .next (raiseNondet 0x1A 0 s))) ∧
  (∀ (n : Nat) (v : Word) (s : State),
    let p := spindleAt s n
    let put := fun (f : Debug → Debug) (t : State) => updSpindle n (fun p => { p with dbg := f p.dbg }) t
    let request := fun (c : Nat) (t : State) => put (fun d => { d with state := 1, scode := c, bcode := 0 }) t
    let passOn := fun (t : State) => (siblings t n).foldl (fun t m => updSpindle m (fun p => { p with dbg := { p.dbg with stopIn := true } }) t)
    (p.dbg.state = 0 → bitOf p.dbg.ctl.toNat 22 = false → exec (.debugStopreq n) s = .next (request 1 s)) ∧
    (p.dbg.state = 0 → bitOf p.dbg.ctl.toNat 22 = true → exec (.debugStopreq n) s = .next (passOn s (request 1 s))) ∧
    (p.dbg.state ≠ 0 → exec (.debugStopreq n) s = .next s) ∧
    (p.dbg.state ≠ 0 → exec (.debugResume n) s = .next (updSpindle n (fun p =>
      (upto 4).foldl (fun p k => updStrandOf k (fun st => { st with atStop := false }) p) { p with dbg := { p.dbg with state := 0 } }) s)) ∧
    (p.dbg.state = 1 → (∀ k, k < 4 → strandStopped (strandOf p k) = true) → (∀ q, q < 5 → queueStopped s.cycle (queueAt p q) = true) →
      exec (.debugStopped n) s = .next (put (fun d => { d with state := 2 }) s)) ∧
    (let t := put (fun d => { d with stopIn := false }) s
     p.dbg.stopIn = true → p.dbg.state = 0 →
       (bitOf p.dbg.ctl.toNat 22 = false → exec (.allstopRequestReceive n) s = .next (request 4 t)) ∧
       (bitOf p.dbg.ctl.toNat 22 = true → exec (.allstopRequestReceive n) s = .next (passOn t (request 4 t)))) ∧
    (let r := softWrite (raceKey 0 n) p.dbg.scopecnt v s
     exec (.scopecntWrite n v) s = .next (put (fun d => { d with scopecnt := r.1 }) r.2)) ∧
    (let r := softWrite (raceKey 1 n) p.dbg.scopeadr 0 s
     (v = 0 → exec (.scopeadrWrite n v) s = .next (put (fun d => { d with scopeadr := r.1 }) r.2)) ∧
     (v ≠ 0 → exec (.scopeadrWrite n v) s = .next s)))

/-- R386, R387: The Whorl words that write a register, and the branches. Each goes on one package tick later, and a run that
passes its program's last word ends; the Whorl's next word, of whatever run, comes no earlier. -/
def Obligations.WhorlRegisterResults : Prop :=
  ∀ (w : WW) (s : State) (r : WRun), (whorlAt s s.cur.whorl).run = some r →
    let a := SMap.get 0 r.regs w.a.val
    let b := SMap.get 0 r.regs w.b.val
    let imm := w.imm.toNat
    let simm : Word := BitVec.ofInt 64 (signedValue imm 14)
    let slot := attachAt (whorlAt s s.cur.whorl) r.slot
    let go : WRun → Nat → Host.Outcome State Fault Refusal := fun x pc => .next (updWhorl s.cur.whorl (fun y => { y with
      run := if slot.pstart + slot.plen ≤ pc then none else some { x with pc := pc, due := s.tick + 1 }
      next := s.tick + 1 }) s)
    let put := fun x : Word => go { r with regs := SMap.set 0 r.regs w.d.val x } (r.pc + 1)
    let jump := fun c : Bool => go r (if c then r.pc + imm else r.pc + 1)
    exec (.lde w) s = put (nth 0 [r.ev.f0, r.ev.f1, r.ev.f2, r.ev.f3, r.ev.f4, r.ev.f5] imm) ∧
    exec (.ldi w) s = put simm ∧
    exec (.ldt w) s = put (SMap.get 0 (whorlAt s s.cur.whorl).cells (slot.tbase + (a.toNat + imm) % slot.tsize)) ∧
    exec (.whorlAdd w) s = put (a + b) ∧
    exec (.whorlAddi w) s = put (a + simm) ∧
    exec (.whorlSub w) s = put (a - b) ∧
    exec (.whorlAnd w) s = put (a &&& b) ∧
    exec (.whorlOr w) s = put (a ||| b) ∧
    exec (.whorlXor w) s = put (a ^^^ b) ∧
    exec (.whorlShl w) s = put (a <<< imm) ∧
    exec (.whorlShr w) s = put (a >>> imm) ∧
    exec (.whorlMin w) s = put (if a.toNat ≤ b.toNat then a else b) ∧
    exec (.whorlMax w) s = put (if a.toNat ≤ b.toNat then b else a) ∧
    exec (.beq w) s = jump (a = b) ∧
    exec (.bne w) s = jump (a ≠ b) ∧
    exec (.blt w) s = jump (a.toNat < b.toNat)

/-- R386 to R389: The Whorl words that write table cells, TRIG, EMIT and EXIT. A cell of a run's table, once written, reads
so, and no other cell of the Whorl changes; an add saturates. Where the manual leaves a choice it follows the model's, log
entry 93. -/
def Obligations.WhorlTableResults : Prop :=
  (∀ (w : WW) (s : State) (r : WRun), (whorlAt s s.cur.whorl).run = some r →
    let a := SMap.get 0 r.regs w.a.val
    let b := SMap.get 0 r.regs w.b.val
    let imm := w.imm.toNat
    let d := s.cur.whorl
    let slot := attachAt (whorlAt s d) r.slot
    let h0 := (twistWord 0 4 a.toNat 0).toNat
    let h1 := (twistWord 0 4 a.toNat 1).toNat
    exec (.stt w) s = .next (goOn r (r.pc + 1) 1 (setCell r (a.toNat + imm) b s)) ∧
    exec (.hbin w) s = .next (goOn r (r.pc + 1) 1 (addCell r (imm + (if a = 0 then 0 else 64 - leadingZeros a.toNat 64)) b s)) ∧
    exec (.cms w) s = .next (goOn r (r.pc + 1) 4 ((upto 4).foldl (fun s i =>
      addCell r (imm + 256 * i + (twistWord 0 (BitVec.ofNat 32 i) a.toNat 0).toNat % 256) b s) s)) ∧
    (let x := imm + h0 % 256
     exec (.hll w) s = .next (goOn r (r.pc + 1) 1 (setCell r x
       (BitVec.ofNat 64 (max (cellOf r s x).toNat (leadingZeros (h1 * 2 ^ 24 + h0 / 256) 56 + 1))) s))) ∧
    (a = 0 → exec (.trig w) s = .next (goOn r (r.pc + 1) 1 s)) ∧
    (a ≠ 0 → exec (.trig w) s = .next (goOn r (r.pc + 1) 1 (trigActions r imm s))) ∧
    exec (.emit w) s = .next (goOn r (r.pc + 1) 1 (updWhorl d (updAttach r.slot fun y => { y with w2 := y.w2 &&& 0xFFFF })
      (ringPut d slot.tenant 2 4 16 (emitRecord s.tick r.slot slot a b) s))) ∧
    exec (.exit w) s = .next (updWhorl d (fun y => { y with run := none, next := s.tick + 1 }) s)) ∧
  (∀ (r : WRun) (x : Nat) (v : Word) (s : State),
    let slot := attachAt (whorlAt s s.cur.whorl) r.slot
    let cells := fun t : State => (whorlAt t s.cur.whorl).cells
    cellOf r (setCell r x v s) x = v ∧
    (∀ i, i ≠ slot.tbase + x % slot.tsize → SMap.get 0 (cells (setCell r x v s)) i = SMap.get 0 (cells s) i) ∧
    (cellOf r (addCell r x v s) x).toNat = min (2 ^ 64 - 1) ((cellOf r s x).toNat + v.toNat) ∧
    attachAt (whorlAt (setCell r x v s) s.cur.whorl) r.slot = slot)

/-! ### What befalls strands, memory and engines -/

/-- R5, R86, R88, R106, R111, R115, R118, R121, R178, R203, R221: The events of a strand when they are due. The landings and
deposits take effect in order, the oldest first; what is not due stays. A trap whose entry is pending holds a wait's limit.
Where the manual leaves a choice it follows the model's, log entry 6. -/
def Obligations.StrandEvents : Prop :=
  ∀ (n k : Nat) (s : State),
    let st := strandAt s n k
    let upd := fun f : Strand → Strand => updStrand n k f s
    ((∀ g ∈ st.landings, g.shadow = none ∧ g.target ≠ .met ∧ ∀ t, g.target ≠ .trap t) → exec (.fixedLatencyWriteback n k) s =
      .next ((byDue (st.landings.filter fun g => decide (g.due ≤ s.cycle))).foldl (fun t g => updStrand n k (fun st =>
        { orFlagsIn s.cycle g.flags (writeTarget g.target st) with resid := st.resid ||| g.resid }) t)
        (upd fun st => { st with landings := st.landings.filter fun g => !decide (g.due ≤ s.cycle) }))) ∧
    ((∀ d ∈ st.deposits, d.shadow = none) → exec (.latchDeposit n k) s =
      .next ((st.deposits.filter fun d => decide (d.due ≤ s.cycle)).foldl (fun t d => updStrand n k (fun st =>
        orFlagsIn s.cycle d.flags (depositLatch d st)) t)
        (upd fun st => { st with deposits := st.deposits.filter fun d => !decide (d.due ≤ s.cycle) }))) ∧
    (∀ d, st.handles = [d] → d.due ≤ s.cycle → d.killed = false → exec (.handleDeposit n k) s = .next (upd fun st =>
      { st with handles := [], hreg := SMap.set 0 st.hreg d.h d.value, hpa := SMap.set 0 st.hpa d.h d.pa })) ∧
    (st.hold = .nop → st.readyAt ≤ s.cycle → exec (.idleCountEnd n k) s = .next (upd fun st => { st with hold := .none })) ∧
    (∀ others stop, st.hold = .yield others stop → (others = [] ∨ stop ≤ s.cycle) →
      exec (.idleCountEnd n k) s = .next (upd fun st => { st with hold := .none })) ∧
    (∀ r, st.trap = some r → trapDue (spindleAt s n).stopping st = true → exec (.takeTrap n k) s = .next (enterTrap n k r st.trapAt s)) ∧
    ((spindleAt s n).wdDue = true → k < 4 → st.run = .running → (∀ j, j < k → (strandAt s n j).run ≠ .running) →
      exec (.watchdogExpiry n) s = .next (deliverTrap n k 0x12 0 0 none
        (updSpindle n (fun p => { p with wdDue := false, wdArmed := false }) s))) ∧
    (∀ x, st.wait = some x → st.trap = none → x.limit ≠ 0 → x.since + 2 ^ x.limit ≤ s.tick → (spindleAt s n).waited = true →
      (spindleAt s n).stopping = false → (spindleAt s n).dbg.state = 0 → purging s (spindleAt s n).part st.tag = false → exec (.waitTimeout n k) s =
      .next (raise 0x0D (x.code * 2 ^ 24 + x.obj * 2 ^ 16) 0 (updStrand n k (fun st => { st with wait := none, arrived := false })
        { s with cur := focusOn n k st.pc (addr57 (st.pc + 8)) }))) ∧
    (∀ x r, st.wait = some x → st.trap = some r → exec (.waitTimeout n k) s = .next s) ∧
    (∀ x w o, st.wait = some x → x.code = 4 → x.target ≤ s.tick → fetchWord s n k st.pc = .word w → decodeWord w = .ok (.tickw o) →
      ((spindleAt s n).det = true → o.dst.isS = false) → exec (.tickTargetReached n k) s =
        .next (noteGroup st (completeGroup (updSpindle n (fun p => { p with met := k :: p.met }) (landS0 o.dst (BitVec.ofNat 64 s.tick)
          (updStrand n k (fun st => { st with wait := none, arrived := false })
            { s with cur := focusOn n k st.pc (addr57 (st.pc + 8)) }))))))

/-- R185, R187, R216, R228 to R234, R241, R242, R324, R337, R338: A posted store that nothing holds back is applied at its
home; a load's data return, 20 cycles on or later, with what its reads and its acquire give the strand's view, once nothing of
its own is to reach them first; an atomic operation is performed at its home on what stands there, and its reply, 40 cycles on
or later, completes the word. A block whose fill, writing or eviction is done, and the messages of a phaser: the release of a
phase, and a neighbour's counts, which go on to the others and may complete the phase (log entry 108: what the message
carries). Where the manual leaves a choice it follows the model's, log entries 6, 17, 18, 20, 43, 108. -/
def Obligations.MemoryEvents : Prop :=
  (∀ (s : State),
    (∀ i w, s.posted[i]? = some w → mayApply s i w = true → stale s w.tag w.att = false → refusesAny s w.att w.pa w.data.length = false →
      let t : State := { s with posted := s.posted.take i ++ s.posted.drop (i + 1) }
      let len := w.data.length
      let lines := fun t : State => clearWhole w (noteLines w.spn w.strand w.att w.rel w.marked w.pa len t)
      (w.atom = none → w.strand < 4 →
        exec (.storeApply i) s = .next (lines (homeWrite w.org w.att w.pa w.data w.marked t))) ∧
      (∀ a, w.atom = some a → len = a.2.width / 8 → inDevice s w.part w.va.toNat = false → loadPoison s w.att [(w.pa, w.va, len)] = none →
        exec (.atomApply i) s = .next (lines (homeWrite (atomOrigin s w.att w.pa len w.org) w.att w.pa
          (toBytes (atomNew a.1.toNat a.2 (ofBytes (homeBytes s w.att w.pa len)) (ofBytes w.data)) len) w.marked
          (gainLast w.spn w.strand w.att w.pa len t))))) ∧
    (∀ n k m, (strandAt s n k).mem = some m → stale s (strandAt s n k).tag m.att = false →
      (m.atom = none → m.reqs ≠ [] → m.ready = false → loadTime s n m ≤ s.cycle → loadWaits s n k m.att m.reqs = false →
        let asked := m.reqs.foldl (fun s r => requestLines n k m r s) s
        let back := readRequests n k m.att m.reqs asked
        let t := noteAcquire n k m.acq back.2
        (m.acq = 0 ∨ acquireClear s (skeinOf n) m.acq (viewOf t n k).hb = true) →
        let m' := { m with ready := true, data := back.1, poison := ownPoison s n k m.att m.reqs }
        exec (.loadDataReturn n k) s = .next (updStrand n k (fun st => { st with mem := some m' }) t)) ∧
      (∀ a r, m.atom = some a → m.reqs = [r] → hasPosted s n k = false → m.c0 + 40 ≤ s.cycle → homeReady s a.org r.1 s.posted = true →
        inDevice s (spindleAt s n).part r.2.1.toNat = false → loadPoison s m.att [r] = none →
        let old := ofBytes (homeBytes s m.att r.1 r.2.2)
        let t := noteAcquire n k m.acq (gainLast n k m.att r.1 r.2.2 (requestLines n k m r s))
        (m.acq = 0 ∨ acquireClear s (skeinOf n) m.acq (viewOf t n k).hb = true) →
        (requestNew a old = none → exec (.atomicReply n k) s = .next (finishAtomic n k m a old t)) ∧
        (∀ new, requestNew a old = some new → refusesAny s m.att r.1 r.2.2 = false → refusesAny t m.att r.1 r.2.2 = false →
          exec (.atomicReply n k) s = .next (finishAtomic n k m a old (clearWhole (requestWrite s n k m a r)
            (noteLines n k m.att a.rel false r.1 r.2.2
              (homeWrite (atomOrigin s m.att r.1 r.2.2 a.org) m.att r.1 (toBytes new r.2.2) false t)))))))) ∧
  (∀ (n b lit : Nat) (m : GatherMsg) (s : State),
    let x := blockAt (spindleAt s n) b
    let ready := updSpindle n (setBlock b { x with st := .ready }) s
    (x.st = .filling → exec (.blockFillDone n b) s = .next (carrySem n x.sem x.carry (raiseSem n x.sem 1 []
      ((upto x.lines).foldl (fun t i => holdLine (n / 8) x.att (x.pa + 128 * i) t) ready)))) ∧
    (x.st = .writing → exec (.blockWritebackDone n b) s = .next (cleanCopies (blockKeys n x) ready)) ∧
    (x.st = .evicting → exec (.blockEvictDone n b) s =
      .next ((((blockKeys n x).filter fun k => (SMap.get L2Line.fresh s.l2 k).held).filter
        fun k => !heldElse s n b (k / 2 % 2 ^ 46 * 128)).foldl (fun t k => dropCopy k t)
          (cleanCopies ((blockKeys n x).filter fun k => (SMap.get L2Line.fresh s.l2 k).held) (updSpindle n (setBlock b .start) s)))) ∧
    exec (.phaserReleaseReceive n lit) s = .next (updSpindle n (fun p => seePhase lit (phaserAt s p lit).phase p) s) ∧
    (∀ c, groupCtx s m.grp = some c → (ctxAt s c).isOpen = true → m.att = some (ctxAt s c).att →
      let i := 64 + m.idx % 16
      let x := SMap.get .start (ctxAt s c).phasers (i % 16)
      let y := { x with far := putCount ⟨m.src, m.phase, m.signallers, m.arrivals⟩ x.far, carry := joinRel x.carry (farCarry s) }
      let t := gatherFrom c i (some m.src) (updCtx c (fun g => { g with phasers := SMap.set .start g.phasers (i % 16) y }) s)
      later x.phase m.phase = false →
        (y.full = false → exec (.phaserGatherReceive m) s = .next t) ∧
        (y.full = true → exec (.phaserGatherReceive m) s = .next (gatherFrom c i none (completeStep c i t)))) ∧
    ((∀ c, groupCtx s m.grp = some c → (ctxAt s c).isOpen = false ∨ m.att ≠ some (ctxAt s c).att) → 0 < gatherAhead s m →
      gatherAhead s m < 2 ^ 15 → exec (.phaserGatherReceive m) s = .next { s with early := s.early ++ [m] }))

/-- R252, R258 to R265: One issue of the matrix engine's head, where nothing holds it and its accesses pass. Where the manual
leaves a choice it follows the model's, log entries 6, 7. -/
def Obligations.MatrixIssues : Prop :=
  ∀ (n : Nat) (r : Rec) (s : State), headRec (spindleAt s n) 0 = some r → matrixReady s n r = true →
    let t := r.ty.getD .bf16
    let off := r.byte (rowOperand 0) r.n
    let soff := r.byte (scaleOperand 1) r.n
    let reads := (off, 256) :: (if t = .e2m1 then [(soff, 16)] else [])
    let v := engineNoted n 0 r.seq reads [] s
    (∀ u, (spindleAt s n).matrix.btype = some u → (r.n = 0 → pairOk t u = true) →
      let row := r.row (accOperand 2) r.n
      let fresh := decide (r.kind = 2) && !r.rows.contains row
      engineGood s n 0 r (if bitOf r.kflags 6 then some (BitVec.ofNat 16 (r.word 3), off, 256) else none) reads [] →
      rowPoison (spindleAt v n) row (if fresh then 0 else (bits r.kflags 8 3 + 2) / 2) = 0 →
        (r.kind = 1 → exec (.mma n) s = .next (mulIssue n r t u row off soff v)) ∧
        (r.kind = 2 → exec (.mmaz n) s = .next (mulIssue n r t u row off soff v))) ∧
    (r.kind = 3 → engineGood s n 0 r (if bitOf r.kflags 10 then some (BitVec.ofNat 16 (r.word 3), off, 256) else none) reads [] →
      let j := bits (r.word 3) 16 6 + r.n
      exec (.bload n) s = .next (countIssue n 0 1 (useArrays n [j / 8]
        (updMatrix n (setColumn t j (scratchBytes (spindleAt v n) off 256) (scratchBytes (spindleAt v n) soff 16)) v)))) ∧
    (r.kind = 4 → engineGood s n 0 r none [(off, 256)] [] →
      let v := engineNoted n 0 r.seq [(off, 256)] [] s
      let row := r.row (accOperand 1) r.n
      let cells := (lanesOfBytes (scratchBytes (spindleAt v n) off 256)).map fun x => Cell.mk x 0 (0, 0) (0, 0)
      exec (.accld n) s = .next (countIssue n 0 1 (updSpindle n (clearUnits row 64) (updMatrix n (fun m =>
        { setCells row 0 cells m with unchecked := SMap.set false m.unchecked row true, ints := SMap.set false m.ints row false }) v)))) ∧
    (let off := r.byte (rowOperand 1) r.n
     let v := engineNoted n 0 r.seq [] [(off, 256)] s
     let row := r.row (accOperand 0) r.n
     r.kind = 5 → engineGood s n 0 r none [] [(off, 256)] → rowPoison (spindleAt v n) row 4 = 0 →
      shadowColumn (spindleAt v n).matrix row 64 = none →
        exec (.accst n) s = .next (countIssue n 0 1 (queueFlags n 0 0
          (updSpindle n (scratchWrite off (laneBytes (accRow (spindleAt v n).matrix row)) false) v)))) ∧
    (let ws := (upto 3).map fun i => cbankAt (spindleAt s n) (bits (r.word 6) 48 8 + i)
     let b := if r.pb.isEmpty then { r with pb := ws } else r
     let s1 := if r.pb.isEmpty then updHead n 0 (fun x => { x with pb := ws }) s else s
     let off := r.byte ⟨1, false, false, r.mxtBytes, r.mxtBytes⟩ r.n
     let v := engineNoted n 0 r.seq [] [(off, r.mxtBytes)] s1
     let row := r.row (accOperand 0) r.n
     r.kind = 6 → engineGood s1 n 0 b none [] [(off, r.mxtBytes)] → rowPoison (spindleAt v n) row 4 = 0 →
      shadowColumn (spindleAt v n).matrix row 64 = none →
        exec (.mxt n) s = .next (countIssue n 0 1 (queueFlags n 0 (mxtRow b (spindleAt v n) row).2
          (updSpindle n (scratchWrite off (mxtRow b (spindleAt v n) row).1 false) v))))

/-- R260, R261: An issue of MMA or MMAZ writes its row's first columns with the rounded sum of the old element, for MMA or a
row already written, and the slice product; the other elements of the accumulators stay, and the issue is counted. Where the
manual leaves a choice it follows the model's, log entries 7, 9. -/
def Obligations.MatrixProduct : Prop :=
  ∀ (n : Nat) (r : Rec) (t u : Ty) (row off soff : Nat) (s : State),
    let p := spindleAt s n
    let a := scratchBytes p off 256
    let fresh := decide (r.kind = 2) && !r.rows.contains row
    let cols := 8 * (bits r.kflags 8 3 + 1)
    let acc := fun i => SMap.get 0 (spindleAt (mulIssue n r t u row off soff s) n).matrix.acc i
    let old := fun i => SMap.get 0 p.matrix.acc i
    (∀ j, j < cols → t ≠ .s8 → t ≠ .n8 →
      let ps := ((rowElems t a (scratchBytes p soff 16)).zip (rowElems u (bColumn p.matrix j) (bScale p.matrix j))).map fun x => mulExact x.1 x.2
      acc (64 * row + j) = BitVec.ofNat 32 (roundFp .fp32 .rne false
        (if fresh then (dotSlice ps).1 else (addExact (Fp.decode .fp32 (old (64 * row + j)).toNat) (dotSlice ps).1).1)).1) ∧
    (∀ j, j < cols → t = .s8 ∨ t = .n8 →
      let d := ((rowInts t a).zip (rowInts u (bColumn p.matrix j))).foldl (fun v x => v + x.1 * x.2) (0 : Int)
      let v := if fresh then d else signedValue (old (64 * row + j)).toNat 32 + d
      acc (64 * row + j) = BitVec.ofNat 32 (if bitOf r.kflags 7 then (satS v 32).1 else wrap v 32)) ∧
    (∀ i, i < 64 * row ∨ 64 * row + cols ≤ i → acc i = old i)

/-- R202, R245, R250, R270 to R276, R295, R417: One issue of a copy channel's head. A chunk from memory is asked for first,
and the issue goes on when it has returned. A record past its last issue completes when its writes are applied; a sub-array
wakes, not while the power controller holds wakes, and is gated when nothing has used it for 2048 cycles. Where the manual
leaves a choice it follows the model's, log entries 6, 45, 47, 48, 52, 60, 61. -/
def Obligations.CopyIssues : Prop :=
  (∀ (n ch : Nat) (r : Rec) (s : State), headRec (spindleAt s n) (ch + 1) = some r →
    let q := ch + 1
    let src := 16 * r.addr (srcOperand r) r.n
    (headReady s n q r = true →
      (r.kind = 0x10 → ∀ bs v t, readsChunk n q r src r.srcBytes s bs v → putsChunk n q r bs v t → exec (.copy n ch) s = .next t) ∧
      (r.kind = 0x12 → ∀ t, putsChunk n q r ((upto (r.chunk / 4)).flatMap fun _ => toBytes (bits (r.word 6) 0 32) 4) s t →
        exec (.fill n ch) s = .next t) ∧
      (let ws := (upto 3).map fun i => cbankAt (spindleAt s n) (bits (r.word 6) 44 8 + i)
       let b := if r.pb.isEmpty then { r with pb := ws } else r
       let s1 := if r.pb.isEmpty then updHead n q (fun x => { x with pb := ws }) s else s
       r.kind = 0x11 → ∀ xs v t, readsChunk n q b src r.srcBytes s1 xs v →
        let o := r.byte (dstOperand r) r.n
        let x := engineNoted n q r.seq [(o, r.chunk)] [] v
        let y := addChunk b xs (scratchBytes (spindleAt x n) o r.chunk)
        engineGood v n q b none [(o, r.chunk)] [] → putsChunk n q b y.1 (queueFlags n q y.2 x) t →
          exec (.copyacc n ch) s = .next t) ∧
      (let o := r.byte (idxOperand r) 0 + 4 * r.n
       let x := engineNoted n q r.seq [(o, 4)] [] s
       let off : Int := 16 * r.from (srcOperand r) + ofBytes (scratchBytes (spindleAt x n) o 4) * r.chunk
       r.kind = 0x13 → r.data = none → engineGood s n q r none [(o, 4)] [] → 0 ≤ off →
        off + r.chunk ≤ (if r.sp 0 then hSize (r.handle 0) else (spindleAt x n).sg * 65536 : Nat) →
        (∀ bs v t, readsChunk n q r off r.chunk x bs v → putsChunk n q r bs v t → exec (.gather n ch) s = .next t) ∧
        (r.sp 0 = true → r.sent = false → ∀ rs, recordReqs x (spindleAt x n).part (recordVa r 0 off) r.chunk false = .ok rs →
          exec (.gather n ch) s = .next
            (updHead n q (fun r => { r with sent := true, sentAt := x.tick, src := recordVa r 0 off }) x))) ∧
      (r.kind = 0x13 → r.sp 0 = true → ∀ bs t, r.data = some bs → putsChunk n q r bs s t → exec (.gather n ch) s = .next t) ∧
      (r.kind = 0x14 → ∀ bs v port, readsChunk n q r src r.srcBytes s bs v → pathTo v n (zaPkg r.za) = some port →
        let m : ChunkMsg :=
          { hdr := hdrFor v n (zaPkg r.za) r.sseq r.tag, lspn := zaSpn r.za, zone := zaZone r.za, slot := r.slot,
            seq := r.sseq, off := r.n * r.chunk, last := r.total, rop := bits (r.word 4) 56 4, xw := bits (r.word 4) 50 6,
            data := bs, spn := n, chan := ch, recno := r.seq, port := port }
        exec (.rput n ch) s = .next (countIssue n q r.units (updHead n q (fun r =>
          { r with ports := if r.ports.contains port then r.ports else port :: r.ports }) { v with net := v.net ++ [.chunk m] }))) ∧
      (r.kind = 0x10 → r.sp 0 = true → r.data = none → r.sent = false → ∀ rs,
        recordReqs s (spindleAt s n).part (recordVa r 0 src) r.srcBytes false = .ok rs →
          exec (.copy n ch) s = .next
            (updHead n q (fun r => { r with sent := true, sentAt := s.tick, src := recordVa r 0 src }) s))) ∧
    (r.sent = true → r.data = none → (queueAt (spindleAt s n) q).faulted = false → ∀ rs,
      recordReqs s (spindleAt s n).part r.src r.srcBytes false = .ok rs → ownPoison s n (copyAgent q) (attOf s r.tag) rs = none →
        let back := readChunk n q r.tag rs (rs.foldl (fun s x => recordLines n q r x s) s)
        exec (.copyReadReturn n ch) s = .next (updHead n q (fun x => { x with data := some back.1 }) back.2))) ∧
  (∀ (n q x : Nat) (s : State),
    let m := (spindleAt s n).matrix
    (∀ d ds, (queueAt (spindleAt s n) q).done = d :: ds → d.due ≤ s.cycle → recordApplied s n q d.r = true →
      mulShadow (spindleAt s n) d.r = none → exec (.engineRecordComplete n q) s = .next (completeRec n q d.r s)) ∧
    (s.dev.wakeHold = true → exec (.subarrayWakeDone n x) s = .next s) ∧
    (SMap.get 0 m.waking x ≠ 0 → SMap.get 0 m.waking x ≤ s.cycle → s.dev.wakeHold = false → exec (.subarrayWakeDone n x) s = .next (updMatrix n (fun m =>
      { m with waking := SMap.set 0 m.waking x 0, awake := SMap.set false m.awake x true, used := SMap.set 0 m.used x s.cycle }) s)) ∧
    (SMap.get false m.awake x = true → SMap.get 0 m.used x + 2048 < s.cycle → arrayNeeded (spindleAt s n) x = false →
      exec (.subarrayGate n x) s = .next (updMatrix n (fun m => { m with awake := SMap.set false m.awake x false }) s)))

/-! ### Ports and messages -/

/-- R231, R286, R288 to R290, R292, R295, R297, R298, R300 to R302, R308, R320, R324, R400, R408: The ports. A change of STATE
is told to the Whorl and to system software. A chunk from another device that its slot takes is applied, counted and answered;
the last one makes the slot ARRIVED. Then what the sender does with an answer, a credit, which a saved task gets too, and a
cancel notice. A packet of an attempt that is over is discarded. A bobbin leaves when its first element has reached its age;
an element that arrives in a flit acts at its home and its status goes back; the completion record of a flit that was wholly
applied ends it. Where the manual leaves a choice it follows the model's, log entries 6, 18, 57, 59, 60, 120. -/
def Obligations.PortEvents : Prop :=
  (∀ (i peer : Nat) (es : List PeerEntry) (s : State),
    let x := portAt s i
    let told := fun (y : Port) => raiseVector 0 0 (tapLink i (setPort i y s))
    (x.st = 1 → exec (.portTrained i peer es) s =
      .next (told { x with st := 2, peerPort := peer, peers := es, down := false })) ∧
    (x.st = 2 → x.down = false → exec (.linkLoss i) s = .next (setPort i { x with down := true, since := s.tick } s)) ∧
    (x.st = 2 → x.down = true → exec (.portTrained i peer es) s = .next (setPort i { x with down := false } s)) ∧
    (x.st = 2 → x.down = true → x.since + 20000 ≤ s.tick →
      exec (.portFailure i) s = .next (losePackets i (told { x with st := 3, down := false }))) ∧
    (x.st = 1 → x.since + 50000000 ≤ s.tick → exec (.trainingRetry i) s = .next (setPort i { x with since := s.tick } s)) ∧
    (x.st = 2 → exec (.flitCrcResend i) s =
      .next (tapLink i (setPort i { x with retry := min 0xFFFF (x.retry + 1) } s))) ∧
    (x.st = 2 → exec (.peerEntryExchange i es) s = .next (setPort i { x with peers := es } s)) ∧
    (x.en = false → x.st ≠ 1 → exec (.portEnable i true) s =
      .next (told { x with en := true, st := 1, since := s.tick, down := false })) ∧
    (x.st ≠ 0 → exec (.portEnable i false) s =
      .next (losePackets i (told { x with en := false, st := 0, peers := [], down := false }))) ∧
    (x.st = 3 → exec (.portRetrain i) s = .next (told { x with st := 1, since := s.tick }))) ∧
  (∀ (c : ChunkMsg) (a : AcceptMsg) (e : CreditMsg) (k : CancelMsg) (i : Nat) (s : State),
    let now := fun h : PktHdr => h.dst = ownPkg s h.grp ∧ h.src ≠ h.dst ∧ pktFuture s h = false ∧ pktStale s h = false
    (∀ n x, now c.hdr →
      targetSpindle s c.hdr.grp c.lspn = some n → zoneAt (spindleAt s n) c.zone = some x → c.slot < x.slots →
      ((slotAt x c.slot).st = .free ∨ (slotAt x c.slot).st = .inflight) → stepDiffers (spindleAt s n) s c.hdr = false →
      c.off + c.data.length ≤ x.bytes → c.seq = expectedSeq x c.slot → windowForeign s n c = false →
      let reply : NetMsg := .accept
        { hdr := { c.hdr with src := c.hdr.dst, dst := c.hdr.src }, spn := c.spn, chan := c.chan, recno := c.recno, status := 0 }
      let counted := updSpindle n (updZone c.zone fun y =>
        { updSlot c.slot (fun y => { y with
          st := .inflight, got := y.got ++ [c.off], ports := if y.ports.contains c.port then y.ports else c.port :: y.ports }) y with
          binder := some c.hdr.src })
        (applyChunk n c.zone x c s)
      let got := (slotAt x c.slot).got.length + 1
      (got ≠ c.last → exec (.rputChunkReceive c) s = .next { counted with net := counted.net ++ [reply] }) ∧
      (got = c.last → let t := arriveSlot n c.zone c.slot x (arrivalHands s c) counted
        exec (.rputChunkReceive c) s = .next { t with net := t.net ++ [reply] })) ∧
    (now a.hdr → let t := { s with net := s.net.eraseP (answered a) }
      let onRecord := fun f : Rec → Rec => Host.Outcome.next (updNumbered a.spn (a.chan + 1) a.recno f (if a.status = 3 then s else t))
      (a.status = 0 → exec (.rputChunkAccept a) s = onRecord fun r => { r with acks := r.acks + 1, away := false }) ∧
      (a.status = 3 → exec (.rputChunkAccept a) s = onRecord fun r => { r with away := true }) ∧
      (a.status ≠ 0 → a.status ≠ 3 → exec (.rputChunkAccept a) s =
        .next (failRput a.spn (a.chan + 1) a.recno (if a.status = 2 then 8 else 9) t))) ∧
    (now e.hdr → let holder := s.spindles.find? fun x => x.2.task.isSome && (bindingFor? e x.2).isSome
      (∀ x b, holder = some x → bindingFor? e (spindleAt s x.1) = some b → stepDiffers x.2 s e.hdr = false →
        exec (.slotCreditReceive e) s =
          .next (updSpindle x.1 (updBind b fun b => { b with credits := min b.slots (b.credits + 1) }) s)) ∧
      (holder = none → exec (.slotCreditReceive e) s =
        .next { s with tasks := s.tasks.map fun x => (x.1, x.2.map (creditSaved e)) })) ∧
    (a.hdr.dst = ownPkg s a.hdr.grp → a.hdr.src ≠ a.hdr.dst → pktFuture s a.hdr = false → pktStale s a.hdr = true →
      exec (.rputChunkAccept a) s = .next (if a.status = 3 then s else { s with net := s.net.eraseP (answered a) })) ∧
    (k.hdr.dst ≠ ownPkg s k.hdr.grp → exec (.cancelNoticeReceive k) s = .next (dropCancel k s)) ∧
    (∀ n x, now k.hdr → stepDiffers (spindleAt s n) s k.hdr = false →
      targetSpindle s k.hdr.grp k.lspn = some n → zoneAt (spindleAt s n) k.zone = some x → k.slot < x.slots →
      ((slotAt x k.slot).st = .free ∨ (slotAt x k.slot).st = .inflight) → expectedSeq x k.slot = k.seq →
      exec (.cancelNoticeReceive k) s =
        .next (breakZone n k.zone k.slot x (updSpindle n (updZone k.zone fun y => { y with binder := some k.hdr.src }) s))) ∧
    (∀ m, (openCancels s)[i]? = some m → s.net.contains (.cancel m) = false →
      exec (.cancelNoticeResend i) s = .next { s with net := s.net ++ [.cancel m] })) ∧
  (∀ (die j : Nat) (f : FlitMsg) (m : FlitDone) (b : Bobbin) (e : BobElem) (s : State),
    (bobbinAt s (64 * die + j) = some b → b.born + b.bage ≤ s.cycle →
      exec (.bobbinAgeExpiry die j) s = .next (leaveBobbin (64 * die + j) 1 s)) ∧
    (∀ t, f.elems = [e] → f.hdr.dst = ownPkg s f.hdr.grp → f.hdr.src ≠ f.hdr.dst → pktFuture s f.hdr = false →
      pktStale s f.hdr = false →
      (groupTasks s f.hdr.grp).isEmpty = false → (∀ x, groupStep s f.hdr.grp = some x → x = f.hdr.step) →
      translate s (groupPart s f.hdr.grp) (f.page * 2 ^ 16 + e.off) = some t → t.wr = true → t.nr = false → t.dev = false →
      let n := if e.wide then 8 else 4
      let pa := t.pa + (f.page * 2 ^ 16 + e.off) % t.size
      let old := ofBytes (homeBytes s f.hdr.att pa n)
      let applied := fun (bs : List Byte) =>
        let u := outsideWrite (farAgent f.hdr.src) e.op.isSome f.hdr.att pa bs s
        exec (.bobbinFlitReceive f) s = .next { u with net := u.net ++
          [.flitDone { hdr := { f.hdr with src := f.hdr.dst, dst := f.hdr.src }, id := f.id, status := [0] }] }
      refusesAny s f.hdr.att pa n = false →
        (e.op = none → applied (toBytes e.value.toNat n)) ∧
        (∀ op, e.op = some op → readPoison s f.hdr.att pa n = 0 →
          applied (toBytes (atomNew op.toNat e.ty old (e.value.toNat % 2 ^ (8 * n))) n))) ∧
    ((s.flits.find? fun b => b.id = m.id) = some b → (∀ r ∈ m.status, r = 0) → exec (.bobbinCompletionReceive m) s =
      .next { s with flits := s.flits.filter (fun b => b.id ≠ m.id), net := s.net.filter fun x => !isFlit m.id x }) ∧
    (∀ i q qs, (winAt s die i).queue = q :: qs → stale s q.tag q.att = false → mayAdd s die q = true →
      exec (.xaddApply die i) s = .next (updWin die i (fun x => noteAddend q.org ((xaddValues q).foldl xwAdd { x with queue := qs })) s)))

/-! ### Steps -/

/-- R322, R333 to R335: An attempt opens once its context may open one and no purge of its tag is under way; a missing vote
counts as F.LATE; a vote of a child is combined: the first one enters, a later one is added to what the node has of the child,
so that F.LATE stays (log 101, the model's choice); this device's own is acknowledged by its parent, and what nobody has
acknowledged is sent again where a path is up. A context weighs its votes. The root decides with the first flag or with the
last vote, COMMIT only where no flag is set, and records it for itself and for each of its children. Where the manual leaves a
choice it follows the model's, log entries 6, 65, 66, 67, 101. -/
def Obligations.AttemptEvents : Prop :=
  (∀ (q c k : Nat) (y : Pkt) (m : VoteMsg) (e : DecisionMsg) (s : State),
    let g := ctxAt s c
    let late := updCtx c (fun g => { g with vflags := g.vflags ||| 0x10 }) s
    let opened : State := updCtx c (fun g => { g with tag := pktTag y.w, stepno := pktWord y.w 1 % 2 ^ 48, isOpen := true, att := g.att + 1, ord := y.ord, td := s.tick + pktWord y.w 3 % 2 ^ 32, vflags := 0, bitmap := SMap.set false g.bitmap ((g.att + 1).toNat % 4096) false, cast := none, first := none, kids := [], decided := false, opened := g.opened + 1, phasers := [] }) s
    let begun := receiveEarly { opened with lastAtt := SMap.set 0 s.lastAtt g.grp (g.att + 1) }
    (openWaiter s q = some y → groupCtx s (openGrp y.w) = some c → mayOpen s c = true → purging s (queuePart s q) (pktTag y.w) = false →
      s.dev.svc = 2 → exec (.attemptOpen q) s = .next
        (updCmdq q (fun x => { x with pkts := x.pkts ++ spanPkts y.idx (y.idx + 1) y.kept })
          (updPkt q y.idx (fun y => { y with phase := 3, since := (ctxAt begun c).opened }) begun))) ∧
    (g.isOpen = true → g.cast = none → g.td ≤ s.tick → exec (.voteDeadline c) s = .next (castVote c late)) ∧
    (g.isOpen = true → g.decided = false → k ∈ treeKids s g.grp → (∀ x ∈ g.kids, x.1 ≠ k) →
      g.td + 2400 * treeHeight s g.grp ≤ s.tick → exec (.childVoteDeadline c k) s =
        .next (weighVotes c (updCtx c (fun g => { g with kids := g.kids ++ [(k, 0x10, some k)] }) s))) ∧
    (m.src = ownPkg s m.grp → let own := NetMsg.vote (treeParent s m.grp) m
      exec (.voteReceive m) s =
        .next { s with net := s.net.filter (· ≠ own), unacked := s.unacked.filter (· ≠ own) }) ∧
    (m.src ≠ ownPkg s m.grp → groupCtx s m.grp = some c → g.isOpen = true → g.att = m.att → m.src ∈ treeKids s m.grp →
      let others := g.kids.filter fun x => x.1 ≠ m.src
      let heard := fun x => exec (.voteReceive m) s = .next (weighVotes c (updCtx c (fun g => { g with kids := others ++ [x] }) s))
      ((∀ x ∈ g.kids, x.1 ≠ m.src) → heard (m.src, m.flags, m.first)) ∧
      (∀ x, g.kids.find? (fun x => x.1 = m.src) = some x → heard (m.src, m.flags ||| x.2.1, lowerPkg m.first x.2.2))) ∧
    (m.src ≠ ownPkg s m.grp → (∀ c, groupCtx s m.grp = some c → (ctxAt s c).isOpen = true → (ctxAt s c).att ≠ m.att) →
      exec (.voteReceive m) s = .next s) ∧
    (∀ d x, x = NetMsg.vote d m ∧ m.grp = g.grp ∨ x = NetMsg.decision d e ∧ e.grp = g.grp → s.unacked[k]? = some x →
      exec (.voteResend k) s =
        .next (if (routePort s g.grp d).isSome ∧ x ∉ s.net then { s with net := s.net ++ [x] } else s))) ∧
  (∀ (c : Nat) (s : State),
    let g := ctxAt s c
    let v := combinedVote g
    let own := ownPkg s g.grp
    let m : DecisionMsg := { grp := g.grp, dst := own, att := g.att, commit := decide (v.1 = 0), flags := v.1, first := v.2 }
    g.isOpen = true → g.decided = false → treeParent s g.grp = own →
    (v.1 ≠ 0 ∨ (g.cast.isSome = true ∧ ∀ k ∈ treeKids s g.grp, ∃ x ∈ g.kids, x.1 = k)) →
    ∃ t, weighVotes c s = (treeKids s g.grp).foldl (fun s k => sendTree g.grp k (.decision k { m with dst := k }) s) t ∧
      (ctxAt t c).decided = true ∧ t.net = s.net ++ [.decision own m])

/-- R321, R335 to R337: A decision reaches its device. The outcome bit of the attempt is that of the decision, and OPEN
becomes 0; an ABORT also clears the step's objects and starts the purge of its tag. A child's acknowledgement ends the sending
of that child's decision. Where the manual leaves a choice it follows the model's, log entries 6, 65. -/
def Obligations.DecisionApplied : Prop :=
  ∀ (c : Nat) (m : DecisionMsg) (s : State),
    let own := ownPkg s m.grp
    let g := ctxAt s c
    (m.dst ≠ own → let held := NetMsg.decision m.dst m
      exec (.decisionReceive m) s = .next { s with net := s.net.filter (· ≠ held), unacked := s.unacked.filter (· ≠ held) }) ∧
    (m.dst = own → groupCtx s m.grp = some c → g.isOpen = true → g.att = m.att →
    (treeRoot s m.grp = true → NetMsg.decision own m ∈ s.net →
      exec (.decisionReceive m) s = .next (applyDecision c m { s with net := s.net.filter (· ≠ .decision own m) })) ∧
    (treeRoot s m.grp = false → exec (.decisionReceive m) s =
      .next ((treeKids s m.grp).foldl (fun s k => sendTree m.grp k (.decision k { m with dst := k }) s) (applyDecision c m s))) ∧
    (let t := applyDecision c m s
     let p := groupPart s g.grp
     (m.commit = true → (ctxAt t c).isOpen = false ∧ SMap.get false (ctxAt t c).bitmap (g.att.toNat % 4096) = true ∧
       (ctxAt t c).hist.getLast? = some ⟨g.stepno, true, m.flags, m.first, g.opened⟩ ∧ t.purges = s.purges) ∧
     (m.commit = false → (ctxAt t c).isOpen = false ∧ (ctxAt t c).bitmap = g.bitmap ∧
       (ctxAt t c).hist.getLast? = some ⟨g.stepno, false, m.flags, m.first, g.opened⟩ ∧ (p, g.tag) ∈ t.purges)))

/-- R331, R340, R342, R343: The end of a purge, a visit of the scrubber, the in-field test of a skein, and containment lost.
Where the manual leaves a choice it follows the model's, log entries 6, 73, 75, 76. -/
def Obligations.RecoveryEvents : Prop :=
  ∀ (p block k : Nat) (tag : BitVec 16) (s : State),
    (tag ∈ (s.purges.filter fun x => x.1 = p).map (·.2) → purgeReady s p tag = true →
      exec (.purgeComplete p tag) s = .next (completePurge p tag s)) ∧
    (∀ v, vpageAt s (256 * block) = some v → let b := vmetaAt s (256 * block)
      b.v = true → ((ctxAt s v.ctx).isOpen = true → b.a ≠ (ctxAt s v.ctx).att) → exec (.scrubberVisit block) s =
        .next { s with vmeta := SMap.set .start s.vmeta block ⟨currentSlot (ctxAt s v.ctx) b none, false, 0⟩ }) ∧
    (k < 80 → let ps := (upto 64).filter fun p => bitOf (partWord s p 0) 63 && inPartition s p (8 * k)
      let x := SMap.get (0, 0, 0) s.dev.commits k
      (∀ c, c < 16 → (ctxAt s c).isOpen = true → groupPart s (ctxAt s c).grp ∉ ps) →
        exec (.inFieldTest k true) s =
          .next { s with dev := { s.dev with commits := SMap.set (0, 0, 0) s.dev.commits k (0, 0, 0) } } ∧
        exec (.inFieldTest k false) s = .next (ps.foldl (fun s p => { s with parts := SMap.modify .start s.parts p fun y =>
          { y with suspect := some (y.suspect.getD (k, x.1, x.2.1, x.2.2)), suspectVote := true } }) s)) ∧
    (s.dev.svc ≠ 3 → let t := s.spindles.foldl (fun s x => if x.2.task.isSome then updSpindle x.1 haltSpindle s else s) s
      exec .containmentLost s =
        .next { t with dev := { t.dev with svc := 3, msix := t.dev.msix ++ [(0, 0)] } })

/-! ### The command processor -/

/-- R321, R356, R357, R361 to R371: The registers of a queue, taking a packet (RESYNC starts at once, with the summary of that
moment: R369), NOP, SIGNAL and WAITSIG. LAUNCH, GRAPH, STEPOPEN, STEPCLOSE and RESYNC where they start and act. Where the
manual leaves a choice it follows the model's, log entries 6, 18, 77, 79, 82, 88, 98, 119. -/
def Obligations.QueueEvents : Prop :=
  (∀ (q k : Nat) (v : Word) (y : Pkt) (s : State),
    let x := cmdqAt s q
    let p := queuePart s q
    let addr := pktWord y.w 1 % 2 ^ 57
    let put := fun f : CmdQ → CmdQ => updCmdq q f s
    let started := updPkt q y.idx (fun y => { y with started := true, since := s.tick }) s
    let pass := fun (t : State) => dropPkt q y.idx t
    (q < 1024 → exec (.notifyWptrWrite q v) s = .next (put fun x => if v.toNat < x.wptr.toNat then x else { x with wptr := v })) ∧
    (q < 1024 → exec (.qstsWrite q v) s = .next (put fun x =>
      if v.toNat / 2 ^ 62 = 1 ∧ x.state = 2 then { x with state := 1 } else x)) ∧
    (q < 1024 → exec (.queueDescriptorWrite q 1 v) s = .next (put fun x => { x with d1 := v &&& 0xFFFF })) ∧
    (q < 1024 → (descWord x v).getLsbD 0 = true → x.d0.getLsbD 0 = false → exec (.queueDescriptorWrite q 0 v) s = .next (put fun x =>
      { x with d0 := descWord x v, wptr := 0, rptr := 0, state := 1, reason := 0, gone := [], base := x.base + x.rptr })) ∧
    (q < 1024 → (descWord x v).getLsbD 0 = false → exec (.queueDescriptorWrite q 0 v) s = .next (put fun x =>
      { x with d0 := descWord x v, state := 0 })) ∧
    (let s0 := updCmdq q passGone s
     let x0 := cmdqAt s0 q
     let va := slotVa x0 x0.rptr
     ∀ w, mayTake s0 q = true → s.dev.svc ≠ 3 → cpWords s0 (queuePart s0 q) va 8 = some w → pktValid w = true →
      spanTaker x0 = none → takeReason x0 w = 0 → pktKind w ≠ 6 → pktKind w ≠ 7 →
      let n := x0.base + x0.rptr
      let taken := updCmdq q (fun z => { z with pkts := z.pkts ++ [newPkt n w] }) (updCmdq q (fun z => { z with rptr := z.rptr + 1 })
        (cpWrite q (queuePart s0 q) va (toBytes ((pktWord w 0) - 0x8000) 8) s0))
      exec (.queuePoll q) s = .next (updPkt q n (fun y =>
        if pktKind y.w = 8 then { y with started := true, kept := [summary taken] } else y) taken)) ∧
    (pktAt s q k = some y → mayStart s q y = true →
      (pktKind y.w = 1 → exec (.packetNop q k) s = .next (pass s)) ∧
      (let done := pass (cpAtomic q p addr (fun old => if pktFlags y.w % 4 = 1 then old + pktWord y.w 2 else pktWord y.w 2) (cpRelease q s))
       let irq := pktFlags y.w / 4 % 2 = 1 ∧ x.d0.getLsbD 1 = true
       pktKind y.w = 4 →
        (¬ irq → exec (.signal q k) s = .next done) ∧
        (irq → exec (.signal q k) s = .next { done with dev := { done.dev with
          msix := done.dev.msix ++ [(x.bind.toNat / 2 ^ 8 % 2 ^ 7, x.d1.toNat % 2 ^ 16)] } })) ∧
      (pktKind y.w = 5 → ∀ z, cpWords started (queuePart started q) addr 1 = some [z] →
        let seen := cpAcquire q (queuePart started q) addr started
        exec (.waitsig q k) s = .next (if waitsigMet y.w z.toNat then pass seen else seen))) ∧
    (pktAt s q k = some y → pktKind y.w = 5 → y.started = true → s.dev.svc ≠ 3 → ∀ z, cpWords s p addr 1 = some [z] →
      (let seen := cpAcquire q p addr s
       exec (.waitsigReread q k) s = .next (if waitsigMet y.w z.toNat then pass seen else seen)) ∧
      (let n := pktWord y.w 3 % 2 ^ 32
       n ≠ 0 → y.since + n ≤ s.tick → waitsigMet y.w z.toNat = false → x.state = 1 → y.idx = k →
         exec (.waitsigTimeout q k) s = .next (updCmdq q (fun x => { x with state := 2, reason := 7 }) (pass (cpAcquire q p addr s)))))) ∧
  (∀ (q k : Nat) (y : Pkt) (s : State), pktAt s q k = some y →
    let p := queuePart s q
    let load := loadTask s p y.w (pktTag y.w) q y.idx none
    (mayStart s q y = true →
      (pktKind y.w = 2 →
        (∀ t, load = .ok t → let u := updPkt q y.idx (fun y => { y with started := true, task := some s.nextTask }) s
          exec (.launch q k) s = .next
            { u with tasks := SMap.set none s.tasks s.nextTask (some t), nextTask := s.nextTask + 1, rounds := u.rounds + 1 }) ∧
        (∀ l, load = .error l → y.span = none → exec (.launch q k) s =
          .next (dropPkt q y.idx (finishRecord (emptyTask s p y.w (pktTag y.w) q y.idx) l 1 s)))) ∧
      (∀ i ws ls, pktKind y.w = 3 → (upto 64).find? (fun i => (graphAt s i).isNone) = some i →
        let n := pktWord y.w 2
        let a := pktWord y.w 1
        0 < n → n ≤ 4096 → a % 64 = 0 → cpWords s p a (8 * n) = some ws → bodyOk (pieces 8 n ws) = true →
        launchesOf s p (pieces 8 n ws) = some ls → (∀ l ∈ ls, bits (pktFlags l) 1 2 ≤ bits (cmdqAt s q).d0.toNat 3 2) →
        exec (.graph q k) s = .next (setGraph i (some (newGraph q p y (pieces 8 n ws) ls))
          (updPkt q y.idx (fun y => { y with started := true, graph := some i }) s))) ∧
      (∀ c, pktKind y.w = 6 → y.phase = 1 → s.dev.svc = 2 → ctxFor s (openGrp y.w) = some c →
        exec (.stepopen q k) s = .next (assignCtx c (openGrp y.w)
          (updPkt q y.idx (fun y => { y with started := true, phase := 2, ord := 0 }) s)))) ∧
    (∀ i o c, pktKind y.w = 7 → s.dev.svc ≠ 3 → y.span = some i → pktAt s q i = some o → o.phase = 3 →
      groupCtx s (openGrp o.w) = some c →
      ((ctxAt s c).isOpen = true → (ctxAt s c).opened = o.since → y.started = false → spanDone s q c y = true →
        exec (.stepclose q k) s = .next (updPkt q y.idx (fun y => { y with started := true })
          (if (ctxAt s c).cast.isSome then s else castVote c s))) ∧
      (∀ h, (ctxAt s c).isOpen = false → (ctxAt s c).hist.find? (fun h => h.seqno = o.since) = some h →
        exec (.stepclose q k) s = .next (afterDecision q o y h s))) ∧
    (pktKind y.w = 8 → y.started = true → exec (.resync q k) s = .next (dropPkt q y.idx
      (cpAtomic q p (pktWord y.w 2 % 2 ^ 57) (fun x => x + (2 ^ 64 - 1))
        (cpWrite q p (pktWord y.w 1 % 2 ^ 57) (wordBytes ((y.kept[0]?).getD [])) s)))))

/-- R83, R88, R119, R126, R200, R209, R323, R359, R360, R363, R372 to R376, R378: A round launches or binds again the
candidates whose bindings fit, in their order, and stops the victims of one for which none fits; a task whose strands, engines
and writes have come to their ends completes; a victim that has stopped is saved, and restored once its windows are bound to
no other task. A spindle as a launch leaves it. Strand 0 is to start at the entry with its tag and with every register zero,
the other strands are idle, and the objects of the spindle are as launch leaves them. The start sets strand 0 off in the next
cycle (R436), and is the task's TSTART. The nodes of a running graph. The lowest due node starts: a TASK enters the ready set,
a COND and a SWITCH mark their edges by the word they read, and a LOOP sends live to FIRST with its count, or ends where that
is 0. Where the manual leaves a choice it follows the model's, log entries 2, 6, 18, 28, 62, 84, 86, 87, 88, 89. -/
def Obligations.ScheduleEvents : Prop :=
  (∀ (id : Nat) (t : Task) (s : State),
    (let round := fun (u : State) => exec .schedulingRound s = .next { u with
        roundAt := s.tick + 10000, rounds := s.rounds - 1, launched := u.launched.filter fun x => decide (s.tick < x.1 + 100000) }
     let passed := fun (u : State) => updTask id (fun t => { t with skips := t.skips + 1 }) u
     (candidates s = [] → round s) ∧
     (∀ b, candidates s = [(id, t)] → bindingFor s t [] = some b → mayLaunch s t = true →
      (t.st ≠ .away → round (launchTask id t b s)) ∧ (t.st = .away → round (rebindTask id t b s))) ∧
     (candidates s = [(id, t)] → bindingFor s t [] = none →
      (∀ vs, takeVictims s t (stoppingTasks s) (victimsFor s t) = some vs → round (vs.foldl (fun s v => stopTask v s) s)) ∧
      (takeVictims s t (stoppingTasks s) (victimsFor s t) = none → round s)) ∧
     (∀ id2 t2 b2, candidates s = [(id, t), (id2, t2)] → id ≠ id2 → t2.st ≠ .away →
      (∀ b, bindingFor s t [] = some b → mayLaunch s t = true → t.st ≠ .away → let u := launchTask id t b s
        heldBack [(id, t), (id2, t2)] [] (id, t) = false → heldBack [(id, t), (id2, t2)] [id] (id2, t2) = false → bindingFor u t2 [] = some b2 → mayLaunch u t2 = true →
          round (launchTask id2 t2 b2 u)) ∧
      (bindingFor s t [] = none → takeVictims s t (stoppingTasks s) (victimsFor s t) = none →
        heldBack [(id, t), (id2, t2)] [] (id, t) = false → heldBack [(id, t), (id2, t2)] [] (id2, t2) = false →
        bindingFor s t2 [] = some b2 → mayLaunch s t2 = true → round (passed (launchTask id2 t2 b2 s))))) ∧
    (taskAt s id = some t →
      (t.st = .resident ∨ t.st = .stopping → s.dev.svc ≠ 3 → (∀ b ∈ t.binding, spindleComplete s b.2 = true) →
        exec (.taskCompletion id) s = .next (completeTask id t s)) ∧
      (let s0 := recallChunks t s
       t.st = .stopping → (∀ b ∈ t.binding, spindleStopped s0 b.2 = true) → (∀ m ∈ s0.net, packetOf s0 t m = false) →
        (t.instep = false → exec (.preemptSave id) s = .next (saveTask id t (notePreempt t.part t.rqtag s0))) ∧
        (t.instep = true → exec (.preemptSave id) s =
          .next (castEarly (startPurge t.part t.rqtag (notePreempt t.part t.rqtag s0))))) ∧
      (t.st = .restoring → (∀ w ∈ windowPlaces t, (SMap.get Window.start s.windows w.1).owner = none ∧
          (SMap.get Window.start s.windows w.1).queue = []) →
        exec (.resumptionRestoreDone id) s = .next (restoreTask id t s)))) ∧
  (∀ (s : State) (id l n : Nat) (t : Task), t.descs = [] →
    let p := launchSpindle s id t l n
    (strandOf p 0).run = .running ∧ (strandOf p 0).pc = t.entry ∧ (strandOf p 0).tag = t.rqtag ∧ (strandOf p 0).sreg = [] ∧
    (strandOf p 0).vreg = [] ∧ (strandOf p 0).preg = [] ∧ (strandOf p 0).hreg = [] ∧ (strandOf p 0).fpctl = 0 ∧
    (strandOf p 0).exl = false ∧ (strandOf p 0).privm = false ∧ (strandOf p 0).hold = .launch ∧
    (let q := startSpindle s.cycle p
     (strandOf q 0).hold = .none ∧ (strandOf q 0).readyAt = s.cycle + 1 ∧ (strandOf q 0).pc = t.entry) ∧
    (∀ b, t.binding = [b] → (strandOf (spindleAt s b.2) 0).hold = .launch → t.node = none → taskAt s id = some t → t.tstart = 0 →
      let u := startTask id t s
      spindleAt u b.2 = startSpindle s.cycle (spindleAt s b.2) ∧ taskAt u id = some { t with tstart := s.tick }) ∧
    (∀ k, k ≠ 0 → strandOf p k = .start) ∧
    (∀ k, semAt p k = .start) ∧ (∀ k, spoolAt p k = .start) ∧ p.task = some id ∧ p.lcode = l ∧ p.det = t.det ∧
    (∀ i, i < t.consts.length → SMap.get 0 p.cbank i = nth 0 t.consts i) ∧
    (∀ i, i < t.scr.length → SMap.get 0 p.scratch i = nth 0 t.scr i)) ∧
  (∀ (i n : Nat) (g : GraphSt) (s : State), graphAt s i = some g → s.dev.svc ≠ 3 → firstDue g = some n →
    let w := nodeOf g n
    let g1 := updNode n (fun x => { x with st := 1 }) g
    let s1 := setGraph i (some g1) s
    let word := fun (v : Word) => cpWords s1 g1.part (pktWord w 1) 1 = some [v]
    let seen := cpAcquire g1.q g1.part (pktWord w 1) s1
    (∀ t, pktKind w = 0x10 → loadTask s1 g1.part (nth [] g1.launches n) (pktTag w) g1.q g1.pkt (some (i, n)) = .ok t →
      exec (.taskNode i n) s = .next (enterReady t (setGraph i (some (updNode n (fun x => { x with task := some s.nextTask }) g1)) s1))) ∧
    (∀ v, pktKind w = 0x11 → word v → exec (.condNode i n) s = .next (completeNode i n
      (((succsOf w [3]).map fun j => (j, decide (v.toNat ≠ 0))) ++ ((succsOf w [4]).map fun j => (j, decide (v.toNat = 0)))) seen)) ∧
    (∀ v, pktKind w = 0x13 → word v → exec (.switchNode i n) s = .next (completeNode i n (switchMarks w v.toNat) seen)) ∧
    (pktKind w = 0x12 → let loops := fun (count : Nat) (t : State) =>
        (count = 0 → exec (.loopNode i n) s = .next (completeNode i n ((listedBy w).map fun j => (j, true)) t)) ∧
        (count ≠ 0 → exec (.loopNode i n) s = .next (updGraph i (enterIteration n count) t))
      (pktWord w 1 = 0 → loops (bits (pktWord w 2) 32 16) s1) ∧ (∀ v, pktWord w 1 ≠ 0 → word v → loops v.toNat seen)))

/-! ### The host and the device -/

/-- R222, R227, R326, R328, R401: Accesses of the host. Function 0 reaches device memory through APBASE, and an access to a
hole of the address space stops the model; an enabled VF reaches the objects of its partition's spindles, and what they refuse
counts in REFW. Where the manual leaves a choice it follows the model's, log entries 18, 23, 29, 30, 31. -/
def Obligations.HostAccesses : Prop :=
  ∀ (fn addr n k : Nat) (bs : List Byte) (v : Word) (s : State),
    let pa := s.dev.apbase.toNat / 2 ^ 36 % 2 ^ 28 * 2 ^ 36 + addr
    let result := fun bs => { s with dev := { s.dev with hostRead := bs } }
    let count := fun (s : State) p => { s with parts := SMap.modify .start s.parts p fun x =>
      { x with w := SMap.modify 0 x.w 12 fun w => if w.toNat / 2 ^ 48 % 2 ^ 16 = 0xFFFF then w else w + BitVec.ofNat 64 (2 ^ 48) } }
    let counted := count s
    let p := spindleAt s k
    let mine := vfOn s fn = true ∧ k < 640 ∧ inPartition s (vfPart s fn) k = true
    (addr < 2 ^ 36 → (∀ i, i < n → paExists (pa + i) = true) →
      exec (.hostMemoryRead 0 addr n) s = .next (result (homeBytes s none pa n))) ∧
    (addr < 2 ^ 36 → 0 < n → paExists pa = false →
      exec (.hostMemoryRead 0 addr n) s = .fault (.noSuchAddress pa)) ∧
    (addr < 2 ^ 36 → (∀ i, i < bs.length → paExists (pa + i) = true) →
      (refusesAny s none pa bs.length = false →
        let u := issueWrite 0 (hostAgent 0) (noteRelease 0 (hostAgent 0) 0x1F s)
        let o := originOf (noteRelease 0 (hostAgent 0) 0x1F s) 0 (hostAgent 0)
        exec (.hostMemoryWrite 0 addr bs) s = .next (homeWrite o none pa bs false u)) ∧
      (refusesAny s none pa bs.length = true →
        exec (.hostMemoryWrite 0 addr bs) s = .next ((refusingParts s pa bs.length).foldl count s))) ∧
    (addr < 2 ^ 36 → 0 < bs.length → paExists pa = false →
      exec (.hostMemoryWrite 0 addr bs) s = .fault (.noSuchAddress pa)) ∧
    (mine → n < 64 →
      ((p.det = false ∨ semNamed p n = false) → exec (.objectWindowSemaphoreStore fn k n v) s =
        .next (updSpindle k (updSem n (setSem s.cycle (v.toNat % 2 ^ 32) (if p.det then p.q5vt else []))) s)) ∧
      (p.det = true → semNamed p n = true → exec (.objectWindowSemaphoreStore fn k n v) s = .next (counted (vfPart s fn)))) ∧
    (mine → n < 16 →
      ((spoolAt p n).idle = true →
        exec (.objectWindowSpoolStore fn k n 0 v) s = .next (updSpindle k (setSpool n (spoolStore 0 v (spoolAt p n))) s) ∧
        exec (.objectWindowSpoolStore fn k n 1 v) s = .next (updSpindle k (setSpool n (spoolStore 1 v (spoolAt p n))) s)) ∧
      ((spoolAt p n).idle = false → ∀ h, h < 2 → exec (.objectWindowSpoolStore fn k n h v) s = .next (counted (vfPart s fn))) ∧
      (∀ i, i < 8 → phaserBusy p n = false → exec (.objectWindowPhaserStore fn k n i v) s = .next (updSpindle k (fun p => { p with
        phasers := SMap.set .start p.phasers n { (SMap.get Phaser.start p.phasers n) with phase := v.truncate 32 }
        phView := SMap.set 0 p.phView n (v.truncate 32) }) s)) ∧
      (∀ i, i < 8 → phaserBusy p n = true → exec (.objectWindowPhaserStore fn k n i v) s = .next (counted (vfPart s fn))) ∧
      (∀ i, 8 ≤ i → i < 32 → exec (.objectWindowPhaserStore fn k n i v) s = .next s))

/-- R5, R12, R355, R402, R403, R405, R406, R409 to R412, R414 to R416: Registers of the device. A locked word of a partition
entry, a valid group in use and the binding of an enabled queue keep their values; an entry that is not legal does not become
valid. What the power controller and the clock's discipline do with what the environment gives them is the model's choice
(logs 117, 118). Resets, start, full service and the mailbox. What a reset leaves is the machine of `State.reset` with the
ROM's answer to the image, but for the plan of the environment (the model's own). Where the manual leaves a choice it follows
the model's, log entries 1, 2, 6, 8, 95, 96, 97, 99, 117, 118. -/
def Obligations.DeviceRegisters : Prop :=
  (∀ (p i q e fn mhz now core peak err : Nat) (v : Word) (b : BitVec 16) (add : Option Bool) (hold : Bool) (s : State),
    let dev := fun (f : Device → Device) => { s with dev := f s.dev }
    let entry := fun (x : Nat) => { s with parts := SMap.modify .start s.parts p fun y => { y with w := SMap.set 0 y.w i (BitVec.ofNat 64 x) } }
    (p < 64 → i ∈ [1, 2, 3, 5, 8, 9, 13, 14] →
      (partLocked s p = true → exec (.partitionEntryWrite p i v) s = .next s) ∧
      (partLocked s p = false → exec (.partitionEntryWrite p i v) s = .next (entry (v.toNat &&& entryMask i)))) ∧
    (p < 64 → let old := partWord s p 0
      let n := v.toNat
      let enabled := if partLocked s p then bitOf old 63 else bitOf n 63 && mayEnable s p
      let agelim := if bits n 48 8 = 0 then bits old 48 8 else bits n 48 8
      let bage := if bits n 32 16 < 16 then bits old 32 16 else bits n 32 16
      i = 0 → exec (.partitionEntryWrite p 0 v) s = .next (entry (b2n enabled * 2 ^ 63 + agelim * 2 ^ 48 + bage * 2 ^ 32 + n % 16))) ∧
    (p < 64 → i = 4 ∨ i = 6 → exec (.partitionEntryWrite p i v) s = .next (entry (v.toNat &&& entryMask i))) ∧
    (p < 64 → i = 7 → exec (.partitionEntryWrite p 7 v) s = .next (entry (partWord s p 7 / 2 ^ 32 * 2 ^ 32 + v.toNat % 2 ^ 32))) ∧
    (p < 64 → i = 11 → exec (.partitionEntryWrite p 11 v) s =
      .next (if (partAt s p).go then s else entry (v.toNat &&& 0xFFFF_FFFF))) ∧
    (p < 64 → i = 12 ∨ 14 < i → exec (.partitionEntryWrite p i v) s = .next s) ∧
    (p < 64 → (partAt s p).go = true → exec (.invalidateGo p v) s = .next s) ∧
    (p < 64 → (partAt s p).go = false → v.getLsbD 63 = true →
      let t := { s with parts := SMap.modify .start s.parts p fun y => { y with w := SMap.set 0 y.w 10 (BitVec.ofNat 64 (v.toNat &&& entryMask 10)) } }
      bits (partWord t p 11) 0 32 ≠ 0 → exec (.invalidateGo p v) s = .next (clearHandles p (invLo t p) (invHi t p)
        { t with parts := SMap.modify .start t.parts p fun x => { x with go := true } })) ∧
    ((partAt s p).go = true → invalidated s p = true → exec (.invalidationComplete p) s =
      .next { s with parts := SMap.modify .start s.parts p fun x => { x with go := false } }) ∧
    (q < 1024 → (cmdqAt s q).d0.getLsbD 0 = true → exec (.queueBindingWrite q b) s = .next s) ∧
    (q < 1024 → (cmdqAt s q).d0.getLsbD 0 = false → bits b.toNat 8 7 = fn →
      let known := fn = 0 ∨ (fn ≤ 96 ∧ vfPart s fn = b.toNat % 64)
      let bound := if known then b &&& 0xFF3F else b &&& 0x7F3F
      exec (.queueBindingWrite q b) s = .next (updCmdq q (fun x =>
        { x with bind := bound, d0 := if fn = 0 ∧ b.getLsbD 15 = true then x.d0 else x.d0 &&& ~~~(4 : Word) }) s)) ∧
    (e < 16 → i < 8 →
      (groupLocked s e = true → exec (.stepGroupEntryWrite e i v) s = .next s) ∧
      (groupLocked s e = false → i ≠ 0 → exec (.stepGroupEntryWrite e i v) s =
        .next { s with groups := SMap.modify [] s.groups e fun x => SMap.set 0 x i (BitVec.ofNat 64 (v.toNat &&& groupMask i)) }) ∧
      (groupLocked s e = false → i = 0 → let n := v.toNat &&& groupMask 0
        let w := BitVec.ofNat 64 (if bitOf n 63 = true ∧ groupLegal s e n = false then n % 2 ^ 63 else n)
        exec (.stepGroupEntryWrite e 0 v) s = .next { s with groups := SMap.modify [] s.groups e fun x => SMap.set 0 x 0 w })) ∧
    exec (.timectlWrite v) s = .next (if v.toNat % 4 = 3 then s else dev fun d => { d with timectl := v.toNat % 4 }) ∧
    exec (.plimsetWrite v) s =
      .next (if 100 ≤ v.toNat % 4096 ∧ v.toNat % 4096 ≤ 2400 then keepLimit (dev fun d => { d with plimset := v.toNat % 4096 }) else s) ∧
    (let r := softWrite (raceKey 5 0) (BitVec.ofNat 64 s.dev.ipeak) 0 s
     exec .ipeakClear s = .next { r.2 with dev := { s.dev with ipeak := r.1.toNat } }) ∧
    (∀ key old new, SMap.get none s.races key = none → (softWrite key old new s).1 = new) ∧
    (∀ key mask old new f, SMap.get none s.races key = none → let h := hardWrite key mask old f s
      h.1 = (f old &&& mask) ||| (old &&& ~~~mask) ∧ (softWrite key h.1 new h.2).1 = (new &&& ~~~mask) ||| (f old &&& mask)) ∧
    (∀ m, 0 < m → 0 < s.den → let t := setClock m s
      t.mhz = m ∧ 0 < t.den ∧ t.den % m = 0 ∧ t.frac * s.den = s.frac * t.den) ∧
    exec (.thermalLimitChange now) s = .next (keepLimit (dev fun d => { d with thermal := now % 4096 })) ∧
    (let heavy := decide (5000 ≤ max core peak)
     let act := heavy && s.dev.surge.any fun t => decide (t + 5000 ≤ s.tick)
     let mean := min 4999 core
     let high := max mean (min (if act then 4999 else 5000) peak)
     let x := hardWrite (raceKey 5 0) (BitVec.allOnes 64) (BitVec.ofNat 64 s.dev.ipeak) (fun w => BitVec.ofNat 64 (max w.toNat high)) s
     let t := { x.2 with dev := { s.dev with
       wakeHold := hold || act, pnow := now % 4096, icore := mean, ipeak := x.1.toNat
       surge := if heavy && !act then some (s.dev.surge.getD s.tick) else none } }
     let full := if s.dev.svc = 1 then 550 else 1100
     let asked := if act then min mhz (s.mhz - 1) else mhz
     let clock := max 1 (min asked (if plim t.dev < now % 4096 then min (s.mhz - 1) full else full))
     exec (.powerThrottle mhz hold ⟨now, core, peak⟩) s = .next (setClock clock t)) ∧
    (let t := dev fun d => { d with lock := decide (err < 200) }
     let u := { t with dev := { t.dev with lastCorr := some s.tick } }
     (s.dev.timectl = 0 → exec (.tickDiscipline add err) s = .next s) ∧
     (s.dev.timectl ≠ 0 → add = none ∨ (∃ x, s.dev.lastCorr = some x ∧ s.tick < x + 10000) →
       exec (.tickDiscipline add err) s = .next t) ∧
     (s.dev.timectl ≠ 0 → (∀ x, s.dev.lastCorr = some x → x + 10000 ≤ s.tick) →
       exec (.tickDiscipline (some true) err) s = .next (oneTick u) ∧
       exec (.tickDiscipline (some false) err) s = .next { u with frac := s.frac - s.den })) ∧
    (exec (.registerWrite 0x18 v) s = .next (if v.toNat % 4 = 3 then s else dev fun d => { d with timectl := v.toNat % 4 })) ∧
    exec (.registerWrite 0x10 v) s = .next (dev fun d => { d with apbase := v &&& 0xFFFF_FFF0_0000_0000 })) ∧
  (∀ (img : Option (List Byte)) (dies : BitVec 4) (hbm : BitVec 12) (n vf : Nat) (s : State),
    let cold := { State.reset with agenda := s.agenda, upsets := s.upsets, free := s.free }
    let rom := match img with | some x => checkImage x cold | none => cold
    let ok := dies &&& s.dev.devcap.truncate 4
    let stage := fun (a b : Nat) (f : Device → Device) (t : State) =>
      { t with dev := { f t.dev with stage := a, svc := b, msix := (f t.dev).msix ++ [(0, 0)] } }
    let up := fun (d : Device) => { d with dieok := ok, hbmok := hbm }
    let some1 := if s.dev.svc = 3 then 3 else 1
    let none0 := if s.dev.svc = 3 then 3 else 0
    let run := fun (full : Nat) (t : State) => setClock (max 1 (min full (if plim t.dev < t.dev.pnow then min (t.mhz - 1) full else full))) t
    let out := fun (bs : List Byte) => { s with dev := { s.dev with mboxSts := 2, mbox := SMap.setList 0 s.dev.mbox 0 bs } }
    exec (.powerOnReset img) s = .next rom ∧ exec (.fundamentalReset img) s = .next rom ∧
    exec (.pfFunctionLevelReset img) s = .next rom ∧
    (vf ≠ 0 → let mine := (s.queues.filter fun x => x.2.bind.getLsbD 15 && decide (bits x.2.bind.toNat 8 7 = vf)).map (·.1)
      exec (.vfFunctionLevelReset vf) s = .next (mine.foldl (fun s q =>
        updCmdq q (fun y => { y with d0 := descWord y (y.d0 &&& ~~~(1 : Word)), state := 0 }) s) s)) ∧
    (s.dev.stage = 1 → ok ≠ 0 → exec (.hbmTrainingComplete dies hbm true) s = .next (run (if some1 = 1 then 550 else 1100) (stage 2 some1 up s))) ∧
    (s.dev.stage = 1 → exec (.hbmTrainingComplete dies hbm false) s = .next (stage 15 none0 (fun d => { d with fail := 4 }) s)) ∧
    (s.dev.stage = 1 → ok = 0 → exec (.hbmTrainingComplete dies hbm true) s = .next (stage 15 none0 (fun d => { d with fail := 4 }) s)) ∧
    (s.dev.stage = 2 ∨ s.dev.stage = 3 →
      exec (.hbmTrainingComplete dies hbm true) s = .next (stage (s.dev.stage + 1) some1 up s) ∧
      exec (.hbmTrainingComplete dies hbm false) s = .next (stage 15 none0 (fun d => { d with fail := 5 }) s)) ∧
    (s.dev.stage = 4 → s.dev.svc = 1 → (∀ p, p < 64 → nres s p = 0) →
      exec .serviceFull s = .next (run 1100 (stage 4 2 (fun d => d) s))) ∧
    (s.dev.mboxSts ≠ 1 →
      (s.dev.stage = 0 → exec (.mailboxLoadImage n) s = .next (checkImage (SMap.getList 0 s.dev.mbox 0 n) (out []))) ∧
      (s.dev.stage ≠ 0 → exec (.mailboxLoadImage n) s = .next { s with dev := { s.dev with mboxSts := 3 } }) ∧
      exec (.mailboxReadKey n) s = .next (out ((List.range 1793).map (Config.keyByte (n % 4)))) ∧
      exec .mailboxAttest s = .next (out (reportBody s ++ (List.range 1280).map (Config.signByte (digest (reportBody s)))))))

/-- R382 to R385: A slot that passes its checks is enabled, one that fails keeps EN 0 and says why; disabling discards what is
queued; budgets and runs. Where the manual leaves a choice it follows the model's, log entries 6, 91, 94. -/
def Obligations.WhorlSlots : Prop :=
  ∀ (d i p : Nat) (v : Word) (m : BitVec 32) (e : TapEvent) (s : State),
    let w := whorlAt s d
    let put := fun (f : Whorl → Whorl) => updWhorl d f s
    let a := (attachAt w i).withWord0 (v ||| 0x8000_0000_0000_0000)
    let slot := fun (x : Attach) => updAttach i (fun _ => x) w
    (d < 4 → i < 32 → (attachAt w i).w0.getLsbD 63 = true → exec (.attachSlotEnable d i v) s = .next (updWhorl d (fun w => w) s)) ∧
    (d < 4 → i < 32 → (attachAt w i).w0.getLsbD 63 = false →
      (attachErr w i a = 0 → exec (.attachSlotEnable d i v) s = .next (put fun _ => slot
        { a with w0 := a.w0 ||| 0x8000_0000_0000_0000, w1 := (a.w1 &&& attachMask1) ||| BitVec.ofNat 64 (slotCost w a % 512 * 16) })) ∧
      (attachErr w i a ≠ 0 → exec (.attachSlotEnable d i v) s = .next (put fun _ => slot
        { a with w1 := (a.w1 &&& attachMask1) ||| BitVec.ofNat 64 (attachErr w i a * 2 ^ 20 + a.maxc % 512 * 16) }))) ∧
    (d < 4 → i < 32 → exec (.attachSlotDisable d i) s = .next (put (updAttach i fun a =>
      { a with w0 := a.w0 &&& 0x7FFF_FFFF_FFFF_FFFF, queue := [] }))) ∧
    (let r := softWrite (raceKey 4 d) (w.irqsts.zeroExtend 64) ((w.irqsts &&& ~~~m).zeroExtend 64) s
     exec (.irqstsClear d m) s = .next (updWhorl d (fun x => { x with irqsts := r.1.truncate 32 }) r.2)) ∧
    (d < 4 → p < 64 → let b := v.toNat % 2 ^ 20
      let sum := ((upto 64).filter (· ≠ p)).foldl (fun a q => a + budgetOf w q) b
      exec (.tenantBudgetWrite d p v) s = .next (put fun w => if 1000000 < sum then w
        else updTenant p 0 (fun x => BitVec.ofNat 64 (x.toNat / 2 ^ 20 * 2 ^ 20 + b)) w)) ∧
    (s.tick % 1000000 = 0 →
      exec .budgetWindowReset s = .next { s with whorls := s.whorls.map fun x => (x.1, clearUsed x.2) }) ∧
    (s.whorls ≠ [] → exec (.whorlEventOffer e) s =
      .next ((upto 32).foldl (offerSlot e) s)) ∧
    (∀ es, w.run = none → w.next ≤ s.tick → nextRunSlot w = some i → (attachAt w i).queue = e :: es →
      let a := attachAt w i
      let t := tenantWord w a.tenant 0
      let w1 := updAttach i (fun a => { a with queue := es }) { w with last := i }
      (t / 2 ^ 24 % 2 ^ 20 + a.maxc ≤ t % 2 ^ 20 → exec (.whorlRunStart d i) s = .next (put fun _ =>
        { updTenant a.tenant 0 (fun x => x + BitVec.ofNat 64 (a.maxc * 2 ^ 24)) w1 with
          run := some { slot := i, ev := e, pc := a.pstart, regs := [], due := s.tick } })) ∧
      (t % 2 ^ 20 < t / 2 ^ 24 % 2 ^ 20 + a.maxc → exec (.whorlRunStart d i) s =
        .next (countDrop d a.tenant 32 (put fun _ => w1))))

/-! ### A step, decoding, reset -/

/-- R45, R58, R85, R384: A step runs the instruction that is decoded. The planned event comes first. In a turn of the
machine's own in which nothing else is due, a strand's group whose turn it is runs by `exec`, word by word, and the end of the
group follows; where no strand may issue, the engines have their turns at the banks; behind them a Whorl runs the next word of
its program; and then the cycle ends. A step leaves no word in focus, and casts the votes that it has turned non-zero (R333).
Which trap of a pair wins is the model's choice (log 36). What the fetch of a group reads: eight bytes at the strand's pc
through the page table of the spindle's partition, the first the least significant; for a word with P = 1 eight more. Where
the manual leaves a choice it follows the model's, log entries 4, 5, 11, 36. -/
def Obligations.StepRunsInstruction : Prop :=
  (∀ (s s1 : State) (h : Bool) (i j : Instr),
    let rest := fun t => Host.Outcome.next (castEarly { t with cur := .start })
    (∀ r, s.agenda = .event i :: r → step s = thenDo (exec i { s with agenda := r, cur := .start }) rest) ∧
    (∀ n k w1 w2, s.quiet h s1 → nextIssue s1 = some (n, k) → fetchGroup s1 n k = .words w1 w2 →
      let a := strandAt s1 n k
      let out := fun t => rest (afterIssue n k a t)
      (decodeGroup w1 w2 = .ok (i, none) → groupMark a i none = none →
        step s = thenDo (exec i { s1 with cur := groupFocus s1 n k false }) fun t => out (soloEnd t)) ∧
      (decodeGroup w1 w2 = .ok (i, some j) → groupMark a i (some j) = none →
        let s0 := { s1 with cur := groupFocus s1 n k true }
        step s = thenDo (exec i s0) fun x =>
          if pairOver x.cur then out (pairEnd s0 x) else thenDo (exec j (secondWord x)) fun y => out (pairEnd s0 (joinWords x y))) ∧
      (∀ o x, decodeGroup w1 w2 = .ok (i, o) → groupMark a i o = some x →
        step s = out (raisePoison x.2 0 { s1 with cur := { groupFocus s1 n k false with second := x.1 } })) ∧
      (∀ e, decodeGroup w1 w2 = .error e → step s =
        out (raiseIllegal e.cls e.op e.reason { s1 with cur := { groupFocus s1 n k false with second := e.second } }))) ∧
    (∀ t, s.quiet h s1 → nextIssue s1 = none → engineMove h s1 = some (.next t) → step s = rest t) ∧
    (∀ d w r ws vs, s.quiet h s1 → nextIssue s1 = none → engineMove h s1 = none → s1.whorls = vs ++ (d, w) :: ws →
      (∀ x ∈ vs, whorlMove s1 x.1 x.2 = none) → w.run = some r → r.due ≤ s1.tick →
      decodeWhorl (SMap.get 0 (whorlAt s1 d).prog r.pc).toNat = some i →
        step s = thenDo (exec i { s1 with cur := { Focus.start with whorl := d } }) rest) ∧
    (s.quiet h s1 → nextIssue s1 = none → engineMove h s1 = none → whorlMoves s1 = none → step s = rest (endCycle s1))) ∧
  (∀ (s : State) (n k pa : Nat),
    let st := strandAt s n k
    let word := fun a : Nat => ofBytes (memBytes s a 8)
    let plain := fun a : Nat => (∀ i, i < 8 → vpageAt s (a + i) = none) ∧ skeinMark s (skeinOf n) (attOf s st.tag) a = 0
    s.posted = [] → physOf s (spindleAt s n).part st.pc.toNat = some pa → plain pa →
      (wordP (word pa) = false → fetchGroup s n k = .words (word pa) 0) ∧
      (∀ qa, wordP (word pa) = true → physOf s (spindleAt s n).part (addr57 (st.pc + 8)).toNat = some qa → plain qa →
        fetchGroup s n k = .words (word pa) (word qa)))

/-- R46 to R52, R55, R58, R59, R61, R386: Words written out from the encoding tables, the manual's own example of VFMA and
ADDI and the pair of the two among them, and the pair that is refused because its second word is voted. -/
def Obligations.DecodeWords : Prop :=
  let vfma := fun p : Bool => Instr.vfma
    { p := p, v := false, dst := .v 3, a := .v 4, b := .cb 7, c := .v 5, g := 2, gn := false, ty := .f32, mod := 0 }
  let addi := Instr.addi { p := false, v := false, dst := .s 4, imm := 16, g := 0, gn := false, ty := .s64 }
  decodeTableWord 64 0x08101809_0380A490 = some (vfma false) ∧
  decodeTableWord 64 0x020E2000_0000800C = some addi ∧
  decodeGroup 0x88101809_0380A490 0x020E2000_0000800C = .ok (vfma true, some addi) ∧
  decodeGroup 0x88101809_0380A490 0x420E2000_0000800C = .error { cls := 2, op := 3, reason := 3, second := true } ∧
  decodeTableWord 64 0x41060A02_81000030 = some (.add
    { p := false, v := true, dst := .s 1, a := .s 1, b := .s 2, c := .v 0, g := 0, gn := false, ty := .s64, mod := 0 }) ∧
  decodeTableWord 64 0x031C0000_0800A000 = some (.loopi
    { p := false, v := false, off := 2, aux := 5, g := 0, gn := false, lid := 0 }) ∧
  decodeTableWord 64 0x0404060A_00000000 = some (.trap
    { p := false, v := false, dst := .v 0, a := .lit 5, b := .v 0, c := .v 0, g := 0, gn := false, ty := .s8, mod := 0 }) ∧
  decodeTableWord 64 0x150A1A63_84000030 = some (.atom
    { p := false, v := false, dst := .s 3, a := .h 1, b := .lit 8, c := .v 0, g := 0, gn := false, ty := .s64, mod := 0 }) ∧
  decodeTableWord 32 0x04400003 = some (.lde { d := 1, a := 0, b := 0, imm := 3 }) ∧
  decodeTableWord 64 0 = none

/-- R46 to R50, R60, R61, R386: Decode and encode agree on every well-formed instruction, every operand at every value that
the encoding admits: there is a word, it has no bit beyond its length, and decoding it gives the instruction back. -/
def Obligations.DecodeEncode : Prop :=
  ∀ i : Instr, i.wf = true → ∃ n, encode i = some n ∧ n < 2 ^ wordBits i ∧ decodeTableWord (wordBits i) n = some i

/-- R357, R382, R402, R403, R406, R409, R411: What the manual gives for reset: the ROM has not run and no service is given,
nothing is enabled, no queue runs, no partition entry but AGELIM 1 and BAGE 256 is set, no step group is valid, no step is
open, the Whorls' slots are off and their words and cells 0; and no task is resident. -/
def Obligations.ResetState : Prop :=
  let s := State.reset
  s.dev.stage = 0 ∧ s.dev.svc = 0 ∧ s.dev.lock = false ∧ s.dev.fail = 0 ∧ s.dev.dieok = 0 ∧ s.dev.hbmok = 0 ∧
  s.dev.apbase = 0 ∧ s.dev.timectl = 0 ∧ (∀ v, SMap.get 0 s.dev.vfmap v = 0) ∧
  (∀ q, (cmdqAt s q).d0 = 0 ∧ (cmdqAt s q).d1 = 0 ∧ (cmdqAt s q).bind = 0 ∧ (cmdqAt s q).state = 0 ∧ (cmdqAt s q).reason = 0 ∧
    (cmdqAt s q).rptr = 0) ∧
  (∀ p, partWord s p 0 = 2 ^ 48 + 256 * 2 ^ 32 ∧ ∀ i, 0 < i → partWord s p i = 0) ∧
  (∀ e i, groupWord s e i = 0) ∧ (∀ c, (ctxAt s c).isOpen = false) ∧
  (∀ d i, (attachAt (whorlAt s d) i).w0 = 0 ∧ (attachAt (whorlAt s d) i).w1 = 0 ∧ (attachAt (whorlAt s d) i).w2 = 0 ∧
    SMap.get 0 (whorlAt s d).prog i = 0 ∧ SMap.get 0 (whorlAt s d).cells i = 0 ∧ tenantWord (whorlAt s d) d i = 0) ∧
  (∀ d, (whorlAt s d).irqsts = 0) ∧
  (∀ n, (spindleAt s n).task = none ∧ ∀ k, (strandAt s n k).run = .idle ∧ (strandAt s n k).fpctl = 0 ∧ (strandAt s n k).cause = 0 ∧
    (strandAt s n k).estat = 0 ∧ (strandAt s n k).privm = false ∧ (strandAt s n k).exl = false)

/-! ### Memory -/

/-- Memory stays in its canonical form, addresses rising and no listed byte equal to what an unlisted one reads as, and no
word is in focus between steps, whatever a step does. Where the manual leaves a choice it follows the model's, log entries 1,
10. -/
def Obligations.StepKeepsSound : Prop := ∀ s t : State, s.sound → step s = .next t → t.sound

/-- The state after reset is sound. Where the manual leaves a choice it follows the model's, log entries 1, 10. -/
def Obligations.ResetSound : Prop := State.reset.sound

/-- R228: A store that is applied writes its bytes at its address, and no other byte: every byte outside reads as before, and
every register keeps its value. The page is not a versioned one. Where the manual leaves a choice it follows the model's, log
entries 17, 18. -/
def Obligations.StoredBytes : Prop :=
  ∀ (s : State) (i : Nat) (w : Posted), s.posted[i]? = some w → w.atom = none → w.strand < 4 → w.data ≠ [] → mayApply s i w = true →
    stale s w.tag w.att = false → (∀ a, w.pa ≤ a → a < w.pa + w.data.length → vpageAt s a = none) →
    ∃ t, exec (.storeApply i) s = .next t ∧
      (∀ a, memByte t a = if w.pa ≤ a ∧ a < w.pa + w.data.length then (w.data[a - w.pa]?).getD 0 else memByte s a) ∧
      (∀ n k, sameRegs (strandAt s n k) (strandAt t n k)) ∧ t.posted = s.posted.take i ++ s.posted.drop (i + 1)

/-- R324 to R328, R335: A write of an open attempt to a version block shows only to that attempt. Everyone else reads the
block as before; the attempt reads its bytes; after the decision everyone reads what the attempt wrote if it committed, and
the block as before if it aborted. A write from outside the attempt is refused. The slot-1 frame lies 256 bytes or more above.
Where the manual leaves a choice it follows the model's, log entry 74. -/
def Obligations.AttemptIsolation : Prop :=
  ∀ (s : State) (o : Origin) (pa : Nat) (bs : List Byte) (poisoned : Bool) (v : VPage), vpageAt s pa = some v → 256 ≤ v.twin →
    let g := ctxAt s v.ctx
    let x := some g.att
    let t := homeWriteLine o x pa bs poisoned s
    g.isOpen = true →
    (∀ y, y ≠ x → refuses s y pa = true) ∧ refuses s x pa = false ∧
    (pa % 128 + bs.length ≤ 128 → ∀ a, a / 256 = pa / 256 →
      (∀ y, y ≠ x → homeByte t y a = homeByte s y a) ∧
      homeByte t x a = (if pa ≤ a ∧ a < pa + bs.length then (bs[a - pa]?).getD 0 else homeByte s x a) ∧
      ∀ u : State, u.mem = t.mem → u.vmeta = t.vmeta → u.vpage = t.vpage → (ctxAt u v.ctx).isOpen = false →
        (SMap.get false (ctxAt u v.ctx).bitmap (g.att.toNat % 4096) = true → ∀ y, homeByte u y a = homeByte t x a) ∧
        (SMap.get false (ctxAt u v.ctx).bitmap (g.att.toNat % 4096) = false → ∀ y, homeByte u y a = homeByte s none a))

/-- R326: The slot that a read of a version block returns, for every reader: a request with attempt tag `x`, a strand with no
store on its way, and the host. Where the manual leaves a choice it follows the model's, log entry 29. -/
def Obligations.SlotOfRead : Prop :=
  ∀ (s : State) (pa : Nat) (x : Option (BitVec 16)) (v : VPage), vpageAt s pa = some v →
    let g := ctxAt s v.ctx
    let b := vmetaAt s pa
    let slot := fun x : Option (BitVec 16) =>
      if b.v = false then b.w
      else if g.isOpen = true ∧ b.a = g.att then (if x = some g.att then b.w else !b.w)
      else if SMap.get false g.bitmap (b.a.toNat % 4096) = true then b.w else !b.w
    let byte := fun x : Option (BitVec 16) => memByte s (if slot x then pa + v.twin else pa)
    homeByte s x pa = byte x ∧
    (s.posted = [] → ∀ n k, strandBytes s n k x pa 1 = [byte x]) ∧
    (∀ addr n, addr < 2 ^ 36 → pa = s.dev.apbase.toNat / 2 ^ 36 % 2 ^ 28 * 2 ^ 36 + addr → 0 < n → (∀ i, i < n → paExists (pa + i) = true) →
      ∃ t, exec (.hostMemoryRead 0 addr n) s = .next t ∧ t.dev.hostRead.head? = some (byte none))

/-! ### Registers, traps and latches -/

/-- R51, R54, R58: A register reads as it was last written, every other register keeps its value, vector registers and
predicates lane by lane under the mask; p0 is always true and is never written. -/
def Obligations.RegisterReadsAfterWrites : Prop :=
  ∀ (st : Strand) (r q l : Nat) (x m : Word) (xs : List Lane), l < 64 →
    (sregOf (setS r x st) q = if q = r then x else sregOf st q) ∧
    (hregOf (setH r x st) q = if q = r then x else hregOf st q) ∧
    pregOf st 0 = allLanes ∧ setP 0 m x st = st ∧
    (r ≠ 0 → (pregOf (setP r m x st) q).getLsbD l =
      if q = r ∧ m.getLsbD l = true then x.getLsbD l else (pregOf st q).getLsbD l) ∧
    (xs.length = 64 → laneOf (setV r m xs st) q l = if q = r ∧ m.getLsbD l = true then (xs[l]?).getD 0 else laneOf st q l) ∧
    (∀ n, laneOf (setS r x st) q n = laneOf st q n ∧ pregOf (setS r x st) q = pregOf st q ∧ hregOf (setS r x st) q = hregOf st q ∧
      sregOf (setV r m xs st) q = sregOf st q ∧ pregOf (setV r m xs st) q = pregOf st q ∧ hregOf (setV r m xs st) q = hregOf st q ∧
      sregOf (setP r m x st) q = sregOf st q ∧ laneOf (setP r m x st) q n = laneOf st q n ∧ hregOf (setP r m x st) q = hregOf st q)

/-- R54, R58, R86: What the words of classes 0x01, 0x02, 0x08, 0x09, 0x0B and 0x0C leave unchanged when they do not trap and
no upset strikes: at issue they change nothing but the strand's list of writes in flight, to which they add at most one, of
the register that DST names. -/
def Obligations.RegisterWordFrame : Prop :=
  ∀ (i : Instr) (d : Dst) (s t : State),
    ((∃ w : O3, d = w.dst ∧ ∃ e ∈ ops01 ++ ops08 ++ ops09 ++ ops0B ++ ops0C, i = e w) ∨ (∃ w : I32, d = w.dst ∧ ∃ e ∈ ops02, i = e w)) →
    s.upsets = [] → s.cur.raised = none → s.cur.late = none → exec i s = .next t → t.cur.raised = none → t.cur.late = none →
    sameOutside s t ∧ t.whorls = s.whorls ∧ sameMemory s t ∧ otherStrands s.cur.spn s.cur.strand s t ∧
    ∃ gs : List Landing, gs.length ≤ 1 ∧
      strandAt t s.cur.spn s.cur.strand = { me s with landings := (me s).landings ++ gs } ∧
      ∀ g ∈ gs, ∃ x m xs, g.target = dstScalar d x ∨ g.target = dstVector d m xs ∨ g.target = dstPred d m x

/-- R63, R113, R115, R116: Taking a trap. The saved registers, the handler's bank of latches, the mode, and the next group at
CR.TVEC no earlier than two cycles on; no other register of the strand, no other strand and no byte of memory changes. -/
def Obligations.TrapEntry : Prop :=
  ∀ (n k c : Nat) (r : TrapReq) (s : State),
    let a := strandAt s n k
    let t := enterTrap n k r c s
    let b := strandAt t n k
    b.epc = (if r.kind = .imprecise then a.pc else r.epc) ∧
    b.cause = BitVec.ofNat 64 (r.detail.toNat * 2 ^ 32 + (if r.pair2 then 2 ^ 15 else 0) + r.code.toNat) ∧
    b.estat = ((if a.privm then 0x80 else 0) ||| (if r.kind = .after then 0x40 else 0) ||| (if r.kind = .imprecise then 0x20 else 0)) ∧
    b.eaddr = r.eaddr ∧ b.saved = a.latch ∧ b.latch = [] ∧ b.privm = true ∧ b.exl = true ∧
    b.pc = (spindleAt s n).tvec ∧ b.readyAt = max (c + 2) (s.cycle + 1) ∧
    sameRegs a b ∧ b.fpctl = a.fpctl ∧ b.loops = a.loops ∧ b.order = a.order ∧ b.rstk = a.rstk ∧ b.depth = a.depth ∧
    otherStrands n k s t ∧ sameMemory s t

/-- R63, R64: The value that trap entry writes to CR.CAUSE, field by field, as MFCR reads it; for ILLEGAL its DETAIL. -/
def Obligations.CauseLayout : Prop :=
  (∀ (n k c : Nat) (r : TrapReq) (s : State),
    let t := enterTrap n k r c s
    ∃ x, crRead t n (spindleAt t n) (strandAt t n k) 0x09 = some x ∧
      x.extractLsb' 32 32 = r.detail ∧ x.extractLsb' 16 16 = 0 ∧ x.getLsbD 15 = r.pair2 ∧ x.extractLsb' 8 7 = 0 ∧
      x.extractLsb' 0 8 = r.code) ∧
  (∀ (cls op reason : Nat) (s : State), cls < 64 → op < 64 → reason < 16 →
    s.cur.pair = false → (me s).exl = false → (me s).landings = [] →
    let x := (strandAt (raiseIllegal cls op reason s) s.cur.spn s.cur.strand).cause
    x.extractLsb' 58 6 = BitVec.ofNat 6 cls ∧ x.extractLsb' 52 6 = BitVec.ofNat 6 op ∧ x.extractLsb' 48 4 = BitVec.ofNat 4 reason ∧
      x.extractLsb' 32 16 = 0 ∧ x.extractLsb' 0 8 = 1)

/-- R114, R115, R117: A word that issued alone and traps precisely. Outside a handler with no write in flight the strand
enters its handler with the address of the word's group; with writes in flight it waits for them; a trap that waited before it
is held; inside a handler the strand stops, and keeps the first trap's registers. A precise trap of either word of a pair
leaves neither word an effect: every register is as it was when the pair issued, but for the flags that R112 sets, and memory
is as before. Where the manual leaves a choice it follows the model's, log entry 36. -/
def Obligations.PreciseTraps : Prop :=
  (∀ (code detail : Nat) (addr : Word) (s : State), s.cur.pair = false →
    let n := s.cur.spn
    let k := s.cur.strand
    let r : TrapReq := { code := BitVec.ofNat 8 code, detail := BitVec.ofNat 32 detail, pair2 := s.cur.second, kind := .precise,
                         epc := s.cur.group, eaddr := addr }
    let u := updStrand n k holdPending (noteRaised r s)
    let t := raise code detail addr s
    let b := strandAt t n k
    ((me s).exl = false → (me s).landings = [] → t = enterTrap n k r s.cycle u) ∧
    ((me s).exl = false → (me s).landings ≠ [] → t = updStrand n k (fun st => { st with trap := some r, trapAt := s.cycle }) u) ∧
    ((me s).exl = true → b.run = .dtrap ∧ b.epc = (me s).epc ∧ b.cause = (me s).cause ∧ b.estat = (me s).estat ∧
      b.eaddr = (me s).eaddr ∧ b.latch = (me s).latch ∧ b.saved = (me s).saved ∧ sameRegs (me s) b ∧ otherStrands n k s t ∧
      sameMemory s t)) ∧
  (∀ (s s1 : State) (r : TrapReq), s1.cur.again = false → s1.cur.raised = some r → r.kind ≠ .after →
    let n := s1.cur.spn
    let k := s1.cur.strand
    sameRegs (strandAt s n k) (strandAt (pairEnd s s1) n k) ∧ otherStrands n k s (pairEnd s s1) ∧ sameMemory s (pairEnd s s1))

/-- R116, R117, R124: The return from a handler restores the mode, the latches and the next group, and takes the held trap of
the lowest cause. -/
def Obligations.TrapReturn : Prop :=
  ∀ (s : State),
    let a := me s
    let t := returnTrap s
    let b := strandAt t s.cur.spn s.cur.strand
    b.privm = a.estat.getLsbD 7 ∧ b.exl = false ∧ b.latch = a.saved ∧ b.saved = [] ∧ t.cur.target = some a.epc ∧
    sameRegs a b ∧ b.epc = a.epc ∧ b.cause = a.cause ∧ b.estat = a.estat ∧ b.fpctl = a.fpctl ∧ b.loops = a.loops ∧
    otherStrands s.cur.spn s.cur.strand s t ∧ sameMemory s t ∧
    (a.held = [] → b.trap = none) ∧
    (a.held ≠ [] → ∃ h ∈ a.held, b.trap = some h ∧ (∀ y ∈ a.held, h.code.toNat ≤ y.code.toNat) ∧
      b.held = a.held.filter fun y => y.code ≠ h.code)

/-- R116: The two banks of result latches. At trap entry the current bank becomes the saved one and every latch is EMPTY, and
a word issued before deposits into the saved bank; in the handler MOVL, the latch-unit words and CR.SEQ.LST reach the current
bank alone; at ERET the saved bank is current again, and the handler's bank and what is still on its way there are lost. -/
def Obligations.LatchBanks : Prop :=
  (∀ (n k c : Nat) (r : TrapReq) (s : State),
    let b := strandAt (enterTrap n k r c s) n k
    b.saved = (strandAt s n k).latch ∧ ∀ x, (latchAt b x).st = .empty) ∧
  (∀ (d : Deposit) (st : Strand),
    (st.exl = true → d.handler = false →
      (depositLatch d st).latch = st.latch ∧ (depositLatch d st).saved = SMap.set .start st.saved d.latch d.full) ∧
    (st.exl = true → d.handler = true →
      (depositLatch d st).latch = SMap.set .start st.latch d.latch d.full ∧ (depositLatch d st).saved = st.saved) ∧
    (st.exl = false → d.handler = true → depositLatch d st = st)) ∧
  (∀ (w : O3) (s : State), goes w.g w.gn s → (latchAt (rd s) w.a.litVal).st = .full → (latchAt (me s) w.a.litVal).st = .full →
    enabled (rd s) (latchAt (rd s) w.a.litVal).flags = 0 →
    ∃ t, exec (.movl w) s = .next t ∧ (me t).saved = (me s).saved ∧
      (me t).latch = SMap.set .start (me s).latch w.a.litVal .start) ∧
  (∀ (n x : Nat) (ls : List Lane) (v : Word) (f : Flags) (h : Option (BitVec 32)) (s : State),
    let t := depositIn n x ls v f h s
    (me t).saved = (me s).saved ∧ (latchAt (me t) x).st = .pending ∧ (∀ y, y ≠ x → latchAt (me t) y = latchAt (me s) y) ∧
      ∃ d ∈ (me t).deposits, d.latch = x ∧ d.handler = (me s).exl ∧ d.due = s.cycle + n) ∧
  (∀ (n x : Nat) (s : State) (p : Spindle) (st : Strand), x < 6 → ∃ v, crRead s n p st 0x06 = some v ∧
    bits v.toNat (16 + 2 * x) 2 = (match (latchAt st x).st with | .empty => 0 | .pending => 1 | .full => 2)) ∧
  (∀ s : State, (me (returnTrap s)).latch = (me s).saved ∧ ∀ d ∈ (me (returnTrap s)).deposits, d.handler = false)

/-- R54: Where lane 0 of the guard decides and is false, a word has no effect and raises no trap: every word with a guard
outside classes 0x08, 0x09, 0x0B and 0x0C and the vector words of class 0x0A. The strand does not wait in the word, and no
upset strikes. -/
def Obligations.FalseGuardHasNoEffect : Prop :=
  ∀ (s : State), (me s).wait = none → (me s).mem = none → s.upsets = [] →
    (∀ (w : O3) (cls op : Nat) (mk : O3 → Instr), guard0 s w.g w.gn = false → o3Op cls op = some mk →
      cls ≠ 0x08 → cls ≠ 0x09 → cls ≠ 0x0B → cls ≠ 0x0C → (cls = 0x0A → 7 ≤ op) → exec (mk w) s = .next s) ∧
    (∀ (w : I32) (mk : I32 → Instr), guard0 s w.g w.gn = false → mk ∈ ops02 → exec (mk w) s = .next s) ∧
    (∀ (w : B24) (op : Nat) (mk : B24 → Instr), guard0 s w.g w.gn = false → opsB24 op = some mk → exec (mk w) s = .next s)
end

