-- ==== Sys2Proof/Laws/Store.lean ====
section
/-! SUPPORT. Sparse maps: what a read gives after a write, and that every operation keeps the canonical form. -/

namespace Sys2Proof.Machine

variable {α : Type}

@[simp] theorem SMap.get_nil (d : α) (k : Nat) : SMap.get d [] k = d := rfl

theorem SMap.get_erase_same (d : α) (m : SMap α) (k : Nat) : SMap.get d (SMap.erase k m) k = d := by
  induction m with
  | nil => rfl
  | cons x m ih => obtain ⟨j, v⟩ := x; by_cases h : j = k <;> simp [SMap.erase, SMap.get, h, ih]

theorem SMap.get_erase_ne (d : α) (m : SMap α) {j k : Nat} (h : j ≠ k) : SMap.get d (SMap.erase k m) j = SMap.get d m j := by
  induction m with
  | nil => rfl
  | cons x m ih =>
    obtain ⟨i, v⟩ := x
    by_cases hi : i = k
    · subst hi; simp [SMap.erase, SMap.get, ih, Ne.symm h]
    · by_cases hj : i = j <;> simp [SMap.erase, SMap.get, hi, hj, ih]
      subst hj; simp [hi, SMap.get]

theorem SMap.get_insert_same (d : α) (m : SMap α) (k : Nat) (v : α) (h : ∀ w, (k, w) ∉ m) :
    SMap.get d (SMap.insert k v m) k = v := by
  induction m with
  | nil => simp [SMap.insert, SMap.get]
  | cons x m ih =>
    obtain ⟨i, w⟩ := x
    have hi : i ≠ k := by rintro rfl; exact h w (by simp)
    by_cases hk : k < i
    · simp [SMap.insert, hk, SMap.get]
    · simp [SMap.insert, hk, SMap.get, hi]; exact ih fun w' hw => h w' (by simp [hw])

theorem SMap.get_insert_ne (d : α) (m : SMap α) {j k : Nat} (v : α) (h : j ≠ k) :
    SMap.get d (SMap.insert k v m) j = SMap.get d m j := by
  induction m with
  | nil => simp [SMap.insert, SMap.get, Ne.symm h]
  | cons x m ih =>
    obtain ⟨i, w⟩ := x
    by_cases hk : k < i
    · simp [SMap.insert, hk, SMap.get, Ne.symm h]
    · simp only [SMap.insert, if_neg hk, SMap.get]; rw [ih]

theorem SMap.not_mem_erase (m : SMap α) (k : Nat) (w : α) : (k, w) ∉ SMap.erase k m := by
  induction m with
  | nil => simp [SMap.erase]
  | cons x m ih =>
    obtain ⟨i, v⟩ := x
    by_cases hi : i = k <;> simp [SMap.erase, hi, ih]
    rintro rfl; exact absurd rfl hi

/-- A read after a write to the same number gives what was written. -/
@[simp] theorem SMap.get_set_same [DecidableEq α] (d : α) (m : SMap α) (k : Nat) (v : α) : SMap.get d (SMap.set d m k v) k = v := by
  unfold SMap.set
  split
  · next h => rw [SMap.get_erase_same, h]
  · exact SMap.get_insert_same d _ k v (SMap.not_mem_erase m k)

/-- A write leaves every other number alone. -/
theorem SMap.get_set_ne [DecidableEq α] (d : α) (m : SMap α) {j k : Nat} (v : α) (h : j ≠ k) :
    SMap.get d (SMap.set d m k v) j = SMap.get d m j := by
  unfold SMap.set
  split
  · exact SMap.get_erase_ne d m h
  · rw [SMap.get_insert_ne d _ v h, SMap.get_erase_ne d m h]

theorem SMap.get_set [DecidableEq α] (d : α) (m : SMap α) (j k : Nat) (v : α) :
    SMap.get d (SMap.set d m k v) j = if j = k then v else SMap.get d m j := by
  split
  · next h => rw [h, SMap.get_set_same]
  · next h => exact SMap.get_set_ne d m v h

theorem SMap.erase_erase (m : SMap α) (k : Nat) : SMap.erase k (SMap.erase k m) = SMap.erase k m := by
  induction m with
  | nil => rfl
  | cons x m ih => obtain ⟨j, v⟩ := x; by_cases h : j = k <;> simp [SMap.erase, h, ih]

theorem SMap.erase_insert (m : SMap α) (k : Nat) (v : α) : SMap.erase k (SMap.insert k v m) = SMap.erase k m := by
  induction m with
  | nil => simp [SMap.insert, SMap.erase]
  | cons x m ih =>
    obtain ⟨j, w⟩ := x
    by_cases h : k < j
    · simp [SMap.insert, SMap.erase, h]
    · by_cases hj : j = k <;> simp [SMap.insert, SMap.erase, hj, h, ih]

/-- Of two writes to the same number the later one counts. -/
@[simp] theorem SMap.set_set [DecidableEq α] (d : α) (m : SMap α) (k : Nat) (v w : α) :
    SMap.set d (SMap.set d m k v) k w = SMap.set d m k w := by
  have h : SMap.erase k (SMap.set d m k v) = SMap.erase k m := by
    unfold SMap.set
    split
    · exact SMap.erase_erase m k
    · rw [SMap.erase_insert, SMap.erase_erase]
  show (if w = d then SMap.erase k (SMap.set d m k v) else SMap.insert k w (SMap.erase k (SMap.set d m k v))) = _
  rw [h]; rfl

/-- Two changes at the same number are one. -/
@[simp] theorem SMap.modify_modify [DecidableEq α] (d : α) (m : SMap α) (k : Nat) (f g : α → α) :
    SMap.modify d (SMap.modify d m k f) k g = SMap.modify d m k fun x => g (f x) := by
  unfold SMap.modify; rw [SMap.get_set_same, SMap.set_set]

@[simp] theorem SMap.get_modify_same [DecidableEq α] (d : α) (m : SMap α) (k : Nat) (f : α → α) :
    SMap.get d (SMap.modify d m k f) k = f (SMap.get d m k) := SMap.get_set_same ..

theorem SMap.get_modify_ne [DecidableEq α] (d : α) (m : SMap α) {j k : Nat} (f : α → α) (h : j ≠ k) :
    SMap.get d (SMap.modify d m k f) j = SMap.get d m j := SMap.get_set_ne d m _ h

/-- A read in a run of writes. -/
theorem SMap.get_setList [DecidableEq α] (d : α) (vs : List α) (m : SMap α) (j k : Nat) :
    SMap.get d (SMap.setList d m k vs) j = if k ≤ j then (vs[j - k]?).getD (SMap.get d m j) else SMap.get d m j := by
  induction vs generalizing m k with
  | nil => simp [SMap.setList]
  | cons v vs ih =>
    rw [SMap.setList, ih, SMap.get_set]
    rcases Nat.lt_trichotomy j k with h | h | h
    · rw [if_neg (by omega), if_neg (by omega), if_neg (by omega)]
    · subst h; simp
    · obtain ⟨i, rfl⟩ : ∃ i, j = k + 1 + i := ⟨j - (k + 1), by omega⟩
      rw [if_pos (by omega), if_neg (by omega), if_pos (by omega), show k + 1 + i - (k + 1) = i by omega,
        show k + 1 + i - k = i + 1 by omega, List.getElem?_cons_succ]

/-- A run of writes leaves every number outside it alone. -/
theorem SMap.get_setList_outside [DecidableEq α] (d : α) (vs : List α) (m : SMap α) {j k : Nat} (h : j < k ∨ k + vs.length ≤ j) :
    SMap.get d (SMap.setList d m k vs) j = SMap.get d m j := by
  rw [SMap.get_setList]
  split
  · rw [List.getElem?_eq_none (by omega)]; rfl
  · rfl

/-! ### The canonical form -/

/-- The canonical form as a proposition: numbers rise from a bound on, and no value is the default. -/
def SMap.sorted (d : α) : Nat → SMap α → Prop
  | _, [] => True
  | b, (j, v) :: m => b ≤ j ∧ v ≠ d ∧ SMap.sorted d (j + 1) m

theorem SMap.sorted_mono {d : α} {b c : Nat} (h : b ≤ c) : ∀ {m : SMap α}, SMap.sorted d c m → SMap.sorted d b m
  | [], _ => trivial
  | _ :: _, hs => ⟨Nat.le_trans h hs.1, hs.2⟩

theorem SMap.wf_iff [DecidableEq α] (d : α) (m : SMap α) : SMap.wf d m = true ↔ SMap.sorted d 0 m := by
  induction m with
  | nil => simp [SMap.wf, SMap.sorted]
  | cons x m ih =>
    obtain ⟨j, v⟩ := x
    cases m with
    | nil => simp [SMap.wf, SMap.sorted]
    | cons y m =>
      obtain ⟨k, w⟩ := y
      simp only [SMap.wf, Bool.and_eq_true, ih]
      simp [SMap.sorted]
      tauto

theorem SMap.sorted_erase {d : α} (k : Nat) : ∀ {b : Nat} {m : SMap α}, SMap.sorted d b m → SMap.sorted d b (SMap.erase k m)
  | _, [], _ => trivial
  | b, (j, v) :: m, h => by
    by_cases hj : j = k
    · simp only [SMap.erase, hj, if_pos]
      exact SMap.sorted_erase k (SMap.sorted_mono (Nat.le_trans h.1 (Nat.le_succ j)) h.2.2)
    · simp only [SMap.erase, hj, if_neg, not_false_eq_true]
      exact ⟨h.1, h.2.1, SMap.sorted_erase k h.2.2⟩

theorem SMap.sorted_insert {d : α} {k : Nat} {v : α} (hv : v ≠ d) :
    ∀ {b : Nat} {m : SMap α}, b ≤ k → (∀ w, (k, w) ∉ m) → SMap.sorted d b m → SMap.sorted d b (SMap.insert k v m)
  | _, [], hb, _, _ => ⟨hb, hv, trivial⟩
  | b, (j, w) :: m, hb, hn, h => by
    have hj : j ≠ k := by rintro rfl; exact hn w (by simp)
    by_cases hk : k < j
    · simp only [SMap.insert, hk, if_pos]
      exact ⟨hb, hv, Nat.succ_le_of_lt hk, h.2.1, h.2.2⟩
    · simp only [SMap.insert, hk, if_neg, not_false_eq_true]
      exact ⟨h.1, h.2.1, SMap.sorted_insert hv (by omega) (fun w' hw => hn w' (by simp [hw])) h.2.2⟩

/-- A write keeps the canonical form. -/
theorem SMap.wf_set [DecidableEq α] {d : α} {m : SMap α} (h : SMap.wf d m = true) (k : Nat) (v : α) :
    SMap.wf d (SMap.set d m k v) = true := by
  rw [SMap.wf_iff] at *
  unfold SMap.set
  split
  · exact SMap.sorted_erase k h
  · next hv => exact SMap.sorted_insert hv (Nat.zero_le k) (SMap.not_mem_erase m k) (SMap.sorted_erase k h)

/-- A run of writes keeps the canonical form. -/
theorem SMap.wf_setList [DecidableEq α] {d : α} (vs : List α) {m : SMap α} (h : SMap.wf d m = true) (k : Nat) :
    SMap.wf d (SMap.setList d m k vs) = true := by
  induction vs generalizing m k with
  | nil => exact h
  | cons v vs ih => exact ih (SMap.wf_set h k v) (k + 1)

/-- Canonical maps that read alike are equal data. -/
theorem SMap.ext_of_sorted {d : α} : ∀ {b : Nat} {m n : SMap α}, SMap.sorted d b m → SMap.sorted d b n →
    (∀ k, SMap.get d m k = SMap.get d n k) → m = n
  | _, [], [], _, _, _ => rfl
  | b, [], (j, v) :: n, _, hn, h => by have := h j; simp [SMap.get] at this; exact absurd this.symm hn.2.1
  | b, (j, v) :: m, [], hm, _, h => by have := h j; simp [SMap.get] at this; exact absurd this hm.2.1
  | b, (i, v) :: m, (j, w) :: n, hm, hn, h => by
    have low : ∀ {c k : Nat} {l : SMap α}, SMap.sorted d c l → k < c → SMap.get d l k = d := by
      intro c k l
      induction l generalizing c with
      | nil => intros; rfl
      | cons x l ih =>
        obtain ⟨q, y⟩ := x
        intro hl hk
        simp only [SMap.get]
        rw [if_neg (by have := hl.1; omega)]
        exact ih hl.2.2 (by have := hl.1; omega)
    rcases Nat.lt_trichotomy i j with hij | hij | hij
    · have := h i
      simp only [SMap.get, if_pos, show ¬ j = i by omega, if_neg, not_false_eq_true] at this
      rw [low hn.2.2 (by omega)] at this
      exact absurd this hm.2.1
    · subst hij
      have hv := h i
      simp only [SMap.get, if_pos] at hv
      subst hv
      congr 1
      refine SMap.ext_of_sorted hm.2.2 hn.2.2 fun k => ?_
      have := h k
      simp only [SMap.get] at this
      by_cases hk : i = k
      · subst hk; rw [low hm.2.2 (by omega), low hn.2.2 (by omega)]
      · simpa [hk] using this
    · have := h j
      simp only [SMap.get, if_pos, show ¬ i = j by omega, if_neg, not_false_eq_true] at this
      rw [low hm.2.2 (by omega)] at this
      exact absurd this.symm hn.2.1

end Sys2Proof.Machine
end

