-- ==== Sys2Proof/Laws/State.lean ====
section
/-! SUPPORT. What the updates of the state, of a spindle and of a strand leave alone, one lemma a field, and what reading a
spindle or a strand gives after one. -/

namespace Sys2Proof.Machine

/-! ### setSpindle -/

@[simp] theorem setSpindle_cycle (n : Nat) (p : Spindle) (s : State) : (setSpindle n p s).cycle = s.cycle := rfl
@[simp] theorem setSpindle_tick (n : Nat) (p : Spindle) (s : State) : (setSpindle n p s).tick = s.tick := rfl
@[simp] theorem setSpindle_frac (n : Nat) (p : Spindle) (s : State) : (setSpindle n p s).frac = s.frac := rfl
@[simp] theorem setSpindle_mhz (n : Nat) (p : Spindle) (s : State) : (setSpindle n p s).mhz = s.mhz := rfl
@[simp] theorem setSpindle_den (n : Nat) (p : Spindle) (s : State) : (setSpindle n p s).den = s.den := rfl
@[simp] theorem setSpindle_agenda (n : Nat) (p : Spindle) (s : State) : (setSpindle n p s).agenda = s.agenda := rfl
@[simp] theorem setSpindle_cur (n : Nat) (p : Spindle) (s : State) : (setSpindle n p s).cur = s.cur := rfl
@[simp] theorem setSpindle_free (n : Nat) (p : Spindle) (s : State) : (setSpindle n p s).free = s.free := rfl
@[simp] theorem setSpindle_upsets (n : Nat) (p : Spindle) (s : State) : (setSpindle n p s).upsets = s.upsets := rfl
@[simp] theorem setSpindle_mem (n : Nat) (p : Spindle) (s : State) : (setSpindle n p s).mem = s.mem := rfl
@[simp] theorem setSpindle_memPoison (n : Nat) (p : Spindle) (s : State) : (setSpindle n p s).memPoison = s.memPoison := rfl
@[simp] theorem setSpindle_writes (n : Nat) (p : Spindle) (s : State) : (setSpindle n p s).writes = s.writes := rfl
@[simp] theorem setSpindle_wlog (n : Nat) (p : Spindle) (s : State) : (setSpindle n p s).wlog = s.wlog := rfl
@[simp] theorem setSpindle_olds (n : Nat) (p : Spindle) (s : State) : (setSpindle n p s).olds = s.olds := rfl
@[simp] theorem setSpindle_early (n : Nat) (p : Spindle) (s : State) : (setSpindle n p s).early = s.early := rfl
@[simp] theorem setSpindle_invals (n : Nat) (p : Spindle) (s : State) : (setSpindle n p s).invals = s.invals := rfl
@[simp] theorem setSpindle_views (n : Nat) (p : Spindle) (s : State) : (setSpindle n p s).views = s.views := rfl
@[simp] theorem setSpindle_dieClk (n : Nat) (p : Spindle) (s : State) : (setSpindle n p s).dieClk = s.dieClk := rfl
@[simp] theorem setSpindle_posted (n : Nat) (p : Spindle) (s : State) : (setSpindle n p s).posted = s.posted := rfl
@[simp] theorem setSpindle_l2 (n : Nat) (p : Spindle) (s : State) : (setSpindle n p s).l2 = s.l2 := rfl
@[simp] theorem setSpindle_l2Marks (n : Nat) (p : Spindle) (s : State) : (setSpindle n p s).l2Marks = s.l2Marks := rfl
@[simp] theorem setSpindle_vmeta (n : Nat) (p : Spindle) (s : State) : (setSpindle n p s).vmeta = s.vmeta := rfl
@[simp] theorem setSpindle_vpage (n : Nat) (p : Spindle) (s : State) : (setSpindle n p s).vpage = s.vpage := rfl
@[simp] theorem setSpindle_bobbins (n : Nat) (p : Spindle) (s : State) : (setSpindle n p s).bobbins = s.bobbins := rfl
@[simp] theorem setSpindle_flits (n : Nat) (p : Spindle) (s : State) : (setSpindle n p s).flits = s.flits := rfl
@[simp] theorem setSpindle_bobSeq (n : Nat) (p : Spindle) (s : State) : (setSpindle n p s).bobSeq = s.bobSeq := rfl
@[simp] theorem setSpindle_windows (n : Nat) (p : Spindle) (s : State) : (setSpindle n p s).windows = s.windows := rfl
@[simp] theorem setSpindle_ports (n : Nat) (p : Spindle) (s : State) : (setSpindle n p s).ports = s.ports := rfl
@[simp] theorem setSpindle_net (n : Nat) (p : Spindle) (s : State) : (setSpindle n p s).net = s.net := rfl
@[simp] theorem setSpindle_unacked (n : Nat) (p : Spindle) (s : State) : (setSpindle n p s).unacked = s.unacked := rfl
@[simp] theorem setSpindle_ctxs (n : Nat) (p : Spindle) (s : State) : (setSpindle n p s).ctxs = s.ctxs := rfl
@[simp] theorem setSpindle_lastAtt (n : Nat) (p : Spindle) (s : State) : (setSpindle n p s).lastAtt = s.lastAtt := rfl
@[simp] theorem setSpindle_purges (n : Nat) (p : Spindle) (s : State) : (setSpindle n p s).purges = s.purges := rfl
@[simp] theorem setSpindle_queues (n : Nat) (p : Spindle) (s : State) : (setSpindle n p s).queues = s.queues := rfl
@[simp] theorem setSpindle_tasks (n : Nat) (p : Spindle) (s : State) : (setSpindle n p s).tasks = s.tasks := rfl
@[simp] theorem setSpindle_nextTask (n : Nat) (p : Spindle) (s : State) : (setSpindle n p s).nextTask = s.nextTask := rfl
@[simp] theorem setSpindle_graphs (n : Nat) (p : Spindle) (s : State) : (setSpindle n p s).graphs = s.graphs := rfl
@[simp] theorem setSpindle_roundAt (n : Nat) (p : Spindle) (s : State) : (setSpindle n p s).roundAt = s.roundAt := rfl
@[simp] theorem setSpindle_rounds (n : Nat) (p : Spindle) (s : State) : (setSpindle n p s).rounds = s.rounds := rfl
@[simp] theorem setSpindle_launched (n : Nat) (p : Spindle) (s : State) : (setSpindle n p s).launched = s.launched := rfl
@[simp] theorem setSpindle_parts (n : Nat) (p : Spindle) (s : State) : (setSpindle n p s).parts = s.parts := rfl
@[simp] theorem setSpindle_groups (n : Nat) (p : Spindle) (s : State) : (setSpindle n p s).groups = s.groups := rfl
@[simp] theorem setSpindle_whorls (n : Nat) (p : Spindle) (s : State) : (setSpindle n p s).whorls = s.whorls := rfl
@[simp] theorem setSpindle_races (n : Nat) (p : Spindle) (s : State) : (setSpindle n p s).races = s.races := rfl
@[simp] theorem setSpindle_dev (n : Nat) (p : Spindle) (s : State) : (setSpindle n p s).dev = s.dev := rfl

/-! ### updSpindle -/

@[simp] theorem updSpindle_cycle (n : Nat) (f : Spindle → Spindle) (s : State) : (updSpindle n f s).cycle = s.cycle := rfl
@[simp] theorem updSpindle_tick (n : Nat) (f : Spindle → Spindle) (s : State) : (updSpindle n f s).tick = s.tick := rfl
@[simp] theorem updSpindle_frac (n : Nat) (f : Spindle → Spindle) (s : State) : (updSpindle n f s).frac = s.frac := rfl
@[simp] theorem updSpindle_mhz (n : Nat) (f : Spindle → Spindle) (s : State) : (updSpindle n f s).mhz = s.mhz := rfl
@[simp] theorem updSpindle_den (n : Nat) (f : Spindle → Spindle) (s : State) : (updSpindle n f s).den = s.den := rfl
@[simp] theorem updSpindle_agenda (n : Nat) (f : Spindle → Spindle) (s : State) : (updSpindle n f s).agenda = s.agenda := rfl
@[simp] theorem updSpindle_cur (n : Nat) (f : Spindle → Spindle) (s : State) : (updSpindle n f s).cur = s.cur := rfl
@[simp] theorem updSpindle_free (n : Nat) (f : Spindle → Spindle) (s : State) : (updSpindle n f s).free = s.free := rfl
@[simp] theorem updSpindle_upsets (n : Nat) (f : Spindle → Spindle) (s : State) : (updSpindle n f s).upsets = s.upsets := rfl
@[simp] theorem updSpindle_mem (n : Nat) (f : Spindle → Spindle) (s : State) : (updSpindle n f s).mem = s.mem := rfl
@[simp] theorem updSpindle_memPoison (n : Nat) (f : Spindle → Spindle) (s : State) : (updSpindle n f s).memPoison = s.memPoison := rfl
@[simp] theorem updSpindle_writes (n : Nat) (f : Spindle → Spindle) (s : State) : (updSpindle n f s).writes = s.writes := rfl
@[simp] theorem updSpindle_wlog (n : Nat) (f : Spindle → Spindle) (s : State) : (updSpindle n f s).wlog = s.wlog := rfl
@[simp] theorem updSpindle_olds (n : Nat) (f : Spindle → Spindle) (s : State) : (updSpindle n f s).olds = s.olds := rfl
@[simp] theorem updSpindle_early (n : Nat) (f : Spindle → Spindle) (s : State) : (updSpindle n f s).early = s.early := rfl
@[simp] theorem updSpindle_invals (n : Nat) (f : Spindle → Spindle) (s : State) : (updSpindle n f s).invals = s.invals := rfl
@[simp] theorem updSpindle_views (n : Nat) (f : Spindle → Spindle) (s : State) : (updSpindle n f s).views = s.views := rfl
@[simp] theorem updSpindle_dieClk (n : Nat) (f : Spindle → Spindle) (s : State) : (updSpindle n f s).dieClk = s.dieClk := rfl
@[simp] theorem updSpindle_posted (n : Nat) (f : Spindle → Spindle) (s : State) : (updSpindle n f s).posted = s.posted := rfl
@[simp] theorem updSpindle_l2 (n : Nat) (f : Spindle → Spindle) (s : State) : (updSpindle n f s).l2 = s.l2 := rfl
@[simp] theorem updSpindle_l2Marks (n : Nat) (f : Spindle → Spindle) (s : State) : (updSpindle n f s).l2Marks = s.l2Marks := rfl
@[simp] theorem updSpindle_vmeta (n : Nat) (f : Spindle → Spindle) (s : State) : (updSpindle n f s).vmeta = s.vmeta := rfl
@[simp] theorem updSpindle_vpage (n : Nat) (f : Spindle → Spindle) (s : State) : (updSpindle n f s).vpage = s.vpage := rfl
@[simp] theorem updSpindle_bobbins (n : Nat) (f : Spindle → Spindle) (s : State) : (updSpindle n f s).bobbins = s.bobbins := rfl
@[simp] theorem updSpindle_flits (n : Nat) (f : Spindle → Spindle) (s : State) : (updSpindle n f s).flits = s.flits := rfl
@[simp] theorem updSpindle_bobSeq (n : Nat) (f : Spindle → Spindle) (s : State) : (updSpindle n f s).bobSeq = s.bobSeq := rfl
@[simp] theorem updSpindle_windows (n : Nat) (f : Spindle → Spindle) (s : State) : (updSpindle n f s).windows = s.windows := rfl
@[simp] theorem updSpindle_ports (n : Nat) (f : Spindle → Spindle) (s : State) : (updSpindle n f s).ports = s.ports := rfl
@[simp] theorem updSpindle_net (n : Nat) (f : Spindle → Spindle) (s : State) : (updSpindle n f s).net = s.net := rfl
@[simp] theorem updSpindle_unacked (n : Nat) (f : Spindle → Spindle) (s : State) : (updSpindle n f s).unacked = s.unacked := rfl
@[simp] theorem updSpindle_ctxs (n : Nat) (f : Spindle → Spindle) (s : State) : (updSpindle n f s).ctxs = s.ctxs := rfl
@[simp] theorem updSpindle_lastAtt (n : Nat) (f : Spindle → Spindle) (s : State) : (updSpindle n f s).lastAtt = s.lastAtt := rfl
@[simp] theorem updSpindle_purges (n : Nat) (f : Spindle → Spindle) (s : State) : (updSpindle n f s).purges = s.purges := rfl
@[simp] theorem updSpindle_queues (n : Nat) (f : Spindle → Spindle) (s : State) : (updSpindle n f s).queues = s.queues := rfl
@[simp] theorem updSpindle_tasks (n : Nat) (f : Spindle → Spindle) (s : State) : (updSpindle n f s).tasks = s.tasks := rfl
@[simp] theorem updSpindle_nextTask (n : Nat) (f : Spindle → Spindle) (s : State) : (updSpindle n f s).nextTask = s.nextTask := rfl
@[simp] theorem updSpindle_graphs (n : Nat) (f : Spindle → Spindle) (s : State) : (updSpindle n f s).graphs = s.graphs := rfl
@[simp] theorem updSpindle_roundAt (n : Nat) (f : Spindle → Spindle) (s : State) : (updSpindle n f s).roundAt = s.roundAt := rfl
@[simp] theorem updSpindle_rounds (n : Nat) (f : Spindle → Spindle) (s : State) : (updSpindle n f s).rounds = s.rounds := rfl
@[simp] theorem updSpindle_launched (n : Nat) (f : Spindle → Spindle) (s : State) : (updSpindle n f s).launched = s.launched := rfl
@[simp] theorem updSpindle_parts (n : Nat) (f : Spindle → Spindle) (s : State) : (updSpindle n f s).parts = s.parts := rfl
@[simp] theorem updSpindle_groups (n : Nat) (f : Spindle → Spindle) (s : State) : (updSpindle n f s).groups = s.groups := rfl
@[simp] theorem updSpindle_whorls (n : Nat) (f : Spindle → Spindle) (s : State) : (updSpindle n f s).whorls = s.whorls := rfl
@[simp] theorem updSpindle_races (n : Nat) (f : Spindle → Spindle) (s : State) : (updSpindle n f s).races = s.races := rfl
@[simp] theorem updSpindle_dev (n : Nat) (f : Spindle → Spindle) (s : State) : (updSpindle n f s).dev = s.dev := rfl

/-! ### updStrand -/

@[simp] theorem updStrand_cycle (n k : Nat) (f : Strand → Strand) (s : State) : (updStrand n k f s).cycle = s.cycle := rfl
@[simp] theorem updStrand_tick (n k : Nat) (f : Strand → Strand) (s : State) : (updStrand n k f s).tick = s.tick := rfl
@[simp] theorem updStrand_frac (n k : Nat) (f : Strand → Strand) (s : State) : (updStrand n k f s).frac = s.frac := rfl
@[simp] theorem updStrand_mhz (n k : Nat) (f : Strand → Strand) (s : State) : (updStrand n k f s).mhz = s.mhz := rfl
@[simp] theorem updStrand_den (n k : Nat) (f : Strand → Strand) (s : State) : (updStrand n k f s).den = s.den := rfl
@[simp] theorem updStrand_agenda (n k : Nat) (f : Strand → Strand) (s : State) : (updStrand n k f s).agenda = s.agenda := rfl
@[simp] theorem updStrand_cur (n k : Nat) (f : Strand → Strand) (s : State) : (updStrand n k f s).cur = s.cur := rfl
@[simp] theorem updStrand_free (n k : Nat) (f : Strand → Strand) (s : State) : (updStrand n k f s).free = s.free := rfl
@[simp] theorem updStrand_upsets (n k : Nat) (f : Strand → Strand) (s : State) : (updStrand n k f s).upsets = s.upsets := rfl
@[simp] theorem updStrand_mem (n k : Nat) (f : Strand → Strand) (s : State) : (updStrand n k f s).mem = s.mem := rfl
@[simp] theorem updStrand_memPoison (n k : Nat) (f : Strand → Strand) (s : State) : (updStrand n k f s).memPoison = s.memPoison := rfl
@[simp] theorem updStrand_writes (n k : Nat) (f : Strand → Strand) (s : State) : (updStrand n k f s).writes = s.writes := rfl
@[simp] theorem updStrand_wlog (n k : Nat) (f : Strand → Strand) (s : State) : (updStrand n k f s).wlog = s.wlog := rfl
@[simp] theorem updStrand_olds (n k : Nat) (f : Strand → Strand) (s : State) : (updStrand n k f s).olds = s.olds := rfl
@[simp] theorem updStrand_early (n k : Nat) (f : Strand → Strand) (s : State) : (updStrand n k f s).early = s.early := rfl
@[simp] theorem updStrand_invals (n k : Nat) (f : Strand → Strand) (s : State) : (updStrand n k f s).invals = s.invals := rfl
@[simp] theorem updStrand_views (n k : Nat) (f : Strand → Strand) (s : State) : (updStrand n k f s).views = s.views := rfl
@[simp] theorem updStrand_dieClk (n k : Nat) (f : Strand → Strand) (s : State) : (updStrand n k f s).dieClk = s.dieClk := rfl
@[simp] theorem updStrand_posted (n k : Nat) (f : Strand → Strand) (s : State) : (updStrand n k f s).posted = s.posted := rfl
@[simp] theorem updStrand_l2 (n k : Nat) (f : Strand → Strand) (s : State) : (updStrand n k f s).l2 = s.l2 := rfl
@[simp] theorem updStrand_l2Marks (n k : Nat) (f : Strand → Strand) (s : State) : (updStrand n k f s).l2Marks = s.l2Marks := rfl
@[simp] theorem updStrand_vmeta (n k : Nat) (f : Strand → Strand) (s : State) : (updStrand n k f s).vmeta = s.vmeta := rfl
@[simp] theorem updStrand_vpage (n k : Nat) (f : Strand → Strand) (s : State) : (updStrand n k f s).vpage = s.vpage := rfl
@[simp] theorem updStrand_bobbins (n k : Nat) (f : Strand → Strand) (s : State) : (updStrand n k f s).bobbins = s.bobbins := rfl
@[simp] theorem updStrand_flits (n k : Nat) (f : Strand → Strand) (s : State) : (updStrand n k f s).flits = s.flits := rfl
@[simp] theorem updStrand_bobSeq (n k : Nat) (f : Strand → Strand) (s : State) : (updStrand n k f s).bobSeq = s.bobSeq := rfl
@[simp] theorem updStrand_windows (n k : Nat) (f : Strand → Strand) (s : State) : (updStrand n k f s).windows = s.windows := rfl
@[simp] theorem updStrand_ports (n k : Nat) (f : Strand → Strand) (s : State) : (updStrand n k f s).ports = s.ports := rfl
@[simp] theorem updStrand_net (n k : Nat) (f : Strand → Strand) (s : State) : (updStrand n k f s).net = s.net := rfl
@[simp] theorem updStrand_unacked (n k : Nat) (f : Strand → Strand) (s : State) : (updStrand n k f s).unacked = s.unacked := rfl
@[simp] theorem updStrand_ctxs (n k : Nat) (f : Strand → Strand) (s : State) : (updStrand n k f s).ctxs = s.ctxs := rfl
@[simp] theorem updStrand_lastAtt (n k : Nat) (f : Strand → Strand) (s : State) : (updStrand n k f s).lastAtt = s.lastAtt := rfl
@[simp] theorem updStrand_purges (n k : Nat) (f : Strand → Strand) (s : State) : (updStrand n k f s).purges = s.purges := rfl
@[simp] theorem updStrand_queues (n k : Nat) (f : Strand → Strand) (s : State) : (updStrand n k f s).queues = s.queues := rfl
@[simp] theorem updStrand_tasks (n k : Nat) (f : Strand → Strand) (s : State) : (updStrand n k f s).tasks = s.tasks := rfl
@[simp] theorem updStrand_nextTask (n k : Nat) (f : Strand → Strand) (s : State) : (updStrand n k f s).nextTask = s.nextTask := rfl
@[simp] theorem updStrand_graphs (n k : Nat) (f : Strand → Strand) (s : State) : (updStrand n k f s).graphs = s.graphs := rfl
@[simp] theorem updStrand_roundAt (n k : Nat) (f : Strand → Strand) (s : State) : (updStrand n k f s).roundAt = s.roundAt := rfl
@[simp] theorem updStrand_rounds (n k : Nat) (f : Strand → Strand) (s : State) : (updStrand n k f s).rounds = s.rounds := rfl
@[simp] theorem updStrand_launched (n k : Nat) (f : Strand → Strand) (s : State) : (updStrand n k f s).launched = s.launched := rfl
@[simp] theorem updStrand_parts (n k : Nat) (f : Strand → Strand) (s : State) : (updStrand n k f s).parts = s.parts := rfl
@[simp] theorem updStrand_groups (n k : Nat) (f : Strand → Strand) (s : State) : (updStrand n k f s).groups = s.groups := rfl
@[simp] theorem updStrand_whorls (n k : Nat) (f : Strand → Strand) (s : State) : (updStrand n k f s).whorls = s.whorls := rfl
@[simp] theorem updStrand_races (n k : Nat) (f : Strand → Strand) (s : State) : (updStrand n k f s).races = s.races := rfl
@[simp] theorem updStrand_dev (n k : Nat) (f : Strand → Strand) (s : State) : (updStrand n k f s).dev = s.dev := rfl

/-! ### updMe -/

@[simp] theorem updMe_cycle (f : Strand → Strand) (s : State) : (updMe f s).cycle = s.cycle := rfl
@[simp] theorem updMe_tick (f : Strand → Strand) (s : State) : (updMe f s).tick = s.tick := rfl
@[simp] theorem updMe_frac (f : Strand → Strand) (s : State) : (updMe f s).frac = s.frac := rfl
@[simp] theorem updMe_mhz (f : Strand → Strand) (s : State) : (updMe f s).mhz = s.mhz := rfl
@[simp] theorem updMe_den (f : Strand → Strand) (s : State) : (updMe f s).den = s.den := rfl
@[simp] theorem updMe_agenda (f : Strand → Strand) (s : State) : (updMe f s).agenda = s.agenda := rfl
@[simp] theorem updMe_cur (f : Strand → Strand) (s : State) : (updMe f s).cur = s.cur := rfl
@[simp] theorem updMe_free (f : Strand → Strand) (s : State) : (updMe f s).free = s.free := rfl
@[simp] theorem updMe_upsets (f : Strand → Strand) (s : State) : (updMe f s).upsets = s.upsets := rfl
@[simp] theorem updMe_mem (f : Strand → Strand) (s : State) : (updMe f s).mem = s.mem := rfl
@[simp] theorem updMe_memPoison (f : Strand → Strand) (s : State) : (updMe f s).memPoison = s.memPoison := rfl
@[simp] theorem updMe_writes (f : Strand → Strand) (s : State) : (updMe f s).writes = s.writes := rfl
@[simp] theorem updMe_wlog (f : Strand → Strand) (s : State) : (updMe f s).wlog = s.wlog := rfl
@[simp] theorem updMe_olds (f : Strand → Strand) (s : State) : (updMe f s).olds = s.olds := rfl
@[simp] theorem updMe_early (f : Strand → Strand) (s : State) : (updMe f s).early = s.early := rfl
@[simp] theorem updMe_invals (f : Strand → Strand) (s : State) : (updMe f s).invals = s.invals := rfl
@[simp] theorem updMe_views (f : Strand → Strand) (s : State) : (updMe f s).views = s.views := rfl
@[simp] theorem updMe_dieClk (f : Strand → Strand) (s : State) : (updMe f s).dieClk = s.dieClk := rfl
@[simp] theorem updMe_posted (f : Strand → Strand) (s : State) : (updMe f s).posted = s.posted := rfl
@[simp] theorem updMe_l2 (f : Strand → Strand) (s : State) : (updMe f s).l2 = s.l2 := rfl
@[simp] theorem updMe_l2Marks (f : Strand → Strand) (s : State) : (updMe f s).l2Marks = s.l2Marks := rfl
@[simp] theorem updMe_vmeta (f : Strand → Strand) (s : State) : (updMe f s).vmeta = s.vmeta := rfl
@[simp] theorem updMe_vpage (f : Strand → Strand) (s : State) : (updMe f s).vpage = s.vpage := rfl
@[simp] theorem updMe_bobbins (f : Strand → Strand) (s : State) : (updMe f s).bobbins = s.bobbins := rfl
@[simp] theorem updMe_flits (f : Strand → Strand) (s : State) : (updMe f s).flits = s.flits := rfl
@[simp] theorem updMe_bobSeq (f : Strand → Strand) (s : State) : (updMe f s).bobSeq = s.bobSeq := rfl
@[simp] theorem updMe_windows (f : Strand → Strand) (s : State) : (updMe f s).windows = s.windows := rfl
@[simp] theorem updMe_ports (f : Strand → Strand) (s : State) : (updMe f s).ports = s.ports := rfl
@[simp] theorem updMe_net (f : Strand → Strand) (s : State) : (updMe f s).net = s.net := rfl
@[simp] theorem updMe_unacked (f : Strand → Strand) (s : State) : (updMe f s).unacked = s.unacked := rfl
@[simp] theorem updMe_ctxs (f : Strand → Strand) (s : State) : (updMe f s).ctxs = s.ctxs := rfl
@[simp] theorem updMe_lastAtt (f : Strand → Strand) (s : State) : (updMe f s).lastAtt = s.lastAtt := rfl
@[simp] theorem updMe_purges (f : Strand → Strand) (s : State) : (updMe f s).purges = s.purges := rfl
@[simp] theorem updMe_queues (f : Strand → Strand) (s : State) : (updMe f s).queues = s.queues := rfl
@[simp] theorem updMe_tasks (f : Strand → Strand) (s : State) : (updMe f s).tasks = s.tasks := rfl
@[simp] theorem updMe_nextTask (f : Strand → Strand) (s : State) : (updMe f s).nextTask = s.nextTask := rfl
@[simp] theorem updMe_graphs (f : Strand → Strand) (s : State) : (updMe f s).graphs = s.graphs := rfl
@[simp] theorem updMe_roundAt (f : Strand → Strand) (s : State) : (updMe f s).roundAt = s.roundAt := rfl
@[simp] theorem updMe_rounds (f : Strand → Strand) (s : State) : (updMe f s).rounds = s.rounds := rfl
@[simp] theorem updMe_launched (f : Strand → Strand) (s : State) : (updMe f s).launched = s.launched := rfl
@[simp] theorem updMe_parts (f : Strand → Strand) (s : State) : (updMe f s).parts = s.parts := rfl
@[simp] theorem updMe_groups (f : Strand → Strand) (s : State) : (updMe f s).groups = s.groups := rfl
@[simp] theorem updMe_whorls (f : Strand → Strand) (s : State) : (updMe f s).whorls = s.whorls := rfl
@[simp] theorem updMe_races (f : Strand → Strand) (s : State) : (updMe f s).races = s.races := rfl
@[simp] theorem updMe_dev (f : Strand → Strand) (s : State) : (updMe f s).dev = s.dev := rfl

/-! ### updMySpindle -/

@[simp] theorem updMySpindle_cycle (f : Spindle → Spindle) (s : State) : (updMySpindle f s).cycle = s.cycle := rfl
@[simp] theorem updMySpindle_tick (f : Spindle → Spindle) (s : State) : (updMySpindle f s).tick = s.tick := rfl
@[simp] theorem updMySpindle_frac (f : Spindle → Spindle) (s : State) : (updMySpindle f s).frac = s.frac := rfl
@[simp] theorem updMySpindle_mhz (f : Spindle → Spindle) (s : State) : (updMySpindle f s).mhz = s.mhz := rfl
@[simp] theorem updMySpindle_den (f : Spindle → Spindle) (s : State) : (updMySpindle f s).den = s.den := rfl
@[simp] theorem updMySpindle_agenda (f : Spindle → Spindle) (s : State) : (updMySpindle f s).agenda = s.agenda := rfl
@[simp] theorem updMySpindle_cur (f : Spindle → Spindle) (s : State) : (updMySpindle f s).cur = s.cur := rfl
@[simp] theorem updMySpindle_free (f : Spindle → Spindle) (s : State) : (updMySpindle f s).free = s.free := rfl
@[simp] theorem updMySpindle_upsets (f : Spindle → Spindle) (s : State) : (updMySpindle f s).upsets = s.upsets := rfl
@[simp] theorem updMySpindle_mem (f : Spindle → Spindle) (s : State) : (updMySpindle f s).mem = s.mem := rfl
@[simp] theorem updMySpindle_memPoison (f : Spindle → Spindle) (s : State) : (updMySpindle f s).memPoison = s.memPoison := rfl
@[simp] theorem updMySpindle_writes (f : Spindle → Spindle) (s : State) : (updMySpindle f s).writes = s.writes := rfl
@[simp] theorem updMySpindle_wlog (f : Spindle → Spindle) (s : State) : (updMySpindle f s).wlog = s.wlog := rfl
@[simp] theorem updMySpindle_olds (f : Spindle → Spindle) (s : State) : (updMySpindle f s).olds = s.olds := rfl
@[simp] theorem updMySpindle_early (f : Spindle → Spindle) (s : State) : (updMySpindle f s).early = s.early := rfl
@[simp] theorem updMySpindle_invals (f : Spindle → Spindle) (s : State) : (updMySpindle f s).invals = s.invals := rfl
@[simp] theorem updMySpindle_views (f : Spindle → Spindle) (s : State) : (updMySpindle f s).views = s.views := rfl
@[simp] theorem updMySpindle_dieClk (f : Spindle → Spindle) (s : State) : (updMySpindle f s).dieClk = s.dieClk := rfl
@[simp] theorem updMySpindle_posted (f : Spindle → Spindle) (s : State) : (updMySpindle f s).posted = s.posted := rfl
@[simp] theorem updMySpindle_l2 (f : Spindle → Spindle) (s : State) : (updMySpindle f s).l2 = s.l2 := rfl
@[simp] theorem updMySpindle_l2Marks (f : Spindle → Spindle) (s : State) : (updMySpindle f s).l2Marks = s.l2Marks := rfl
@[simp] theorem updMySpindle_vmeta (f : Spindle → Spindle) (s : State) : (updMySpindle f s).vmeta = s.vmeta := rfl
@[simp] theorem updMySpindle_vpage (f : Spindle → Spindle) (s : State) : (updMySpindle f s).vpage = s.vpage := rfl
@[simp] theorem updMySpindle_bobbins (f : Spindle → Spindle) (s : State) : (updMySpindle f s).bobbins = s.bobbins := rfl
@[simp] theorem updMySpindle_flits (f : Spindle → Spindle) (s : State) : (updMySpindle f s).flits = s.flits := rfl
@[simp] theorem updMySpindle_bobSeq (f : Spindle → Spindle) (s : State) : (updMySpindle f s).bobSeq = s.bobSeq := rfl
@[simp] theorem updMySpindle_windows (f : Spindle → Spindle) (s : State) : (updMySpindle f s).windows = s.windows := rfl
@[simp] theorem updMySpindle_ports (f : Spindle → Spindle) (s : State) : (updMySpindle f s).ports = s.ports := rfl
@[simp] theorem updMySpindle_net (f : Spindle → Spindle) (s : State) : (updMySpindle f s).net = s.net := rfl
@[simp] theorem updMySpindle_unacked (f : Spindle → Spindle) (s : State) : (updMySpindle f s).unacked = s.unacked := rfl
@[simp] theorem updMySpindle_ctxs (f : Spindle → Spindle) (s : State) : (updMySpindle f s).ctxs = s.ctxs := rfl
@[simp] theorem updMySpindle_lastAtt (f : Spindle → Spindle) (s : State) : (updMySpindle f s).lastAtt = s.lastAtt := rfl
@[simp] theorem updMySpindle_purges (f : Spindle → Spindle) (s : State) : (updMySpindle f s).purges = s.purges := rfl
@[simp] theorem updMySpindle_queues (f : Spindle → Spindle) (s : State) : (updMySpindle f s).queues = s.queues := rfl
@[simp] theorem updMySpindle_tasks (f : Spindle → Spindle) (s : State) : (updMySpindle f s).tasks = s.tasks := rfl
@[simp] theorem updMySpindle_nextTask (f : Spindle → Spindle) (s : State) : (updMySpindle f s).nextTask = s.nextTask := rfl
@[simp] theorem updMySpindle_graphs (f : Spindle → Spindle) (s : State) : (updMySpindle f s).graphs = s.graphs := rfl
@[simp] theorem updMySpindle_roundAt (f : Spindle → Spindle) (s : State) : (updMySpindle f s).roundAt = s.roundAt := rfl
@[simp] theorem updMySpindle_rounds (f : Spindle → Spindle) (s : State) : (updMySpindle f s).rounds = s.rounds := rfl
@[simp] theorem updMySpindle_launched (f : Spindle → Spindle) (s : State) : (updMySpindle f s).launched = s.launched := rfl
@[simp] theorem updMySpindle_parts (f : Spindle → Spindle) (s : State) : (updMySpindle f s).parts = s.parts := rfl
@[simp] theorem updMySpindle_groups (f : Spindle → Spindle) (s : State) : (updMySpindle f s).groups = s.groups := rfl
@[simp] theorem updMySpindle_whorls (f : Spindle → Spindle) (s : State) : (updMySpindle f s).whorls = s.whorls := rfl
@[simp] theorem updMySpindle_races (f : Spindle → Spindle) (s : State) : (updMySpindle f s).races = s.races := rfl
@[simp] theorem updMySpindle_dev (f : Spindle → Spindle) (s : State) : (updMySpindle f s).dev = s.dev := rfl

/-! ### updCur -/

@[simp] theorem updCur_cycle (f : Focus → Focus) (s : State) : (updCur f s).cycle = s.cycle := rfl
@[simp] theorem updCur_tick (f : Focus → Focus) (s : State) : (updCur f s).tick = s.tick := rfl
@[simp] theorem updCur_frac (f : Focus → Focus) (s : State) : (updCur f s).frac = s.frac := rfl
@[simp] theorem updCur_mhz (f : Focus → Focus) (s : State) : (updCur f s).mhz = s.mhz := rfl
@[simp] theorem updCur_den (f : Focus → Focus) (s : State) : (updCur f s).den = s.den := rfl
@[simp] theorem updCur_agenda (f : Focus → Focus) (s : State) : (updCur f s).agenda = s.agenda := rfl
@[simp] theorem updCur_free (f : Focus → Focus) (s : State) : (updCur f s).free = s.free := rfl
@[simp] theorem updCur_upsets (f : Focus → Focus) (s : State) : (updCur f s).upsets = s.upsets := rfl
@[simp] theorem updCur_mem (f : Focus → Focus) (s : State) : (updCur f s).mem = s.mem := rfl
@[simp] theorem updCur_memPoison (f : Focus → Focus) (s : State) : (updCur f s).memPoison = s.memPoison := rfl
@[simp] theorem updCur_writes (f : Focus → Focus) (s : State) : (updCur f s).writes = s.writes := rfl
@[simp] theorem updCur_wlog (f : Focus → Focus) (s : State) : (updCur f s).wlog = s.wlog := rfl
@[simp] theorem updCur_olds (f : Focus → Focus) (s : State) : (updCur f s).olds = s.olds := rfl
@[simp] theorem updCur_early (f : Focus → Focus) (s : State) : (updCur f s).early = s.early := rfl
@[simp] theorem updCur_invals (f : Focus → Focus) (s : State) : (updCur f s).invals = s.invals := rfl
@[simp] theorem updCur_views (f : Focus → Focus) (s : State) : (updCur f s).views = s.views := rfl
@[simp] theorem updCur_dieClk (f : Focus → Focus) (s : State) : (updCur f s).dieClk = s.dieClk := rfl
@[simp] theorem updCur_posted (f : Focus → Focus) (s : State) : (updCur f s).posted = s.posted := rfl
@[simp] theorem updCur_l2 (f : Focus → Focus) (s : State) : (updCur f s).l2 = s.l2 := rfl
@[simp] theorem updCur_l2Marks (f : Focus → Focus) (s : State) : (updCur f s).l2Marks = s.l2Marks := rfl
@[simp] theorem updCur_vmeta (f : Focus → Focus) (s : State) : (updCur f s).vmeta = s.vmeta := rfl
@[simp] theorem updCur_vpage (f : Focus → Focus) (s : State) : (updCur f s).vpage = s.vpage := rfl
@[simp] theorem updCur_spindles (f : Focus → Focus) (s : State) : (updCur f s).spindles = s.spindles := rfl
@[simp] theorem updCur_bobbins (f : Focus → Focus) (s : State) : (updCur f s).bobbins = s.bobbins := rfl
@[simp] theorem updCur_flits (f : Focus → Focus) (s : State) : (updCur f s).flits = s.flits := rfl
@[simp] theorem updCur_bobSeq (f : Focus → Focus) (s : State) : (updCur f s).bobSeq = s.bobSeq := rfl
@[simp] theorem updCur_windows (f : Focus → Focus) (s : State) : (updCur f s).windows = s.windows := rfl
@[simp] theorem updCur_ports (f : Focus → Focus) (s : State) : (updCur f s).ports = s.ports := rfl
@[simp] theorem updCur_net (f : Focus → Focus) (s : State) : (updCur f s).net = s.net := rfl
@[simp] theorem updCur_unacked (f : Focus → Focus) (s : State) : (updCur f s).unacked = s.unacked := rfl
@[simp] theorem updCur_ctxs (f : Focus → Focus) (s : State) : (updCur f s).ctxs = s.ctxs := rfl
@[simp] theorem updCur_lastAtt (f : Focus → Focus) (s : State) : (updCur f s).lastAtt = s.lastAtt := rfl
@[simp] theorem updCur_purges (f : Focus → Focus) (s : State) : (updCur f s).purges = s.purges := rfl
@[simp] theorem updCur_queues (f : Focus → Focus) (s : State) : (updCur f s).queues = s.queues := rfl
@[simp] theorem updCur_tasks (f : Focus → Focus) (s : State) : (updCur f s).tasks = s.tasks := rfl
@[simp] theorem updCur_nextTask (f : Focus → Focus) (s : State) : (updCur f s).nextTask = s.nextTask := rfl
@[simp] theorem updCur_graphs (f : Focus → Focus) (s : State) : (updCur f s).graphs = s.graphs := rfl
@[simp] theorem updCur_roundAt (f : Focus → Focus) (s : State) : (updCur f s).roundAt = s.roundAt := rfl
@[simp] theorem updCur_rounds (f : Focus → Focus) (s : State) : (updCur f s).rounds = s.rounds := rfl
@[simp] theorem updCur_launched (f : Focus → Focus) (s : State) : (updCur f s).launched = s.launched := rfl
@[simp] theorem updCur_parts (f : Focus → Focus) (s : State) : (updCur f s).parts = s.parts := rfl
@[simp] theorem updCur_groups (f : Focus → Focus) (s : State) : (updCur f s).groups = s.groups := rfl
@[simp] theorem updCur_whorls (f : Focus → Focus) (s : State) : (updCur f s).whorls = s.whorls := rfl
@[simp] theorem updCur_races (f : Focus → Focus) (s : State) : (updCur f s).races = s.races := rfl
@[simp] theorem updCur_dev (f : Focus → Focus) (s : State) : (updCur f s).dev = s.dev := rfl

/-! ### setMemBytes -/

@[simp] theorem setMemBytes_cycle (a : Nat) (bs : List Byte) (s : State) : (setMemBytes a bs s).cycle = s.cycle := rfl
@[simp] theorem setMemBytes_tick (a : Nat) (bs : List Byte) (s : State) : (setMemBytes a bs s).tick = s.tick := rfl
@[simp] theorem setMemBytes_frac (a : Nat) (bs : List Byte) (s : State) : (setMemBytes a bs s).frac = s.frac := rfl
@[simp] theorem setMemBytes_mhz (a : Nat) (bs : List Byte) (s : State) : (setMemBytes a bs s).mhz = s.mhz := rfl
@[simp] theorem setMemBytes_den (a : Nat) (bs : List Byte) (s : State) : (setMemBytes a bs s).den = s.den := rfl
@[simp] theorem setMemBytes_agenda (a : Nat) (bs : List Byte) (s : State) : (setMemBytes a bs s).agenda = s.agenda := rfl
@[simp] theorem setMemBytes_cur (a : Nat) (bs : List Byte) (s : State) : (setMemBytes a bs s).cur = s.cur := rfl
@[simp] theorem setMemBytes_free (a : Nat) (bs : List Byte) (s : State) : (setMemBytes a bs s).free = s.free := rfl
@[simp] theorem setMemBytes_upsets (a : Nat) (bs : List Byte) (s : State) : (setMemBytes a bs s).upsets = s.upsets := rfl
@[simp] theorem setMemBytes_memPoison (a : Nat) (bs : List Byte) (s : State) : (setMemBytes a bs s).memPoison = s.memPoison := rfl
@[simp] theorem setMemBytes_writes (a : Nat) (bs : List Byte) (s : State) : (setMemBytes a bs s).writes = s.writes := rfl
@[simp] theorem setMemBytes_wlog (a : Nat) (bs : List Byte) (s : State) : (setMemBytes a bs s).wlog = s.wlog := rfl
@[simp] theorem setMemBytes_olds (a : Nat) (bs : List Byte) (s : State) : (setMemBytes a bs s).olds = s.olds := rfl
@[simp] theorem setMemBytes_early (a : Nat) (bs : List Byte) (s : State) : (setMemBytes a bs s).early = s.early := rfl
@[simp] theorem setMemBytes_invals (a : Nat) (bs : List Byte) (s : State) : (setMemBytes a bs s).invals = s.invals := rfl
@[simp] theorem setMemBytes_views (a : Nat) (bs : List Byte) (s : State) : (setMemBytes a bs s).views = s.views := rfl
@[simp] theorem setMemBytes_dieClk (a : Nat) (bs : List Byte) (s : State) : (setMemBytes a bs s).dieClk = s.dieClk := rfl
@[simp] theorem setMemBytes_posted (a : Nat) (bs : List Byte) (s : State) : (setMemBytes a bs s).posted = s.posted := rfl
@[simp] theorem setMemBytes_l2 (a : Nat) (bs : List Byte) (s : State) : (setMemBytes a bs s).l2 = s.l2 := rfl
@[simp] theorem setMemBytes_l2Marks (a : Nat) (bs : List Byte) (s : State) : (setMemBytes a bs s).l2Marks = s.l2Marks := rfl
@[simp] theorem setMemBytes_vmeta (a : Nat) (bs : List Byte) (s : State) : (setMemBytes a bs s).vmeta = s.vmeta := rfl
@[simp] theorem setMemBytes_vpage (a : Nat) (bs : List Byte) (s : State) : (setMemBytes a bs s).vpage = s.vpage := rfl
@[simp] theorem setMemBytes_spindles (a : Nat) (bs : List Byte) (s : State) : (setMemBytes a bs s).spindles = s.spindles := rfl
@[simp] theorem setMemBytes_bobbins (a : Nat) (bs : List Byte) (s : State) : (setMemBytes a bs s).bobbins = s.bobbins := rfl
@[simp] theorem setMemBytes_flits (a : Nat) (bs : List Byte) (s : State) : (setMemBytes a bs s).flits = s.flits := rfl
@[simp] theorem setMemBytes_bobSeq (a : Nat) (bs : List Byte) (s : State) : (setMemBytes a bs s).bobSeq = s.bobSeq := rfl
@[simp] theorem setMemBytes_windows (a : Nat) (bs : List Byte) (s : State) : (setMemBytes a bs s).windows = s.windows := rfl
@[simp] theorem setMemBytes_ports (a : Nat) (bs : List Byte) (s : State) : (setMemBytes a bs s).ports = s.ports := rfl
@[simp] theorem setMemBytes_net (a : Nat) (bs : List Byte) (s : State) : (setMemBytes a bs s).net = s.net := rfl
@[simp] theorem setMemBytes_unacked (a : Nat) (bs : List Byte) (s : State) : (setMemBytes a bs s).unacked = s.unacked := rfl
@[simp] theorem setMemBytes_ctxs (a : Nat) (bs : List Byte) (s : State) : (setMemBytes a bs s).ctxs = s.ctxs := rfl
@[simp] theorem setMemBytes_lastAtt (a : Nat) (bs : List Byte) (s : State) : (setMemBytes a bs s).lastAtt = s.lastAtt := rfl
@[simp] theorem setMemBytes_purges (a : Nat) (bs : List Byte) (s : State) : (setMemBytes a bs s).purges = s.purges := rfl
@[simp] theorem setMemBytes_queues (a : Nat) (bs : List Byte) (s : State) : (setMemBytes a bs s).queues = s.queues := rfl
@[simp] theorem setMemBytes_tasks (a : Nat) (bs : List Byte) (s : State) : (setMemBytes a bs s).tasks = s.tasks := rfl
@[simp] theorem setMemBytes_nextTask (a : Nat) (bs : List Byte) (s : State) : (setMemBytes a bs s).nextTask = s.nextTask := rfl
@[simp] theorem setMemBytes_graphs (a : Nat) (bs : List Byte) (s : State) : (setMemBytes a bs s).graphs = s.graphs := rfl
@[simp] theorem setMemBytes_roundAt (a : Nat) (bs : List Byte) (s : State) : (setMemBytes a bs s).roundAt = s.roundAt := rfl
@[simp] theorem setMemBytes_rounds (a : Nat) (bs : List Byte) (s : State) : (setMemBytes a bs s).rounds = s.rounds := rfl
@[simp] theorem setMemBytes_launched (a : Nat) (bs : List Byte) (s : State) : (setMemBytes a bs s).launched = s.launched := rfl
@[simp] theorem setMemBytes_parts (a : Nat) (bs : List Byte) (s : State) : (setMemBytes a bs s).parts = s.parts := rfl
@[simp] theorem setMemBytes_groups (a : Nat) (bs : List Byte) (s : State) : (setMemBytes a bs s).groups = s.groups := rfl
@[simp] theorem setMemBytes_whorls (a : Nat) (bs : List Byte) (s : State) : (setMemBytes a bs s).whorls = s.whorls := rfl
@[simp] theorem setMemBytes_races (a : Nat) (bs : List Byte) (s : State) : (setMemBytes a bs s).races = s.races := rfl
@[simp] theorem setMemBytes_dev (a : Nat) (bs : List Byte) (s : State) : (setMemBytes a bs s).dev = s.dev := rfl

/-! ### updCtx -/

@[simp] theorem updCtx_cycle (c : Nat) (f : Ctx → Ctx) (s : State) : (updCtx c f s).cycle = s.cycle := rfl
@[simp] theorem updCtx_tick (c : Nat) (f : Ctx → Ctx) (s : State) : (updCtx c f s).tick = s.tick := rfl
@[simp] theorem updCtx_frac (c : Nat) (f : Ctx → Ctx) (s : State) : (updCtx c f s).frac = s.frac := rfl
@[simp] theorem updCtx_mhz (c : Nat) (f : Ctx → Ctx) (s : State) : (updCtx c f s).mhz = s.mhz := rfl
@[simp] theorem updCtx_den (c : Nat) (f : Ctx → Ctx) (s : State) : (updCtx c f s).den = s.den := rfl
@[simp] theorem updCtx_agenda (c : Nat) (f : Ctx → Ctx) (s : State) : (updCtx c f s).agenda = s.agenda := rfl
@[simp] theorem updCtx_cur (c : Nat) (f : Ctx → Ctx) (s : State) : (updCtx c f s).cur = s.cur := rfl
@[simp] theorem updCtx_free (c : Nat) (f : Ctx → Ctx) (s : State) : (updCtx c f s).free = s.free := rfl
@[simp] theorem updCtx_upsets (c : Nat) (f : Ctx → Ctx) (s : State) : (updCtx c f s).upsets = s.upsets := rfl
@[simp] theorem updCtx_mem (c : Nat) (f : Ctx → Ctx) (s : State) : (updCtx c f s).mem = s.mem := rfl
@[simp] theorem updCtx_memPoison (c : Nat) (f : Ctx → Ctx) (s : State) : (updCtx c f s).memPoison = s.memPoison := rfl
@[simp] theorem updCtx_writes (c : Nat) (f : Ctx → Ctx) (s : State) : (updCtx c f s).writes = s.writes := rfl
@[simp] theorem updCtx_wlog (c : Nat) (f : Ctx → Ctx) (s : State) : (updCtx c f s).wlog = s.wlog := rfl
@[simp] theorem updCtx_olds (c : Nat) (f : Ctx → Ctx) (s : State) : (updCtx c f s).olds = s.olds := rfl
@[simp] theorem updCtx_early (c : Nat) (f : Ctx → Ctx) (s : State) : (updCtx c f s).early = s.early := rfl
@[simp] theorem updCtx_invals (c : Nat) (f : Ctx → Ctx) (s : State) : (updCtx c f s).invals = s.invals := rfl
@[simp] theorem updCtx_views (c : Nat) (f : Ctx → Ctx) (s : State) : (updCtx c f s).views = s.views := rfl
@[simp] theorem updCtx_dieClk (c : Nat) (f : Ctx → Ctx) (s : State) : (updCtx c f s).dieClk = s.dieClk := rfl
@[simp] theorem updCtx_posted (c : Nat) (f : Ctx → Ctx) (s : State) : (updCtx c f s).posted = s.posted := rfl
@[simp] theorem updCtx_l2 (c : Nat) (f : Ctx → Ctx) (s : State) : (updCtx c f s).l2 = s.l2 := rfl
@[simp] theorem updCtx_l2Marks (c : Nat) (f : Ctx → Ctx) (s : State) : (updCtx c f s).l2Marks = s.l2Marks := rfl
@[simp] theorem updCtx_vmeta (c : Nat) (f : Ctx → Ctx) (s : State) : (updCtx c f s).vmeta = s.vmeta := rfl
@[simp] theorem updCtx_vpage (c : Nat) (f : Ctx → Ctx) (s : State) : (updCtx c f s).vpage = s.vpage := rfl
@[simp] theorem updCtx_spindles (c : Nat) (f : Ctx → Ctx) (s : State) : (updCtx c f s).spindles = s.spindles := rfl
@[simp] theorem updCtx_bobbins (c : Nat) (f : Ctx → Ctx) (s : State) : (updCtx c f s).bobbins = s.bobbins := rfl
@[simp] theorem updCtx_flits (c : Nat) (f : Ctx → Ctx) (s : State) : (updCtx c f s).flits = s.flits := rfl
@[simp] theorem updCtx_bobSeq (c : Nat) (f : Ctx → Ctx) (s : State) : (updCtx c f s).bobSeq = s.bobSeq := rfl
@[simp] theorem updCtx_windows (c : Nat) (f : Ctx → Ctx) (s : State) : (updCtx c f s).windows = s.windows := rfl
@[simp] theorem updCtx_ports (c : Nat) (f : Ctx → Ctx) (s : State) : (updCtx c f s).ports = s.ports := rfl
@[simp] theorem updCtx_net (c : Nat) (f : Ctx → Ctx) (s : State) : (updCtx c f s).net = s.net := rfl
@[simp] theorem updCtx_unacked (c : Nat) (f : Ctx → Ctx) (s : State) : (updCtx c f s).unacked = s.unacked := rfl
@[simp] theorem updCtx_lastAtt (c : Nat) (f : Ctx → Ctx) (s : State) : (updCtx c f s).lastAtt = s.lastAtt := rfl
@[simp] theorem updCtx_purges (c : Nat) (f : Ctx → Ctx) (s : State) : (updCtx c f s).purges = s.purges := rfl
@[simp] theorem updCtx_queues (c : Nat) (f : Ctx → Ctx) (s : State) : (updCtx c f s).queues = s.queues := rfl
@[simp] theorem updCtx_tasks (c : Nat) (f : Ctx → Ctx) (s : State) : (updCtx c f s).tasks = s.tasks := rfl
@[simp] theorem updCtx_nextTask (c : Nat) (f : Ctx → Ctx) (s : State) : (updCtx c f s).nextTask = s.nextTask := rfl
@[simp] theorem updCtx_graphs (c : Nat) (f : Ctx → Ctx) (s : State) : (updCtx c f s).graphs = s.graphs := rfl
@[simp] theorem updCtx_roundAt (c : Nat) (f : Ctx → Ctx) (s : State) : (updCtx c f s).roundAt = s.roundAt := rfl
@[simp] theorem updCtx_rounds (c : Nat) (f : Ctx → Ctx) (s : State) : (updCtx c f s).rounds = s.rounds := rfl
@[simp] theorem updCtx_launched (c : Nat) (f : Ctx → Ctx) (s : State) : (updCtx c f s).launched = s.launched := rfl
@[simp] theorem updCtx_parts (c : Nat) (f : Ctx → Ctx) (s : State) : (updCtx c f s).parts = s.parts := rfl
@[simp] theorem updCtx_groups (c : Nat) (f : Ctx → Ctx) (s : State) : (updCtx c f s).groups = s.groups := rfl
@[simp] theorem updCtx_whorls (c : Nat) (f : Ctx → Ctx) (s : State) : (updCtx c f s).whorls = s.whorls := rfl
@[simp] theorem updCtx_races (c : Nat) (f : Ctx → Ctx) (s : State) : (updCtx c f s).races = s.races := rfl
@[simp] theorem updCtx_dev (c : Nat) (f : Ctx → Ctx) (s : State) : (updCtx c f s).dev = s.dev := rfl

/-! ### updDev -/

@[simp] theorem updDev_cycle (f : Device → Device) (s : State) : (updDev f s).cycle = s.cycle := rfl
@[simp] theorem updDev_tick (f : Device → Device) (s : State) : (updDev f s).tick = s.tick := rfl
@[simp] theorem updDev_frac (f : Device → Device) (s : State) : (updDev f s).frac = s.frac := rfl
@[simp] theorem updDev_mhz (f : Device → Device) (s : State) : (updDev f s).mhz = s.mhz := rfl
@[simp] theorem updDev_den (f : Device → Device) (s : State) : (updDev f s).den = s.den := rfl
@[simp] theorem updDev_agenda (f : Device → Device) (s : State) : (updDev f s).agenda = s.agenda := rfl
@[simp] theorem updDev_cur (f : Device → Device) (s : State) : (updDev f s).cur = s.cur := rfl
@[simp] theorem updDev_free (f : Device → Device) (s : State) : (updDev f s).free = s.free := rfl
@[simp] theorem updDev_upsets (f : Device → Device) (s : State) : (updDev f s).upsets = s.upsets := rfl
@[simp] theorem updDev_mem (f : Device → Device) (s : State) : (updDev f s).mem = s.mem := rfl
@[simp] theorem updDev_memPoison (f : Device → Device) (s : State) : (updDev f s).memPoison = s.memPoison := rfl
@[simp] theorem updDev_writes (f : Device → Device) (s : State) : (updDev f s).writes = s.writes := rfl
@[simp] theorem updDev_wlog (f : Device → Device) (s : State) : (updDev f s).wlog = s.wlog := rfl
@[simp] theorem updDev_olds (f : Device → Device) (s : State) : (updDev f s).olds = s.olds := rfl
@[simp] theorem updDev_early (f : Device → Device) (s : State) : (updDev f s).early = s.early := rfl
@[simp] theorem updDev_invals (f : Device → Device) (s : State) : (updDev f s).invals = s.invals := rfl
@[simp] theorem updDev_views (f : Device → Device) (s : State) : (updDev f s).views = s.views := rfl
@[simp] theorem updDev_dieClk (f : Device → Device) (s : State) : (updDev f s).dieClk = s.dieClk := rfl
@[simp] theorem updDev_posted (f : Device → Device) (s : State) : (updDev f s).posted = s.posted := rfl
@[simp] theorem updDev_l2 (f : Device → Device) (s : State) : (updDev f s).l2 = s.l2 := rfl
@[simp] theorem updDev_l2Marks (f : Device → Device) (s : State) : (updDev f s).l2Marks = s.l2Marks := rfl
@[simp] theorem updDev_vmeta (f : Device → Device) (s : State) : (updDev f s).vmeta = s.vmeta := rfl
@[simp] theorem updDev_vpage (f : Device → Device) (s : State) : (updDev f s).vpage = s.vpage := rfl
@[simp] theorem updDev_spindles (f : Device → Device) (s : State) : (updDev f s).spindles = s.spindles := rfl
@[simp] theorem updDev_bobbins (f : Device → Device) (s : State) : (updDev f s).bobbins = s.bobbins := rfl
@[simp] theorem updDev_flits (f : Device → Device) (s : State) : (updDev f s).flits = s.flits := rfl
@[simp] theorem updDev_bobSeq (f : Device → Device) (s : State) : (updDev f s).bobSeq = s.bobSeq := rfl
@[simp] theorem updDev_windows (f : Device → Device) (s : State) : (updDev f s).windows = s.windows := rfl
@[simp] theorem updDev_ports (f : Device → Device) (s : State) : (updDev f s).ports = s.ports := rfl
@[simp] theorem updDev_net (f : Device → Device) (s : State) : (updDev f s).net = s.net := rfl
@[simp] theorem updDev_unacked (f : Device → Device) (s : State) : (updDev f s).unacked = s.unacked := rfl
@[simp] theorem updDev_ctxs (f : Device → Device) (s : State) : (updDev f s).ctxs = s.ctxs := rfl
@[simp] theorem updDev_lastAtt (f : Device → Device) (s : State) : (updDev f s).lastAtt = s.lastAtt := rfl
@[simp] theorem updDev_purges (f : Device → Device) (s : State) : (updDev f s).purges = s.purges := rfl
@[simp] theorem updDev_queues (f : Device → Device) (s : State) : (updDev f s).queues = s.queues := rfl
@[simp] theorem updDev_tasks (f : Device → Device) (s : State) : (updDev f s).tasks = s.tasks := rfl
@[simp] theorem updDev_nextTask (f : Device → Device) (s : State) : (updDev f s).nextTask = s.nextTask := rfl
@[simp] theorem updDev_graphs (f : Device → Device) (s : State) : (updDev f s).graphs = s.graphs := rfl
@[simp] theorem updDev_roundAt (f : Device → Device) (s : State) : (updDev f s).roundAt = s.roundAt := rfl
@[simp] theorem updDev_rounds (f : Device → Device) (s : State) : (updDev f s).rounds = s.rounds := rfl
@[simp] theorem updDev_launched (f : Device → Device) (s : State) : (updDev f s).launched = s.launched := rfl
@[simp] theorem updDev_parts (f : Device → Device) (s : State) : (updDev f s).parts = s.parts := rfl
@[simp] theorem updDev_groups (f : Device → Device) (s : State) : (updDev f s).groups = s.groups := rfl
@[simp] theorem updDev_whorls (f : Device → Device) (s : State) : (updDev f s).whorls = s.whorls := rfl
@[simp] theorem updDev_races (f : Device → Device) (s : State) : (updDev f s).races = s.races := rfl

/-! ### updWhorl -/

@[simp] theorem updWhorl_cycle (d : Nat) (f : Whorl → Whorl) (s : State) : (updWhorl d f s).cycle = s.cycle := rfl
@[simp] theorem updWhorl_tick (d : Nat) (f : Whorl → Whorl) (s : State) : (updWhorl d f s).tick = s.tick := rfl
@[simp] theorem updWhorl_frac (d : Nat) (f : Whorl → Whorl) (s : State) : (updWhorl d f s).frac = s.frac := rfl
@[simp] theorem updWhorl_mhz (d : Nat) (f : Whorl → Whorl) (s : State) : (updWhorl d f s).mhz = s.mhz := rfl
@[simp] theorem updWhorl_den (d : Nat) (f : Whorl → Whorl) (s : State) : (updWhorl d f s).den = s.den := rfl
@[simp] theorem updWhorl_agenda (d : Nat) (f : Whorl → Whorl) (s : State) : (updWhorl d f s).agenda = s.agenda := rfl
@[simp] theorem updWhorl_cur (d : Nat) (f : Whorl → Whorl) (s : State) : (updWhorl d f s).cur = s.cur := rfl
@[simp] theorem updWhorl_free (d : Nat) (f : Whorl → Whorl) (s : State) : (updWhorl d f s).free = s.free := rfl
@[simp] theorem updWhorl_upsets (d : Nat) (f : Whorl → Whorl) (s : State) : (updWhorl d f s).upsets = s.upsets := rfl
@[simp] theorem updWhorl_mem (d : Nat) (f : Whorl → Whorl) (s : State) : (updWhorl d f s).mem = s.mem := rfl
@[simp] theorem updWhorl_memPoison (d : Nat) (f : Whorl → Whorl) (s : State) : (updWhorl d f s).memPoison = s.memPoison := rfl
@[simp] theorem updWhorl_writes (d : Nat) (f : Whorl → Whorl) (s : State) : (updWhorl d f s).writes = s.writes := rfl
@[simp] theorem updWhorl_wlog (d : Nat) (f : Whorl → Whorl) (s : State) : (updWhorl d f s).wlog = s.wlog := rfl
@[simp] theorem updWhorl_olds (d : Nat) (f : Whorl → Whorl) (s : State) : (updWhorl d f s).olds = s.olds := rfl
@[simp] theorem updWhorl_early (d : Nat) (f : Whorl → Whorl) (s : State) : (updWhorl d f s).early = s.early := rfl
@[simp] theorem updWhorl_invals (d : Nat) (f : Whorl → Whorl) (s : State) : (updWhorl d f s).invals = s.invals := rfl
@[simp] theorem updWhorl_views (d : Nat) (f : Whorl → Whorl) (s : State) : (updWhorl d f s).views = s.views := rfl
@[simp] theorem updWhorl_dieClk (d : Nat) (f : Whorl → Whorl) (s : State) : (updWhorl d f s).dieClk = s.dieClk := rfl
@[simp] theorem updWhorl_posted (d : Nat) (f : Whorl → Whorl) (s : State) : (updWhorl d f s).posted = s.posted := rfl
@[simp] theorem updWhorl_l2 (d : Nat) (f : Whorl → Whorl) (s : State) : (updWhorl d f s).l2 = s.l2 := rfl
@[simp] theorem updWhorl_l2Marks (d : Nat) (f : Whorl → Whorl) (s : State) : (updWhorl d f s).l2Marks = s.l2Marks := rfl
@[simp] theorem updWhorl_vmeta (d : Nat) (f : Whorl → Whorl) (s : State) : (updWhorl d f s).vmeta = s.vmeta := rfl
@[simp] theorem updWhorl_vpage (d : Nat) (f : Whorl → Whorl) (s : State) : (updWhorl d f s).vpage = s.vpage := rfl
@[simp] theorem updWhorl_spindles (d : Nat) (f : Whorl → Whorl) (s : State) : (updWhorl d f s).spindles = s.spindles := rfl
@[simp] theorem updWhorl_bobbins (d : Nat) (f : Whorl → Whorl) (s : State) : (updWhorl d f s).bobbins = s.bobbins := rfl
@[simp] theorem updWhorl_flits (d : Nat) (f : Whorl → Whorl) (s : State) : (updWhorl d f s).flits = s.flits := rfl
@[simp] theorem updWhorl_bobSeq (d : Nat) (f : Whorl → Whorl) (s : State) : (updWhorl d f s).bobSeq = s.bobSeq := rfl
@[simp] theorem updWhorl_windows (d : Nat) (f : Whorl → Whorl) (s : State) : (updWhorl d f s).windows = s.windows := rfl
@[simp] theorem updWhorl_ports (d : Nat) (f : Whorl → Whorl) (s : State) : (updWhorl d f s).ports = s.ports := rfl
@[simp] theorem updWhorl_net (d : Nat) (f : Whorl → Whorl) (s : State) : (updWhorl d f s).net = s.net := rfl
@[simp] theorem updWhorl_unacked (d : Nat) (f : Whorl → Whorl) (s : State) : (updWhorl d f s).unacked = s.unacked := rfl
@[simp] theorem updWhorl_ctxs (d : Nat) (f : Whorl → Whorl) (s : State) : (updWhorl d f s).ctxs = s.ctxs := rfl
@[simp] theorem updWhorl_lastAtt (d : Nat) (f : Whorl → Whorl) (s : State) : (updWhorl d f s).lastAtt = s.lastAtt := rfl
@[simp] theorem updWhorl_purges (d : Nat) (f : Whorl → Whorl) (s : State) : (updWhorl d f s).purges = s.purges := rfl
@[simp] theorem updWhorl_queues (d : Nat) (f : Whorl → Whorl) (s : State) : (updWhorl d f s).queues = s.queues := rfl
@[simp] theorem updWhorl_tasks (d : Nat) (f : Whorl → Whorl) (s : State) : (updWhorl d f s).tasks = s.tasks := rfl
@[simp] theorem updWhorl_nextTask (d : Nat) (f : Whorl → Whorl) (s : State) : (updWhorl d f s).nextTask = s.nextTask := rfl
@[simp] theorem updWhorl_graphs (d : Nat) (f : Whorl → Whorl) (s : State) : (updWhorl d f s).graphs = s.graphs := rfl
@[simp] theorem updWhorl_roundAt (d : Nat) (f : Whorl → Whorl) (s : State) : (updWhorl d f s).roundAt = s.roundAt := rfl
@[simp] theorem updWhorl_rounds (d : Nat) (f : Whorl → Whorl) (s : State) : (updWhorl d f s).rounds = s.rounds := rfl
@[simp] theorem updWhorl_launched (d : Nat) (f : Whorl → Whorl) (s : State) : (updWhorl d f s).launched = s.launched := rfl
@[simp] theorem updWhorl_parts (d : Nat) (f : Whorl → Whorl) (s : State) : (updWhorl d f s).parts = s.parts := rfl
@[simp] theorem updWhorl_groups (d : Nat) (f : Whorl → Whorl) (s : State) : (updWhorl d f s).groups = s.groups := rfl
@[simp] theorem updWhorl_races (d : Nat) (f : Whorl → Whorl) (s : State) : (updWhorl d f s).races = s.races := rfl
@[simp] theorem updWhorl_dev (d : Nat) (f : Whorl → Whorl) (s : State) : (updWhorl d f s).dev = s.dev := rfl

/-! ### updCmdq -/

@[simp] theorem updCmdq_cycle (q : Nat) (f : CmdQ → CmdQ) (s : State) : (updCmdq q f s).cycle = s.cycle := rfl
@[simp] theorem updCmdq_tick (q : Nat) (f : CmdQ → CmdQ) (s : State) : (updCmdq q f s).tick = s.tick := rfl
@[simp] theorem updCmdq_frac (q : Nat) (f : CmdQ → CmdQ) (s : State) : (updCmdq q f s).frac = s.frac := rfl
@[simp] theorem updCmdq_mhz (q : Nat) (f : CmdQ → CmdQ) (s : State) : (updCmdq q f s).mhz = s.mhz := rfl
@[simp] theorem updCmdq_den (q : Nat) (f : CmdQ → CmdQ) (s : State) : (updCmdq q f s).den = s.den := rfl
@[simp] theorem updCmdq_agenda (q : Nat) (f : CmdQ → CmdQ) (s : State) : (updCmdq q f s).agenda = s.agenda := rfl
@[simp] theorem updCmdq_cur (q : Nat) (f : CmdQ → CmdQ) (s : State) : (updCmdq q f s).cur = s.cur := rfl
@[simp] theorem updCmdq_free (q : Nat) (f : CmdQ → CmdQ) (s : State) : (updCmdq q f s).free = s.free := rfl
@[simp] theorem updCmdq_upsets (q : Nat) (f : CmdQ → CmdQ) (s : State) : (updCmdq q f s).upsets = s.upsets := rfl
@[simp] theorem updCmdq_mem (q : Nat) (f : CmdQ → CmdQ) (s : State) : (updCmdq q f s).mem = s.mem := rfl
@[simp] theorem updCmdq_memPoison (q : Nat) (f : CmdQ → CmdQ) (s : State) : (updCmdq q f s).memPoison = s.memPoison := rfl
@[simp] theorem updCmdq_writes (q : Nat) (f : CmdQ → CmdQ) (s : State) : (updCmdq q f s).writes = s.writes := rfl
@[simp] theorem updCmdq_wlog (q : Nat) (f : CmdQ → CmdQ) (s : State) : (updCmdq q f s).wlog = s.wlog := rfl
@[simp] theorem updCmdq_olds (q : Nat) (f : CmdQ → CmdQ) (s : State) : (updCmdq q f s).olds = s.olds := rfl
@[simp] theorem updCmdq_early (q : Nat) (f : CmdQ → CmdQ) (s : State) : (updCmdq q f s).early = s.early := rfl
@[simp] theorem updCmdq_invals (q : Nat) (f : CmdQ → CmdQ) (s : State) : (updCmdq q f s).invals = s.invals := rfl
@[simp] theorem updCmdq_views (q : Nat) (f : CmdQ → CmdQ) (s : State) : (updCmdq q f s).views = s.views := rfl
@[simp] theorem updCmdq_dieClk (q : Nat) (f : CmdQ → CmdQ) (s : State) : (updCmdq q f s).dieClk = s.dieClk := rfl
@[simp] theorem updCmdq_posted (q : Nat) (f : CmdQ → CmdQ) (s : State) : (updCmdq q f s).posted = s.posted := rfl
@[simp] theorem updCmdq_l2 (q : Nat) (f : CmdQ → CmdQ) (s : State) : (updCmdq q f s).l2 = s.l2 := rfl
@[simp] theorem updCmdq_l2Marks (q : Nat) (f : CmdQ → CmdQ) (s : State) : (updCmdq q f s).l2Marks = s.l2Marks := rfl
@[simp] theorem updCmdq_vmeta (q : Nat) (f : CmdQ → CmdQ) (s : State) : (updCmdq q f s).vmeta = s.vmeta := rfl
@[simp] theorem updCmdq_vpage (q : Nat) (f : CmdQ → CmdQ) (s : State) : (updCmdq q f s).vpage = s.vpage := rfl
@[simp] theorem updCmdq_spindles (q : Nat) (f : CmdQ → CmdQ) (s : State) : (updCmdq q f s).spindles = s.spindles := rfl
@[simp] theorem updCmdq_bobbins (q : Nat) (f : CmdQ → CmdQ) (s : State) : (updCmdq q f s).bobbins = s.bobbins := rfl
@[simp] theorem updCmdq_flits (q : Nat) (f : CmdQ → CmdQ) (s : State) : (updCmdq q f s).flits = s.flits := rfl
@[simp] theorem updCmdq_bobSeq (q : Nat) (f : CmdQ → CmdQ) (s : State) : (updCmdq q f s).bobSeq = s.bobSeq := rfl
@[simp] theorem updCmdq_windows (q : Nat) (f : CmdQ → CmdQ) (s : State) : (updCmdq q f s).windows = s.windows := rfl
@[simp] theorem updCmdq_ports (q : Nat) (f : CmdQ → CmdQ) (s : State) : (updCmdq q f s).ports = s.ports := rfl
@[simp] theorem updCmdq_net (q : Nat) (f : CmdQ → CmdQ) (s : State) : (updCmdq q f s).net = s.net := rfl
@[simp] theorem updCmdq_unacked (q : Nat) (f : CmdQ → CmdQ) (s : State) : (updCmdq q f s).unacked = s.unacked := rfl
@[simp] theorem updCmdq_ctxs (q : Nat) (f : CmdQ → CmdQ) (s : State) : (updCmdq q f s).ctxs = s.ctxs := rfl
@[simp] theorem updCmdq_lastAtt (q : Nat) (f : CmdQ → CmdQ) (s : State) : (updCmdq q f s).lastAtt = s.lastAtt := rfl
@[simp] theorem updCmdq_purges (q : Nat) (f : CmdQ → CmdQ) (s : State) : (updCmdq q f s).purges = s.purges := rfl
@[simp] theorem updCmdq_tasks (q : Nat) (f : CmdQ → CmdQ) (s : State) : (updCmdq q f s).tasks = s.tasks := rfl
@[simp] theorem updCmdq_nextTask (q : Nat) (f : CmdQ → CmdQ) (s : State) : (updCmdq q f s).nextTask = s.nextTask := rfl
@[simp] theorem updCmdq_graphs (q : Nat) (f : CmdQ → CmdQ) (s : State) : (updCmdq q f s).graphs = s.graphs := rfl
@[simp] theorem updCmdq_roundAt (q : Nat) (f : CmdQ → CmdQ) (s : State) : (updCmdq q f s).roundAt = s.roundAt := rfl
@[simp] theorem updCmdq_rounds (q : Nat) (f : CmdQ → CmdQ) (s : State) : (updCmdq q f s).rounds = s.rounds := rfl
@[simp] theorem updCmdq_launched (q : Nat) (f : CmdQ → CmdQ) (s : State) : (updCmdq q f s).launched = s.launched := rfl
@[simp] theorem updCmdq_parts (q : Nat) (f : CmdQ → CmdQ) (s : State) : (updCmdq q f s).parts = s.parts := rfl
@[simp] theorem updCmdq_groups (q : Nat) (f : CmdQ → CmdQ) (s : State) : (updCmdq q f s).groups = s.groups := rfl
@[simp] theorem updCmdq_whorls (q : Nat) (f : CmdQ → CmdQ) (s : State) : (updCmdq q f s).whorls = s.whorls := rfl
@[simp] theorem updCmdq_races (q : Nat) (f : CmdQ → CmdQ) (s : State) : (updCmdq q f s).races = s.races := rfl
@[simp] theorem updCmdq_dev (q : Nat) (f : CmdQ → CmdQ) (s : State) : (updCmdq q f s).dev = s.dev := rfl

/-! ### updTask -/

@[simp] theorem updTask_cycle (i : Nat) (f : Task → Task) (s : State) : (updTask i f s).cycle = s.cycle := rfl
@[simp] theorem updTask_tick (i : Nat) (f : Task → Task) (s : State) : (updTask i f s).tick = s.tick := rfl
@[simp] theorem updTask_frac (i : Nat) (f : Task → Task) (s : State) : (updTask i f s).frac = s.frac := rfl
@[simp] theorem updTask_mhz (i : Nat) (f : Task → Task) (s : State) : (updTask i f s).mhz = s.mhz := rfl
@[simp] theorem updTask_den (i : Nat) (f : Task → Task) (s : State) : (updTask i f s).den = s.den := rfl
@[simp] theorem updTask_agenda (i : Nat) (f : Task → Task) (s : State) : (updTask i f s).agenda = s.agenda := rfl
@[simp] theorem updTask_cur (i : Nat) (f : Task → Task) (s : State) : (updTask i f s).cur = s.cur := rfl
@[simp] theorem updTask_free (i : Nat) (f : Task → Task) (s : State) : (updTask i f s).free = s.free := rfl
@[simp] theorem updTask_upsets (i : Nat) (f : Task → Task) (s : State) : (updTask i f s).upsets = s.upsets := rfl
@[simp] theorem updTask_mem (i : Nat) (f : Task → Task) (s : State) : (updTask i f s).mem = s.mem := rfl
@[simp] theorem updTask_memPoison (i : Nat) (f : Task → Task) (s : State) : (updTask i f s).memPoison = s.memPoison := rfl
@[simp] theorem updTask_writes (i : Nat) (f : Task → Task) (s : State) : (updTask i f s).writes = s.writes := rfl
@[simp] theorem updTask_wlog (i : Nat) (f : Task → Task) (s : State) : (updTask i f s).wlog = s.wlog := rfl
@[simp] theorem updTask_olds (i : Nat) (f : Task → Task) (s : State) : (updTask i f s).olds = s.olds := rfl
@[simp] theorem updTask_early (i : Nat) (f : Task → Task) (s : State) : (updTask i f s).early = s.early := rfl
@[simp] theorem updTask_invals (i : Nat) (f : Task → Task) (s : State) : (updTask i f s).invals = s.invals := rfl
@[simp] theorem updTask_views (i : Nat) (f : Task → Task) (s : State) : (updTask i f s).views = s.views := rfl
@[simp] theorem updTask_dieClk (i : Nat) (f : Task → Task) (s : State) : (updTask i f s).dieClk = s.dieClk := rfl
@[simp] theorem updTask_posted (i : Nat) (f : Task → Task) (s : State) : (updTask i f s).posted = s.posted := rfl
@[simp] theorem updTask_l2 (i : Nat) (f : Task → Task) (s : State) : (updTask i f s).l2 = s.l2 := rfl
@[simp] theorem updTask_l2Marks (i : Nat) (f : Task → Task) (s : State) : (updTask i f s).l2Marks = s.l2Marks := rfl
@[simp] theorem updTask_vmeta (i : Nat) (f : Task → Task) (s : State) : (updTask i f s).vmeta = s.vmeta := rfl
@[simp] theorem updTask_vpage (i : Nat) (f : Task → Task) (s : State) : (updTask i f s).vpage = s.vpage := rfl
@[simp] theorem updTask_spindles (i : Nat) (f : Task → Task) (s : State) : (updTask i f s).spindles = s.spindles := rfl
@[simp] theorem updTask_bobbins (i : Nat) (f : Task → Task) (s : State) : (updTask i f s).bobbins = s.bobbins := rfl
@[simp] theorem updTask_flits (i : Nat) (f : Task → Task) (s : State) : (updTask i f s).flits = s.flits := rfl
@[simp] theorem updTask_bobSeq (i : Nat) (f : Task → Task) (s : State) : (updTask i f s).bobSeq = s.bobSeq := rfl
@[simp] theorem updTask_windows (i : Nat) (f : Task → Task) (s : State) : (updTask i f s).windows = s.windows := rfl
@[simp] theorem updTask_ports (i : Nat) (f : Task → Task) (s : State) : (updTask i f s).ports = s.ports := rfl
@[simp] theorem updTask_net (i : Nat) (f : Task → Task) (s : State) : (updTask i f s).net = s.net := rfl
@[simp] theorem updTask_unacked (i : Nat) (f : Task → Task) (s : State) : (updTask i f s).unacked = s.unacked := rfl
@[simp] theorem updTask_ctxs (i : Nat) (f : Task → Task) (s : State) : (updTask i f s).ctxs = s.ctxs := rfl
@[simp] theorem updTask_lastAtt (i : Nat) (f : Task → Task) (s : State) : (updTask i f s).lastAtt = s.lastAtt := rfl
@[simp] theorem updTask_purges (i : Nat) (f : Task → Task) (s : State) : (updTask i f s).purges = s.purges := rfl
@[simp] theorem updTask_queues (i : Nat) (f : Task → Task) (s : State) : (updTask i f s).queues = s.queues := rfl
@[simp] theorem updTask_nextTask (i : Nat) (f : Task → Task) (s : State) : (updTask i f s).nextTask = s.nextTask := rfl
@[simp] theorem updTask_graphs (i : Nat) (f : Task → Task) (s : State) : (updTask i f s).graphs = s.graphs := rfl
@[simp] theorem updTask_roundAt (i : Nat) (f : Task → Task) (s : State) : (updTask i f s).roundAt = s.roundAt := rfl
@[simp] theorem updTask_rounds (i : Nat) (f : Task → Task) (s : State) : (updTask i f s).rounds = s.rounds := rfl
@[simp] theorem updTask_launched (i : Nat) (f : Task → Task) (s : State) : (updTask i f s).launched = s.launched := rfl
@[simp] theorem updTask_parts (i : Nat) (f : Task → Task) (s : State) : (updTask i f s).parts = s.parts := rfl
@[simp] theorem updTask_groups (i : Nat) (f : Task → Task) (s : State) : (updTask i f s).groups = s.groups := rfl
@[simp] theorem updTask_whorls (i : Nat) (f : Task → Task) (s : State) : (updTask i f s).whorls = s.whorls := rfl
@[simp] theorem updTask_races (i : Nat) (f : Task → Task) (s : State) : (updTask i f s).races = s.races := rfl
@[simp] theorem updTask_dev (i : Nat) (f : Task → Task) (s : State) : (updTask i f s).dev = s.dev := rfl

/-! ### updWin -/

@[simp] theorem updWin_cycle (d w : Nat) (f : Window → Window) (s : State) : (updWin d w f s).cycle = s.cycle := rfl
@[simp] theorem updWin_tick (d w : Nat) (f : Window → Window) (s : State) : (updWin d w f s).tick = s.tick := rfl
@[simp] theorem updWin_frac (d w : Nat) (f : Window → Window) (s : State) : (updWin d w f s).frac = s.frac := rfl
@[simp] theorem updWin_mhz (d w : Nat) (f : Window → Window) (s : State) : (updWin d w f s).mhz = s.mhz := rfl
@[simp] theorem updWin_den (d w : Nat) (f : Window → Window) (s : State) : (updWin d w f s).den = s.den := rfl
@[simp] theorem updWin_agenda (d w : Nat) (f : Window → Window) (s : State) : (updWin d w f s).agenda = s.agenda := rfl
@[simp] theorem updWin_cur (d w : Nat) (f : Window → Window) (s : State) : (updWin d w f s).cur = s.cur := rfl
@[simp] theorem updWin_free (d w : Nat) (f : Window → Window) (s : State) : (updWin d w f s).free = s.free := rfl
@[simp] theorem updWin_upsets (d w : Nat) (f : Window → Window) (s : State) : (updWin d w f s).upsets = s.upsets := rfl
@[simp] theorem updWin_mem (d w : Nat) (f : Window → Window) (s : State) : (updWin d w f s).mem = s.mem := rfl
@[simp] theorem updWin_memPoison (d w : Nat) (f : Window → Window) (s : State) : (updWin d w f s).memPoison = s.memPoison := rfl
@[simp] theorem updWin_writes (d w : Nat) (f : Window → Window) (s : State) : (updWin d w f s).writes = s.writes := rfl
@[simp] theorem updWin_wlog (d w : Nat) (f : Window → Window) (s : State) : (updWin d w f s).wlog = s.wlog := rfl
@[simp] theorem updWin_olds (d w : Nat) (f : Window → Window) (s : State) : (updWin d w f s).olds = s.olds := rfl
@[simp] theorem updWin_early (d w : Nat) (f : Window → Window) (s : State) : (updWin d w f s).early = s.early := rfl
@[simp] theorem updWin_invals (d w : Nat) (f : Window → Window) (s : State) : (updWin d w f s).invals = s.invals := rfl
@[simp] theorem updWin_views (d w : Nat) (f : Window → Window) (s : State) : (updWin d w f s).views = s.views := rfl
@[simp] theorem updWin_dieClk (d w : Nat) (f : Window → Window) (s : State) : (updWin d w f s).dieClk = s.dieClk := rfl
@[simp] theorem updWin_posted (d w : Nat) (f : Window → Window) (s : State) : (updWin d w f s).posted = s.posted := rfl
@[simp] theorem updWin_l2 (d w : Nat) (f : Window → Window) (s : State) : (updWin d w f s).l2 = s.l2 := rfl
@[simp] theorem updWin_l2Marks (d w : Nat) (f : Window → Window) (s : State) : (updWin d w f s).l2Marks = s.l2Marks := rfl
@[simp] theorem updWin_vmeta (d w : Nat) (f : Window → Window) (s : State) : (updWin d w f s).vmeta = s.vmeta := rfl
@[simp] theorem updWin_vpage (d w : Nat) (f : Window → Window) (s : State) : (updWin d w f s).vpage = s.vpage := rfl
@[simp] theorem updWin_spindles (d w : Nat) (f : Window → Window) (s : State) : (updWin d w f s).spindles = s.spindles := rfl
@[simp] theorem updWin_bobbins (d w : Nat) (f : Window → Window) (s : State) : (updWin d w f s).bobbins = s.bobbins := rfl
@[simp] theorem updWin_flits (d w : Nat) (f : Window → Window) (s : State) : (updWin d w f s).flits = s.flits := rfl
@[simp] theorem updWin_bobSeq (d w : Nat) (f : Window → Window) (s : State) : (updWin d w f s).bobSeq = s.bobSeq := rfl
@[simp] theorem updWin_ports (d w : Nat) (f : Window → Window) (s : State) : (updWin d w f s).ports = s.ports := rfl
@[simp] theorem updWin_net (d w : Nat) (f : Window → Window) (s : State) : (updWin d w f s).net = s.net := rfl
@[simp] theorem updWin_unacked (d w : Nat) (f : Window → Window) (s : State) : (updWin d w f s).unacked = s.unacked := rfl
@[simp] theorem updWin_ctxs (d w : Nat) (f : Window → Window) (s : State) : (updWin d w f s).ctxs = s.ctxs := rfl
@[simp] theorem updWin_lastAtt (d w : Nat) (f : Window → Window) (s : State) : (updWin d w f s).lastAtt = s.lastAtt := rfl
@[simp] theorem updWin_purges (d w : Nat) (f : Window → Window) (s : State) : (updWin d w f s).purges = s.purges := rfl
@[simp] theorem updWin_queues (d w : Nat) (f : Window → Window) (s : State) : (updWin d w f s).queues = s.queues := rfl
@[simp] theorem updWin_tasks (d w : Nat) (f : Window → Window) (s : State) : (updWin d w f s).tasks = s.tasks := rfl
@[simp] theorem updWin_nextTask (d w : Nat) (f : Window → Window) (s : State) : (updWin d w f s).nextTask = s.nextTask := rfl
@[simp] theorem updWin_graphs (d w : Nat) (f : Window → Window) (s : State) : (updWin d w f s).graphs = s.graphs := rfl
@[simp] theorem updWin_roundAt (d w : Nat) (f : Window → Window) (s : State) : (updWin d w f s).roundAt = s.roundAt := rfl
@[simp] theorem updWin_rounds (d w : Nat) (f : Window → Window) (s : State) : (updWin d w f s).rounds = s.rounds := rfl
@[simp] theorem updWin_launched (d w : Nat) (f : Window → Window) (s : State) : (updWin d w f s).launched = s.launched := rfl
@[simp] theorem updWin_parts (d w : Nat) (f : Window → Window) (s : State) : (updWin d w f s).parts = s.parts := rfl
@[simp] theorem updWin_groups (d w : Nat) (f : Window → Window) (s : State) : (updWin d w f s).groups = s.groups := rfl
@[simp] theorem updWin_whorls (d w : Nat) (f : Window → Window) (s : State) : (updWin d w f s).whorls = s.whorls := rfl
@[simp] theorem updWin_races (d w : Nat) (f : Window → Window) (s : State) : (updWin d w f s).races = s.races := rfl
@[simp] theorem updWin_dev (d w : Nat) (f : Window → Window) (s : State) : (updWin d w f s).dev = s.dev := rfl

/-! ### setPort -/

@[simp] theorem setPort_cycle (i : Nat) (x : Port) (s : State) : (setPort i x s).cycle = s.cycle := rfl
@[simp] theorem setPort_tick (i : Nat) (x : Port) (s : State) : (setPort i x s).tick = s.tick := rfl
@[simp] theorem setPort_frac (i : Nat) (x : Port) (s : State) : (setPort i x s).frac = s.frac := rfl
@[simp] theorem setPort_mhz (i : Nat) (x : Port) (s : State) : (setPort i x s).mhz = s.mhz := rfl
@[simp] theorem setPort_den (i : Nat) (x : Port) (s : State) : (setPort i x s).den = s.den := rfl
@[simp] theorem setPort_agenda (i : Nat) (x : Port) (s : State) : (setPort i x s).agenda = s.agenda := rfl
@[simp] theorem setPort_cur (i : Nat) (x : Port) (s : State) : (setPort i x s).cur = s.cur := rfl
@[simp] theorem setPort_free (i : Nat) (x : Port) (s : State) : (setPort i x s).free = s.free := rfl
@[simp] theorem setPort_upsets (i : Nat) (x : Port) (s : State) : (setPort i x s).upsets = s.upsets := rfl
@[simp] theorem setPort_mem (i : Nat) (x : Port) (s : State) : (setPort i x s).mem = s.mem := rfl
@[simp] theorem setPort_memPoison (i : Nat) (x : Port) (s : State) : (setPort i x s).memPoison = s.memPoison := rfl
@[simp] theorem setPort_writes (i : Nat) (x : Port) (s : State) : (setPort i x s).writes = s.writes := rfl
@[simp] theorem setPort_wlog (i : Nat) (x : Port) (s : State) : (setPort i x s).wlog = s.wlog := rfl
@[simp] theorem setPort_olds (i : Nat) (x : Port) (s : State) : (setPort i x s).olds = s.olds := rfl
@[simp] theorem setPort_early (i : Nat) (x : Port) (s : State) : (setPort i x s).early = s.early := rfl
@[simp] theorem setPort_invals (i : Nat) (x : Port) (s : State) : (setPort i x s).invals = s.invals := rfl
@[simp] theorem setPort_views (i : Nat) (x : Port) (s : State) : (setPort i x s).views = s.views := rfl
@[simp] theorem setPort_dieClk (i : Nat) (x : Port) (s : State) : (setPort i x s).dieClk = s.dieClk := rfl
@[simp] theorem setPort_posted (i : Nat) (x : Port) (s : State) : (setPort i x s).posted = s.posted := rfl
@[simp] theorem setPort_l2 (i : Nat) (x : Port) (s : State) : (setPort i x s).l2 = s.l2 := rfl
@[simp] theorem setPort_l2Marks (i : Nat) (x : Port) (s : State) : (setPort i x s).l2Marks = s.l2Marks := rfl
@[simp] theorem setPort_vmeta (i : Nat) (x : Port) (s : State) : (setPort i x s).vmeta = s.vmeta := rfl
@[simp] theorem setPort_vpage (i : Nat) (x : Port) (s : State) : (setPort i x s).vpage = s.vpage := rfl
@[simp] theorem setPort_spindles (i : Nat) (x : Port) (s : State) : (setPort i x s).spindles = s.spindles := rfl
@[simp] theorem setPort_bobbins (i : Nat) (x : Port) (s : State) : (setPort i x s).bobbins = s.bobbins := rfl
@[simp] theorem setPort_flits (i : Nat) (x : Port) (s : State) : (setPort i x s).flits = s.flits := rfl
@[simp] theorem setPort_bobSeq (i : Nat) (x : Port) (s : State) : (setPort i x s).bobSeq = s.bobSeq := rfl
@[simp] theorem setPort_windows (i : Nat) (x : Port) (s : State) : (setPort i x s).windows = s.windows := rfl
@[simp] theorem setPort_net (i : Nat) (x : Port) (s : State) : (setPort i x s).net = s.net := rfl
@[simp] theorem setPort_unacked (i : Nat) (x : Port) (s : State) : (setPort i x s).unacked = s.unacked := rfl
@[simp] theorem setPort_ctxs (i : Nat) (x : Port) (s : State) : (setPort i x s).ctxs = s.ctxs := rfl
@[simp] theorem setPort_lastAtt (i : Nat) (x : Port) (s : State) : (setPort i x s).lastAtt = s.lastAtt := rfl
@[simp] theorem setPort_purges (i : Nat) (x : Port) (s : State) : (setPort i x s).purges = s.purges := rfl
@[simp] theorem setPort_queues (i : Nat) (x : Port) (s : State) : (setPort i x s).queues = s.queues := rfl
@[simp] theorem setPort_tasks (i : Nat) (x : Port) (s : State) : (setPort i x s).tasks = s.tasks := rfl
@[simp] theorem setPort_nextTask (i : Nat) (x : Port) (s : State) : (setPort i x s).nextTask = s.nextTask := rfl
@[simp] theorem setPort_graphs (i : Nat) (x : Port) (s : State) : (setPort i x s).graphs = s.graphs := rfl
@[simp] theorem setPort_roundAt (i : Nat) (x : Port) (s : State) : (setPort i x s).roundAt = s.roundAt := rfl
@[simp] theorem setPort_rounds (i : Nat) (x : Port) (s : State) : (setPort i x s).rounds = s.rounds := rfl
@[simp] theorem setPort_launched (i : Nat) (x : Port) (s : State) : (setPort i x s).launched = s.launched := rfl
@[simp] theorem setPort_parts (i : Nat) (x : Port) (s : State) : (setPort i x s).parts = s.parts := rfl
@[simp] theorem setPort_groups (i : Nat) (x : Port) (s : State) : (setPort i x s).groups = s.groups := rfl
@[simp] theorem setPort_whorls (i : Nat) (x : Port) (s : State) : (setPort i x s).whorls = s.whorls := rfl
@[simp] theorem setPort_races (i : Nat) (x : Port) (s : State) : (setPort i x s).races = s.races := rfl
@[simp] theorem setPort_dev (i : Nat) (x : Port) (s : State) : (setPort i x s).dev = s.dev := rfl

/-! ### setBobbin -/

@[simp] theorem setBobbin_cycle (i : Nat) (b : Option Bobbin) (s : State) : (setBobbin i b s).cycle = s.cycle := rfl
@[simp] theorem setBobbin_tick (i : Nat) (b : Option Bobbin) (s : State) : (setBobbin i b s).tick = s.tick := rfl
@[simp] theorem setBobbin_frac (i : Nat) (b : Option Bobbin) (s : State) : (setBobbin i b s).frac = s.frac := rfl
@[simp] theorem setBobbin_mhz (i : Nat) (b : Option Bobbin) (s : State) : (setBobbin i b s).mhz = s.mhz := rfl
@[simp] theorem setBobbin_den (i : Nat) (b : Option Bobbin) (s : State) : (setBobbin i b s).den = s.den := rfl
@[simp] theorem setBobbin_agenda (i : Nat) (b : Option Bobbin) (s : State) : (setBobbin i b s).agenda = s.agenda := rfl
@[simp] theorem setBobbin_cur (i : Nat) (b : Option Bobbin) (s : State) : (setBobbin i b s).cur = s.cur := rfl
@[simp] theorem setBobbin_free (i : Nat) (b : Option Bobbin) (s : State) : (setBobbin i b s).free = s.free := rfl
@[simp] theorem setBobbin_upsets (i : Nat) (b : Option Bobbin) (s : State) : (setBobbin i b s).upsets = s.upsets := rfl
@[simp] theorem setBobbin_mem (i : Nat) (b : Option Bobbin) (s : State) : (setBobbin i b s).mem = s.mem := rfl
@[simp] theorem setBobbin_memPoison (i : Nat) (b : Option Bobbin) (s : State) : (setBobbin i b s).memPoison = s.memPoison := rfl
@[simp] theorem setBobbin_writes (i : Nat) (b : Option Bobbin) (s : State) : (setBobbin i b s).writes = s.writes := rfl
@[simp] theorem setBobbin_wlog (i : Nat) (b : Option Bobbin) (s : State) : (setBobbin i b s).wlog = s.wlog := rfl
@[simp] theorem setBobbin_olds (i : Nat) (b : Option Bobbin) (s : State) : (setBobbin i b s).olds = s.olds := rfl
@[simp] theorem setBobbin_early (i : Nat) (b : Option Bobbin) (s : State) : (setBobbin i b s).early = s.early := rfl
@[simp] theorem setBobbin_invals (i : Nat) (b : Option Bobbin) (s : State) : (setBobbin i b s).invals = s.invals := rfl
@[simp] theorem setBobbin_views (i : Nat) (b : Option Bobbin) (s : State) : (setBobbin i b s).views = s.views := rfl
@[simp] theorem setBobbin_dieClk (i : Nat) (b : Option Bobbin) (s : State) : (setBobbin i b s).dieClk = s.dieClk := rfl
@[simp] theorem setBobbin_posted (i : Nat) (b : Option Bobbin) (s : State) : (setBobbin i b s).posted = s.posted := rfl
@[simp] theorem setBobbin_l2 (i : Nat) (b : Option Bobbin) (s : State) : (setBobbin i b s).l2 = s.l2 := rfl
@[simp] theorem setBobbin_l2Marks (i : Nat) (b : Option Bobbin) (s : State) : (setBobbin i b s).l2Marks = s.l2Marks := rfl
@[simp] theorem setBobbin_vmeta (i : Nat) (b : Option Bobbin) (s : State) : (setBobbin i b s).vmeta = s.vmeta := rfl
@[simp] theorem setBobbin_vpage (i : Nat) (b : Option Bobbin) (s : State) : (setBobbin i b s).vpage = s.vpage := rfl
@[simp] theorem setBobbin_spindles (i : Nat) (b : Option Bobbin) (s : State) : (setBobbin i b s).spindles = s.spindles := rfl
@[simp] theorem setBobbin_flits (i : Nat) (b : Option Bobbin) (s : State) : (setBobbin i b s).flits = s.flits := rfl
@[simp] theorem setBobbin_bobSeq (i : Nat) (b : Option Bobbin) (s : State) : (setBobbin i b s).bobSeq = s.bobSeq := rfl
@[simp] theorem setBobbin_windows (i : Nat) (b : Option Bobbin) (s : State) : (setBobbin i b s).windows = s.windows := rfl
@[simp] theorem setBobbin_ports (i : Nat) (b : Option Bobbin) (s : State) : (setBobbin i b s).ports = s.ports := rfl
@[simp] theorem setBobbin_net (i : Nat) (b : Option Bobbin) (s : State) : (setBobbin i b s).net = s.net := rfl
@[simp] theorem setBobbin_unacked (i : Nat) (b : Option Bobbin) (s : State) : (setBobbin i b s).unacked = s.unacked := rfl
@[simp] theorem setBobbin_ctxs (i : Nat) (b : Option Bobbin) (s : State) : (setBobbin i b s).ctxs = s.ctxs := rfl
@[simp] theorem setBobbin_lastAtt (i : Nat) (b : Option Bobbin) (s : State) : (setBobbin i b s).lastAtt = s.lastAtt := rfl
@[simp] theorem setBobbin_purges (i : Nat) (b : Option Bobbin) (s : State) : (setBobbin i b s).purges = s.purges := rfl
@[simp] theorem setBobbin_queues (i : Nat) (b : Option Bobbin) (s : State) : (setBobbin i b s).queues = s.queues := rfl
@[simp] theorem setBobbin_tasks (i : Nat) (b : Option Bobbin) (s : State) : (setBobbin i b s).tasks = s.tasks := rfl
@[simp] theorem setBobbin_nextTask (i : Nat) (b : Option Bobbin) (s : State) : (setBobbin i b s).nextTask = s.nextTask := rfl
@[simp] theorem setBobbin_graphs (i : Nat) (b : Option Bobbin) (s : State) : (setBobbin i b s).graphs = s.graphs := rfl
@[simp] theorem setBobbin_roundAt (i : Nat) (b : Option Bobbin) (s : State) : (setBobbin i b s).roundAt = s.roundAt := rfl
@[simp] theorem setBobbin_rounds (i : Nat) (b : Option Bobbin) (s : State) : (setBobbin i b s).rounds = s.rounds := rfl
@[simp] theorem setBobbin_launched (i : Nat) (b : Option Bobbin) (s : State) : (setBobbin i b s).launched = s.launched := rfl
@[simp] theorem setBobbin_parts (i : Nat) (b : Option Bobbin) (s : State) : (setBobbin i b s).parts = s.parts := rfl
@[simp] theorem setBobbin_groups (i : Nat) (b : Option Bobbin) (s : State) : (setBobbin i b s).groups = s.groups := rfl
@[simp] theorem setBobbin_whorls (i : Nat) (b : Option Bobbin) (s : State) : (setBobbin i b s).whorls = s.whorls := rfl
@[simp] theorem setBobbin_races (i : Nat) (b : Option Bobbin) (s : State) : (setBobbin i b s).races = s.races := rfl
@[simp] theorem setBobbin_dev (i : Nat) (b : Option Bobbin) (s : State) : (setBobbin i b s).dev = s.dev := rfl

/-! ### setGraph -/

@[simp] theorem setGraph_cycle (i : Nat) (g : Option GraphSt) (s : State) : (setGraph i g s).cycle = s.cycle := rfl
@[simp] theorem setGraph_tick (i : Nat) (g : Option GraphSt) (s : State) : (setGraph i g s).tick = s.tick := rfl
@[simp] theorem setGraph_frac (i : Nat) (g : Option GraphSt) (s : State) : (setGraph i g s).frac = s.frac := rfl
@[simp] theorem setGraph_mhz (i : Nat) (g : Option GraphSt) (s : State) : (setGraph i g s).mhz = s.mhz := rfl
@[simp] theorem setGraph_den (i : Nat) (g : Option GraphSt) (s : State) : (setGraph i g s).den = s.den := rfl
@[simp] theorem setGraph_agenda (i : Nat) (g : Option GraphSt) (s : State) : (setGraph i g s).agenda = s.agenda := rfl
@[simp] theorem setGraph_cur (i : Nat) (g : Option GraphSt) (s : State) : (setGraph i g s).cur = s.cur := rfl
@[simp] theorem setGraph_free (i : Nat) (g : Option GraphSt) (s : State) : (setGraph i g s).free = s.free := rfl
@[simp] theorem setGraph_upsets (i : Nat) (g : Option GraphSt) (s : State) : (setGraph i g s).upsets = s.upsets := rfl
@[simp] theorem setGraph_mem (i : Nat) (g : Option GraphSt) (s : State) : (setGraph i g s).mem = s.mem := rfl
@[simp] theorem setGraph_memPoison (i : Nat) (g : Option GraphSt) (s : State) : (setGraph i g s).memPoison = s.memPoison := rfl
@[simp] theorem setGraph_writes (i : Nat) (g : Option GraphSt) (s : State) : (setGraph i g s).writes = s.writes := rfl
@[simp] theorem setGraph_wlog (i : Nat) (g : Option GraphSt) (s : State) : (setGraph i g s).wlog = s.wlog := rfl
@[simp] theorem setGraph_olds (i : Nat) (g : Option GraphSt) (s : State) : (setGraph i g s).olds = s.olds := rfl
@[simp] theorem setGraph_early (i : Nat) (g : Option GraphSt) (s : State) : (setGraph i g s).early = s.early := rfl
@[simp] theorem setGraph_invals (i : Nat) (g : Option GraphSt) (s : State) : (setGraph i g s).invals = s.invals := rfl
@[simp] theorem setGraph_views (i : Nat) (g : Option GraphSt) (s : State) : (setGraph i g s).views = s.views := rfl
@[simp] theorem setGraph_dieClk (i : Nat) (g : Option GraphSt) (s : State) : (setGraph i g s).dieClk = s.dieClk := rfl
@[simp] theorem setGraph_posted (i : Nat) (g : Option GraphSt) (s : State) : (setGraph i g s).posted = s.posted := rfl
@[simp] theorem setGraph_l2 (i : Nat) (g : Option GraphSt) (s : State) : (setGraph i g s).l2 = s.l2 := rfl
@[simp] theorem setGraph_l2Marks (i : Nat) (g : Option GraphSt) (s : State) : (setGraph i g s).l2Marks = s.l2Marks := rfl
@[simp] theorem setGraph_vmeta (i : Nat) (g : Option GraphSt) (s : State) : (setGraph i g s).vmeta = s.vmeta := rfl
@[simp] theorem setGraph_vpage (i : Nat) (g : Option GraphSt) (s : State) : (setGraph i g s).vpage = s.vpage := rfl
@[simp] theorem setGraph_spindles (i : Nat) (g : Option GraphSt) (s : State) : (setGraph i g s).spindles = s.spindles := rfl
@[simp] theorem setGraph_bobbins (i : Nat) (g : Option GraphSt) (s : State) : (setGraph i g s).bobbins = s.bobbins := rfl
@[simp] theorem setGraph_flits (i : Nat) (g : Option GraphSt) (s : State) : (setGraph i g s).flits = s.flits := rfl
@[simp] theorem setGraph_bobSeq (i : Nat) (g : Option GraphSt) (s : State) : (setGraph i g s).bobSeq = s.bobSeq := rfl
@[simp] theorem setGraph_windows (i : Nat) (g : Option GraphSt) (s : State) : (setGraph i g s).windows = s.windows := rfl
@[simp] theorem setGraph_ports (i : Nat) (g : Option GraphSt) (s : State) : (setGraph i g s).ports = s.ports := rfl
@[simp] theorem setGraph_net (i : Nat) (g : Option GraphSt) (s : State) : (setGraph i g s).net = s.net := rfl
@[simp] theorem setGraph_unacked (i : Nat) (g : Option GraphSt) (s : State) : (setGraph i g s).unacked = s.unacked := rfl
@[simp] theorem setGraph_ctxs (i : Nat) (g : Option GraphSt) (s : State) : (setGraph i g s).ctxs = s.ctxs := rfl
@[simp] theorem setGraph_lastAtt (i : Nat) (g : Option GraphSt) (s : State) : (setGraph i g s).lastAtt = s.lastAtt := rfl
@[simp] theorem setGraph_purges (i : Nat) (g : Option GraphSt) (s : State) : (setGraph i g s).purges = s.purges := rfl
@[simp] theorem setGraph_queues (i : Nat) (g : Option GraphSt) (s : State) : (setGraph i g s).queues = s.queues := rfl
@[simp] theorem setGraph_tasks (i : Nat) (g : Option GraphSt) (s : State) : (setGraph i g s).tasks = s.tasks := rfl
@[simp] theorem setGraph_nextTask (i : Nat) (g : Option GraphSt) (s : State) : (setGraph i g s).nextTask = s.nextTask := rfl
@[simp] theorem setGraph_roundAt (i : Nat) (g : Option GraphSt) (s : State) : (setGraph i g s).roundAt = s.roundAt := rfl
@[simp] theorem setGraph_rounds (i : Nat) (g : Option GraphSt) (s : State) : (setGraph i g s).rounds = s.rounds := rfl
@[simp] theorem setGraph_launched (i : Nat) (g : Option GraphSt) (s : State) : (setGraph i g s).launched = s.launched := rfl
@[simp] theorem setGraph_parts (i : Nat) (g : Option GraphSt) (s : State) : (setGraph i g s).parts = s.parts := rfl
@[simp] theorem setGraph_groups (i : Nat) (g : Option GraphSt) (s : State) : (setGraph i g s).groups = s.groups := rfl
@[simp] theorem setGraph_whorls (i : Nat) (g : Option GraphSt) (s : State) : (setGraph i g s).whorls = s.whorls := rfl
@[simp] theorem setGraph_races (i : Nat) (g : Option GraphSt) (s : State) : (setGraph i g s).races = s.races := rfl
@[simp] theorem setGraph_dev (i : Nat) (g : Option GraphSt) (s : State) : (setGraph i g s).dev = s.dev := rfl

/-! ### A strand of a spindle -/

@[simp] theorem updStrandOf_task (k : Nat) (f : Strand → Strand) (p : Spindle) : (updStrandOf k f p).task = p.task := rfl
@[simp] theorem updStrandOf_lcode (k : Nat) (f : Strand → Strand) (p : Spindle) : (updStrandOf k f p).lcode = p.lcode := rfl
@[simp] theorem updStrandOf_part (k : Nat) (f : Strand → Strand) (p : Spindle) : (updStrandOf k f p).part = p.part := rfl
@[simp] theorem updStrandOf_sg (k : Nat) (f : Strand → Strand) (p : Spindle) : (updStrandOf k f p).sg = p.sg := rfl
@[simp] theorem updStrandOf_ag (k : Nat) (f : Strand → Strand) (p : Spindle) : (updStrandOf k f p).ag = p.ag := rfl
@[simp] theorem updStrandOf_last (k : Nat) (f : Strand → Strand) (p : Spindle) : (updStrandOf k f p).last = p.last := rfl
@[simp] theorem updStrandOf_banks (k : Nat) (f : Strand → Strand) (p : Spindle) : (updStrandOf k f p).banks = p.banks := rfl
@[simp] theorem updStrandOf_served (k : Nat) (f : Strand → Strand) (p : Spindle) : (updStrandOf k f p).served = p.served := rfl
@[simp] theorem updStrandOf_denied (k : Nat) (f : Strand → Strand) (p : Spindle) : (updStrandOf k f p).denied = p.denied := rfl
@[simp] theorem updStrandOf_scratch (k : Nat) (f : Strand → Strand) (p : Spindle) : (updStrandOf k f p).scratch = p.scratch := rfl
@[simp] theorem updStrandOf_tileTag (k : Nat) (f : Strand → Strand) (p : Spindle) : (updStrandOf k f p).tileTag = p.tileTag := rfl
@[simp] theorem updStrandOf_poison (k : Nat) (f : Strand → Strand) (p : Spindle) : (updStrandOf k f p).poison = p.poison := rfl
@[simp] theorem updStrandOf_accPoison (k : Nat) (f : Strand → Strand) (p : Spindle) : (updStrandOf k f p).accPoison = p.accPoison := rfl
@[simp] theorem updStrandOf_cbank (k : Nat) (f : Strand → Strand) (p : Spindle) : (updStrandOf k f p).cbank = p.cbank := rfl
@[simp] theorem updStrandOf_sems (k : Nat) (f : Strand → Strand) (p : Spindle) : (updStrandOf k f p).sems = p.sems := rfl
@[simp] theorem updStrandOf_spools (k : Nat) (f : Strand → Strand) (p : Spindle) : (updStrandOf k f p).spools = p.spools := rfl
@[simp] theorem updStrandOf_phasers (k : Nat) (f : Strand → Strand) (p : Spindle) : (updStrandOf k f p).phasers = p.phasers := rfl
@[simp] theorem updStrandOf_blocks (k : Nat) (f : Strand → Strand) (p : Spindle) : (updStrandOf k f p).blocks = p.blocks := rfl
@[simp] theorem updStrandOf_queues (k : Nat) (f : Strand → Strand) (p : Spindle) : (updStrandOf k f p).queues = p.queues := rfl
@[simp] theorem updStrandOf_matrix (k : Nat) (f : Strand → Strand) (p : Spindle) : (updStrandOf k f p).matrix = p.matrix := rfl
@[simp] theorem updStrandOf_zones (k : Nat) (f : Strand → Strand) (p : Spindle) : (updStrandOf k f p).zones = p.zones := rfl
@[simp] theorem updStrandOf_binds (k : Nat) (f : Strand → Strand) (p : Spindle) : (updStrandOf k f p).binds = p.binds := rfl
@[simp] theorem updStrandOf_units (k : Nat) (f : Strand → Strand) (p : Spindle) : (updStrandOf k f p).units = p.units := rfl
@[simp] theorem updStrandOf_q5 (k : Nat) (f : Strand → Strand) (p : Spindle) : (updStrandOf k f p).q5 = p.q5 := rfl
@[simp] theorem updStrandOf_q5vt (k : Nat) (f : Strand → Strand) (p : Spindle) : (updStrandOf k f p).q5vt = p.q5vt := rfl
@[simp] theorem updStrandOf_q5in (k : Nat) (f : Strand → Strand) (p : Spindle) : (updStrandOf k f p).q5in = p.q5in := rfl
@[simp] theorem updStrandOf_issued (k : Nat) (f : Strand → Strand) (p : Spindle) : (updStrandOf k f p).issued = p.issued := rfl
@[simp] theorem updStrandOf_tvec (k : Nat) (f : Strand → Strand) (p : Spindle) : (updStrandOf k f p).tvec = p.tvec := rfl
@[simp] theorem updStrandOf_det (k : Nat) (f : Strand → Strand) (p : Spindle) : (updStrandOf k f p).det = p.det := rfl
@[simp] theorem updStrandOf_prio (k : Nat) (f : Strand → Strand) (p : Spindle) : (updStrandOf k f p).prio = p.prio := rfl
@[simp] theorem updStrandOf_step (k : Nat) (f : Strand → Strand) (p : Spindle) : (updStrandOf k f p).step = p.step := rfl
@[simp] theorem updStrandOf_dom (k : Nat) (f : Strand → Strand) (p : Spindle) : (updStrandOf k f p).dom = p.dom := rfl
@[simp] theorem updStrandOf_wdog (k : Nat) (f : Strand → Strand) (p : Spindle) : (updStrandOf k f p).wdog = p.wdog := rfl
@[simp] theorem updStrandOf_wdlim (k : Nat) (f : Strand → Strand) (p : Spindle) : (updStrandOf k f p).wdlim = p.wdlim := rfl
@[simp] theorem updStrandOf_wdArmed (k : Nat) (f : Strand → Strand) (p : Spindle) : (updStrandOf k f p).wdArmed = p.wdArmed := rfl
@[simp] theorem updStrandOf_wdDue (k : Nat) (f : Strand → Strand) (p : Spindle) : (updStrandOf k f p).wdDue = p.wdDue := rfl
@[simp] theorem updStrandOf_cvotes (k : Nat) (f : Strand → Strand) (p : Spindle) : (updStrandOf k f p).cvotes = p.cvotes := rfl
@[simp] theorem updStrandOf_corr (k : Nat) (f : Strand → Strand) (p : Spindle) : (updStrandOf k f p).corr = p.corr := rfl
@[simp] theorem updStrandOf_whorlSig (k : Nat) (f : Strand → Strand) (p : Spindle) : (updStrandOf k f p).whorlSig = p.whorlSig := rfl
@[simp] theorem updStrandOf_phView (k : Nat) (f : Strand → Strand) (p : Spindle) : (updStrandOf k f p).phView = p.phView := rfl
@[simp] theorem updStrandOf_dbg (k : Nat) (f : Strand → Strand) (p : Spindle) : (updStrandOf k f p).dbg = p.dbg := rfl
@[simp] theorem updStrandOf_stopping (k : Nat) (f : Strand → Strand) (p : Spindle) : (updStrandOf k f p).stopping = p.stopping := rfl
@[simp] theorem updStrandOf_up (k : Nat) (f : Strand → Strand) (p : Spindle) : (updStrandOf k f p).up = p.up := rfl
@[simp] theorem updStrandOf_met (k : Nat) (f : Strand → Strand) (p : Spindle) : (updStrandOf k f p).met = p.met := rfl
@[simp] theorem updStrandOf_waited (k : Nat) (f : Strand → Strand) (p : Spindle) : (updStrandOf k f p).waited = p.waited := rfl

/-! ### setS -/

@[simp] theorem setS_run (r : Nat) (x : Word) (st : Strand) : (setS r x st).run = st.run := rfl
@[simp] theorem setS_pc (r : Nat) (x : Word) (st : Strand) : (setS r x st).pc = st.pc := rfl
@[simp] theorem setS_vreg (r : Nat) (x : Word) (st : Strand) : (setS r x st).vreg = st.vreg := rfl
@[simp] theorem setS_preg (r : Nat) (x : Word) (st : Strand) : (setS r x st).preg = st.preg := rfl
@[simp] theorem setS_hreg (r : Nat) (x : Word) (st : Strand) : (setS r x st).hreg = st.hreg := rfl
@[simp] theorem setS_hpa (r : Nat) (x : Word) (st : Strand) : (setS r x st).hpa = st.hpa := rfl
@[simp] theorem setS_slab (r : Nat) (x : Word) (st : Strand) : (setS r x st).slab = st.slab := rfl
@[simp] theorem setS_rstk (r : Nat) (x : Word) (st : Strand) : (setS r x st).rstk = st.rstk := rfl
@[simp] theorem setS_depth (r : Nat) (x : Word) (st : Strand) : (setS r x st).depth = st.depth := rfl
@[simp] theorem setS_loops (r : Nat) (x : Word) (st : Strand) : (setS r x st).loops = st.loops := rfl
@[simp] theorem setS_order (r : Nat) (x : Word) (st : Strand) : (setS r x st).order = st.order := rfl
@[simp] theorem setS_latch (r : Nat) (x : Word) (st : Strand) : (setS r x st).latch = st.latch := rfl
@[simp] theorem setS_saved (r : Nat) (x : Word) (st : Strand) : (setS r x st).saved = st.saved := rfl
@[simp] theorem setS_deposits (r : Nat) (x : Word) (st : Strand) : (setS r x st).deposits = st.deposits := rfl
@[simp] theorem setS_landings (r : Nat) (x : Word) (st : Strand) : (setS r x st).landings = st.landings := rfl
@[simp] theorem setS_handles (r : Nat) (x : Word) (st : Strand) : (setS r x st).handles = st.handles := rfl
@[simp] theorem setS_privm (r : Nat) (x : Word) (st : Strand) : (setS r x st).privm = st.privm := rfl
@[simp] theorem setS_exl (r : Nat) (x : Word) (st : Strand) : (setS r x st).exl = st.exl := rfl
@[simp] theorem setS_fpctl (r : Nat) (x : Word) (st : Strand) : (setS r x st).fpctl = st.fpctl := rfl
@[simp] theorem setS_hwAt (r : Nat) (x : Word) (st : Strand) : (setS r x st).hwAt = st.hwAt := rfl
@[simp] theorem setS_hwFlags (r : Nat) (x : Word) (st : Strand) : (setS r x st).hwFlags = st.hwFlags := rfl
@[simp] theorem setS_tag (r : Nat) (x : Word) (st : Strand) : (setS r x st).tag = st.tag := rfl
@[simp] theorem setS_epc (r : Nat) (x : Word) (st : Strand) : (setS r x st).epc = st.epc := rfl
@[simp] theorem setS_cause (r : Nat) (x : Word) (st : Strand) : (setS r x st).cause = st.cause := rfl
@[simp] theorem setS_estat (r : Nat) (x : Word) (st : Strand) : (setS r x st).estat = st.estat := rfl
@[simp] theorem setS_eaddr (r : Nat) (x : Word) (st : Strand) : (setS r x st).eaddr = st.eaddr := rfl
@[simp] theorem setS_hscr (r : Nat) (x : Word) (st : Strand) : (setS r x st).hscr = st.hscr := rfl
@[simp] theorem setS_resid (r : Nat) (x : Word) (st : Strand) : (setS r x st).resid = st.resid := rfl
@[simp] theorem setS_readyAt (r : Nat) (x : Word) (st : Strand) : (setS r x st).readyAt = st.readyAt := rfl
@[simp] theorem setS_hold (r : Nat) (x : Word) (st : Strand) : (setS r x st).hold = st.hold := rfl
@[simp] theorem setS_wait (r : Nat) (x : Word) (st : Strand) : (setS r x st).wait = st.wait := rfl
@[simp] theorem setS_arrived (r : Nat) (x : Word) (st : Strand) : (setS r x st).arrived = st.arrived := rfl
@[simp] theorem setS_mem (r : Nat) (x : Word) (st : Strand) : (setS r x st).mem = st.mem := rfl
@[simp] theorem setS_trap (r : Nat) (x : Word) (st : Strand) : (setS r x st).trap = st.trap := rfl
@[simp] theorem setS_trapAt (r : Nat) (x : Word) (st : Strand) : (setS r x st).trapAt = st.trapAt := rfl
@[simp] theorem setS_held (r : Nat) (x : Word) (st : Strand) : (setS r x st).held = st.held := rfl
@[simp] theorem setS_regs (r : Nat) (x : Word) (st : Strand) : (setS r x st).regs = st.regs := rfl
@[simp] theorem setS_bfail (r : Nat) (x : Word) (st : Strand) : (setS r x st).bfail = st.bfail := rfl
@[simp] theorem setS_lines (r : Nat) (x : Word) (st : Strand) : (setS r x st).lines = st.lines := rfl
@[simp] theorem setS_vmark (r : Nat) (x : Word) (st : Strand) : (setS r x st).vmark = st.vmark := rfl
@[simp] theorem setS_view (r : Nat) (x : Word) (st : Strand) : (setS r x st).view = st.view := rfl
@[simp] theorem setS_atStop (r : Nat) (x : Word) (st : Strand) : (setS r x st).atStop = st.atStop := rfl

/-! ### setH -/

@[simp] theorem setH_run (r : Nat) (x : Word) (st : Strand) : (setH r x st).run = st.run := rfl
@[simp] theorem setH_pc (r : Nat) (x : Word) (st : Strand) : (setH r x st).pc = st.pc := rfl
@[simp] theorem setH_sreg (r : Nat) (x : Word) (st : Strand) : (setH r x st).sreg = st.sreg := rfl
@[simp] theorem setH_vreg (r : Nat) (x : Word) (st : Strand) : (setH r x st).vreg = st.vreg := rfl
@[simp] theorem setH_preg (r : Nat) (x : Word) (st : Strand) : (setH r x st).preg = st.preg := rfl
@[simp] theorem setH_hpa (r : Nat) (x : Word) (st : Strand) : (setH r x st).hpa = st.hpa := rfl
@[simp] theorem setH_slab (r : Nat) (x : Word) (st : Strand) : (setH r x st).slab = st.slab := rfl
@[simp] theorem setH_rstk (r : Nat) (x : Word) (st : Strand) : (setH r x st).rstk = st.rstk := rfl
@[simp] theorem setH_depth (r : Nat) (x : Word) (st : Strand) : (setH r x st).depth = st.depth := rfl
@[simp] theorem setH_loops (r : Nat) (x : Word) (st : Strand) : (setH r x st).loops = st.loops := rfl
@[simp] theorem setH_order (r : Nat) (x : Word) (st : Strand) : (setH r x st).order = st.order := rfl
@[simp] theorem setH_latch (r : Nat) (x : Word) (st : Strand) : (setH r x st).latch = st.latch := rfl
@[simp] theorem setH_saved (r : Nat) (x : Word) (st : Strand) : (setH r x st).saved = st.saved := rfl
@[simp] theorem setH_deposits (r : Nat) (x : Word) (st : Strand) : (setH r x st).deposits = st.deposits := rfl
@[simp] theorem setH_landings (r : Nat) (x : Word) (st : Strand) : (setH r x st).landings = st.landings := rfl
@[simp] theorem setH_handles (r : Nat) (x : Word) (st : Strand) : (setH r x st).handles = st.handles := rfl
@[simp] theorem setH_privm (r : Nat) (x : Word) (st : Strand) : (setH r x st).privm = st.privm := rfl
@[simp] theorem setH_exl (r : Nat) (x : Word) (st : Strand) : (setH r x st).exl = st.exl := rfl
@[simp] theorem setH_fpctl (r : Nat) (x : Word) (st : Strand) : (setH r x st).fpctl = st.fpctl := rfl
@[simp] theorem setH_hwAt (r : Nat) (x : Word) (st : Strand) : (setH r x st).hwAt = st.hwAt := rfl
@[simp] theorem setH_hwFlags (r : Nat) (x : Word) (st : Strand) : (setH r x st).hwFlags = st.hwFlags := rfl
@[simp] theorem setH_tag (r : Nat) (x : Word) (st : Strand) : (setH r x st).tag = st.tag := rfl
@[simp] theorem setH_epc (r : Nat) (x : Word) (st : Strand) : (setH r x st).epc = st.epc := rfl
@[simp] theorem setH_cause (r : Nat) (x : Word) (st : Strand) : (setH r x st).cause = st.cause := rfl
@[simp] theorem setH_estat (r : Nat) (x : Word) (st : Strand) : (setH r x st).estat = st.estat := rfl
@[simp] theorem setH_eaddr (r : Nat) (x : Word) (st : Strand) : (setH r x st).eaddr = st.eaddr := rfl
@[simp] theorem setH_hscr (r : Nat) (x : Word) (st : Strand) : (setH r x st).hscr = st.hscr := rfl
@[simp] theorem setH_resid (r : Nat) (x : Word) (st : Strand) : (setH r x st).resid = st.resid := rfl
@[simp] theorem setH_readyAt (r : Nat) (x : Word) (st : Strand) : (setH r x st).readyAt = st.readyAt := rfl
@[simp] theorem setH_hold (r : Nat) (x : Word) (st : Strand) : (setH r x st).hold = st.hold := rfl
@[simp] theorem setH_wait (r : Nat) (x : Word) (st : Strand) : (setH r x st).wait = st.wait := rfl
@[simp] theorem setH_arrived (r : Nat) (x : Word) (st : Strand) : (setH r x st).arrived = st.arrived := rfl
@[simp] theorem setH_mem (r : Nat) (x : Word) (st : Strand) : (setH r x st).mem = st.mem := rfl
@[simp] theorem setH_trap (r : Nat) (x : Word) (st : Strand) : (setH r x st).trap = st.trap := rfl
@[simp] theorem setH_trapAt (r : Nat) (x : Word) (st : Strand) : (setH r x st).trapAt = st.trapAt := rfl
@[simp] theorem setH_held (r : Nat) (x : Word) (st : Strand) : (setH r x st).held = st.held := rfl
@[simp] theorem setH_regs (r : Nat) (x : Word) (st : Strand) : (setH r x st).regs = st.regs := rfl
@[simp] theorem setH_bfail (r : Nat) (x : Word) (st : Strand) : (setH r x st).bfail = st.bfail := rfl
@[simp] theorem setH_lines (r : Nat) (x : Word) (st : Strand) : (setH r x st).lines = st.lines := rfl
@[simp] theorem setH_vmark (r : Nat) (x : Word) (st : Strand) : (setH r x st).vmark = st.vmark := rfl
@[simp] theorem setH_view (r : Nat) (x : Word) (st : Strand) : (setH r x st).view = st.view := rfl
@[simp] theorem setH_atStop (r : Nat) (x : Word) (st : Strand) : (setH r x st).atStop = st.atStop := rfl

/-! ### setV -/

@[simp] theorem setV_run (r : Nat) (m : Word) (xs : List Lane) (st : Strand) : (setV r m xs st).run = st.run := rfl
@[simp] theorem setV_pc (r : Nat) (m : Word) (xs : List Lane) (st : Strand) : (setV r m xs st).pc = st.pc := rfl
@[simp] theorem setV_sreg (r : Nat) (m : Word) (xs : List Lane) (st : Strand) : (setV r m xs st).sreg = st.sreg := rfl
@[simp] theorem setV_preg (r : Nat) (m : Word) (xs : List Lane) (st : Strand) : (setV r m xs st).preg = st.preg := rfl
@[simp] theorem setV_hreg (r : Nat) (m : Word) (xs : List Lane) (st : Strand) : (setV r m xs st).hreg = st.hreg := rfl
@[simp] theorem setV_hpa (r : Nat) (m : Word) (xs : List Lane) (st : Strand) : (setV r m xs st).hpa = st.hpa := rfl
@[simp] theorem setV_slab (r : Nat) (m : Word) (xs : List Lane) (st : Strand) : (setV r m xs st).slab = st.slab := rfl
@[simp] theorem setV_rstk (r : Nat) (m : Word) (xs : List Lane) (st : Strand) : (setV r m xs st).rstk = st.rstk := rfl
@[simp] theorem setV_depth (r : Nat) (m : Word) (xs : List Lane) (st : Strand) : (setV r m xs st).depth = st.depth := rfl
@[simp] theorem setV_loops (r : Nat) (m : Word) (xs : List Lane) (st : Strand) : (setV r m xs st).loops = st.loops := rfl
@[simp] theorem setV_order (r : Nat) (m : Word) (xs : List Lane) (st : Strand) : (setV r m xs st).order = st.order := rfl
@[simp] theorem setV_latch (r : Nat) (m : Word) (xs : List Lane) (st : Strand) : (setV r m xs st).latch = st.latch := rfl
@[simp] theorem setV_saved (r : Nat) (m : Word) (xs : List Lane) (st : Strand) : (setV r m xs st).saved = st.saved := rfl
@[simp] theorem setV_deposits (r : Nat) (m : Word) (xs : List Lane) (st : Strand) : (setV r m xs st).deposits = st.deposits := rfl
@[simp] theorem setV_landings (r : Nat) (m : Word) (xs : List Lane) (st : Strand) : (setV r m xs st).landings = st.landings := rfl
@[simp] theorem setV_handles (r : Nat) (m : Word) (xs : List Lane) (st : Strand) : (setV r m xs st).handles = st.handles := rfl
@[simp] theorem setV_privm (r : Nat) (m : Word) (xs : List Lane) (st : Strand) : (setV r m xs st).privm = st.privm := rfl
@[simp] theorem setV_exl (r : Nat) (m : Word) (xs : List Lane) (st : Strand) : (setV r m xs st).exl = st.exl := rfl
@[simp] theorem setV_fpctl (r : Nat) (m : Word) (xs : List Lane) (st : Strand) : (setV r m xs st).fpctl = st.fpctl := rfl
@[simp] theorem setV_hwAt (r : Nat) (m : Word) (xs : List Lane) (st : Strand) : (setV r m xs st).hwAt = st.hwAt := rfl
@[simp] theorem setV_hwFlags (r : Nat) (m : Word) (xs : List Lane) (st : Strand) : (setV r m xs st).hwFlags = st.hwFlags := rfl
@[simp] theorem setV_tag (r : Nat) (m : Word) (xs : List Lane) (st : Strand) : (setV r m xs st).tag = st.tag := rfl
@[simp] theorem setV_epc (r : Nat) (m : Word) (xs : List Lane) (st : Strand) : (setV r m xs st).epc = st.epc := rfl
@[simp] theorem setV_cause (r : Nat) (m : Word) (xs : List Lane) (st : Strand) : (setV r m xs st).cause = st.cause := rfl
@[simp] theorem setV_estat (r : Nat) (m : Word) (xs : List Lane) (st : Strand) : (setV r m xs st).estat = st.estat := rfl
@[simp] theorem setV_eaddr (r : Nat) (m : Word) (xs : List Lane) (st : Strand) : (setV r m xs st).eaddr = st.eaddr := rfl
@[simp] theorem setV_hscr (r : Nat) (m : Word) (xs : List Lane) (st : Strand) : (setV r m xs st).hscr = st.hscr := rfl
@[simp] theorem setV_resid (r : Nat) (m : Word) (xs : List Lane) (st : Strand) : (setV r m xs st).resid = st.resid := rfl
@[simp] theorem setV_readyAt (r : Nat) (m : Word) (xs : List Lane) (st : Strand) : (setV r m xs st).readyAt = st.readyAt := rfl
@[simp] theorem setV_hold (r : Nat) (m : Word) (xs : List Lane) (st : Strand) : (setV r m xs st).hold = st.hold := rfl
@[simp] theorem setV_wait (r : Nat) (m : Word) (xs : List Lane) (st : Strand) : (setV r m xs st).wait = st.wait := rfl
@[simp] theorem setV_arrived (r : Nat) (m : Word) (xs : List Lane) (st : Strand) : (setV r m xs st).arrived = st.arrived := rfl
@[simp] theorem setV_mem (r : Nat) (m : Word) (xs : List Lane) (st : Strand) : (setV r m xs st).mem = st.mem := rfl
@[simp] theorem setV_trap (r : Nat) (m : Word) (xs : List Lane) (st : Strand) : (setV r m xs st).trap = st.trap := rfl
@[simp] theorem setV_trapAt (r : Nat) (m : Word) (xs : List Lane) (st : Strand) : (setV r m xs st).trapAt = st.trapAt := rfl
@[simp] theorem setV_held (r : Nat) (m : Word) (xs : List Lane) (st : Strand) : (setV r m xs st).held = st.held := rfl
@[simp] theorem setV_regs (r : Nat) (m : Word) (xs : List Lane) (st : Strand) : (setV r m xs st).regs = st.regs := rfl
@[simp] theorem setV_bfail (r : Nat) (m : Word) (xs : List Lane) (st : Strand) : (setV r m xs st).bfail = st.bfail := rfl
@[simp] theorem setV_lines (r : Nat) (m : Word) (xs : List Lane) (st : Strand) : (setV r m xs st).lines = st.lines := rfl
@[simp] theorem setV_view (r : Nat) (m : Word) (xs : List Lane) (st : Strand) : (setV r m xs st).view = st.view := rfl
@[simp] theorem setV_atStop (r : Nat) (m : Word) (xs : List Lane) (st : Strand) : (setV r m xs st).atStop = st.atStop := rfl

/-! ### setLatch -/

@[simp] theorem setLatch_run (n : Nat) (l : Latch) (st : Strand) : (setLatch n l st).run = st.run := rfl
@[simp] theorem setLatch_pc (n : Nat) (l : Latch) (st : Strand) : (setLatch n l st).pc = st.pc := rfl
@[simp] theorem setLatch_sreg (n : Nat) (l : Latch) (st : Strand) : (setLatch n l st).sreg = st.sreg := rfl
@[simp] theorem setLatch_vreg (n : Nat) (l : Latch) (st : Strand) : (setLatch n l st).vreg = st.vreg := rfl
@[simp] theorem setLatch_preg (n : Nat) (l : Latch) (st : Strand) : (setLatch n l st).preg = st.preg := rfl
@[simp] theorem setLatch_hreg (n : Nat) (l : Latch) (st : Strand) : (setLatch n l st).hreg = st.hreg := rfl
@[simp] theorem setLatch_hpa (n : Nat) (l : Latch) (st : Strand) : (setLatch n l st).hpa = st.hpa := rfl
@[simp] theorem setLatch_slab (n : Nat) (l : Latch) (st : Strand) : (setLatch n l st).slab = st.slab := rfl
@[simp] theorem setLatch_rstk (n : Nat) (l : Latch) (st : Strand) : (setLatch n l st).rstk = st.rstk := rfl
@[simp] theorem setLatch_depth (n : Nat) (l : Latch) (st : Strand) : (setLatch n l st).depth = st.depth := rfl
@[simp] theorem setLatch_loops (n : Nat) (l : Latch) (st : Strand) : (setLatch n l st).loops = st.loops := rfl
@[simp] theorem setLatch_order (n : Nat) (l : Latch) (st : Strand) : (setLatch n l st).order = st.order := rfl
@[simp] theorem setLatch_saved (n : Nat) (l : Latch) (st : Strand) : (setLatch n l st).saved = st.saved := rfl
@[simp] theorem setLatch_deposits (n : Nat) (l : Latch) (st : Strand) : (setLatch n l st).deposits = st.deposits := rfl
@[simp] theorem setLatch_landings (n : Nat) (l : Latch) (st : Strand) : (setLatch n l st).landings = st.landings := rfl
@[simp] theorem setLatch_handles (n : Nat) (l : Latch) (st : Strand) : (setLatch n l st).handles = st.handles := rfl
@[simp] theorem setLatch_privm (n : Nat) (l : Latch) (st : Strand) : (setLatch n l st).privm = st.privm := rfl
@[simp] theorem setLatch_exl (n : Nat) (l : Latch) (st : Strand) : (setLatch n l st).exl = st.exl := rfl
@[simp] theorem setLatch_fpctl (n : Nat) (l : Latch) (st : Strand) : (setLatch n l st).fpctl = st.fpctl := rfl
@[simp] theorem setLatch_hwAt (n : Nat) (l : Latch) (st : Strand) : (setLatch n l st).hwAt = st.hwAt := rfl
@[simp] theorem setLatch_hwFlags (n : Nat) (l : Latch) (st : Strand) : (setLatch n l st).hwFlags = st.hwFlags := rfl
@[simp] theorem setLatch_tag (n : Nat) (l : Latch) (st : Strand) : (setLatch n l st).tag = st.tag := rfl
@[simp] theorem setLatch_epc (n : Nat) (l : Latch) (st : Strand) : (setLatch n l st).epc = st.epc := rfl
@[simp] theorem setLatch_cause (n : Nat) (l : Latch) (st : Strand) : (setLatch n l st).cause = st.cause := rfl
@[simp] theorem setLatch_estat (n : Nat) (l : Latch) (st : Strand) : (setLatch n l st).estat = st.estat := rfl
@[simp] theorem setLatch_eaddr (n : Nat) (l : Latch) (st : Strand) : (setLatch n l st).eaddr = st.eaddr := rfl
@[simp] theorem setLatch_hscr (n : Nat) (l : Latch) (st : Strand) : (setLatch n l st).hscr = st.hscr := rfl
@[simp] theorem setLatch_resid (n : Nat) (l : Latch) (st : Strand) : (setLatch n l st).resid = st.resid := rfl
@[simp] theorem setLatch_readyAt (n : Nat) (l : Latch) (st : Strand) : (setLatch n l st).readyAt = st.readyAt := rfl
@[simp] theorem setLatch_hold (n : Nat) (l : Latch) (st : Strand) : (setLatch n l st).hold = st.hold := rfl
@[simp] theorem setLatch_wait (n : Nat) (l : Latch) (st : Strand) : (setLatch n l st).wait = st.wait := rfl
@[simp] theorem setLatch_arrived (n : Nat) (l : Latch) (st : Strand) : (setLatch n l st).arrived = st.arrived := rfl
@[simp] theorem setLatch_mem (n : Nat) (l : Latch) (st : Strand) : (setLatch n l st).mem = st.mem := rfl
@[simp] theorem setLatch_trap (n : Nat) (l : Latch) (st : Strand) : (setLatch n l st).trap = st.trap := rfl
@[simp] theorem setLatch_trapAt (n : Nat) (l : Latch) (st : Strand) : (setLatch n l st).trapAt = st.trapAt := rfl
@[simp] theorem setLatch_held (n : Nat) (l : Latch) (st : Strand) : (setLatch n l st).held = st.held := rfl
@[simp] theorem setLatch_regs (n : Nat) (l : Latch) (st : Strand) : (setLatch n l st).regs = st.regs := rfl
@[simp] theorem setLatch_bfail (n : Nat) (l : Latch) (st : Strand) : (setLatch n l st).bfail = st.bfail := rfl
@[simp] theorem setLatch_lines (n : Nat) (l : Latch) (st : Strand) : (setLatch n l st).lines = st.lines := rfl
@[simp] theorem setLatch_vmark (n : Nat) (l : Latch) (st : Strand) : (setLatch n l st).vmark = st.vmark := rfl
@[simp] theorem setLatch_view (n : Nat) (l : Latch) (st : Strand) : (setLatch n l st).view = st.view := rfl
@[simp] theorem setLatch_atStop (n : Nat) (l : Latch) (st : Strand) : (setLatch n l st).atStop = st.atStop := rfl

/-! ### setP -/

@[simp] theorem setP_run (r : Nat) (m x : Word) (st : Strand) : (setP r m x st).run = st.run := by unfold setP; split <;> rfl
@[simp] theorem setP_pc (r : Nat) (m x : Word) (st : Strand) : (setP r m x st).pc = st.pc := by unfold setP; split <;> rfl
@[simp] theorem setP_sreg (r : Nat) (m x : Word) (st : Strand) : (setP r m x st).sreg = st.sreg := by unfold setP; split <;> rfl
@[simp] theorem setP_vreg (r : Nat) (m x : Word) (st : Strand) : (setP r m x st).vreg = st.vreg := by unfold setP; split <;> rfl
@[simp] theorem setP_hreg (r : Nat) (m x : Word) (st : Strand) : (setP r m x st).hreg = st.hreg := by unfold setP; split <;> rfl
@[simp] theorem setP_hpa (r : Nat) (m x : Word) (st : Strand) : (setP r m x st).hpa = st.hpa := by unfold setP; split <;> rfl
@[simp] theorem setP_slab (r : Nat) (m x : Word) (st : Strand) : (setP r m x st).slab = st.slab := by unfold setP; split <;> rfl
@[simp] theorem setP_rstk (r : Nat) (m x : Word) (st : Strand) : (setP r m x st).rstk = st.rstk := by unfold setP; split <;> rfl
@[simp] theorem setP_depth (r : Nat) (m x : Word) (st : Strand) : (setP r m x st).depth = st.depth := by unfold setP; split <;> rfl
@[simp] theorem setP_loops (r : Nat) (m x : Word) (st : Strand) : (setP r m x st).loops = st.loops := by unfold setP; split <;> rfl
@[simp] theorem setP_order (r : Nat) (m x : Word) (st : Strand) : (setP r m x st).order = st.order := by unfold setP; split <;> rfl
@[simp] theorem setP_latch (r : Nat) (m x : Word) (st : Strand) : (setP r m x st).latch = st.latch := by unfold setP; split <;> rfl
@[simp] theorem setP_saved (r : Nat) (m x : Word) (st : Strand) : (setP r m x st).saved = st.saved := by unfold setP; split <;> rfl
@[simp] theorem setP_deposits (r : Nat) (m x : Word) (st : Strand) : (setP r m x st).deposits = st.deposits := by unfold setP; split <;> rfl
@[simp] theorem setP_landings (r : Nat) (m x : Word) (st : Strand) : (setP r m x st).landings = st.landings := by unfold setP; split <;> rfl
@[simp] theorem setP_handles (r : Nat) (m x : Word) (st : Strand) : (setP r m x st).handles = st.handles := by unfold setP; split <;> rfl
@[simp] theorem setP_privm (r : Nat) (m x : Word) (st : Strand) : (setP r m x st).privm = st.privm := by unfold setP; split <;> rfl
@[simp] theorem setP_exl (r : Nat) (m x : Word) (st : Strand) : (setP r m x st).exl = st.exl := by unfold setP; split <;> rfl
@[simp] theorem setP_fpctl (r : Nat) (m x : Word) (st : Strand) : (setP r m x st).fpctl = st.fpctl := by unfold setP; split <;> rfl
@[simp] theorem setP_hwAt (r : Nat) (m x : Word) (st : Strand) : (setP r m x st).hwAt = st.hwAt := by unfold setP; split <;> rfl
@[simp] theorem setP_hwFlags (r : Nat) (m x : Word) (st : Strand) : (setP r m x st).hwFlags = st.hwFlags := by unfold setP; split <;> rfl
@[simp] theorem setP_tag (r : Nat) (m x : Word) (st : Strand) : (setP r m x st).tag = st.tag := by unfold setP; split <;> rfl
@[simp] theorem setP_epc (r : Nat) (m x : Word) (st : Strand) : (setP r m x st).epc = st.epc := by unfold setP; split <;> rfl
@[simp] theorem setP_cause (r : Nat) (m x : Word) (st : Strand) : (setP r m x st).cause = st.cause := by unfold setP; split <;> rfl
@[simp] theorem setP_estat (r : Nat) (m x : Word) (st : Strand) : (setP r m x st).estat = st.estat := by unfold setP; split <;> rfl
@[simp] theorem setP_eaddr (r : Nat) (m x : Word) (st : Strand) : (setP r m x st).eaddr = st.eaddr := by unfold setP; split <;> rfl
@[simp] theorem setP_hscr (r : Nat) (m x : Word) (st : Strand) : (setP r m x st).hscr = st.hscr := by unfold setP; split <;> rfl
@[simp] theorem setP_resid (r : Nat) (m x : Word) (st : Strand) : (setP r m x st).resid = st.resid := by unfold setP; split <;> rfl
@[simp] theorem setP_readyAt (r : Nat) (m x : Word) (st : Strand) : (setP r m x st).readyAt = st.readyAt := by unfold setP; split <;> rfl
@[simp] theorem setP_hold (r : Nat) (m x : Word) (st : Strand) : (setP r m x st).hold = st.hold := by unfold setP; split <;> rfl
@[simp] theorem setP_wait (r : Nat) (m x : Word) (st : Strand) : (setP r m x st).wait = st.wait := by unfold setP; split <;> rfl
@[simp] theorem setP_arrived (r : Nat) (m x : Word) (st : Strand) : (setP r m x st).arrived = st.arrived := by unfold setP; split <;> rfl
@[simp] theorem setP_mem (r : Nat) (m x : Word) (st : Strand) : (setP r m x st).mem = st.mem := by unfold setP; split <;> rfl
@[simp] theorem setP_trap (r : Nat) (m x : Word) (st : Strand) : (setP r m x st).trap = st.trap := by unfold setP; split <;> rfl
@[simp] theorem setP_trapAt (r : Nat) (m x : Word) (st : Strand) : (setP r m x st).trapAt = st.trapAt := by unfold setP; split <;> rfl
@[simp] theorem setP_held (r : Nat) (m x : Word) (st : Strand) : (setP r m x st).held = st.held := by unfold setP; split <;> rfl
@[simp] theorem setP_regs (r : Nat) (m x : Word) (st : Strand) : (setP r m x st).regs = st.regs := by unfold setP; split <;> rfl
@[simp] theorem setP_bfail (r : Nat) (m x : Word) (st : Strand) : (setP r m x st).bfail = st.bfail := by unfold setP; split <;> rfl
@[simp] theorem setP_lines (r : Nat) (m x : Word) (st : Strand) : (setP r m x st).lines = st.lines := by unfold setP; split <;> rfl
@[simp] theorem setP_vmark (r : Nat) (m x : Word) (st : Strand) : (setP r m x st).vmark = st.vmark := by unfold setP; split <;> rfl
@[simp] theorem setP_view (r : Nat) (m x : Word) (st : Strand) : (setP r m x st).view = st.view := by unfold setP; split <;> rfl
@[simp] theorem setP_atStop (r : Nat) (m x : Word) (st : Strand) : (setP r m x st).atStop = st.atStop := by unfold setP; split <;> rfl

/-! ### Reading after an update -/

@[simp] theorem spindleAt_setSpindle_same (n : Nat) (p : Spindle) (s : State) : spindleAt (setSpindle n p s) n = p := SMap.get_set_same ..

theorem spindleAt_setSpindle (n m : Nat) (p : Spindle) (s : State) :
    spindleAt (setSpindle n p s) m = if m = n then p else spindleAt s m := SMap.get_set ..

@[simp] theorem spindleAt_updSpindle_same (n : Nat) (f : Spindle → Spindle) (s : State) :
    spindleAt (updSpindle n f s) n = f (spindleAt s n) := SMap.get_set_same ..

theorem spindleAt_updSpindle (n m : Nat) (f : Spindle → Spindle) (s : State) :
    spindleAt (updSpindle n f s) m = if m = n then f (spindleAt s n) else spindleAt s m := SMap.get_set ..

@[simp] theorem strandOf_updStrandOf_same (k : Nat) (f : Strand → Strand) (p : Spindle) :
    strandOf (updStrandOf k f p) k = f (strandOf p k) := SMap.get_set_same ..

theorem strandOf_updStrandOf (k j : Nat) (f : Strand → Strand) (p : Spindle) :
    strandOf (updStrandOf k f p) j = if j = k then f (strandOf p k) else strandOf p j := SMap.get_set ..

@[simp] theorem strandAt_updStrand_same (n k : Nat) (f : Strand → Strand) (s : State) :
    strandAt (updStrand n k f s) n k = f (strandAt s n k) := by
  unfold strandAt updStrand
  rw [spindleAt_updSpindle_same, strandOf_updStrandOf_same]

theorem strandAt_updStrand (n k m j : Nat) (f : Strand → Strand) (s : State) :
    strandAt (updStrand n k f s) m j = if m = n ∧ j = k then f (strandAt s n k) else strandAt s m j := by
  unfold strandAt updStrand
  rw [spindleAt_updSpindle]
  by_cases h : m = n
  · subst h
    rw [if_pos rfl, strandOf_updStrandOf]
    simp
  · simp [h]

@[simp] theorem me_updMe (f : Strand → Strand) (s : State) : me (updMe f s) = f (me s) := strandAt_updStrand_same ..

@[simp] theorem memByte_setSpindle (n : Nat) (p : Spindle) (s : State) (a : Nat) : memByte (setSpindle n p s) a = memByte s a := rfl
@[simp] theorem memByte_updSpindle (n : Nat) (f : Spindle → Spindle) (s : State) (a : Nat) : memByte (updSpindle n f s) a = memByte s a := rfl
@[simp] theorem memByte_updStrand (n k : Nat) (f : Strand → Strand) (s : State) (a : Nat) : memByte (updStrand n k f s) a = memByte s a := rfl

end Sys2Proof.Machine
end

