-- ==== Sys2Proof/Laws/Access.lean ====
section
/-! SUPPORT. Accesses through a handle, and releases, where nothing stands in their way. -/

namespace Sys2Proof.Machine

theorem toBytes_length (x n) : (toBytes x n).length = n := by
  induction n generalizing x with
  | zero => rfl
  | succ n ih => simp [toBytes, ih]

theorem laneBytes_length (l : List Lane) : (laneBytes l).length = 4 * l.length := by
  induction l with
  | nil => rfl
  | cons a t ih => simp only [laneBytes, List.flatMap_cons, List.length_append, toBytes_length, List.length_cons] at *; omega

theorem storedLanes_length (s w) : (storedLanes s w).length = 256 := by
  simp [storedLanes, laneBytes_length, upto]

/-- An access that passes every check goes on with its addresses. -/
theorem whenAccess_eq (w al len st) (k) (s : State) (h : accessGood s w al len st) :
    whenAccess w al len st k s = k (accessVa s w) (accessPa s w) false s := by
  obtain ⟨h1, h2, h3, h4, h5, h6⟩ := h
  unfold whenAccess
  simp only [h1, aligned, h3, Bool.not_true, Bool.false_eq_true, if_false, decide_true, h2]
  rw [if_neg (by omega)]
  cases st <;> simp_all [accessVa, accessPa]

/-- No bobbin leaves where none is chosen. -/
theorem leaveAll_of_none (why f s) (h : ∀ x ∈ usedBobbins s, f x.1 x.2 = false) : leaveAll why f s = s := by
  unfold leaveAll
  have : ∀ (l : List (Nat × Bobbin)), (∀ x ∈ l, f x.1 x.2 = false) → l.foldl (fun s x => if f x.1 x.2 then leaveBobbin x.1 why s else s) s = s := by
    intro l hl
    induction l with
    | nil => rfl
    | cons a t ih =>
      simp only [List.foldl_cons]
      rw [hl a (by simp)]
      simp
      exact ih (fun x hx => hl x (by simp [hx]))
  exact this _ h

/-- A release with nothing out completes at once. -/
theorem afterRelease_eq (m) (k : State → State) (s : State) (h : m = 0 ∨ nothingOut s s.cur.spn s.cur.strand) : afterRelease m k s = k (released m s) := by
  unfold afterRelease released
  split
  · rfl
  · rename_i hm
    rcases h with h | h
    · exact absurd h hm
    · have hb : beginRelease s.cur.spn s.cur.strand m s = s := by
        unfold beginRelease
        split
        · apply leaveAll_of_none
          intro x hx
          exact h.2.2 x.2 (by simp; left; exact ⟨x.1, hx⟩)
        · rfl
      simp only [hb]
      rw [if_pos]
      unfold releaseDone
      simp only [h.1, h.2.1, Bool.not_false, Bool.true_and, Bool.or_true]
      have hn : (((usedBobbins s).map (·.2) ++ s.flits).any fun b => holdsOf b s.cur.spn s.cur.strand) = false := by
        simp only [List.any_eq_false]
        intro b hb
        rw [h.2.2 b hb]
        exact Bool.false_ne_true
      rw [hn]
      simp

/-- What the write-back of a line's copy changes: at most the marks of its home. -/
theorem homeTaint_shape (key) (s : State) : ∃ p k, homeTaint key s = { s with memPoison := p, l2Marks := k } := by
  unfold homeTaint markHome markLine markCopy
  dsimp only
  repeat' split
  all_goals exact ⟨_, _, rfl⟩

/-- What a write-back of dirty lines changes: their copies, and the marks of their homes. -/
theorem writeBack_shape (sk) (s : State) : ∃ l p k, writeBack sk s = { s with l2 := l, memPoison := p, l2Marks := k } := by
  have : ∀ (m : List (Nat × Nat)) (t : State), (∃ p k, t = { s with memPoison := p, l2Marks := k }) →
      ∃ p k, m.foldl (fun s x => if x.1 / 2 ^ 47 = sk then homeTaint x.1 s else s) t = { s with memPoison := p, l2Marks := k } := by
    intro m
    induction m with
    | nil => exact fun t h => h
    | cons x m ih =>
      intro t ⟨p, k, h⟩
      rw [List.foldl_cons]
      refine ih _ ?_
      split
      · obtain ⟨q, j, hq⟩ := homeTaint_shape x.1 t; exact ⟨q, j, by rw [hq, h]⟩
      · exact ⟨p, k, h⟩
  obtain ⟨p, k, h⟩ := this s.l2Marks s ⟨s.memPoison, s.l2Marks, rfl⟩
  exact ⟨_, p, k, by unfold writeBack; rw [h]⟩

/-- A release leaves the focus as it is. -/
theorem released_cur (m) (s : State) : (released m s).cur = s.cur := by
  have hv : ∀ n a f (t : State), (updView n a f t).cur = t.cur := by intro n a f t; unfold updView; split <;> first | rfl | (split <;> rfl)
  unfold released endRelease noteRelease
  split
  · rfl
  · rw [hv]; split
    · rfl
    · obtain ⟨l, p, k, h⟩ := writeBack_shape (skeinOf s.cur.spn) s; rw [h]

end Sys2Proof.Machine
end

