-- ==== Sys2Proof/Laws/Engine.lean ====
section
/-! SUPPORT. Engines: accesses that pass every check, sources that are there, and rows after a write. -/

namespace Sys2Proof.Machine

theorem whenEngine_eq (n q r chk reads writes) (k : State → State) (s : State) (h : engineGood s n q r chk reads writes) :
    whenEngine n q r chk reads writes k s = k (engineNoted n q r.seq reads writes s) := by
  obtain ⟨h1, h2, h3⟩ := h
  unfold whenEngine engineNoted
  have a1 : (chk.bind fun c => (tilesOf c.2.1 c.2.2).find? fun t => tileTag (spindleAt s n) t ≠ c.1) = none := by
    cases chk with
    | none => rfl
    | some c => simp only [Option.bind_some]; rw [List.find?_eq_none]; intro t ht; simp [h1 c rfl t ht]
  have a3 : (reads.findSome? fun x => scratchPoison (spindleAt s n) x.1 x.2) = none := by
    rw [List.findSome?_eq_none_iff]; exact h3
  simp only [a1, a3]
  cases hd : (spindleAt s n).det
  · simp
  · obtain ⟨b1, b2, b3⟩ := h2 hd
    simp only [if_true]
    rw [b1]; simp only []
    rw [b2, b3]; rfl

theorem withSource_eq (n q r off len s bs v) (k) (h : readsChunk n q r off len s bs v) : withSource n q r off len k s = k bs v := by
  rcases h with ⟨h1, h2, h3, h4⟩ | ⟨h1, h2, h3⟩
  · unfold withSource
    rw [if_pos (by simp [h1]), whenEngine_eq _ _ _ _ _ _ _ _ h2]
    subst h3 h4; rfl
  · unfold withSource
    rw [if_neg (by simp [h1]), h2, h3]

theorem writeChunk_eq (n q r bs s t) (h : putsChunk n q r bs s t) : writeChunk n q r bs s = t := by
  rcases h with ⟨h1, h2, h3⟩ | ⟨h1, rs, h2, h3⟩
  · unfold writeChunk
    rw [if_neg (by simp [h1]), whenEngine_eq _ _ _ _ _ _ _ _ h2, h3]
  · unfold writeChunk
    rw [if_pos h1]; simp only []; rw [h2, h3]

/-- An accumulator element after cells of a row have been written. -/
theorem setCells_acc_get (row : Nat) : ∀ (cs : List Cell) (j : Nat) (m : Matrix) (i : Nat),
    SMap.get 0 (setCells row j cs m).acc i =
      if 64 * row + j ≤ i then ((cs[i - (64 * row + j)]?).map Cell.x).getD (SMap.get 0 m.acc i) else SMap.get 0 m.acc i := by
  intro cs
  induction cs with
  | nil => intros; simp [setCells]
  | cons c cs ih =>
    intro j m i
    rw [setCells, ih]
    simp only [SMap.get_set]
    rcases Nat.lt_trichotomy i (64 * row + j) with h | h | h
    · rw [if_neg (by omega), if_neg (by omega), if_neg (by omega)]
    · rw [if_neg (by omega), if_pos h, if_pos (by omega)]; subst h; simp
    · rw [if_pos (by omega), if_neg (by omega), if_pos (by omega)]
      obtain ⟨k, hk⟩ : ∃ k, i = 64 * row + (j + 1) + k := ⟨i - (64 * row + (j + 1)), by omega⟩
      rw [show i - (64 * row + (j + 1)) = k by omega, show i - (64 * row + j) = k + 1 by omega, List.getElem?_cons_succ]

end Sys2Proof.Machine
end

