-- ==== Sys2Proof/Laws/Events.lean ====
section
/-! SUPPORT. Landings in due order, and what the host's stores come to. -/

namespace Sys2Proof.Machine

theorem insertDue_mem (g x : Landing) (l) : x ∈ insertDue g l → x = g ∨ x ∈ l := by
  induction l with
  | nil => simp [insertDue]
  | cons a t ih =>
    unfold insertDue; split
    · simp
    · simp only [List.mem_cons]; intro h
      rcases h with h | h
      · simp [h]
      · rcases ih h with h | h <;> simp [h]

/-- Sorting by due time adds nothing. -/
theorem byDue_mem (x : Landing) (l) : x ∈ byDue l → x ∈ l := by
  have : ∀ (l a : List Landing), x ∈ l.foldl (fun a g => insertDue g a) a → x ∈ l ∨ x ∈ a := by
    intro l
    induction l with
    | nil => simp
    | cons b t ih =>
      intro a h
      rcases ih _ h with h | h
      · simp [h]
      · rcases insertDue_mem _ _ _ h with h | h <;> simp [h]
  intro h; rcases this l [] h with h | h <;> simp_all

theorem find_none_of_forall (n : Nat) (p : Nat → Bool) (h : ∀ i, i < n → p i = true) : (upto n).find? (fun i => !p i) = none := by
  rw [List.find?_eq_none]; intro i hi; simp [upto] at hi; simp [h i hi]

theorem vfStore_gen (fn k off o v) (s : State) (h1 : vfOn s fn = true) (h2 : k < 640) (h3 : inPartition s (vfPart s fn) k = true)
    (ho : ¬ o < 2 ^ 22) (ho2 : (o - 2 ^ 22) / 4096 = k) (ho3 : o % 4096 = off) :
    vfStore fn o v s = match windowStore k off v s with | .ok t => t | .error _ => countRefused (vfPart s fn) s := by
  have hp : vfPage s fn o = true := by
    unfold vfPage; rw [if_neg ho, ho2]; simp [h2, h3]
  unfold vfStore
  rw [if_neg (by rw [h1, hp]; exact Bool.false_ne_true)]
  unfold devStoreWord
  rw [if_neg ho, ho2, ho3]
  simp only []
  rw [if_pos (And.intro h2 h3)]
  all_goals (generalize windowStore k off v s = r; cases r <;> rfl)

/-- A store of a function to the window of a spindle. -/
theorem vfStore_go (fn k off v) (s : State) (h1 : vfOn s fn = true) (h2 : k < 640) (h3 : inPartition s (vfPart s fn) k = true) (h : off < 4096) :
    vfStore fn (2 ^ 22 + 4096 * k + off) v s = match windowStore k off v s with | .ok t => t | .error _ => countRefused (vfPart s fn) s :=
  vfStore_gen fn k off _ v s h1 h2 h3 (by omega) (by omega) (by omega)

theorem updWhorl_congr (d) (f g : Whorl → Whorl) (s) (h : f (whorlAt s d) = g (whorlAt s d)) : updWhorl d f s = updWhorl d g s := by
  unfold updWhorl SMap.modify; unfold whorlAt at h; rw [h]

theorem thenDo_next (o : Host.Outcome State Fault Refusal) : thenDo o (fun t => .next (castEarly { t with cur := .start })) = atRest o := by
  cases o <;> rfl

end Sys2Proof.Machine
end

