-- ==== Sys2Proof/Laws/Fabric.lean ====
section
/-! SUPPORT. Ports and what arrives over them. -/

namespace Sys2Proof.Machine

/-- A change of STATE is told. -/
theorem updPort_of_ne (i f s) (h : (f (portAt s i)).st ≠ (portAt s i).st) :
    updPort i f s = raiseVector 0 0 (tapLink i (setPort i (f (portAt s i)) s)) := by
  unfold updPort
  have : portAt (setPort i (f (portAt s i)) s) i = f (portAt s i) := by unfold portAt setPort; simp
  simp only [this, if_neg h]

/-- Any other change is not. -/
theorem updPort_of_eq (i f s) (h : (f (portAt s i)).st = (portAt s i).st) :
    updPort i f s = setPort i (f (portAt s i)) s := by
  unfold updPort
  have : portAt (setPort i (f (portAt s i)) s) i = f (portAt s i) := by unfold portAt setPort; simp
  simp only [this, if_pos h]

theorem received_eq (h : PktHdr) (m s) (h1 : h.dst = ownPkg s h.grp) (h2 : h.src ≠ h.dst) (h3 : pktFuture s h = false) :
    received h m s = some s := by
  unfold received; rw [if_neg (by simp [h1, h3]), if_neg h2]

theorem failElems_of_zero (tag pkg page) (es : List BobElem) (rs : List Nat) (h : ∀ r ∈ rs, r = 0) (i) (s : State) :
    failElems tag pkg page i es rs s = s := by
  induction es generalizing rs i with
  | nil => cases rs <;> simp [failElems]
  | cons e es ih =>
    cases rs with
    | nil => simp [failElems]
    | cons r rs =>
      simp only [failElems]
      rw [if_pos (h r (by simp))]
      exact ih rs (fun r hr => h r (by simp [hr])) _

theorem takeFlit_eq (f : FlitMsg) (s : State) (h5 : (groupTasks s f.hdr.grp).isEmpty = false) (h6 : ∀ x, groupStep s f.hdr.grp = some x → x = f.hdr.step) :
   takeFlit f s = applyElems f.hdr.src (groupPart s f.hdr.grp) f.page f.hdr.att f.elems s := by
  unfold takeFlit
  simp only [h5, Bool.false_eq_true, if_false]
  cases hh : groupStep s f.hdr.grp with
  | none => simp
  | some x => simp [h6 x hh]

end Sys2Proof.Machine
end

