-- ==== Sys2Proof/Laws/Registers.lean ====
section
/-! SUPPORT. The registers of a strand: lane by lane, and the strands that a change leaves alone. -/

namespace Sys2Proof.Machine

/-- A lane after lanes have been written under a mask. -/
theorem setLanes_get (mask : Word) (r l : Nat) (xs : List Lane) (m : SMap Lane) (j : Nat) :
    SMap.get 0 (setLanes mask r l xs m) j =
      if 64 * r + l ≤ j ∧ j < 64 * r + l + xs.length ∧ mask.getLsbD (j - 64 * r) = true then (xs[j - (64 * r + l)]?).getD 0 else SMap.get 0 m j := by
  induction xs generalizing l m with
  | nil => simp [setLanes]; omega
  | cons x xs ih =>
    rw [setLanes, ih]
    by_cases hj : j = 64 * r + l
    · subst hj
      have h1 : 64 * r + l - 64 * r = l := by omega
      simp only [h1, show ¬ (64 * r + (l + 1) ≤ 64 * r + l) by omega, false_and, if_false]
      by_cases hm : mask.getLsbD l = true
      · simp [hm]
      · simp [hm]
    · have h2 : SMap.get 0 (if mask.getLsbD l = true then SMap.set 0 m (64 * r + l) x else m) j = SMap.get 0 m j := by
        split
        · exact SMap.get_set_ne _ _ _ hj
        · rfl
      rw [h2]
      by_cases hlt : j < 64 * r + l
      · rw [if_neg (by omega), if_neg (by omega)]
      · have e : j - (64 * r + l) = (j - (64 * r + (l + 1))) + 1 := by omega
        rw [e, List.getElem?_cons_succ]
        simp only [List.length_cons]
        congr 1
        apply propext
        constructor <;> rintro ⟨h1, h2, h3⟩ <;> exact ⟨by omega, by omega, h3⟩

/-- A change of one strand leaves the others alone. -/
theorem others_updStrand (n k : Nat) (f) (s : State) : otherStrands n k s (updStrand n k f s) := by
  intro m j h; rw [strandAt_updStrand, if_neg h]

end Sys2Proof.Machine
end

