-- ==== Sys2Proof/Laws/Taps.lean ====
section
/-! SUPPORT. What an offer to the Whorls can change, and what the words of a step keep. -/

namespace Sys2Proof.Machine

theorem foldl_shape {α} (f : State → α → State) (hf : ∀ s a, ∃ w r, f s a = { s with whorls := w, races := r }) (l : List α) (s : State) :
    ∃ w r, l.foldl f s = { s with whorls := w, races := r } := by
  induction l generalizing s with
  | nil => exact ⟨_, _, rfl⟩
  | cons a l ih =>
    obtain ⟨w, r, h⟩ := hf s a
    rw [List.foldl_cons, h]
    obtain ⟨w', r', h'⟩ := ih { s with whorls := w, races := r }
    exact ⟨w', r', h'⟩

/-- An offer changes the Whorls and the words that they share with software. -/
theorem offerEvent_shape (e s) : ∃ w r, offerEvent e s = { s with whorls := w, races := r } := by
  unfold offerEvent; split
  · exact ⟨_, _, rfl⟩
  · refine foldl_shape _ (fun s i => ?_) _ _
    unfold offerSlot countDrop hardTenant hardWrite updWhorl
    dsimp only
    repeat' split
    all_goals exact ⟨_, _, rfl⟩

theorem tap_shape (t n a g f3 f4 f5) (s : State) : ∃ w r, tap t n a g f3 f4 f5 s = { s with whorls := w, races := r } := by
  unfold tap; split
  · exact ⟨_, _, rfl⟩
  · exact offerEvent_shape ..

theorem tapGroup_shape (t g a b c s) : ∃ w r, tapGroup t g a b c s = { s with whorls := w, races := r } := by
  unfold tapGroup
  exact foldl_shape _ (fun s p => foldl_shape _ (fun s d => offerEvent_shape _ s) _ s) _ s

theorem abort_fold (l : List Nat) (s : State) : (l.foldl (fun s n => updSpindle n abortSpindle s) s).ctxs = s.ctxs := by
  induction l generalizing s with
  | nil => rfl
  | cons a l ih => rw [List.foldl_cons, ih]; rfl

theorem abort_fold2 (l : List (Nat × Bobbin)) (s : State) : (l.foldl (fun s x => setBobbin x.1 none s) s).ctxs = s.ctxs := by
  induction l generalizing s with
  | nil => rfl
  | cons a l ih => rw [List.foldl_cons, ih]; rfl

theorem abortObjects_ctx (c s) : ctxAt (abortObjects c s) c = { ctxAt s c with phasers := [] } := by
  unfold abortObjects ctxAt
  simp only [SMap.get_modify_same, abort_fold, abort_fold2]

/-- A purge changes a context in its flags alone. -/
theorem startPurge_ctx (p tag s c) : ∃ f, ctxAt (startPurge p tag s) c = { ctxAt s c with vflags := f } := by
  unfold startPurge voteFlags ctxAt
  cases h : openCtx s tag with
  | none => simp only []; split <;> exact ⟨_, rfl⟩
  | some k =>
    simp only []
    by_cases hk : c = k
    · subst hk; split <;> simp only [SMap.get_modify_same] <;> exact ⟨_, rfl⟩
    · split <;> simp only [SMap.get_modify_ne _ _ _ hk] <;> exact ⟨_, rfl⟩

theorem voteFlags_purges (tag f s) : (voteFlags tag f s).purges = s.purges := by
  unfold voteFlags; cases openCtx s tag <;> rfl

theorem startPurge_mem (p tag s) : (p, tag) ∈ (startPurge p tag s).purges := by
  unfold startPurge
  simp only [voteFlags_purges]
  split
  · rename_i h; rw [voteFlags_purges]; exact by simpa using h
  · simp

theorem markUnits_shape (a b c p) : ∃ m, markUnits a b c p = { p with poison := m } := by
  unfold markUnits; exact ⟨_, rfl⟩

/-! ### Reads of lines and of ranges -/

/-- A cache that looks a line up changes its copies and their marks only. -/
theorem fillMiss_shape (c x pa) (s : State) : ∃ l k, fillMiss c x pa s = { s with l2 := l, l2Marks := k } := by
  unfold fillMiss fillLine markCopy updCopy
  split <;> exact ⟨_, _, rfl⟩

/-- A read of a line changes copies of lines and their marks, and what the Whorls are offered. -/
theorem readLine_shape (n a tag t0 x va pa) (s : State) :
    ∃ l k w r, readLine n a tag t0 x va pa s = { s with l2 := l, l2Marks := k, whorls := w, races := r } := by
  unfold readLine
  split
  · exact ⟨_, _, _, _, rfl⟩
  · obtain ⟨w, r, h⟩ := tap_shape 0x04 n a tag (BitVec.ofNat 64 va) (BitVec.ofNat 64 (s.tick - t0)) 0 s
    unfold touchLine
    split
    · exact ⟨_, _, w, r, h⟩
    · obtain ⟨l, k, h2⟩ := fillMiss_shape memSide x pa (tap 0x04 n a tag (BitVec.ofNat 64 va) (BitVec.ofNat 64 (s.tick - t0)) 0 s)
      rw [h2, h]; unfold fillLine markCopy updCopy; exact ⟨_, _, _, _, rfl⟩

/-- So does what a load without an acquire does to the lines of a request. -/
theorem requestLines_shape (n k m r) (s : State) (h : m.acq = 0) :
    ∃ l j w q, requestLines n k m r s = { s with l2 := l, l2Marks := j, whorls := w, races := q } := by
  have lines : ∀ (f : Nat → Nat) (tag : BitVec 16) (xs : List Nat) (t : State), (∃ l j w q, t = { s with l2 := l, l2Marks := j, whorls := w, races := q }) →
      ∃ l j w q, xs.foldl (fun s a => readLine n k tag m.t0 m.att (f a) a s) t = { s with l2 := l, l2Marks := j, whorls := w, races := q } := by
    intro f tag xs
    induction xs with
    | nil => exact fun t h => h
    | cons x xs ih =>
      rintro t ⟨l, j, w, q, rfl⟩
      refine ih _ ?_
      obtain ⟨l', j', w', q', e⟩ := readLine_shape n k tag m.t0 m.att (f x) x { s with l2 := l, l2Marks := j, whorls := w, races := q }
      exact ⟨l', j', w', q', e⟩
  unfold requestLines
  simp only [h, ne_eq, not_true_eq_false, if_false]
  split
  · exact ⟨_, _, _, _, rfl⟩
  · split
    · exact ⟨_, _, _, _, rfl⟩
    · exact lines (fun a => r.2.1.toNat + (a - r.1)) _ _ s ⟨_, _, _, _, rfl⟩

/-- A read of a range while no write is on its way, and none is kept, returns the home's bytes and changes nothing. -/
theorem readRange_quiet (n a x u pa len) (s : State) (hp : s.posted = []) (hl : s.wlog = []) :
    readRange n a x u pa len s = ((unitList u pa len).flatMap fun y => homeBytes s x y.1 y.2, s) := by
  have one : ∀ pa len, readOwn n a x pa len s = (homeBytes s x pa len, s) := by
    intro pa len; unfold readOwn forwarded ownOver readUnit; simp [hp, hl]
  have all : ∀ (ys : List (Nat × Nat)) (bs : List Byte),
      ys.foldl (fun r y => let q := readOwn n a x y.1 y.2 r.2; (r.1 ++ q.1, q.2)) (bs, s) = (bs ++ ys.flatMap fun y => homeBytes s x y.1 y.2, s) := by
    intro ys
    induction ys with
    | nil => intro bs; simp
    | cons y ys ih => intro bs; simp only [List.foldl_cons, one, ih, List.flatMap_cons, List.append_assoc]
  exact (all (unitList u pa len) []).trans (by rw [List.nil_append])

end Sys2Proof.Machine
end

