-- ==== Sys2Proof/Laws/Traps.lean ====
section
/-! SUPPORT. Raising, taking and returning from traps: what they keep. -/

namespace Sys2Proof.Machine

/-- A strand as trap entry leaves it. -/
def enteredStrand (r : TrapReq) (c cy : Nat) (tv : Word) : Strand → Strand := fun st => { st with
    epc := if r.kind = .imprecise then st.pc else r.epc
    cause := causeValue r
    estat := estatValue st.privm r.kind
    eaddr := r.eaddr
    saved := st.latch
    latch := []
    privm := true
    exl := true
    trap := none
    hold := .none
    wait := none
    arrived := false
    mem := none
    pc := tv
    readyAt := max (c + 2) (cy + 1) }

/-- What taking or noting a trap keeps of every strand and of memory. -/
def kept (n k : Nat) (s t : State) : Prop := sameRegs (strandAt s n k) (strandAt t n k) ∧ otherStrands n k s t ∧ sameMemory s t

theorem kept_trans {n k s t u} (h : kept n k s t) (g : kept n k t u) : kept n k s u := by
  obtain ⟨⟨a, b, c, d, e⟩, o, m⟩ := h
  obtain ⟨⟨a', b', c', d', e'⟩, o', m'⟩ := g
  exact ⟨⟨a'.trans a, b'.trans b, c'.trans c, d'.trans d, e'.trans e⟩, fun x y h => (o' x y h).trans (o x y h), fun x => (m' x).trans (m x)⟩

theorem kept_of_spindles {n k s t} (h : t.spindles = s.spindles) (hm : t.mem = s.mem) : kept n k s t := by
  have e : ∀ m j, strandAt t m j = strandAt s m j := fun m j => by unfold strandAt spindleAt; rw [h]
  exact ⟨by rw [e]; exact ⟨rfl, rfl, rfl, rfl, rfl⟩, fun m j _ => e m j, fun a => by unfold memByte; rw [hm]⟩

theorem kept_updStrand {n k s f} (h : sameRegs (strandAt s n k) (f (strandAt s n k))) : kept n k s (updStrand n k f s) :=
  ⟨by rw [strandAt_updStrand_same]; exact h, others_updStrand n k f s, fun _ => rfl⟩

/-- A strand as a double trap leaves it. -/
def doubleTrapped : Strand → Strand := fun st => { st with
      run := .dtrap, trap := none, mem := none, wait := none, loops := [], order := [], rstk := [], depth := 0 }

/-- Everything that trap entry can do. -/
theorem enterTrap_shape (n k c r) (s : State) :
    ∃ w q, enterTrap n k r c s = { (updStrand n k (enteredStrand r c s.cycle (spindleAt s n).tvec) s) with whorls := w, races := q } :=
  tap_shape ..

theorem kept_enterTrap (n k r c s) : kept n k s (enterTrap n k r c s) := by
  obtain ⟨w, q, hw⟩ := enterTrap_shape n k c r s
  rw [hw]
  exact kept_trans (kept_updStrand (f := enteredStrand r c s.cycle (spindleAt s n).tvec) ⟨rfl, rfl, rfl, rfl, rfl⟩) (kept_of_spindles rfl rfl)

theorem kept_takeTrap (n k r s) : kept n k s (takeTrap n k r s) := by
  unfold takeTrap
  split
  · unfold doubleTrap
    have h1 : kept n k s (updStrand n k doubleTrapped s) := kept_updStrand ⟨rfl, rfl, rfl, rfl, rfl⟩
    simp only []
    split
    · exact h1
    · exact kept_trans h1 (kept_of_spindles rfl rfl)
  · unfold beginTrap
    simp only []
    have h1 : kept n k s (updStrand n k holdPending s) := kept_updStrand (by unfold holdPending; split <;> exact ⟨rfl, rfl, rfl, rfl, rfl⟩)
    split
    · exact kept_trans h1 (kept_updStrand ⟨rfl, rfl, rfl, rfl, rfl⟩)
    · exact kept_trans h1 (kept_enterTrap ..)

theorem kept_noteCorrupt (n k a b c d e s) : kept n k s (noteCorrupt a b c d e s) := by
  unfold noteCorrupt
  obtain ⟨w, q, hw⟩ := tap_shape 0x0C a b (strandAt s a b).tag (BitVec.ofNat 64 c) d (e.zeroExtend 64) (voteFlags (strandAt s a b).tag fCorrupt s)
  rw [hw]
  unfold voteFlags
  split <;> exact kept_of_spindles rfl rfl

/-- The held trap of the lowest cause. -/
def lowestHeld (hs : List TrapReq) : Option TrapReq := hs.foldl (fun (m : Option TrapReq) h =>
    match m with
    | none => some h
    | some x => if h.code.toNat < x.code.toNat then some h else m) none

theorem lowestHeld_spec (hs : List TrapReq) : ∀ (m : Option TrapReq),
    let f := fun (m : Option TrapReq) (h : TrapReq) => match m with
      | none => some h
      | some x => if h.code.toNat < x.code.toNat then some h else m
    (hs = [] ∧ hs.foldl f m = m) ∨ ∃ x, hs.foldl f m = some x ∧ (x ∈ hs ∨ m = some x) ∧ (∀ y ∈ hs, x.code.toNat ≤ y.code.toNat) ∧ ∀ z, m = some z → x.code.toNat ≤ z.code.toNat := by
  induction hs with
  | nil => intro m; exact Or.inl ⟨rfl, rfl⟩
  | cons h hs ih =>
    intro m f
    right
    rw [List.foldl_cons]
    have step : ∃ z, f m h = some z ∧ (z = h ∨ m = some z) ∧ z.code.toNat ≤ h.code.toNat ∧ ∀ y, m = some y → z.code.toNat ≤ y.code.toNat := by
      cases m with
      | none => exact ⟨h, rfl, Or.inl rfl, Nat.le_refl _, fun _ h => by cases h⟩
      | some x =>
        simp only [f]
        by_cases hc : h.code.toNat < x.code.toNat
        · rw [if_pos hc]; exact ⟨h, rfl, Or.inl rfl, Nat.le_refl _, fun y hy => by cases hy; omega⟩
        · rw [if_neg hc]; exact ⟨x, rfl, Or.inr rfl, by omega, fun y hy => by cases hy; omega⟩
    obtain ⟨z, hz, hz1, hz2, hz3⟩ := step
    rw [hz]
    rcases ih (some z) with ⟨he, hf⟩ | ⟨x, hx, hx1, hx2, hx3⟩
    · subst he
      refine ⟨z, hf, ?_, ?_, hz3⟩
      · rcases hz1 with rfl | h1
        · exact Or.inl List.mem_cons_self
        · exact Or.inr h1
      · intro y hy; simp at hy; subst hy; exact hz2
    · have hxz := hx3 z rfl
      refine ⟨x, hx, ?_, ?_, ?_⟩
      · rcases hx1 with h1 | h1
        · exact Or.inl (List.mem_cons_of_mem _ h1)
        · cases h1
          rcases hz1 with rfl | h1
          · exact Or.inl List.mem_cons_self
          · exact Or.inr h1
      · intro y hy
        rcases List.mem_cons.1 hy with rfl | hy
        · omega
        · exact hx2 y hy
      · intro y hy; have := hz3 y hy; omega

/-- A strand as the return from a handler leaves it. -/
def returnedStrand (c : Nat) (low : Option TrapReq) : Strand → Strand := fun st => { st with
    privm := bitOf st.estat.toNat 7
    exl := false
    latch := st.saved
    saved := []
    deposits := (st.deposits.filter (fun d => !d.handler))
    trap := low
    trapAt := c
    held := match low with | none => [] | some x => st.held.filter (fun h => h.code ≠ x.code) }

theorem returnTrap_shape (s) : returnTrap s = transfer (me s).epc (updMe (returnedStrand s.cycle (lowestHeld (me s).held)) s) := by
  unfold returnTrap; simp only [lowestHeld]
  congr 2

theorem tap_cur (t n a g f3 f4 f5) (s : State) : (tap t n a g f3 f4 f5 s).cur = s.cur := by
  obtain ⟨w, r, h⟩ := tap_shape t n a g f3 f4 f5 s; rw [h]

theorem takeTrap_cur (n k r) (s : State) : (takeTrap n k r s).cur = s.cur := by
  unfold takeTrap; split
  · unfold doubleTrap; simp only []; split <;> rfl
  · unfold beginTrap; simp only []; split
    · rfl
    · unfold enterTrap; rw [tap_cur]; rfl

theorem raise_raised (c e a) (s : State) : (raise c e a s).cur.raised ≠ none := by
  unfold raise raiseReq
  split
  · simp [noteRaised, updCur]
  · rw [takeTrap_cur]; simp [noteRaised, updCur]

theorem noteCorrupt_cur (n k a b c) (s : State) : (noteCorrupt n k a b c s).cur = s.cur := by
  unfold noteCorrupt; rw [tap_cur]; unfold voteFlags; split <;> rfl

theorem meetShadow_raised (sh) (s : State) : (meetShadow sh s).cur.raised = s.cur.raised := by
  unfold meetShadow meetCorrupt; split
  · split
    · rfl
    · rw [noteCorrupt_cur]
  · rfl

end Sys2Proof.Machine
end

