-- ==== Sys2Proof/Laws/Words.lean ====
section
/-! SUPPORT. What the shared wrappers of a word do where nothing stands in its way, and where its guard is false. -/

namespace Sys2Proof.Machine

/-- Without an upset a voted word is its plain meaning. -/
theorem voted_eq (v : Bool) (k : State → State) (s : State) (h : s.upsets = []) : voted v k s = k s := by
  cases v
  · simp [voted]
  · cases s; simp_all [voted, takeVote]

/-- A scalar word that goes is its plain meaning. -/
theorem scalarWord_eq (v g gn) (k : State → State) (s : State) (h : goes g gn s) : scalarWord v g gn k s = k s := by
  simp [scalarWord, voted_eq _ _ _ h.2, whenGuard, h.1]

/-- A vector word whose mode and types may run goes on. -/
theorem whenLanes_eq (cls op w ts dyn) (k : State → State) (s : State) (h : fpMayRun s w ts dyn) : whenLanes cls op w ts dyn k s = k s := by
  unfold whenLanes
  split
  · rfl
  · rw [whenServed, if_pos h.1]
    cases dyn with
    | false => rfl
    | true => rw [if_pos rfl, whenMode, if_neg (h.2 rfl)]

/-- Without an upset the check of a word compares its results with its shadow's own. -/
theorem checkShadow_eq (u row s) (h : s.upsets = []) : checkShadow u row s = (shadowOf u row none, s) := by
  cases s; simp_all [checkShadow, takeShadow]

/-- A word that has begun to wait goes on whatever its guard. -/
theorem whenGuard_resuming (g gn s) (k : State → State) (x) (h : (me s).wait = some x) : whenGuard g gn k s = k s := by
  simp [whenGuard, resuming, h]

/-- A false guard stops a word that has not begun. -/
theorem whenGuard_false (g gn k) (s : State) (h : guard0 s g gn = false) (hw : (me s).wait = none) (hm : (me s).mem = none) : whenGuard g gn k s = s := by
  unfold whenGuard resuming; simp [h, hw, hm]

theorem scalarWord_false (v g gn k) (s : State) (h : guard0 s g gn = false) (hw : (me s).wait = none) (hm : (me s).mem = none) (hu : s.upsets = []) : scalarWord v g gn k s = s := by
  unfold scalarWord; rw [voted_eq _ _ _ hu, whenGuard_false _ _ _ _ h hw hm]

theorem bitOf_eq_getLsbD (x : Word) (n : Nat) : bitOf x.toNat n = x.getLsbD n := by
  simp [bitOf, BitVec.getLsbD, Nat.testBit_eq_decide_div_mod_eq]

/-- The count of ones below a bit. -/
theorem ones_eq_count (p : Word) (j : Nat) : ones p.toNat j = ((List.range j).filter fun i => p.getLsbD i).length := by
  induction j with
  | zero => rfl
  | succ j ih =>
    rw [List.range_succ, List.filter_append, List.length_append, ← ih, ones]
    congr 1
    have : bitOf p.toNat j = p.getLsbD j := by simp [bitOf, BitVec.getLsbD, Nat.testBit_eq_decide_div_mod_eq]
    rw [this]; cases hh : p.getLsbD j <;> simp only [List.filter_cons, hh, List.filter_nil, b2n] <;> rfl

/-- The bit at which a count is reached. -/
theorem oneAt_count (p : Word) (j : Nat) (hj : j < 64) (hp : p.getLsbD j = true) : oneAt p ((List.range j).filter fun i => p.getLsbD i).length = some j := by
  unfold oneAt upto
  have e : List.range 64 = List.range j ++ j :: (List.range (63 - j)).map (j + 1 + ·) := by
    have := List.range_add (n := j) (m := 64 - j)
    rw [show j + (64 - j) = 64 by omega] at this
    rw [this, show 64 - j = (63 - j) + 1 by omega, List.range_succ_eq_map]
    simp; intro a ha; omega
  rw [e, List.filter_append, List.getElem?_append_right (Nat.le_refl _)]
  simp [hp]

theorem foldl_congr_mem {α β} (l : List α) (f g : β → α → β) (h : ∀ x ∈ l, ∀ b, f b x = g b x) (b) : l.foldl f b = l.foldl g b := by
  induction l generalizing b with
  | nil => rfl
  | cons a t ih => simp only [List.foldl_cons]; rw [h a (by simp)]; exact ih (fun x hx => h x (by simp [hx])) _

end Sys2Proof.Machine
end

