-- ==== Sys2Proof/Laws/Frames.lean ====
section
/-! SUPPORT. What the shared operations of the register words leave alone. -/

namespace Sys2Proof.Machine

/-- The target is the register that a destination names. -/
def namesDst (d : Dst) (t : Target) : Prop := ∃ x m xs, t = dstScalar d x ∨ t = dstVector d m xs ∨ t = dstPred d m x

/-- No trap has been raised and none is to be raised at a landing. -/
def untrapped (t : State) : Prop := t.cur.raised = none ∧ t.cur.late = none

/-- A word that does not trap has only added at most one write in flight, to the register that its destination names. -/
structure LandsOnly (d : Dst) (s t : State) : Prop where
  h : untrapped t → sameOutside s t ∧ t.whorls = s.whorls ∧ sameMemory s t ∧ otherStrands s.cur.spn s.cur.strand s t ∧
    ∃ gs : List Landing, gs.length ≤ 1 ∧
      strandAt t s.cur.spn s.cur.strand = { me s with landings := (me s).landings ++ gs } ∧
      ∀ g ∈ gs, namesDst d g.target

theorem landsOnly_refl (d s) : LandsOnly d s s := ⟨fun _ => ⟨rfl, rfl, fun _ => rfl, fun _ _ _ => rfl, [], by simp, by simp [me], by simp⟩⟩

theorem landsOnly_land (d s n t f) (h : namesDst d t) : LandsOnly d s (landAt n t f s) := .mk fun _ => by
  refine ⟨rfl, rfl, fun _ => rfl, others_updStrand _ _ _ s, [_], by simp, strandAt_updStrand_same _ _ _ s, ?_⟩
  intro g hg; simp at hg; subst hg; exact h

theorem namesDst_scalar (d x) : namesDst d (dstScalar d x) := ⟨x, 0, [], Or.inl rfl⟩

theorem namesDst_vector (d m xs) : namesDst d (dstVector d m xs) := ⟨0, m, xs, Or.inr (Or.inl rfl)⟩

theorem namesDst_pred (d m x) : namesDst d (dstPred d m x) := ⟨x, m, [], Or.inr (Or.inr rfl)⟩

theorem landsOnly_landS (d s n x f) : LandsOnly d s (landS n d x f s) := landsOnly_land _ _ _ _ _ (namesDst_scalar ..)

theorem landsOnly_raise (d s c e a u) : LandsOnly d s (raise c e a u) := .mk fun h => absurd h.1 (raise_raised c e a u)

theorem landsOnly_raiseC (d s c e a u sh) : LandsOnly d s (meetShadow sh (raise c e a u)) := .mk fun h =>
  absurd (by rw [← meetShadow_raised]; exact h.1) (raise_raised c e a u)

theorem landsOnly_deliverScalar (d s n x f sh) : LandsOnly d s (deliverScalarFp n d x f sh s) := by
  unfold deliverScalarFp; split
  · exact landsOnly_raiseC ..
  · split
    · exact landsOnly_raiseC ..
    · exact landsOnly_landS ..

theorem landsOnly_late (d s n r f sh) : LandsOnly d s (raiseLate n r f sh s) := .mk fun h => by
  unfold raiseLate at h; simp only [] at h
  split at h
  · exact absurd h.2 (by simp [updCur])
  · exact absurd h.2 (by simp [updMe, updStrand, updSpindle, setSpindle, updCur])

theorem landsOnly_deliverFp (d s n t f sh) (h : namesDst d t) : LandsOnly d s (deliverFp n t f sh s) := by
  unfold deliverFp; split
  · split
    · exact landsOnly_late ..
    · split
      · exact landsOnly_late ..
      · have := landsOnly_land d s n t f h
        refine ⟨fun hq => ?_⟩
        obtain ⟨a, b, c, e, g⟩ := this.h ⟨hq.1, hq.2⟩
        exact ⟨by unfold sameOutside at *; rfl, b, c, e, g⟩
  · refine ⟨fun _ => ?_⟩
    refine ⟨rfl, rfl, fun _ => rfl, others_updStrand _ _ _ s, [_], by simp, strandAt_updStrand_same _ _ _ s, ?_⟩
    intro g hg; simp at hg; subst hg; exact h

theorem landsOnly_guard (d s g gn k) (h : LandsOnly d s (k s)) : LandsOnly d s (whenGuard g gn k s) := by
  unfold whenGuard; split
  · exact h
  · exact landsOnly_refl ..

theorem landsOnly_scalar (d s v g gn k) (hu : s.upsets = []) (h : LandsOnly d s (k s)) : LandsOnly d s (scalarWord v g gn k s) := by
  unfold scalarWord; rw [voted_eq _ _ _ hu]; exact landsOnly_guard _ _ _ _ _ h

theorem landsOnly_lanes (d s cls op w ts dyn k) (h : LandsOnly d s (k s)) : LandsOnly d s (whenLanes cls op w ts dyn k s) := by
  unfold whenLanes; split
  · exact h
  · unfold whenServed; split
    · split
      · unfold whenMode; split
        · exact landsOnly_raise ..
        · exact h
      · exact h
    · exact landsOnly_raise ..

theorem landsOnly_data (d s n fp t f sh) (h : namesDst d t) : LandsOnly d s (deliverData n fp t f sh s) := by
  unfold deliverData; split
  · exact landsOnly_deliverFp _ _ _ _ _ _ h
  · exact landsOnly_land _ _ _ _ _ h

theorem landsOnly_scalarInt (w : O3) (f s) (hu : s.upsets = []) : LandsOnly w.dst s (scalarInt w f s) := landsOnly_scalar _ _ _ _ _ _ hu (landsOnly_landS ..)

theorem landsOnly_scalarField (w : O3) (f s) (hu : s.upsets = []) : LandsOnly w.dst s (scalarField w f s) := landsOnly_scalar _ _ _ _ _ _ hu (landsOnly_landS ..)

theorem landsOnly_minmax (w : O3) (m s) (hu : s.upsets = []) : LandsOnly w.dst s (scalarMinMax w m s) := landsOnly_scalar _ _ _ _ _ _ hu (by
  simp only [checkShadow_eq _ _ _ hu]; exact landsOnly_deliverScalar ..)

theorem landsOnly_imm (w : I32) (f s) (hu : s.upsets = []) : LandsOnly w.dst s (immOp w f s) := landsOnly_scalar _ _ _ _ _ _ hu (landsOnly_landS ..)

theorem landsOnly_vecFp (op) (w : O3) (dyn f s) (hu : s.upsets = []) : LandsOnly w.dst s (vecFp op w dyn f s) := landsOnly_lanes _ _ _ _ _ _ _ _ (by
  simp only [checkShadow_eq _ _ _ hu]; exact landsOnly_deliverFp _ _ _ _ _ _ (namesDst_vector ..))

theorem landsOnly_vecInt (w : O3) (f s) : LandsOnly w.dst s (vecInt w f s) := landsOnly_land _ _ _ _ _ (namesDst_vector ..)

theorem landsOnly_reduce (w : O3) (r s) (hu : s.upsets = []) : LandsOnly w.dst s (reduceWord w r s) := by
  unfold reduceWord; simp only [checkShadow_eq _ _ _ hu]; exact landsOnly_data _ _ _ _ _ _ _ (namesDst_scalar ..)

theorem landsOnly_conv (op) (w : O3) (f s) (hu : s.upsets = []) : LandsOnly w.dst s (convert op w f s) := by
  unfold convert; split
  · unfold convertToBlock; simp only [checkShadow_eq _ _ _ hu]; exact landsOnly_deliverFp _ _ _ _ _ _ (namesDst_vector ..)
  · simp only [checkShadow_eq _ _ _ hu]; exact landsOnly_data _ _ _ _ _ _ _ (namesDst_vector ..)

theorem landsOnly_move (n) (w : O3) (f s) : LandsOnly w.dst s (moveLanes n w f s) := by
  unfold moveLanes
  exact landsOnly_data _ _ _ _ _ _ _ (namesDst_vector ..)

end Sys2Proof.Machine
end

