-- ==== Sys2Proof/Laws/Memory.lean ====
section
/-! SUPPORT. Memory and version blocks: what a write at a home can change, that it keeps the canonical form, and what a read
gives after it. -/

namespace Sys2Proof.Machine

/-! ### What a write can change -/

/-- Of a state only memory, its marks, the copies of lines with theirs, the metadata of version blocks, the record of writes and the
invalidations on their way have changed. -/
def onlyHome (s t : State) : Prop :=
  t = { s with mem := t.mem, memPoison := t.memPoison, l2 := t.l2, l2Marks := t.l2Marks, vmeta := t.vmeta, wlog := t.wlog, invals := t.invals }

theorem onlyHome.rfl {s : State} : onlyHome s s := Eq.refl s

theorem onlyHome.trans {s t u : State} (h1 : onlyHome s t) (h2 : onlyHome t u) : onlyHome s u :=
  Eq.trans h2 (congrArg (fun x : State => { x with mem := u.mem, memPoison := u.memPoison, l2 := u.l2, l2Marks := u.l2Marks, vmeta := u.vmeta,
                                                   wlog := u.wlog, invals := u.invals }) h1)

theorem storeLine_shape (pa : Nat) (bs : List Byte) (q : Bool) (s : State) :
    ∃ m p, storeLine pa bs q s = { s with mem := m, memPoison := p } := by
  unfold storeLine markLine setMemBytes
  exact ⟨_, _, rfl⟩

theorem copyBlock_shape (src dst m0 m1 : Nat) (s : State) :
    ∃ m p w, copyBlock src dst m0 m1 s = { s with mem := m, memPoison := p, wlog := w } := by
  unfold copyBlock
  obtain ⟨m, p, h⟩ := storeLine_shape dst (memBytes s src 128) (decide (m0 ≠ 0)) s
  rw [h]
  obtain ⟨m', p', h'⟩ := storeLine_shape (dst + 128) (memBytes s (src + 128) 128) (decide (m1 ≠ 0)) { s with mem := m, memPoison := p }
  rw [h']
  exact ⟨_, _, _, rfl⟩

/-- A cache that takes a store's line in changes its copies and their marks only. -/
theorem cacheHome_shape (x : Option (BitVec 16)) (pa n : Nat) (q : Bool) (s : State) :
    ∃ c k, cacheHome x pa n q s = { s with l2 := c, l2Marks := k } := by
  have hf : ∃ c k, fillMiss memSide x pa s = { s with l2 := c, l2Marks := k } := by
    unfold fillMiss fillLine markCopy updCopy
    split
    · exact ⟨_, _, rfl⟩
    · exact ⟨_, _, rfl⟩
  obtain ⟨c, k, hf⟩ := hf
  unfold cacheHome markCopy updCopy
  rw [hf]
  simp only []
  split <;> exact ⟨_, _, rfl⟩

theorem onlyHome_cacheHome (x : Option (BitVec 16)) (pa n : Nat) (q : Bool) (s : State) : onlyHome s (cacheHome x pa n q s) := by
  obtain ⟨c, k, h⟩ := cacheHome_shape x pa n q s
  rw [h]; exact Eq.refl _

theorem onlyHome_storeLine (pa : Nat) (bs : List Byte) (q : Bool) (s : State) : onlyHome s (storeLine pa bs q s) := by
  obtain ⟨m, p, h⟩ := storeLine_shape pa bs q s
  rw [h]; exact Eq.refl _

theorem onlyHome_prepBlock (x : Option (BitVec 16)) (pa : Nat) (s : State) : onlyHome s (prepBlock x pa s).1 := by
  unfold prepBlock
  cases h : vpageAt s pa with
  | none => exact .rfl
  | some v =>
    simp only []
    split
    · split
      · exact .rfl
      · obtain ⟨m, p, w, h⟩ := copyBlock_shape (if currentSlot (ctxAt s v.ctx) (vmetaAt s pa) none then pa / 256 * 256 + v.twin else pa / 256 * 256)
          (if currentSlot (ctxAt s v.ctx) (vmetaAt s pa) none then pa / 256 * 256 else pa / 256 * 256 + v.twin)
          (homeMark s none (pa / 256 * 256)) (homeMark s none (pa / 256 * 256 + 128)) s
        rw [h]
        unfold turnCopies
        exact Eq.refl _
    · exact Eq.refl _

theorem onlyHome_noteWrite (o : Origin) (pa n : Nat) (s : State) : onlyHome s (noteWrite o pa n s) := by
  unfold noteWrite; exact Eq.refl _

theorem onlyHome_sendInvals (o : Origin) (x : Option (BitVec 16)) (pa : Nat) (s : State) : onlyHome s (sendInvals o x pa s) := by
  unfold sendInvals; exact Eq.refl _

theorem onlyHome_homeWriteLine (o : Origin) (x : Option (BitVec 16)) (pa : Nat) (bs : List Byte) (q : Bool) (s : State) :
    onlyHome s (homeWriteLine o x pa bs q s) :=
  (onlyHome_prepBlock x pa s).trans ((onlyHome_noteWrite o _ bs.length _).trans ((onlyHome_cacheHome x pa bs.length q _).trans
    ((onlyHome_storeLine _ bs q _).trans (onlyHome_sendInvals o x pa _))))

theorem onlyHome_homeWriteLines (o : Origin) (x : Option (BitVec 16)) (q : Bool) (k pa : Nat) (bs : List Byte) (s : State) :
    onlyHome s (homeWriteLines o x q k pa bs s) := by
  induction k generalizing pa bs s with
  | zero => exact .rfl
  | succ k ih =>
    unfold homeWriteLines
    simp only []
    split
    · exact .rfl
    · exact (onlyHome_homeWriteLine o x pa _ q s).trans (ih _ _ _)

/-- A write at a home changes memory, its marks, the copies of its lines, the metadata of version blocks, the record of writes and the
invalidations on their way, and nothing else. -/
theorem onlyHome_homeWrite (o : Origin) (x : Option (BitVec 16)) (pa : Nat) (bs : List Byte) (q : Bool) (s : State) : onlyHome s (homeWrite o x pa bs q s) :=
  onlyHome_homeWriteLines _ _ _ _ _ _ _

/-! ### The canonical form -/

theorem setMemBytes_wf (a : Nat) (bs : List Byte) (s : State) (h : Memory.wf s.mem = true) : Memory.wf (setMemBytes a bs s).mem = true :=
  SMap.wf_setList bs h a

@[simp] theorem storeLine_mem (pa : Nat) (bs : List Byte) (q : Bool) (s : State) :
    (storeLine pa bs q s).mem = SMap.setList memDefault s.mem pa bs := by
  unfold storeLine markLine setMemBytes; rfl

theorem storeLine_wf (pa : Nat) (bs : List Byte) (q : Bool) (s : State) (h : Memory.wf s.mem = true) :
    Memory.wf (storeLine pa bs q s).mem = true := by
  rw [storeLine_mem]
  exact SMap.wf_setList bs h pa

@[simp] theorem copyBlock_mem (src dst m0 m1 : Nat) (s : State) :
    (copyBlock src dst m0 m1 s).mem =
      SMap.setList memDefault (SMap.setList memDefault s.mem dst (memBytes s src 128)) (dst + 128) (memBytes s (src + 128) 128) := by
  unfold copyBlock
  simp only [storeLine_mem]

theorem copyBlock_wf (src dst m0 m1 : Nat) (s : State) (h : Memory.wf s.mem = true) : Memory.wf (copyBlock src dst m0 m1 s).mem = true := by
  rw [copyBlock_mem]
  exact SMap.wf_setList _ (SMap.wf_setList _ h _) _

theorem prepBlock_wf (x : Option (BitVec 16)) (pa : Nat) (s : State) (h : Memory.wf s.mem = true) :
    Memory.wf (prepBlock x pa s).1.mem = true := by
  unfold prepBlock
  cases vpageAt s pa with
  | none => exact h
  | some v =>
    simp only []
    split
    · split
      · exact h
      · unfold turnCopies
        simp only [copyBlock_mem]
        exact SMap.wf_setList _ (SMap.wf_setList _ h _) _
    · exact h

@[simp] theorem cacheHome_mem (x : Option (BitVec 16)) (pa n : Nat) (q : Bool) (s : State) : (cacheHome x pa n q s).mem = s.mem := by
  obtain ⟨c, k, h⟩ := cacheHome_shape x pa n q s
  rw [h]

theorem homeWriteLines_wf (o : Origin) (x : Option (BitVec 16)) (q : Bool) (k pa : Nat) (bs : List Byte) (s : State)
    (h : Memory.wf s.mem = true) : Memory.wf (homeWriteLines o x q k pa bs s).mem = true := by
  induction k generalizing pa bs s with
  | zero => exact h
  | succ k ih =>
    unfold homeWriteLines
    simp only []
    split
    · exact h
    · apply ih
      unfold homeWriteLine sendInvals noteWrite
      simp only [storeLine_mem, cacheHome_mem]
      exact SMap.wf_setList _ (prepBlock_wf x pa s h) _

/-- A write at a home keeps memory canonical. -/
theorem homeWrite_wf (o : Origin) (x : Option (BitVec 16)) (pa : Nat) (bs : List Byte) (q : Bool) (s : State) (h : Memory.wf s.mem = true) :
    Memory.wf (homeWrite o x pa bs q s).mem = true :=
  homeWriteLines_wf _ _ _ _ _ _ _ h

theorem reset_mem_wf : Memory.wf State.reset.mem = true := rfl

/-! ### Reads after writes -/

theorem memByte_setMemBytes (a b : Nat) (bs : List Byte) (s : State) :
    memByte (setMemBytes a bs s) b = if a ≤ b then (bs[b - a]?).getD (memByte s b) else memByte s b :=
  SMap.get_setList memDefault bs s.mem b a

theorem memByte_setMemBytes_outside (a b : Nat) (bs : List Byte) (s : State) (h : b < a ∨ a + bs.length ≤ b) :
    memByte (setMemBytes a bs s) b = memByte s b :=
  SMap.get_setList_outside memDefault bs s.mem h

theorem getList_eq {α : Type} (d : α) (m : SMap α) (k n : Nat) :
    SMap.getList d m k n = (List.range n).map fun i => SMap.get d m (k + i) := by
  induction n generalizing k with
  | zero => rfl
  | succ n ih =>
    rw [SMap.getList, ih, List.range_succ_eq_map]
    simp only [List.map_cons, List.map_map, Nat.add_zero]
    congr 1
    exact List.map_congr_left fun i _ => by simp only [Function.comp]; congr 1; omega

/-- Bytes read back where they were written are the bytes written. -/
theorem memBytes_setMemBytes (a : Nat) (bs : List Byte) (s : State) : memBytes (setMemBytes a bs s) a bs.length = bs := by
  unfold memBytes
  rw [getList_eq]
  apply List.ext_getElem (by simp)
  intro i h1 h2
  simp only [List.getElem_map, List.getElem_range]
  show memByte (setMemBytes a bs s) (a + i) = bs[i]
  rw [memByte_setMemBytes, if_pos (by omega), show a + i - a = i by omega, List.getElem?_eq_getElem h2]
  rfl

/-- A write within one line to a page that is not versioned stores its bytes there. -/
theorem homeWriteLine_plain (o : Origin) (x : Option (BitVec 16)) (pa : Nat) (bs : List Byte) (q : Bool) (s : State) (h : vpageAt s pa = none) :
    (homeWriteLine o x pa bs q s).mem = SMap.setList memDefault s.mem pa bs := by
  unfold homeWriteLine prepBlock sendInvals storeLine markLine setMemBytes
  simp only [h, cacheHome_mem]
  unfold noteWrite
  rfl

@[simp] theorem memByte_noteWrite (o : Origin) (pa n : Nat) (s : State) (b : Nat) : memByte (noteWrite o pa n s) b = memByte s b := by
  unfold noteWrite memByte; rfl

@[simp] theorem memByte_storeLine (pa : Nat) (bs : List Byte) (q : Bool) (s : State) (b : Nat) :
    memByte (storeLine pa bs q s) b = memByte (setMemBytes pa bs s) b := by
  unfold memByte
  rw [storeLine_mem]
  rfl

end Sys2Proof.Machine
end

