-- ==== Sys2Proof/Laws/Home.lean ====
section
/-! SUPPORT. Writes at a home: each byte afterwards; and the slot that a read of a version block takes. -/

namespace Sys2Proof.Machine

/-- A write within one line leaves the pages of version blocks as they are. -/
theorem vpageAt_homeWriteLine (o : Origin) (x : Option (BitVec 16)) (pa : Nat) (bs : List Byte) (q : Bool) (s : State) :
    vpageAt (homeWriteLine o x pa bs q s) = vpageAt s := by
  unfold vpageAt
  rw [onlyHome_homeWriteLine o x pa bs q s]

theorem homeWriteLines_bytes (o : Origin) (x : Option (BitVec 16)) (q : Bool) (k pa : Nat) (bs : List Byte) (s : State)
    (hv : ∀ a, pa ≤ a → a < pa + bs.length → vpageAt s a = none) (hk : bs.length + pa % 128 ≤ 128 * k) (a : Nat) :
    memByte (homeWriteLines o x q k pa bs s) a = if pa ≤ a ∧ a < pa + bs.length then (bs[a - pa]?).getD 0 else memByte s a := by
  induction k generalizing pa bs s with
  | zero =>
    rw [if_neg (by omega)]; rfl
  | succ k ih =>
    unfold homeWriteLines; simp only []
    split
    · next h => simp at h; subst h; rw [if_neg (by simp)]
    · next h =>
      have hne : 0 < bs.length := by cases bs <;> simp_all
      have hm : ∀ b, memByte (homeWriteLine o x pa (bs.take (128 - pa % 128)) q s) b =
          memByte (setMemBytes pa (bs.take (128 - pa % 128)) s) b := fun b => by
        unfold memByte
        rw [homeWriteLine_plain _ _ _ _ _ _ (hv pa (by omega) (by omega))]
        rfl
      rw [ih]
      · rw [hm, memByte_setMemBytes]
        simp only [List.length_drop]
        by_cases h1 : pa + (128 - pa % 128) ≤ a ∧ a < pa + (128 - pa % 128) + (bs.length - (128 - pa % 128))
        · rw [if_pos h1, if_pos (by omega), List.getElem?_drop]; congr 2; omega
        · rw [if_neg h1]
          by_cases h2 : pa ≤ a ∧ a < pa + bs.length
          · rw [if_pos h2.1, if_pos h2, List.getElem?_take_of_lt (by omega)]
            rw [List.getElem?_eq_getElem (by omega)]; rfl
          · rw [if_neg h2]
            split
            · rw [List.getElem?_eq_none (by simp; omega)]; rfl
            · rfl
      · intro b h1 h2
        rw [vpageAt_homeWriteLine]
        simp at h2; exact hv b (by omega) (by omega)
      · simp only [List.length_drop]; omega

/-- Every byte after a write outside versioned pages. -/
theorem homeWrite_bytes (o : Origin) (x : Option (BitVec 16)) (q : Bool) (pa : Nat) (bs : List Byte) (s : State)
    (hv : ∀ a, pa ≤ a → a < pa + bs.length → vpageAt s a = none) (a : Nat) :
    memByte (homeWrite o x pa bs q s) a = if pa ≤ a ∧ a < pa + bs.length then (bs[a - pa]?).getD 0 else memByte s a :=
  homeWriteLines_bytes o x q _ pa bs s hv (by omega) a

/-- A store's line changes the copies of the L2 and their marks alone. -/
theorem dirtyLine_shape (sk x rel q pa) (s : State) : ∃ l k, dirtyLine sk x rel q pa s = { s with l2 := l, l2Marks := k } := by
  unfold dirtyLine updCopy markCopy; simp only []
  split <;> exact ⟨_, _, rfl⟩

/-- Noting the lines of a write keeps memory, the posted writes and every register. -/
theorem noteLines_keeps (n k att rel q pa len s) :
    (∀ a, memByte (noteLines n k att rel q pa len s) a = memByte s a) ∧ (noteLines n k att rel q pa len s).posted = s.posted ∧
    ∀ m j, sameRegs (strandAt s m j) (strandAt (noteLines n k att rel q pa len s) m j) := by
  unfold noteLines
  generalize lineStarts pa len = ls
  induction ls generalizing s with
  | nil => exact ⟨fun _ => rfl, rfl, fun _ _ => ⟨rfl, rfl, rfl, rfl, rfl⟩⟩
  | cons a ls ih =>
    rw [List.foldl_cons]
    obtain ⟨l, c, hl⟩ := dirtyLine_shape (skeinOf n) att rel q a s
    rw [hl]
    obtain ⟨h1, h2, h3⟩ := ih (updStrand n k (fun st => { st with lines := SMap.set false st.lines (a / 128) true }) { s with l2 := l, l2Marks := c })
    refine ⟨fun b => h1 b, h2, fun m j => ?_⟩
    have h4 : sameRegs (strandAt s m j) (strandAt (updStrand n k (fun st => { st with lines := SMap.set false st.lines (a / 128) true }) { s with l2 := l, l2Marks := c }) m j) := by
      rw [strandAt_updStrand]
      split
      · next h => obtain ⟨rfl, rfl⟩ := h; exact ⟨rfl, rfl, rfl, rfl, rfl⟩
      · exact ⟨rfl, rfl, rfl, rfl, rfl⟩
    obtain ⟨a1, a2, a3, a4, a5⟩ := h4
    obtain ⟨b1, b2, b3, b4, b5⟩ := h3 m j
    exact ⟨b1.trans a1, b2.trans a2, b3.trans a3, b4.trans a4, b5.trans a5⟩

/-- Every byte after a block has been copied. -/
theorem memByte_copyBlock (src dst m0 m1 : Nat) (s : State) (h : src + 256 ≤ dst ∨ dst + 256 ≤ src) (a : Nat) :
    memByte (copyBlock src dst m0 m1 s) a = if dst ≤ a ∧ a < dst + 256 then memByte s (src + (a - dst)) else memByte s a := by
  have hlen : ∀ b, (memBytes s b 128).length = 128 := fun b => by unfold memBytes; rw [getList_eq]; simp
  have hget : ∀ b i, i < 128 → (memBytes s b 128)[i]? = some (memByte s (b + i)) := fun b i hi => by
    unfold memBytes; rw [getList_eq, List.getElem?_map, List.getElem?_range hi]; rfl
  show memByte (storeLine (dst + 128) (memBytes s (src + 128) 128) (decide (m1 ≠ 0)) (storeLine dst (memBytes s src 128) (decide (m0 ≠ 0)) s)) a = _
  rw [memByte_storeLine, memByte_setMemBytes, memByte_storeLine, memByte_setMemBytes]
  by_cases h1 : dst + 128 ≤ a
  · rw [if_pos h1]
    by_cases h2 : a < dst + 256
    · rw [hget _ _ (by omega), if_pos (show dst ≤ a ∧ a < dst + 256 by omega)]
      rw [Option.getD_some, show src + 128 + (a - (dst + 128)) = src + (a - dst) by omega]
    · rw [List.getElem?_eq_none (by rw [hlen]; omega), if_pos (by omega), List.getElem?_eq_none (by rw [hlen]; omega), if_neg (by omega), Option.getD_none, Option.getD_none]
  · rw [if_neg h1]
    by_cases h2 : dst ≤ a
    · rw [if_pos h2, hget _ _ (by omega), if_pos (by omega), Option.getD_some]
    · rw [if_neg h2, if_neg (by omega)]

/-- The byte that a read of a version block returns. -/
theorem homeByte_slot (s : State) (pa : Nat) (v : VPage) (hv : vpageAt s pa = some v) (y : Option (BitVec 16)) :
    homeByte s y pa = memByte s (if (if (vmetaAt s pa).v = false then (vmetaAt s pa).w
      else if (ctxAt s v.ctx).isOpen = true ∧ (vmetaAt s pa).a = (ctxAt s v.ctx).att then (if y = some (ctxAt s v.ctx).att then (vmetaAt s pa).w else !(vmetaAt s pa).w)
      else if SMap.get false (ctxAt s v.ctx).bitmap ((vmetaAt s pa).a.toNat % 4096) = true then (vmetaAt s pa).w else !(vmetaAt s pa).w) then pa + v.twin else pa) := by
  unfold homeByte readAt; simp only [hv]
  unfold currentSlot
  cases (vmetaAt s pa).v <;> simp

end Sys2Proof.Machine
end

