-- ==== Sys2Proof/Laws/PerInstr.lean ====
section
/-! SUPPORT. For every constructor of Instr: where the opcode map of R61 and R386 lists it, or that it is an event, which has
no encoding. -/

namespace Sys2Proof.Laws.Shape

open Sys2Proof

/-- The place of an instruction in the opcode map: its class and operation fit their fields and stand for the constructor. A
constructor that shares its number with others is the one that its operands name. An event has no word. -/
def Statement (i : Instr) : Prop :=
  match i.form with
  | .o3 cls op w => cls < 64 ∧ op < 64 ∧ classAssigned cls = true ∧ ∃ mk, opForm cls op = .o3 mk ∧ (i.split = true → mk w = i)
  | .i32 op w => op < 64 ∧ ∃ mk, opForm 2 op = .i32 mk ∧ mk w = i
  | .b24 op w => op < 64 ∧ ∃ mk, opForm 3 op = .b24 mk ∧ mk w = i
  | .nop w => opForm 3 9 = .nop ∧ i = .nop w
  | .whorl op w => op < 64 ∧ ∃ mk, opAt whorlOps op = some mk ∧ mk w = i
  | .event => i.wf = false ∧ encode i = none

theorem add : ∀ x0, Statement (.add x0) := fun _ => ⟨by decide, by decide, rfl, _, rfl, fun _ => rfl⟩
theorem sub : ∀ x0, Statement (.sub x0) := fun _ => ⟨by decide, by decide, rfl, _, rfl, fun _ => rfl⟩
theorem mul : ∀ x0, Statement (.mul x0) := fun _ => ⟨by decide, by decide, rfl, _, rfl, fun _ => rfl⟩
theorem mulh : ∀ x0, Statement (.mulh x0) := fun _ => ⟨by decide, by decide, rfl, _, rfl, fun _ => rfl⟩
theorem madd : ∀ x0, Statement (.madd x0) := fun _ => ⟨by decide, by decide, rfl, _, rfl, fun _ => rfl⟩
theorem and : ∀ x0, Statement (.and x0) := fun _ => ⟨by decide, by decide, rfl, _, rfl, fun _ => rfl⟩
theorem or : ∀ x0, Statement (.or x0) := fun _ => ⟨by decide, by decide, rfl, _, rfl, fun _ => rfl⟩
theorem xor : ∀ x0, Statement (.xor x0) := fun _ => ⟨by decide, by decide, rfl, _, rfl, fun _ => rfl⟩
theorem andn : ∀ x0, Statement (.andn x0) := fun _ => ⟨by decide, by decide, rfl, _, rfl, fun _ => rfl⟩
theorem shl : ∀ x0, Statement (.shl x0) := fun _ => ⟨by decide, by decide, rfl, _, rfl, fun _ => rfl⟩
theorem shr : ∀ x0, Statement (.shr x0) := fun _ => ⟨by decide, by decide, rfl, _, rfl, fun _ => rfl⟩
theorem sra : ∀ x0, Statement (.sra x0) := fun _ => ⟨by decide, by decide, rfl, _, rfl, fun _ => rfl⟩
theorem rotl : ∀ x0, Statement (.rotl x0) := fun _ => ⟨by decide, by decide, rfl, _, rfl, fun _ => rfl⟩
theorem min : ∀ x0, Statement (.min x0) := fun _ => ⟨by decide, by decide, rfl, _, rfl, fun _ => rfl⟩
theorem max : ∀ x0, Statement (.max x0) := fun _ => ⟨by decide, by decide, rfl, _, rfl, fun _ => rfl⟩
theorem abs : ∀ x0, Statement (.abs x0) := fun _ => ⟨by decide, by decide, rfl, _, rfl, fun _ => rfl⟩
theorem neg : ∀ x0, Statement (.neg x0) := fun _ => ⟨by decide, by decide, rfl, _, rfl, fun _ => rfl⟩
theorem clz : ∀ x0, Statement (.clz x0) := fun _ => ⟨by decide, by decide, rfl, _, rfl, fun _ => rfl⟩
theorem popc : ∀ x0, Statement (.popc x0) := fun _ => ⟨by decide, by decide, rfl, _, rfl, fun _ => rfl⟩
theorem bfx : ∀ x0, Statement (.bfx x0) := fun _ => ⟨by decide, by decide, rfl, _, rfl, fun _ => rfl⟩
theorem bfi : ∀ x0, Statement (.bfi x0) := fun _ => ⟨by decide, by decide, rfl, _, rfl, fun _ => rfl⟩
theorem cmp : ∀ x0, Statement (.cmp x0) := fun _ => ⟨by decide, by decide, rfl, _, rfl, fun _ => rfl⟩
theorem sel : ∀ x0, Statement (.sel x0) := fun _ => ⟨by decide, by decide, rfl, _, rfl, fun _ => rfl⟩
theorem mov : ∀ x0, Statement (.mov x0) := fun _ => ⟨by decide, by decide, rfl, _, rfl, fun _ => rfl⟩
theorem idx : ∀ x0, Statement (.idx x0) := fun _ => ⟨by decide, by decide, rfl, _, rfl, fun _ => rfl⟩
theorem li : ∀ x0, Statement (.li x0) := fun _ => ⟨by decide, _, rfl, rfl⟩
theorem lih : ∀ x0, Statement (.lih x0) := fun _ => ⟨by decide, _, rfl, rfl⟩
theorem addi : ∀ x0, Statement (.addi x0) := fun _ => ⟨by decide, _, rfl, rfl⟩
theorem muli : ∀ x0, Statement (.muli x0) := fun _ => ⟨by decide, _, rfl, rfl⟩
theorem andi : ∀ x0, Statement (.andi x0) := fun _ => ⟨by decide, _, rfl, rfl⟩
theorem ori : ∀ x0, Statement (.ori x0) := fun _ => ⟨by decide, _, rfl, rfl⟩
theorem xori : ∀ x0, Statement (.xori x0) := fun _ => ⟨by decide, _, rfl, rfl⟩
theorem br : ∀ x0, Statement (.br x0) := fun _ => ⟨by decide, _, rfl, rfl⟩
theorem call : ∀ x0, Statement (.call x0) := fun _ => ⟨by decide, _, rfl, rfl⟩
theorem calli : ∀ x0, Statement (.calli x0) := fun _ => ⟨by decide, by decide, rfl, _, rfl, fun _ => rfl⟩
theorem ret : ∀ x0, Statement (.ret x0) := fun _ => ⟨by decide, by decide, rfl, _, rfl, fun _ => rfl⟩
theorem jmpi : ∀ x0, Statement (.jmpi x0) := fun _ => ⟨by decide, by decide, rfl, _, rfl, fun _ => rfl⟩
theorem loop : ∀ x0, Statement (.loop x0) := fun _ => ⟨by decide, _, rfl, rfl⟩
theorem loopi : ∀ x0, Statement (.loopi x0) := fun _ => ⟨by decide, _, rfl, rfl⟩
theorem movl : ∀ x0, Statement (.movl x0) := fun _ => ⟨by decide, by decide, rfl, _, rfl, fun _ => rfl⟩
theorem nop : ∀ x0, Statement (.nop x0) := fun _ => ⟨rfl, rfl⟩
theorem halt : ∀ x0, Statement (.halt x0) := fun _ => ⟨by decide, by decide, rfl, _, rfl, fun _ => rfl⟩
theorem yield : ∀ x0, Statement (.yield x0) := fun _ => ⟨by decide, by decide, rfl, _, rfl, fun _ => rfl⟩
theorem trap : ∀ x0, Statement (.trap x0) := fun _ => ⟨by decide, by decide, rfl, _, rfl, fun _ => rfl⟩
theorem eret : ∀ x0, Statement (.eret x0) := fun _ => ⟨by decide, by decide, rfl, _, rfl, fun _ => rfl⟩
theorem mfcr : ∀ x0, Statement (.mfcr x0) := fun _ => ⟨by decide, by decide, rfl, _, rfl, fun _ => rfl⟩
theorem mtcr : ∀ x0, Statement (.mtcr x0) := fun _ => ⟨by decide, by decide, rfl, _, rfl, fun _ => rfl⟩
theorem strstart : ∀ x0, Statement (.strstart x0) := fun _ => ⟨by decide, by decide, rfl, _, rfl, fun _ => rfl⟩
theorem strwait : ∀ x0, Statement (.strwait x0) := fun _ => ⟨by decide, by decide, rfl, _, rfl, fun _ => rfl⟩
theorem strid : ∀ x0, Statement (.strid x0) := fun _ => ⟨by decide, by decide, rfl, _, rfl, fun _ => rfl⟩
theorem setfp : ∀ x0, Statement (.setfp x0) := fun _ => ⟨by decide, by decide, rfl, _, rfl, fun _ => rfl⟩
theorem ctxsv : ∀ x0, Statement (.ctxsv x0) := fun _ => ⟨by decide, by decide, rfl, _, rfl, fun _ => rfl⟩
theorem ctxld : ∀ x0, Statement (.ctxld x0) := fun _ => ⟨by decide, by decide, rfl, _, rfl, fun _ => rfl⟩
theorem vadd : ∀ x0, Statement (.vadd x0) := fun _ => ⟨by decide, by decide, rfl, _, rfl, fun _ => rfl⟩
theorem vsub : ∀ x0, Statement (.vsub x0) := fun _ => ⟨by decide, by decide, rfl, _, rfl, fun _ => rfl⟩
theorem vmul : ∀ x0, Statement (.vmul x0) := fun _ => ⟨by decide, by decide, rfl, _, rfl, fun _ => rfl⟩
theorem vfma : ∀ x0, Statement (.vfma x0) := fun _ => ⟨by decide, by decide, rfl, _, rfl, fun _ => rfl⟩
theorem vfms : ∀ x0, Statement (.vfms x0) := fun _ => ⟨by decide, by decide, rfl, _, rfl, fun _ => rfl⟩
theorem vfnma : ∀ x0, Statement (.vfnma x0) := fun _ => ⟨by decide, by decide, rfl, _, rfl, fun _ => rfl⟩
theorem vmin : ∀ x0, Statement (.vmin x0) := fun _ => ⟨by decide, by decide, rfl, _, rfl, fun _ => rfl⟩
theorem vmax : ∀ x0, Statement (.vmax x0) := fun _ => ⟨by decide, by decide, rfl, _, rfl, fun _ => rfl⟩
theorem vabs : ∀ x0, Statement (.vabs x0) := fun _ => ⟨by decide, by decide, rfl, _, rfl, fun _ => rfl⟩
theorem vneg : ∀ x0, Statement (.vneg x0) := fun _ => ⟨by decide, by decide, rfl, _, rfl, fun _ => rfl⟩
theorem vscale : ∀ x0, Statement (.vscale x0) := fun _ => ⟨by decide, by decide, rfl, _, rfl, fun _ => rfl⟩
theorem vcmp : ∀ x0, Statement (.vcmp x0) := fun _ => ⟨by decide, by decide, rfl, _, rfl, fun _ => rfl⟩
theorem vclass : ∀ x0, Statement (.vclass x0) := fun _ => ⟨by decide, by decide, rfl, _, rfl, fun _ => rfl⟩
theorem viadd : ∀ x0, Statement (.viadd x0) := fun _ => ⟨by decide, by decide, rfl, _, rfl, fun _ => rfl⟩
theorem visub : ∀ x0, Statement (.visub x0) := fun _ => ⟨by decide, by decide, rfl, _, rfl, fun _ => rfl⟩
theorem vimul : ∀ x0, Statement (.vimul x0) := fun _ => ⟨by decide, by decide, rfl, _, rfl, fun _ => rfl⟩
theorem vimulh : ∀ x0, Statement (.vimulh x0) := fun _ => ⟨by decide, by decide, rfl, _, rfl, fun _ => rfl⟩
theorem vimadd : ∀ x0, Statement (.vimadd x0) := fun _ => ⟨by decide, by decide, rfl, _, rfl, fun _ => rfl⟩
theorem vimin : ∀ x0, Statement (.vimin x0) := fun _ => ⟨by decide, by decide, rfl, _, rfl, fun _ => rfl⟩
theorem vimax : ∀ x0, Statement (.vimax x0) := fun _ => ⟨by decide, by decide, rfl, _, rfl, fun _ => rfl⟩
theorem viabs : ∀ x0, Statement (.viabs x0) := fun _ => ⟨by decide, by decide, rfl, _, rfl, fun _ => rfl⟩
theorem vand : ∀ x0, Statement (.vand x0) := fun _ => ⟨by decide, by decide, rfl, _, rfl, fun _ => rfl⟩
theorem vor : ∀ x0, Statement (.vor x0) := fun _ => ⟨by decide, by decide, rfl, _, rfl, fun _ => rfl⟩
theorem vxor : ∀ x0, Statement (.vxor x0) := fun _ => ⟨by decide, by decide, rfl, _, rfl, fun _ => rfl⟩
theorem vandn : ∀ x0, Statement (.vandn x0) := fun _ => ⟨by decide, by decide, rfl, _, rfl, fun _ => rfl⟩
theorem vnot : ∀ x0, Statement (.vnot x0) := fun _ => ⟨by decide, by decide, rfl, _, rfl, fun _ => rfl⟩
theorem vshl : ∀ x0, Statement (.vshl x0) := fun _ => ⟨by decide, by decide, rfl, _, rfl, fun _ => rfl⟩
theorem vshr : ∀ x0, Statement (.vshr x0) := fun _ => ⟨by decide, by decide, rfl, _, rfl, fun _ => rfl⟩
theorem vsra : ∀ x0, Statement (.vsra x0) := fun _ => ⟨by decide, by decide, rfl, _, rfl, fun _ => rfl⟩
theorem vrotl : ∀ x0, Statement (.vrotl x0) := fun _ => ⟨by decide, by decide, rfl, _, rfl, fun _ => rfl⟩
theorem vicmp : ∀ x0, Statement (.vicmp x0) := fun _ => ⟨by decide, by decide, rfl, _, rfl, fun _ => rfl⟩
theorem vsel : ∀ x0, Statement (.vsel x0) := fun _ => ⟨by decide, by decide, rfl, _, rfl, fun _ => rfl⟩
theorem vclz : ∀ x0, Statement (.vclz x0) := fun _ => ⟨by decide, by decide, rfl, _, rfl, fun _ => rfl⟩
theorem vpopc : ∀ x0, Statement (.vpopc x0) := fun _ => ⟨by decide, by decide, rfl, _, rfl, fun _ => rfl⟩
theorem vdiv : ∀ x0, Statement (.vdiv x0) := fun _ => ⟨by decide, by decide, rfl, _, rfl, fun _ => rfl⟩
theorem vsqrt : ∀ x0, Statement (.vsqrt x0) := fun _ => ⟨by decide, by decide, rfl, _, rfl, fun _ => rfl⟩
theorem vrsqrt : ∀ x0, Statement (.vrsqrt x0) := fun _ => ⟨by decide, by decide, rfl, _, rfl, fun _ => rfl⟩
theorem vrcp : ∀ x0, Statement (.vrcp x0) := fun _ => ⟨by decide, by decide, rfl, _, rfl, fun _ => rfl⟩
theorem vexp2 : ∀ x0, Statement (.vexp2 x0) := fun _ => ⟨by decide, by decide, rfl, _, rfl, fun _ => rfl⟩
theorem vlog2 : ∀ x0, Statement (.vlog2 x0) := fun _ => ⟨by decide, by decide, rfl, _, rfl, fun _ => rfl⟩
theorem div : ∀ x0, Statement (.div x0) := fun _ => ⟨by decide, by decide, rfl, _, rfl, fun _ => rfl⟩
theorem rem : ∀ x0, Statement (.rem x0) := fun _ => ⟨by decide, by decide, rfl, _, rfl, fun _ => rfl⟩
theorem vcvt : ∀ x0, Statement (.vcvt x0) := fun _ => ⟨by decide, by decide, rfl, _, rfl, fun _ => rfl⟩
theorem vcvtsr : ∀ x0, Statement (.vcvtsr x0) := fun _ => ⟨by decide, by decide, rfl, _, rfl, fun _ => rfl⟩
theorem vpack : ∀ x0, Statement (.vpack x0) := fun _ => ⟨by decide, by decide, rfl, _, rfl, fun _ => rfl⟩
theorem vunpack : ∀ x0, Statement (.vunpack x0) := fun _ => ⟨by decide, by decide, rfl, _, rfl, fun _ => rfl⟩
theorem vbcast : ∀ x0, Statement (.vbcast x0) := fun _ => ⟨by decide, by decide, rfl, _, rfl, fun _ => rfl⟩
theorem vperm : ∀ x0, Statement (.vperm x0) := fun _ => ⟨by decide, by decide, rfl, _, rfl, fun _ => rfl⟩
theorem vshuf : ∀ x0, Statement (.vshuf x0) := fun _ => ⟨by decide, by decide, rfl, _, rfl, fun _ => rfl⟩
theorem vrot : ∀ x0, Statement (.vrot x0) := fun _ => ⟨by decide, by decide, rfl, _, rfl, fun _ => rfl⟩
theorem vcompress : ∀ x0, Statement (.vcompress x0) := fun _ => ⟨by decide, by decide, rfl, _, rfl, fun _ => rfl⟩
theorem vexpand : ∀ x0, Statement (.vexpand x0) := fun _ => ⟨by decide, by decide, rfl, _, rfl, fun _ => rfl⟩
theorem viota : ∀ x0, Statement (.viota x0) := fun _ => ⟨by decide, by decide, rfl, _, rfl, fun _ => rfl⟩
theorem vmovx : ∀ x0, Statement (.vmovx x0) := fun _ => ⟨by decide, by decide, rfl, _, rfl, fun _ => rfl⟩
theorem vmovs : ∀ x0, Statement (.vmovs x0) := fun _ => ⟨by decide, by decide, rfl, _, rfl, fun _ => rfl⟩
theorem vins : ∀ x0, Statement (.vins x0) := fun _ => ⟨by decide, by decide, rfl, _, rfl, fun _ => rfl⟩
theorem vredadd : ∀ x0, Statement (.vredadd x0) := fun _ => ⟨by decide, by decide, rfl, _, rfl, fun _ => rfl⟩
theorem vredmax : ∀ x0, Statement (.vredmax x0) := fun _ => ⟨by decide, by decide, rfl, _, rfl, fun _ => rfl⟩
theorem vredmin : ∀ x0, Statement (.vredmin x0) := fun _ => ⟨by decide, by decide, rfl, _, rfl, fun _ => rfl⟩
theorem vscan : ∀ x0, Statement (.vscan x0) := fun _ => ⟨by decide, by decide, rfl, _, rfl, fun _ => rfl⟩
theorem vrng : ∀ x0, Statement (.vrng x0) := fun _ => ⟨by decide, by decide, rfl, _, rfl, fun _ => rfl⟩
theorem vrngf : ∀ x0, Statement (.vrngf x0) := fun _ => ⟨by decide, by decide, rfl, _, rfl, fun _ => rfl⟩
theorem pand : ∀ x0, Statement (.pand x0) := fun _ => ⟨by decide, by decide, rfl, _, rfl, fun _ => rfl⟩
theorem por : ∀ x0, Statement (.por x0) := fun _ => ⟨by decide, by decide, rfl, _, rfl, fun _ => rfl⟩
theorem pxor : ∀ x0, Statement (.pxor x0) := fun _ => ⟨by decide, by decide, rfl, _, rfl, fun _ => rfl⟩
theorem pandn : ∀ x0, Statement (.pandn x0) := fun _ => ⟨by decide, by decide, rfl, _, rfl, fun _ => rfl⟩
theorem pnot : ∀ x0, Statement (.pnot x0) := fun _ => ⟨by decide, by decide, rfl, _, rfl, fun _ => rfl⟩
theorem pset : ∀ x0, Statement (.pset x0) := fun _ => ⟨by decide, by decide, rfl, _, rfl, fun _ => rfl⟩
theorem pget : ∀ x0, Statement (.pget x0) := fun _ => ⟨by decide, by decide, rfl, _, rfl, fun _ => rfl⟩
theorem pcnt : ∀ x0, Statement (.pcnt x0) := fun _ => ⟨by decide, by decide, rfl, _, rfl, fun _ => rfl⟩
theorem pfirst : ∀ x0, Statement (.pfirst x0) := fun _ => ⟨by decide, by decide, rfl, _, rfl, fun _ => rfl⟩
theorem pmov : ∀ x0, Statement (.pmov x0) := fun _ => ⟨by decide, by decide, rfl, _, rfl, fun _ => rfl⟩
theorem ld : ∀ x0, Statement (.ld x0) := fun _ => ⟨by decide, by decide, rfl, _, rfl, fun _ => rfl⟩
theorem st : ∀ x0, Statement (.st x0) := fun _ => ⟨by decide, by decide, rfl, _, rfl, fun _ => rfl⟩
theorem vld : ∀ x0, Statement (.vld x0) := fun _ => ⟨by decide, by decide, rfl, _, rfl, fun _ => rfl⟩
theorem vst : ∀ x0, Statement (.vst x0) := fun _ => ⟨by decide, by decide, rfl, _, rfl, fun _ => rfl⟩
theorem vldx : ∀ x0, Statement (.vldx x0) := fun _ => ⟨by decide, by decide, rfl, _, rfl, fun _ => rfl⟩
theorem vstx : ∀ x0, Statement (.vstx x0) := fun _ => ⟨by decide, by decide, rfl, _, rfl, fun _ => rfl⟩
theorem vlds : ∀ x0, Statement (.vlds x0) := fun _ => ⟨by decide, by decide, rfl, _, rfl, fun _ => rfl⟩
theorem vsts : ∀ x0, Statement (.vsts x0) := fun _ => ⟨by decide, by decide, rfl, _, rfl, fun _ => rfl⟩
theorem sld : ∀ x0, Statement (.sld x0) := fun _ => ⟨by decide, by decide, rfl, _, rfl, fun _ => rfl⟩
theorem sst : ∀ x0, Statement (.sst x0) := fun _ => ⟨by decide, by decide, rfl, _, rfl, fun _ => rfl⟩
theorem cbload : ∀ x0, Statement (.cbload x0) := fun _ => ⟨by decide, by decide, rfl, _, rfl, fun _ => rfl⟩
theorem trans : ∀ x0, Statement (.trans x0) := fun _ => ⟨by decide, by decide, rfl, _, rfl, fun _ => rfl⟩
theorem hrel : ∀ x0, Statement (.hrel x0) := fun _ => ⟨by decide, by decide, rfl, _, rfl, fun _ => rfl⟩
theorem hchk : ∀ x0, Statement (.hchk x0) := fun _ => ⟨by decide, by decide, rfl, _, rfl, fun _ => rfl⟩
theorem ldblk : ∀ x0, Statement (.ldblk x0) := fun _ => ⟨by decide, by decide, rfl, _, rfl, fun _ => rfl⟩
theorem blkwait : ∀ x0, Statement (.blkwait x0) := fun _ => ⟨by decide, by decide, rfl, _, rfl, fun _ => rfl⟩
theorem wbblk : ∀ x0, Statement (.wbblk x0) := fun _ => ⟨by decide, by decide, rfl, _, rfl, fun _ => rfl⟩
theorem evblk : ∀ x0, Statement (.evblk x0) := fun _ => ⟨by decide, by decide, rfl, _, rfl, fun _ => rfl⟩
theorem reschk : ∀ x0, Statement (.reschk x0) := fun _ => ⟨by decide, by decide, rfl, _, rfl, fun _ => rfl⟩
theorem pgreq : ∀ x0, Statement (.pgreq x0) := fun _ => ⟨by decide, by decide, rfl, _, rfl, fun _ => rfl⟩
theorem replay : ∀ x0, Statement (.replay x0) := fun _ => ⟨by decide, by decide, rfl, _, rfl, fun _ => rfl⟩
theorem semsig : ∀ x0, Statement (.semsig x0) := fun _ => ⟨by decide, by decide, rfl, _, rfl, fun _ => rfl⟩
theorem semwait : ∀ x0, Statement (.semwait x0) := fun _ => ⟨by decide, by decide, rfl, _, rfl, fun _ => rfl⟩
theorem semset : ∀ x0, Statement (.semset x0) := fun _ => ⟨by decide, by decide, rfl, _, rfl, fun _ => rfl⟩
theorem semrd : ∀ x0, Statement (.semrd x0) := fun _ => ⟨by decide, by decide, rfl, _, rfl, fun _ => rfl⟩
theorem spldef : ∀ x0, Statement (.spldef x0) := fun _ => ⟨by decide, by decide, rfl, _, rfl, fun _ => rfl⟩
theorem spfillw : ∀ x0, Statement (.spfillw x0) := fun _ => ⟨by decide, by decide, rfl, _, rfl, fun _ => rfl⟩
theorem spfreew : ∀ x0, Statement (.spfreew x0) := fun _ => ⟨by decide, by decide, rfl, _, rfl, fun _ => rfl⟩
theorem sppub : ∀ x0, Statement (.sppub x0) := fun _ => ⟨by decide, by decide, rfl, _, rfl, fun _ => rfl⟩
theorem spret : ∀ x0, Statement (.spret x0) := fun _ => ⟨by decide, by decide, rfl, _, rfl, fun _ => rfl⟩
theorem phreg : ∀ x0, Statement (.phreg x0) := fun _ => ⟨by decide, by decide, rfl, _, rfl, fun _ => rfl⟩
theorem phdrop : ∀ x0, Statement (.phdrop x0) := fun _ => ⟨by decide, by decide, rfl, _, rfl, fun _ => rfl⟩
theorem pharr : ∀ x0, Statement (.pharr x0) := fun _ => ⟨by decide, by decide, rfl, _, rfl, fun _ => rfl⟩
theorem phwait : ∀ x0, Statement (.phwait x0) := fun _ => ⟨by decide, by decide, rfl, _, rfl, fun _ => rfl⟩
theorem pharw : ∀ x0, Statement (.pharw x0) := fun _ => ⟨by decide, by decide, rfl, _, rfl, fun _ => rfl⟩
theorem tickw : ∀ x0, Statement (.tickw x0) := fun _ => ⟨by decide, by decide, rfl, _, rfl, fun _ => rfl⟩
theorem fence : ∀ x0, Statement (.fence x0) := fun _ => ⟨by decide, by decide, rfl, _, rfl, fun _ => rfl⟩
theorem atom : ∀ x0, Statement (.atom x0) := fun _ => ⟨by decide, by decide, rfl, _, rfl, fun _ => rfl⟩
theorem atomr : ∀ x0, Statement (.atomr x0) := fun _ => ⟨by decide, by decide, rfl, _, rfl, fun _ => rfl⟩
theorem cas : ∀ x0, Statement (.cas x0) := fun _ => ⟨by decide, by decide, rfl, _, rfl, fun _ => rfl⟩
theorem swap : ∀ x0, Statement (.swap x0) := fun _ => ⟨by decide, by decide, rfl, _, rfl, fun _ => rfl⟩
theorem mqpush : ∀ x0, Statement (.mqpush x0) := fun _ => ⟨by decide, by decide, rfl, _, rfl, fun _ => rfl⟩
theorem qstatRead : ∀ x0, Statement (.qstatRead x0) := fun x0 => ⟨by decide, by decide, rfl, _, rfl, fun h => by simp_all [Instr.split, qstatOf]⟩
theorem qstatSkip : ∀ x0, Statement (.qstatSkip x0) := fun x0 => ⟨by decide, by decide, rfl, _, rfl, fun h => by simp_all [Instr.split, qstatOf]⟩
theorem qstatFlush : ∀ x0, Statement (.qstatFlush x0) := fun x0 => ⟨by decide, by decide, rfl, _, rfl, fun h => by simp_all [Instr.split, qstatOf]⟩
theorem qstatMxcap : ∀ x0, Statement (.qstatMxcap x0) := fun x0 => ⟨by decide, by decide, rfl, _, rfl, fun h => by simp_all [Instr.split, qstatOf]⟩
theorem qstatClear : ∀ x0, Statement (.qstatClear x0) := fun x0 => ⟨by decide, by decide, rfl, _, rfl, fun h => by simp_all [Instr.split, qstatOf]⟩
theorem cqpush : ∀ x0, Statement (.cqpush x0) := fun _ => ⟨by decide, by decide, rfl, _, rfl, fun _ => rfl⟩
theorem cstage : ∀ x0, Statement (.cstage x0) := fun _ => ⟨by decide, by decide, rfl, _, rfl, fun _ => rfl⟩
theorem cdrain : ∀ x0, Statement (.cdrain x0) := fun _ => ⟨by decide, by decide, rfl, _, rfl, fun _ => rfl⟩
theorem lzdefZone : ∀ x0, Statement (.lzdefZone x0) := fun x0 => ⟨by decide, by decide, rfl, _, rfl, fun h => by simp_all [Instr.split, lzdefOf]⟩
theorem lzdefBinding : ∀ x0, Statement (.lzdefBinding x0) := fun x0 => ⟨by decide, by decide, rfl, _, rfl, fun h => by simp_all [Instr.split, lzdefOf]⟩
theorem lzres : ∀ x0, Statement (.lzres x0) := fun _ => ⟨by decide, by decide, rfl, _, rfl, fun _ => rfl⟩
theorem lzrel : ∀ x0, Statement (.lzrel x0) := fun _ => ⟨by decide, by decide, rfl, _, rfl, fun _ => rfl⟩
theorem lzwait : ∀ x0, Statement (.lzwait x0) := fun _ => ⟨by decide, by decide, rfl, _, rfl, fun _ => rfl⟩
theorem lzstat : ∀ x0, Statement (.lzstat x0) := fun _ => ⟨by decide, by decide, rfl, _, rfl, fun _ => rfl⟩
theorem bst : ∀ x0, Statement (.bst x0) := fun _ => ⟨by decide, by decide, rfl, _, rfl, fun _ => rfl⟩
theorem batom : ∀ x0, Statement (.batom x0) := fun _ => ⟨by decide, by decide, rfl, _, rfl, fun _ => rfl⟩
theorem bflush : ∀ x0, Statement (.bflush x0) := fun _ => ⟨by decide, by decide, rfl, _, rfl, fun _ => rfl⟩
theorem bflushall : ∀ x0, Statement (.bflushall x0) := fun _ => ⟨by decide, by decide, rfl, _, rfl, fun _ => rfl⟩
theorem bstat : ∀ x0, Statement (.bstat x0) := fun _ => ⟨by decide, by decide, rfl, _, rfl, fun _ => rfl⟩
theorem xwdef : ∀ x0, Statement (.xwdef x0) := fun _ => ⟨by decide, by decide, rfl, _, rfl, fun _ => rfl⟩
theorem xadd : ∀ x0, Statement (.xadd x0) := fun _ => ⟨by decide, by decide, rfl, _, rfl, fun _ => rfl⟩
theorem xwread : ∀ x0, Statement (.xwread x0) := fun _ => ⟨by decide, by decide, rfl, _, rfl, fun _ => rfl⟩
theorem xwclr : ∀ x0, Statement (.xwclr x0) := fun _ => ⟨by decide, by decide, rfl, _, rfl, fun _ => rfl⟩
theorem lnkstat : ∀ x0, Statement (.lnkstat x0) := fun _ => ⟨by decide, by decide, rfl, _, rfl, fun _ => rfl⟩
theorem stepid : ∀ x0, Statement (.stepid x0) := fun _ => ⟨by decide, by decide, rfl, _, rfl, fun _ => rfl⟩
theorem vote : ∀ x0, Statement (.vote x0) := fun _ => ⟨by decide, by decide, rfl, _, rfl, fun _ => rfl⟩
theorem stepwait : ∀ x0, Statement (.stepwait x0) := fun _ => ⟨by decide, by decide, rfl, _, rfl, fun _ => rfl⟩
theorem losschk : ∀ x0, Statement (.losschk x0) := fun _ => ⟨by decide, by decide, rfl, _, rfl, fun _ => rfl⟩
theorem rqtag : ∀ x0, Statement (.rqtag x0) := fun _ => ⟨by decide, by decide, rfl, _, rfl, fun _ => rfl⟩
theorem mcread : ∀ x0, Statement (.mcread x0) := fun _ => ⟨by decide, by decide, rfl, _, rfl, fun _ => rfl⟩
theorem mcackLog : ∀ x0, Statement (.mcackLog x0) := fun x0 => ⟨by decide, by decide, rfl, _, rfl, fun h => by simp_all [Instr.split, mcackOf]⟩
theorem mcackPoison : ∀ x0, Statement (.mcackPoison x0) := fun x0 => ⟨by decide, by decide, rfl, _, rfl, fun h => by simp_all [Instr.split, mcackOf]⟩
theorem mcackSuspect : ∀ x0, Statement (.mcackSuspect x0) := fun x0 => ⟨by decide, by decide, rfl, _, rfl, fun h => by simp_all [Instr.split, mcackOf]⟩
theorem tagpurge : ∀ x0, Statement (.tagpurge x0) := fun _ => ⟨by decide, by decide, rfl, _, rfl, fun _ => rfl⟩
theorem scrub : ∀ x0, Statement (.scrub x0) := fun _ => ⟨by decide, by decide, rfl, _, rfl, fun _ => rfl⟩
theorem verdef : ∀ x0, Statement (.verdef x0) := fun _ => ⟨by decide, by decide, rfl, _, rfl, fun _ => rfl⟩
theorem bkpt : ∀ x0, Statement (.bkpt x0) := fun _ => ⟨by decide, by decide, rfl, _, rfl, fun _ => rfl⟩
theorem tmark : ∀ x0, Statement (.tmark x0) := fun _ => ⟨by decide, by decide, rfl, _, rfl, fun _ => rfl⟩
theorem whorlsig : ∀ x0, Statement (.whorlsig x0) := fun _ => ⟨by decide, by decide, rfl, _, rfl, fun _ => rfl⟩
theorem lde : ∀ x0, Statement (.lde x0) := fun _ => ⟨by decide, _, rfl, rfl⟩
theorem ldi : ∀ x0, Statement (.ldi x0) := fun _ => ⟨by decide, _, rfl, rfl⟩
theorem ldt : ∀ x0, Statement (.ldt x0) := fun _ => ⟨by decide, _, rfl, rfl⟩
theorem stt : ∀ x0, Statement (.stt x0) := fun _ => ⟨by decide, _, rfl, rfl⟩
theorem whorlAdd : ∀ x0, Statement (.whorlAdd x0) := fun _ => ⟨by decide, _, rfl, rfl⟩
theorem whorlAddi : ∀ x0, Statement (.whorlAddi x0) := fun _ => ⟨by decide, _, rfl, rfl⟩
theorem whorlSub : ∀ x0, Statement (.whorlSub x0) := fun _ => ⟨by decide, _, rfl, rfl⟩
theorem whorlAnd : ∀ x0, Statement (.whorlAnd x0) := fun _ => ⟨by decide, _, rfl, rfl⟩
theorem whorlOr : ∀ x0, Statement (.whorlOr x0) := fun _ => ⟨by decide, _, rfl, rfl⟩
theorem whorlXor : ∀ x0, Statement (.whorlXor x0) := fun _ => ⟨by decide, _, rfl, rfl⟩
theorem whorlShl : ∀ x0, Statement (.whorlShl x0) := fun _ => ⟨by decide, _, rfl, rfl⟩
theorem whorlShr : ∀ x0, Statement (.whorlShr x0) := fun _ => ⟨by decide, _, rfl, rfl⟩
theorem whorlMin : ∀ x0, Statement (.whorlMin x0) := fun _ => ⟨by decide, _, rfl, rfl⟩
theorem whorlMax : ∀ x0, Statement (.whorlMax x0) := fun _ => ⟨by decide, _, rfl, rfl⟩
theorem beq : ∀ x0, Statement (.beq x0) := fun _ => ⟨by decide, _, rfl, rfl⟩
theorem bne : ∀ x0, Statement (.bne x0) := fun _ => ⟨by decide, _, rfl, rfl⟩
theorem blt : ∀ x0, Statement (.blt x0) := fun _ => ⟨by decide, _, rfl, rfl⟩
theorem hbin : ∀ x0, Statement (.hbin x0) := fun _ => ⟨by decide, _, rfl, rfl⟩
theorem cms : ∀ x0, Statement (.cms x0) := fun _ => ⟨by decide, _, rfl, rfl⟩
theorem hll : ∀ x0, Statement (.hll x0) := fun _ => ⟨by decide, _, rfl, rfl⟩
theorem trig : ∀ x0, Statement (.trig x0) := fun _ => ⟨by decide, _, rfl, rfl⟩
theorem emit : ∀ x0, Statement (.emit x0) := fun _ => ⟨by decide, _, rfl, rfl⟩
theorem exit : ∀ x0, Statement (.exit x0) := fun _ => ⟨by decide, _, rfl, rfl⟩
theorem fixedLatencyWriteback : ∀ x0 x1, Statement (.fixedLatencyWriteback x0 x1) := fun _ _ => ⟨rfl, rfl⟩
theorem idleCountEnd : ∀ x0 x1, Statement (.idleCountEnd x0 x1) := fun _ _ => ⟨rfl, rfl⟩
theorem latchDeposit : ∀ x0 x1, Statement (.latchDeposit x0 x1) := fun _ _ => ⟨rfl, rfl⟩
theorem handleDeposit : ∀ x0 x1, Statement (.handleDeposit x0 x1) := fun _ _ => ⟨rfl, rfl⟩
theorem takeTrap : ∀ x0 x1, Statement (.takeTrap x0 x1) := fun _ _ => ⟨rfl, rfl⟩
theorem watchdogExpiry : ∀ x0, Statement (.watchdogExpiry x0) := fun _ => ⟨rfl, rfl⟩
theorem waitTimeout : ∀ x0 x1, Statement (.waitTimeout x0 x1) := fun _ _ => ⟨rfl, rfl⟩
theorem loadDataReturn : ∀ x0 x1, Statement (.loadDataReturn x0 x1) := fun _ _ => ⟨rfl, rfl⟩
theorem storeApply : ∀ x0, Statement (.storeApply x0) := fun _ => ⟨rfl, rfl⟩
theorem atomApply : ∀ x0, Statement (.atomApply x0) := fun _ => ⟨rfl, rfl⟩
theorem atomicReply : ∀ x0 x1, Statement (.atomicReply x0 x1) := fun _ _ => ⟨rfl, rfl⟩
theorem blockFillDone : ∀ x0 x1, Statement (.blockFillDone x0 x1) := fun _ _ => ⟨rfl, rfl⟩
theorem blockWritebackDone : ∀ x0 x1, Statement (.blockWritebackDone x0 x1) := fun _ _ => ⟨rfl, rfl⟩
theorem blockEvictDone : ∀ x0 x1, Statement (.blockEvictDone x0 x1) := fun _ _ => ⟨rfl, rfl⟩
theorem phaserGatherReceive : ∀ x0, Statement (.phaserGatherReceive x0) := fun _ => ⟨rfl, rfl⟩
theorem phaserReleaseReceive : ∀ x0 x1, Statement (.phaserReleaseReceive x0 x1) := fun _ _ => ⟨rfl, rfl⟩
theorem mma : ∀ x0, Statement (.mma x0) := fun _ => ⟨rfl, rfl⟩
theorem mmaz : ∀ x0, Statement (.mmaz x0) := fun _ => ⟨rfl, rfl⟩
theorem bload : ∀ x0, Statement (.bload x0) := fun _ => ⟨rfl, rfl⟩
theorem accld : ∀ x0, Statement (.accld x0) := fun _ => ⟨rfl, rfl⟩
theorem accst : ∀ x0, Statement (.accst x0) := fun _ => ⟨rfl, rfl⟩
theorem mxt : ∀ x0, Statement (.mxt x0) := fun _ => ⟨rfl, rfl⟩
theorem copy : ∀ x0 x1, Statement (.copy x0 x1) := fun _ _ => ⟨rfl, rfl⟩
theorem copyacc : ∀ x0 x1, Statement (.copyacc x0 x1) := fun _ _ => ⟨rfl, rfl⟩
theorem fill : ∀ x0 x1, Statement (.fill x0 x1) := fun _ _ => ⟨rfl, rfl⟩
theorem gather : ∀ x0 x1, Statement (.gather x0 x1) := fun _ _ => ⟨rfl, rfl⟩
theorem rput : ∀ x0 x1, Statement (.rput x0 x1) := fun _ _ => ⟨rfl, rfl⟩
theorem engineRecordComplete : ∀ x0 x1, Statement (.engineRecordComplete x0 x1) := fun _ _ => ⟨rfl, rfl⟩
theorem subarrayWakeDone : ∀ x0 x1, Statement (.subarrayWakeDone x0 x1) := fun _ _ => ⟨rfl, rfl⟩
theorem subarrayGate : ∀ x0 x1, Statement (.subarrayGate x0 x1) := fun _ _ => ⟨rfl, rfl⟩
theorem rputChunkReceive : ∀ x0, Statement (.rputChunkReceive x0) := fun _ => ⟨rfl, rfl⟩
theorem rputChunkAccept : ∀ x0, Statement (.rputChunkAccept x0) := fun _ => ⟨rfl, rfl⟩
theorem slotCreditReceive : ∀ x0, Statement (.slotCreditReceive x0) := fun _ => ⟨rfl, rfl⟩
theorem cancelNoticeReceive : ∀ x0, Statement (.cancelNoticeReceive x0) := fun _ => ⟨rfl, rfl⟩
theorem bobbinAgeExpiry : ∀ x0 x1, Statement (.bobbinAgeExpiry x0 x1) := fun _ _ => ⟨rfl, rfl⟩
theorem bobbinFlitReceive : ∀ x0, Statement (.bobbinFlitReceive x0) := fun _ => ⟨rfl, rfl⟩
theorem bobbinCompletionReceive : ∀ x0, Statement (.bobbinCompletionReceive x0) := fun _ => ⟨rfl, rfl⟩
theorem xaddApply : ∀ x0 x1, Statement (.xaddApply x0 x1) := fun _ _ => ⟨rfl, rfl⟩
theorem portTrained : ∀ x0 x1 x2, Statement (.portTrained x0 x1 x2) := fun _ _ _ => ⟨rfl, rfl⟩
theorem portFailure : ∀ x0, Statement (.portFailure x0) := fun _ => ⟨rfl, rfl⟩
theorem trainingRetry : ∀ x0, Statement (.trainingRetry x0) := fun _ => ⟨rfl, rfl⟩
theorem flitCrcResend : ∀ x0, Statement (.flitCrcResend x0) := fun _ => ⟨rfl, rfl⟩
theorem peerEntryExchange : ∀ x0 x1, Statement (.peerEntryExchange x0 x1) := fun _ _ => ⟨rfl, rfl⟩
theorem attemptOpen : ∀ x0, Statement (.attemptOpen x0) := fun _ => ⟨rfl, rfl⟩
theorem voteDeadline : ∀ x0, Statement (.voteDeadline x0) := fun _ => ⟨rfl, rfl⟩
theorem childVoteDeadline : ∀ x0 x1, Statement (.childVoteDeadline x0 x1) := fun _ _ => ⟨rfl, rfl⟩
theorem voteReceive : ∀ x0, Statement (.voteReceive x0) := fun _ => ⟨rfl, rfl⟩
theorem decisionReceive : ∀ x0, Statement (.decisionReceive x0) := fun _ => ⟨rfl, rfl⟩
theorem purgeComplete : ∀ x0 x1, Statement (.purgeComplete x0 x1) := fun _ _ => ⟨rfl, rfl⟩
theorem scrubberVisit : ∀ x0, Statement (.scrubberVisit x0) := fun _ => ⟨rfl, rfl⟩
theorem inFieldTest : ∀ x0 x1, Statement (.inFieldTest x0 x1) := fun _ _ => ⟨rfl, rfl⟩
theorem containmentLost : Statement (.containmentLost) := ⟨rfl, rfl⟩
theorem notifyWptrWrite : ∀ x0 x1, Statement (.notifyWptrWrite x0 x1) := fun _ _ => ⟨rfl, rfl⟩
theorem queuePoll : ∀ x0, Statement (.queuePoll x0) := fun _ => ⟨rfl, rfl⟩
theorem qstsWrite : ∀ x0 x1, Statement (.qstsWrite x0 x1) := fun _ _ => ⟨rfl, rfl⟩
theorem queueDescriptorWrite : ∀ x0 x1 x2, Statement (.queueDescriptorWrite x0 x1 x2) := fun _ _ _ => ⟨rfl, rfl⟩
theorem packetNop : ∀ x0 x1, Statement (.packetNop x0 x1) := fun _ _ => ⟨rfl, rfl⟩
theorem launch : ∀ x0 x1, Statement (.launch x0 x1) := fun _ _ => ⟨rfl, rfl⟩
theorem graph : ∀ x0 x1, Statement (.graph x0 x1) := fun _ _ => ⟨rfl, rfl⟩
theorem signal : ∀ x0 x1, Statement (.signal x0 x1) := fun _ _ => ⟨rfl, rfl⟩
theorem waitsig : ∀ x0 x1, Statement (.waitsig x0 x1) := fun _ _ => ⟨rfl, rfl⟩
theorem waitsigReread : ∀ x0 x1, Statement (.waitsigReread x0 x1) := fun _ _ => ⟨rfl, rfl⟩
theorem waitsigTimeout : ∀ x0 x1, Statement (.waitsigTimeout x0 x1) := fun _ _ => ⟨rfl, rfl⟩
theorem stepopen : ∀ x0 x1, Statement (.stepopen x0 x1) := fun _ _ => ⟨rfl, rfl⟩
theorem stepclose : ∀ x0 x1, Statement (.stepclose x0 x1) := fun _ _ => ⟨rfl, rfl⟩
theorem resync : ∀ x0 x1, Statement (.resync x0 x1) := fun _ _ => ⟨rfl, rfl⟩
theorem taskNode : ∀ x0 x1, Statement (.taskNode x0 x1) := fun _ _ => ⟨rfl, rfl⟩
theorem condNode : ∀ x0 x1, Statement (.condNode x0 x1) := fun _ _ => ⟨rfl, rfl⟩
theorem loopNode : ∀ x0 x1, Statement (.loopNode x0 x1) := fun _ _ => ⟨rfl, rfl⟩
theorem switchNode : ∀ x0 x1, Statement (.switchNode x0 x1) := fun _ _ => ⟨rfl, rfl⟩
theorem schedulingRound : Statement (.schedulingRound) := ⟨rfl, rfl⟩
theorem preemptSave : ∀ x0, Statement (.preemptSave x0) := fun _ => ⟨rfl, rfl⟩
theorem taskCompletion : ∀ x0, Statement (.taskCompletion x0) := fun _ => ⟨rfl, rfl⟩
theorem hostMemoryRead : ∀ x0 x1 x2, Statement (.hostMemoryRead x0 x1 x2) := fun _ _ _ => ⟨rfl, rfl⟩
theorem hostMemoryWrite : ∀ x0 x1 x2, Statement (.hostMemoryWrite x0 x1 x2) := fun _ _ _ => ⟨rfl, rfl⟩
theorem objectWindowSemaphoreStore : ∀ x0 x1 x2 x3, Statement (.objectWindowSemaphoreStore x0 x1 x2 x3) := fun _ _ _ _ => ⟨rfl, rfl⟩
theorem objectWindowSpoolStore : ∀ x0 x1 x2 x3 x4, Statement (.objectWindowSpoolStore x0 x1 x2 x3 x4) := fun _ _ _ _ _ => ⟨rfl, rfl⟩
theorem objectWindowPhaserStore : ∀ x0 x1 x2 x3 x4, Statement (.objectWindowPhaserStore x0 x1 x2 x3 x4) := fun _ _ _ _ _ => ⟨rfl, rfl⟩
theorem partitionEntryWrite : ∀ x0 x1 x2, Statement (.partitionEntryWrite x0 x1 x2) := fun _ _ _ => ⟨rfl, rfl⟩
theorem invalidateGo : ∀ x0 x1, Statement (.invalidateGo x0 x1) := fun _ _ => ⟨rfl, rfl⟩
theorem invalidationComplete : ∀ x0, Statement (.invalidationComplete x0) := fun _ => ⟨rfl, rfl⟩
theorem queueBindingWrite : ∀ x0 x1, Statement (.queueBindingWrite x0 x1) := fun _ _ => ⟨rfl, rfl⟩
theorem stepGroupEntryWrite : ∀ x0 x1 x2, Statement (.stepGroupEntryWrite x0 x1 x2) := fun _ _ _ => ⟨rfl, rfl⟩
theorem portEnable : ∀ x0 x1, Statement (.portEnable x0 x1) := fun _ _ => ⟨rfl, rfl⟩
theorem portRetrain : ∀ x0, Statement (.portRetrain x0) := fun _ => ⟨rfl, rfl⟩
theorem timectlWrite : ∀ x0, Statement (.timectlWrite x0) := fun _ => ⟨rfl, rfl⟩
theorem plimsetWrite : ∀ x0, Statement (.plimsetWrite x0) := fun _ => ⟨rfl, rfl⟩
theorem ipeakClear : Statement (.ipeakClear) := ⟨rfl, rfl⟩
theorem powerThrottle : ∀ x0 x1 x2, Statement (.powerThrottle x0 x1 x2) := fun _ _ _ => ⟨rfl, rfl⟩
theorem registerWrite : ∀ x0 x1, Statement (.registerWrite x0 x1) := fun _ _ => ⟨rfl, rfl⟩
theorem powerOnReset : ∀ x0, Statement (.powerOnReset x0) := fun _ => ⟨rfl, rfl⟩
theorem fundamentalReset : ∀ x0, Statement (.fundamentalReset x0) := fun _ => ⟨rfl, rfl⟩
theorem pfFunctionLevelReset : ∀ x0, Statement (.pfFunctionLevelReset x0) := fun _ => ⟨rfl, rfl⟩
theorem vfFunctionLevelReset : ∀ x0, Statement (.vfFunctionLevelReset x0) := fun _ => ⟨rfl, rfl⟩
theorem serviceFull : Statement (.serviceFull) := ⟨rfl, rfl⟩
theorem mailboxLoadImage : ∀ x0, Statement (.mailboxLoadImage x0) := fun _ => ⟨rfl, rfl⟩
theorem mailboxReadKey : ∀ x0, Statement (.mailboxReadKey x0) := fun _ => ⟨rfl, rfl⟩
theorem mailboxAttest : Statement (.mailboxAttest) := ⟨rfl, rfl⟩
theorem attachSlotEnable : ∀ x0 x1 x2, Statement (.attachSlotEnable x0 x1 x2) := fun _ _ _ => ⟨rfl, rfl⟩
theorem attachSlotDisable : ∀ x0 x1, Statement (.attachSlotDisable x0 x1) := fun _ _ => ⟨rfl, rfl⟩
theorem irqstsClear : ∀ x0 x1, Statement (.irqstsClear x0 x1) := fun _ _ => ⟨rfl, rfl⟩
theorem tenantBudgetWrite : ∀ x0 x1 x2, Statement (.tenantBudgetWrite x0 x1 x2) := fun _ _ _ => ⟨rfl, rfl⟩
theorem budgetWindowReset : Statement (.budgetWindowReset) := ⟨rfl, rfl⟩
theorem whorlEventOffer : ∀ x0, Statement (.whorlEventOffer x0) := fun _ => ⟨rfl, rfl⟩
theorem whorlRunStart : ∀ x0 x1, Statement (.whorlRunStart x0 x1) := fun _ _ => ⟨rfl, rfl⟩
theorem debugStopreq : ∀ x0, Statement (.debugStopreq x0) := fun _ => ⟨rfl, rfl⟩
theorem debugResume : ∀ x0, Statement (.debugResume x0) := fun _ => ⟨rfl, rfl⟩
theorem debugStopped : ∀ x0, Statement (.debugStopped x0) := fun _ => ⟨rfl, rfl⟩
theorem allstopRequestReceive : ∀ x0, Statement (.allstopRequestReceive x0) := fun _ => ⟨rfl, rfl⟩
theorem scopecntWrite : ∀ x0 x1, Statement (.scopecntWrite x0 x1) := fun _ _ => ⟨rfl, rfl⟩
theorem scopeadrWrite : ∀ x0 x1, Statement (.scopeadrWrite x0 x1) := fun _ _ => ⟨rfl, rfl⟩
theorem tickTargetReached : ∀ x0 x1, Statement (.tickTargetReached x0 x1) := fun _ _ => ⟨rfl, rfl⟩
theorem linkLoss : ∀ x0, Statement (.linkLoss x0) := fun _ => ⟨rfl, rfl⟩
theorem tickDiscipline : ∀ x0 x1, Statement (.tickDiscipline x0 x1) := fun _ _ => ⟨rfl, rfl⟩
theorem thermalLimitChange : ∀ x0, Statement (.thermalLimitChange x0) := fun _ => ⟨rfl, rfl⟩
theorem voteResend : ∀ x0, Statement (.voteResend x0) := fun _ => ⟨rfl, rfl⟩
theorem cancelNoticeResend : ∀ x0, Statement (.cancelNoticeResend x0) := fun _ => ⟨rfl, rfl⟩
theorem resumptionRestoreDone : ∀ x0, Statement (.resumptionRestoreDone x0) := fun _ => ⟨rfl, rfl⟩
theorem copyReadReturn : ∀ x0 x1, Statement (.copyReadReturn x0 x1) := fun _ _ => ⟨rfl, rfl⟩
theorem hbmTrainingComplete : ∀ x0 x1 x2, Statement (.hbmTrainingComplete x0 x1 x2) := fun _ _ _ => ⟨rfl, rfl⟩

end Sys2Proof.Laws.Shape
end

