-- ==== Sys2Proof/Tests/Slice0.lean ====
section
/-! SUPPORT. Tests: words written out from the encoding tables, terms that the checks refuse, single steps, and for every
statement with hypotheses a state and operands that meet them. -/

namespace Sys2Proof.Tests

open Sys2Proof Sys2Proof.Machine

/-! ### Helpers -/

/-- A word of form O3 with every field 0 and type .s64. -/
def o3 : O3 := { p := false, v := false, dst := .s 1, a := .lit 0, b := .lit 0, c := .v 0, g := 0, gn := false, ty := .s64, mod := 0 }

/-- The fields of an O3 word that most decode tests share. -/
def raw (d : Dst) (a b c : Src) (t : Ty) : O3 :=
  { p := false, v := false, dst := d, a := a, b := b, c := c, g := 0, gn := false, ty := t, mod := 0 }

/-- The reset state with strand 0 of spindle 0 changed. -/
def one (f : Strand → Strand) : State := updStrand 0 0 f State.reset

/-- The reset state with spindle 0 changed. -/
def spin (f : Spindle → Spindle) : State := updSpindle 0 f State.reset

/-! ### Decoding: words written out from the encodings (R45 to R52, R61) -/

theorem test_decode_01 : decodeTableWord 64 0x41060A02_81000030 =
    some (.add { raw (.s 1) (.s 1) (.s 2) (.v 0) .s64 with v := true }) := by decide
theorem test_decode_01_idx : decodeTableWord 64 0x01661600_00000030 = some (.idx (raw (.s 2) (.lit 0) (.v 0) (.v 0) .s64)) := by decide
theorem test_decode_02 : decodeTableWord 64 0x02060800_0000000C =
    some (.li { p := false, v := false, dst := .s 1, imm := 0, g := 0, gn := false, ty := .s64 }) := by decide
theorem test_decode_03 : decodeTableWord 64 0x03203604_00000000 = some (.movl (raw (.v 6) (.lit 2) (.v 0) (.v 0) .s8)) := by decide
theorem test_decode_03_halt : decodeTableWord 64 0x03280000_00000000 = some (.halt (raw (.v 0) (.v 0) (.v 0) (.v 0) .s8)) := by decide
theorem test_decode_03_loopi : decodeTableWord 64 0x031C0000_0800A000 =
    some (.loopi { p := false, v := false, off := 2, aux := 5, g := 0, gn := false, lid := 0 }) := by decide
theorem test_decode_04 : decodeTableWord 64 0x0404060A_00000000 = some (.trap (raw (.v 0) (.lit 5) (.v 0) (.v 0) .s8)) := by decide
theorem test_decode_08 : decodeTableWord 64 0x08101809_0380A490 =
    some (.vfma { raw (.v 3) (.v 4) (.cb 7) (.v 5) .f32 with g := 2 }) := by decide
theorem test_decode_reserved : decodeTableWord 64 0 = none ∧ decodeTableWord 64 0x0D040000_00000000 = none := by decide
theorem test_decode_09 : decodeTableWord 64 0x09041003_FE800008 =
    some (.viadd { raw (.v 2) (.v 1) (.lit 253) (.v 0) .s8 with mod := 8 }) := by decide
theorem test_decode_0A : decodeTableWord 64 0x0A0C000A_00604090 = some (.vrsqrt (raw (.v 0) (.v 5) (.v 0) (.lit 2) .f32)) := by decide
theorem test_decode_0B : decodeTableWord 64 0x0B3E2850_00000290 = some (.vredadd { raw (.s 5) (.v 40) (.v 0) (.v 0) .f32 with g := 1 }) := by decide
theorem test_decode_0C : decodeTableWord 64 0x0C1B1650_00000000 = some (.pset (raw (.p 2) (.lit 40) (.v 0) (.v 0) .s8)) := by decide
theorem test_decode_10 : decodeTableWord 64 0x100C4265_80000080 = some (.vld (raw (.v 8) (.h 2) (.lit 0) (.v 0) .b32)) := by decide
theorem test_decode_11 : decodeTableWord 64 0x11079208_00000000 = some (.trans (raw (.h 2) (.s 4) (.v 0) (.v 0) .s8)) := by decide
theorem test_decode_14 : decodeTableWord 64 0x14140602_82000000 = some (.spldef (raw (.v 0) (.lit 1) (.s 4) (.v 0) .s8)) := by decide
theorem test_decode_15_fence : decodeTableWord 64 0x15040605_85000000 = some (.fence (raw (.v 0) (.lit 2) (.lit 10) (.v 0) .s8)) := by decide
theorem test_decode_15 : decodeTableWord 64 0x150A1A63_84000030 = some (.atom (raw (.s 3) (.h 1) (.lit 8) (.v 0) .s64)) ∧
    decodeTableWord 64 0x150E2263_84000030 = some (.atomr (raw (.s 4) (.h 1) (.lit 8) (.v 0) .s64)) := by decide
theorem test_decode_18 : decodeTableWord 64 0x18040601_80600000 = some (.mqpush (raw (.v 0) (.lit 0) (.lit 0) (.lit 0) .s8)) ∧
    decodeTableWord 64 0x180C0601_80604000 = some (.cqpush (raw (.v 0) (.lit 0) (.lit 0) (.lit 2) .s8)) := by decide
theorem test_decode_1C : decodeTableWord 64 0x1C30060A_06246090 = some (.xadd (raw (.v 0) (.lit 5) (.v 12) (.p 3) .f32)) ∧
    decodeTableWord 64 0x1C2C060A_81000000 = some (.xwdef (raw (.v 0) (.lit 5) (.s 2) (.v 0) .s8)) := by decide
theorem test_decode_1C_read : decodeTableWord 64 0x1C36360B_80000000 = some (.xwread (raw (.s 6) (.lit 5) (.lit 0) (.v 0) .s8)) := by decide
theorem test_decode_20 : decodeTableWord 64 0x20121A09_01000090 = some (.losschk (raw (.s 3) (.s 4) (.cb 2) (.v 0) .f32)) ∧
    decodeTableWord 64 0x20080640_00000000 = some (.vote (raw (.v 0) (.lit 32) (.v 0) (.v 0) .s8)) := by decide
theorem test_decode_24 : decodeTableWord 64 0x24040602_00000000 = some (.bkpt (raw (.v 0) (.lit 1) (.v 0) (.v 0) .s8)) ∧
    decodeTableWord 64 0x2408060A_81800000 = some (.tmark (raw (.v 0) (.lit 5) (.s 3) (.v 0) .s8)) ∧
    decodeTableWord 64 0x240E2000_00000000 = some (.whorlsig (raw (.s 4) (.v 0) (.v 0) (.v 0) .s8)) := by decide
theorem test_decode_whorl : decodeTableWord 32 0x04400003 = some (.lde { d := 1, a := 0, b := 0, imm := 3 }) ∧
    decodeTableWord 32 0x40048004 = some (.bne { d := 0, a := 1, b := 2, imm := 4 }) ∧
    decodeTableWord 32 0x480D0000 = some (.hbin { d := 0, a := 3, b := 4, imm := 0 }) ∧
    decodeTableWord 32 0x5C000000 = some (.exit { d := 0, a := 0, b := 0, imm := 0 }) := by decide
/-- R58, R60: an addition voted beside another word, and two words that name one destination. -/
theorem test_decode_pair : (decodeGroup 0x88101809_0380A490 0x020E2000_0000800C).isOk = true ∧
    decodeGroup 0x88101809_0380A490 0x420E2000_0000800C = .error { cls := 2, op := 3, reason := 3, second := true } := by decide
/-- VPACK with TYPE 0xF and q = 0 fails TYPE (R55); VCVT.f32 from .b32 with g = 1 fails g before the source type (R59, R157). -/
theorem test_decode_0B_reasons : decodeGroup 0x0B0C1002_006000F0 0 = .error { cls := 0x0B, op := 3, reason := 6, second := false } ∧
    decodeGroup 0x0B041002_00630090 0 = .error { cls := 0x0B, op := 1, reason := 5, second := false } := by decide

/-! ### Well-formed instructions: for each check of R59 a term that it refuses -/

theorem test_wf_ok : (Instr.add o3).wf = true ∧ (Instr.vadd (raw (.v 0) (.v 1) (.v 2) (.v 0) .f32)).wf = true := by decide
/-- Step 3: V = 1 in a class with no voted form. -/
theorem test_wf_vote : (Instr.vadd { raw (.v 0) (.v 1) (.v 2) (.v 0) .f32 with v := true }).wf = false := by decide
/-- Step 5: a field that the operation does not use. -/
theorem test_wf_unused : (Instr.add { o3 with c := .lit 1 }).wf = false ∧ (Instr.halt (raw (.s 1) (.v 0) (.v 0) (.v 0) .s8)).wf = false := by decide
/-- Step 6: destination and source kinds. -/
theorem test_wf_dst : (Instr.add { o3 with dst := .v 1 }).wf = false ∧ (Instr.li { p := false, v := false, dst := .p 1, imm := 0, g := 0, gn := false, ty := .s64 }).wf = false := by decide
theorem test_wf_src : (Instr.add { o3 with a := .v 1 }).wf = false ∧ (Instr.trans (raw (.h 2) (.v 4) (.v 0) (.v 0) .s8)).wf = false := by decide
/-- Step 7: TYPE. -/
theorem test_wf_type : (Instr.add { o3 with ty := .f16 }).wf = false ∧ (Instr.add { o3 with ty := .b32 }).wf = false := by decide
/-- Step 8: MOD. -/
theorem test_wf_mod : (Instr.add { o3 with mod := 1 }).wf = false := by decide
/-- Step 9: the guard. -/
theorem test_wf_guard : (Instr.add { o3 with g := 0, gn := true }).wf = false := by decide
/-- Step 10: operands of both clusters. -/
theorem test_wf_cluster : (Instr.vadd (raw (.v 0) (.v 1) (.v 32) (.v 0) .f32)).wf = false := by decide
/-- The rows that share an operation number stand apart by their operands. -/
theorem test_wf_split : (Instr.qstatSkip (raw (.s 1) (.lit 0) (.lit 0) (.v 0) .s8)).wf = false ∧
    (Instr.lzdefBinding (raw (.v 0) (.lit 1) (.s 1) (.v 0) .s8)).wf = false := by decide
/-- R49: AUX of a word that has none, and a loop that ends before it begins. -/
theorem test_wf_b24 : (Instr.br { p := false, v := false, off := 0, aux := 1, g := 0, gn := false, lid := 0 }).wf = false ∧
    (Instr.loopi { p := false, v := false, off := 0, aux := 1, g := 0, gn := false, lid := 0 }).wf = false := by decide
/-- R387: a field that a Whorl operation does not use, and an event number of LDE above 5. -/
theorem test_wf_whorl : (Instr.exit { d := 1, a := 0, b := 0, imm := 0 }).wf = false ∧ (Instr.lde { d := 1, a := 0, b := 0, imm := 6 }).wf = false := by decide
/-- An event has no encoding. -/
theorem test_wf_event : (Instr.schedulingRound).wf = false ∧ encode .schedulingRound = none := by decide

/-! ### Single steps -/

/-- LI s1, 5 placed for the next step: the write is in flight for the next cycle, and the strand stands at the next word. -/
theorem test_step_li : (match step (State.reset.withFetchWord 64 0x02060800_0000280C) with
    | .next t => decide (((strandAt t 0 0).landings.map fun g => (g.due, g.target)) = [(1, .s 1 5)]) && decide ((strandAt t 0 0).pc = 0x8000008)
    | _ => false) = true := by decide +kernel
/-- LDI w1, −1 in a Whorl run. -/
theorem test_step_whorl : (match step (State.reset.withFetchWord 32 0x08403FFF) with
    | .next t => decide (((whorlAt t 0).run.map fun r => (r.pc, SMap.get 0 r.regs 1)) = some (1, BitVec.allOnes 64))
    | _ => false) = true := by decide +kernel
/-- An undefined class raises ILLEGAL with reason 0 or more: the handler is entered. -/
theorem test_step_illegal : (match step (State.reset.withFetchWord 64 0) with
    | .next t => decide ((strandAt t 0 0).exl = true) && decide ((strandAt t 0 0).cause.toNat % 256 = 1)
    | _ => false) = true := by decide +kernel

/-! ### The manual's worked examples -/

/-- The example of RSR in 02: 1 + 2^−10 into BF16. -/
theorem test_example_rsr : (roundFp .bf16 (.rsr 0xE000_0000) false (Fp.decode .fp32 0x3F80_2000)).1 = 0x3F81 ∧
    (roundFp .bf16 (.rsr 0xDFFF_FFFF) false (Fp.decode .fp32 0x3F80_2000)).1 = 0x3F80 := by decide +kernel
/-- The example of 02 on 127.6 into .s8. -/
theorem test_example_convert : fpToInt .rtz true 8 (Fp.decode .fp32 0x42FF_3333) = (127, flNX) ∧
    fpToInt .rne true 8 (Fp.decode .fp32 0x42FF_3333) = (127, flNV) := by decide +kernel
/-- The example of windows in 02: E = −24 with 1.5, −0.25, 2^−30 and −2^−30. -/
theorem test_example_window : (let x := [0x3FC0_0000, 0xBE80_0000, 0x3080_0000, 0xB080_0000].foldl (fun x v => xwAdd x (Fp.decode .fp32 v)) { Window.start with e := -24 }
    x.acc = 20971519 ∧ x.cnt = 4 ∧ x.ovf = false ∧ xwRead x = (0x3FA0_0000, flNX)) := by decide +kernel
/-- The example of VSCALE in 07: 1.5 by 2^−149. -/
theorem test_example_vscale : roundFp .fp32 .rne false (scaleFp (Fp.decode .fp32 0x3FC0_0000) (-149)).1 = (2, flUF ||| flNX) := by decide +kernel
/-- Lane 0 of what a word writes in flight, its flags and its cycle. -/
def written (o : Host.Outcome State Fault Refusal) : List (Nat × List Lane × BitVec 6) :=
  match o with
  | .next t => (me t).landings.map fun g => (g.due, (match g.target with | .v _ _ xs => xs.take 1 | _ => []), g.flags)
  | _ => []
/-- The example of VIADD in 07: −3 to four bytes, with and without saturation. -/
theorem test_example_viadd : (let s := one (setV 1 allLanes (List.replicate 64 0x7F01_80FE))
    let w : O3 := { raw (.v 2) (.v 1) (.lit 253) (.v 0) .s8 with mod := 8 }
    written (exec (.viadd w) s) = [(2, [0x7CFE_80FB], flISAT)] ∧ written (exec (.viadd { w with mod := 0 }) s) = [(2, [0x7CFE_7DFB], 0)]) := by decide +kernel
/-- R39: 1.0625 · 1.0625 − 1.12890625 is 0 and the shadow, which computes with 1 · 1 − 1.125, finds −0.125: SHADOW, and with
an addend of 0 both find 1.12 and no SHADOW. -/
theorem test_shadow_vfma : (let s := fun c : Nat => one (setV 3 allLanes (List.replicate 64 (BitVec.ofNat 32 c)) ∘ setV 1 allLanes (List.replicate 64 0x3F88_0000))
    let late := fun c : Nat => (match exec (.vfma (raw (.v 2) (.v 1) (.v 1) (.v 3) .f32)) (s c) with
      | .next t => (me t).landings.map fun g => g.shadow.isSome
      | _ => [])
    late 0xBF90_8000 = [true] ∧ late 0 = [false]) := by decide +kernel
/-- The example of VREDADD in 08: the tree cancels 2^24, with inexact. -/
theorem test_example_vredadd : (let xs := (upto 64).map fun l => if l = 0 then (0x4B80_0000 : Lane) else if l = 32 then 0xCB80_0000 else if l ≤ 2 then 0x3F80_0000 else 0x40E0_0000
    let s := one fun st => setP 1 allLanes 0x1_0000_0007 (setV 40 allLanes xs st)
    (match exec (.vredadd { raw (.s 5) (.v 40) (.v 0) (.v 0) .f32 with g := 1 }) s with
     | .next t => decide ((me t).landings.map (fun g => (g.due, g.target, g.flags)) = [(6, Target.s 5 0, flNX)])
     | _ => false) = true) := by decide +kernel
/-- The example of 06: TRAP #5 in the unprivileged view with nothing in flight: what the handler reads. -/
theorem test_example_trap : (match step (State.reset.withFetchWord 64 0x0404060A_00000000) with
    | .next t => decide ((strandAt t 0 0).epc = 0x800_0008) && decide ((strandAt t 0 0).cause = 0x0500_0000_0000_0080) &&
        decide ((strandAt t 0 0).estat = 0x40) && decide ((strandAt t 0 0).eaddr = 0) && decide ((strandAt t 0 0).readyAt = 2) &&
        decide (crRead t 0 (spindleAt t 0) (strandAt t 0 0) 0 = some 0xC0)
    | _ => false) = true := by decide +kernel
/-- The example of 01: spindle 429 lies on die 2, and skein 13 of it is skein 53 of the package. -/
theorem test_example_place : dieOf 429 = 2 ∧ skeinOf 429 = 2 * 20 + 13 := by decide

/-! ### Witnesses: states and operands that meet the hypotheses of the statements, clause by clause -/

/-- Strand 0 in a handler, privileged. -/
def handler : State := one fun st => { st with privm := true, exl := true, run := .running }

/-- Strand 0 with a return address at depth 1 and 0. -/
def called (a : Word) : State := one (rasPush a)

/-- Strand 0 waiting for an object. -/
def waiting (code obj target : Nat) : State := one fun st => { st with wait := some ⟨code, obj, 0, 0, target, 0⟩ }

theorem wit_ScalarIntegerResults : goes 0 false State.reset ∧ goes 1 true State.reset := by unfold goes; decide

theorem wit_ScalarFieldResults : goes o3.g o3.gn State.reset ∧ modSatBit o3.mod = false ∧ o3.ty ≠ .f32 ∧
    enabled (me State.reset) (minMaxFp .fp32 false (scalarBits .f32 State.reset (.lit 0x38)) 0x80000000).2 = 0 ∧
    enabled (me State.reset) (minMaxFp .fp32 true 0 0x7F800000).2 = 0 ∧
    enabled (me State.reset) (sigFlags [Fp.decode .fp32 0, Fp.decode .fp32 0x7F800001]) = 0 := by unfold goes; decide
/-- 1.125 and −2 meet what the statement asks of a minimum and a maximum against their shadows. -/
theorem wit_ScalarFieldResults_near : ∀ m ∈ [true, false], shadowOf 4 [[some ⟨.product, (minMaxFp .fp32 m 0x3F900000 0xC0000000).1,
    (minMaxFp .fp32 m (shortEnc .fp32 0x3F900000) (shortEnc .fp32 0xC0000000)).1⟩]] none = none := by decide +kernel
/-- A voted word; MOVL from a latch that is EMPTY and from one that is FULL. -/
theorem wit_ScalarFieldResults_voted : State.reset.upsets = [] ∧ ({ o3 with v := true } : O3).v = true ∧ guard0 State.reset 0 false = true ∧
    (latchAt (rd State.reset) 0).st ≠ .pending ∧ (latchAt (rd (one (setLatch 5 ⟨.full, [], 7, 0⟩))) 5).st ≠ .pending := by decide

theorem wit_CommonWriteValue : Ty.isIntB .s8 = true ∧ Ty.isIntB .n64 = true ∧ Ty.isIntB .b32 = true := by decide

theorem wit_TransferResults : goes 0 false State.reset ∧ (rd State.reset).depth ≠ 80 ∧ (srcZero State.reset (.lit 8)).toNat % 8 = 0 ∧
    goes 0 false (called 8) ∧ (rasTop (rd (called 8))).toNat % 8 = 0 ∧ (rd (called 8)).depth ≠ 0 := by unfold goes; decide
/-- LOOP with T = 1 and S = 1, with T = 0, and with S = 2 where no other loop is pipelined; LOOPI with T = 8191 and T = 0. -/
theorem wit_TransferResults_loop :
    ((srcZero State.reset (loopSource 0x1800)).toNat % 2 ^ 32 = 0 ∧ (srcZero State.reset (loopSource 0x1800)).toNat / 2 ^ 32 % 8 + 1 = 1) ∧
    (0 : BitVec 13).toNat = 0 ∧
    ((srcZero State.reset (loopSource 0x1808)).toNat % 2 ^ 32 = 1 ∧ (srcZero State.reset (loopSource 0x1808)).toNat / 2 ^ 32 % 8 + 1 = 1) ∧
    (let s := one fun st => setS 1 0x1_0000_0001 st
     goes 0 false s ∧ (srcZero s (loopSource 0x808)).toNat % 2 ^ 32 = 1 ∧ (srcZero s (loopSource 0x808)).toNat / 2 ^ 32 % 8 + 1 = 2 ∧
       ¬(2 ≤ 2 ∧ (modLoop (rd s)).any (fun x => x ≠ 0) = true)) ∧
    ((0x1FFF : BitVec 13).toNat = 8191 ∧ 8191 ≠ 0 ∧ ¬(2 ≤ 1 ∧ (modLoop (rd State.reset)).any (fun x => x ≠ 0) = true)) := by unfold goes; decide
/-- Loop 3 with eight stages beside loop 0, which has two. -/
def staged : State := one fun st => { setS 1 0x7_0000_0001 st with loops := [(0, some { start := 0, stop := 0, k := 1, i := 0, s := 2, t := 1 })] }
theorem wit_ControlTraps_loop : goes 0 false staged ∧ (srcZero staged (loopSource 0x808)).toNat / 2 ^ 32 % 8 ≠ 0 ∧
    (modLoop (rd staged)).any (fun x => x ≠ 3) = true := by unfold goes; decide
/-- MOVL from a FULL vector latch and from a FULL scalar latch, with and without an enabled flag, and from PENDING ones. -/
theorem wit_TransferResults_movl : (∀ n ∈ [3, 4], let s := one (setLatch n ⟨.full, [], 7, 0⟩)
      goes 0 false s ∧ (latchAt (rd s) n).st = .full ∧ enabled (rd s) (latchAt (rd s) n).flags = 0) ∧
    (∀ n ∈ [0, 5], let s := one fun st => { setLatch n ⟨.full, [], 7, 0x1F⟩ st with fpctl := 0x8000 }
      goes 0 false s ∧ (latchAt (rd s) n).st = .full ∧ enabled (rd s) (latchAt (rd s) n).flags ≠ 0) ∧
    ∀ n ∈ [0, 5], let s := one (setLatch n ⟨.pending, [], 0, 0⟩)
      goes 0 false s ∧ (latchAt (rd s) n).st = .pending := by unfold goes; decide
/-- A deposit with an enabled flag: the copy goes on its way, the latch is EMPTY, and FPX comes after the word (R105, R112). -/
theorem test_movl_fpx : (let s := one fun st => { setLatch 4 ⟨.full, [], 7, 1⟩ st with fpctl := 0x8000 }
    let t := match exec (.movl (raw (.s 1) (.lit 4) (.v 0) (.v 0) .s8)) s with | .next t => t | _ => s
    (latchAt (me t) 4).st = .empty ∧ (me t).landings.map (·.target) = [.s 1 7] ∧
      (me t).trap.map (fun r => (r.code, r.detail)) = some (9, 1)) := by decide

theorem wit_ControlTraps : (let s := one fun st => { st with depth := 80 }
      goes 0 false s ∧ (rd s).depth = 80 ∧ (srcZero s (.lit 8)).toNat % 8 = 0) ∧
    goes 0 false State.reset ∧ (srcZero State.reset (.lit 1)).toNat % 8 ≠ 0 ∧ (rd State.reset).depth = 0 ∧
    (latchAt (rd State.reset) 5).st = .empty ∧
    goes 0 false (called 4) ∧ (rd (called 4)).depth ≠ 0 ∧ (rasTop (rd (called 4))).toNat % 8 ≠ 0 := by unfold goes; decide
/-- Numbers at the ends of the ranges: 0x08, 0x10, 0x12 and 0x02 without privilege, 0x14 unassigned; ERET outside a handler
and to an address that is not aligned; STRSTART of a strand that runs, of one stopped by a double trap, of an idle and a halted one. -/
theorem wit_ControlTraps_system : guard0 State.reset 0 false = true ∧ (me State.reset).privm = false ∧
    srcNum State.reset (.lit 0x08) 8 = 0x08 ∧ srcNum State.reset (.lit 0x10) 8 = 0x10 ∧ srcNum State.reset (.lit 0x12) 8 = 0x12 ∧
    srcNum State.reset (.lit 0x02) 8 = 0x02 ∧ 0x13 < srcNum State.reset (.lit 0x14) 8 ∧
    (let s := one fun st => { st with privm := true }
     guard0 s 0 false = true ∧ (me s).privm = true ∧ (me s).exl = false) ∧
    (let s := one fun st => { st with privm := true, exl := true, epc := 4, run := .running }
     guard0 s 0 false = true ∧ (me s).privm = true ∧ (me s).exl = true ∧ (me s).epc.toNat % 8 ≠ 0 ∧ (strandAt s 0 (srcNum s (.lit 0) 2)).run = .running) ∧
    (∀ x ∈ [RunSt.dtrap, .halted], (strandAt (updStrand 0 3 (fun st => { st with run := x }) State.reset) 0 (srcNum State.reset (.lit 3) 2)).run = x) ∧
    (strandAt State.reset 0 (srcNum State.reset (.lit 3) 2)).run = .idle ∧ (srcZero State.reset (.lit 1)).toNat % 8 ≠ 0 := by decide

/-- The readable registers at both ends, with privilege where it is needed; no flag in flight; STRSTART of an idle strand and of
a halted one; STRWAIT for a halted strand. -/
theorem wit_SystemResults : guard0 handler 0 false = true ∧ (me handler).privm = true ∧ (me handler).exl = true ∧ (me handler).epc.toNat % 8 = 0 ∧
    (crRead handler 0 (mySpindle handler) (me handler) 0x00).isSome = true ∧ (crRead handler 0 (mySpindle handler) (me handler) 0x13).isSome = true ∧
    (crRead State.reset 0 (mySpindle State.reset) (me State.reset) 1).isSome = true ∧ crHidden 1 = false ∧ flagsInFlight (me State.reset) = false ∧
    srcNum handler (.lit 0x13) 8 ≤ 0x13 ∧ (strandAt State.reset 0 (srcNum State.reset (.lit 3) 2)).run = .idle ∧
    (let s := updStrand 0 2 (fun st => { st with run := .halted }) State.reset
     guard0 s 0 false = true ∧ (strandAt s 0 (srcNum s (.lit 2) 2)).run = .halted ∧ (srcZero s (.lit 8)).toNat % 8 = 0 ∧
       bitOf (srcNum s (.lit 4) 4) 2 = true ∧ (strandAt s 0 2).run ≠ .running ∧ (strandAt s 0 2).run ≠ .purged) := by decide

theorem wit_VectorFloatResults : State.reset.upsets = [] ∧ fpMayRun State.reset (raw (.v 0) (.v 1) (.v 2) (.v 0) .f32) [.f32] true := by
  unfold fpMayRun; decide
/-- The three cases of delivery: no enable, an enable that the flags do not meet, an enable that they meet. -/
theorem wit_VectorFloatResults_delivery : tenOf (rd State.reset) = 0 ∧
    (let s := one fun st => { st with fpctl := 0x8000 }
     tenOf (rd s) ≠ 0 ∧ (0 : Flags) &&& tenOf (rd s) = 0 ∧ (0x1F : Flags) &&& tenOf (rd s) ≠ 0 ∧
       (0 : Flags) &&& tenOf (me s) = 0 ∧ (0x1F : Flags) &&& tenOf (me s) ≠ 0) := by decide

theorem wit_LatchWordResults : State.reset.upsets = [] ∧ fpMayRun State.reset (raw (.v 0) (.v 1) (.v 2) (.lit 3) .f32) [.f32] true ∧
    guard0 State.reset 0 false = true := by unfold fpMayRun; decide

theorem wit_ConvertReduceResults : State.reset.upsets = [] ∧
    (let w := raw (.v 0) (.v 1) (.v 0) (.lit 9) .bf16
     fpMayRun State.reset w [w.ty, cvtFrom w] true ∧ fpMayRun State.reset w [w.ty, cvtFrom w] false ∧ fpMayRun State.reset w [] (w.ty = .f32)) := by
  unfold fpMayRun; decide

theorem wit_LaneMoveResults : fpMayRun State.reset (raw (.v 0) (.v 1) (.v 2) (.lit 0) .bf16) [.bf16] false ∧ guard0 State.reset 0 false = true := by
  unfold fpMayRun; decide

/-- A predicate with lanes 0 and 63 set, and the guard of every lane. -/
theorem wit_CompressExpand : let s := one fun st => setP 1 allLanes 0x8000_0000_0000_0001 st
    (srcPred s (.p 1)).getLsbD 63 = true ∧ (srcPred s (.p 1)).getLsbD 0 = true ∧ guardMask s 0 false = allLanes ∧
      ((List.range 64).filter fun i => (srcPred s (.p 1)).getLsbD i).length = 2 := by decide

theorem wit_LaneExtractInsert : guard0 State.reset 0 false = true ∧ (raw (.s 1) (.v 1) (.lit 63) (.v 0) .b32).ty = .b32 ∧
    (raw (.s 1) (.v 1) (.lit 63) (.v 0) .s32).ty = .s32 ∧ (raw (.v 63) (.lit 1) (.lit 63) (.v 0) .b32).dst = .v 63 ∧
    (guardMask State.reset 0 false).getLsbD 63 = true := by decide

/-! ### Memory words -/

/-- A handle of a large page at virtual 0x800_0000 with WR; the same without WR, and with NR. -/
def hBig : Word := 0xB000_0000_0800_0000
def hRead : Word := 0xA000_0000_0800_0000
def hAway : Word := 0xF000_0000_0800_0000

/-- Strand 0 with a handle in h1, and offsets in s1, beside a table that maps its page. -/
def held (h off : Word) (f : Strand → Strand := id) : State :=
  updStrand 0 0 (fun st => f { setS 1 off (setH 1 h st) with hpa := [(1, 0x800_0000)], run := .running }) (State.reset.withFetchWord 64 0)

/-- A word that names h1 and the offset in s1. -/
def mw (t : Ty) : O3 := raw (.s 2) (.h 1) (.s 1) (.v 0) t

/-- The last aligned offset of each size in the page. -/
theorem wit_LoadResults : guard0 (held hRead 0x1FFFF8) 0 false = true ∧ (me (held hRead 0x1FFFF8)).mem = none ∧
    accessGood (held hRead 0x1FFFF8) (mw .s64) 8 8 false ∧ accessGood (held hRead 0x1FFFFF) (mw .s8) 1 1 false ∧
    accessGood (held hRead 0x1FFF00) (mw .b32) 4 256 false := by unfold accessGood; decide
theorem wit_LoadResults_indexed : indexedGood (held hBig 0x1FFFFC) (mw .b32) false ∧ indexedGood (held hBig 0) (mw .b32) true := by
  unfold indexedGood; decide
theorem wit_LoadResults_bank : (let t : Task := { emptyTask State.reset 0 [] 0 0 0 with cbva := some 0x800_0000 }
    let s := { updSpindle 0 (fun p => { p with task := some 7 }) (held hBig 0) with tasks := [(7, some t)] }
    guard0 s 0 false = true ∧ (me s).mem = none ∧ (taskOf s (mySpindle s)).bind Task.cbva = some 0x800_0000 ∧
      (cbRequests s (mySpindle s).part 0x800_0000 255 1).isSome = true) := by decide
/-- An answer that is there, and a page that is not resident. -/
theorem wit_LoadResults_answer : (let m : MemOp := ⟨0, 0, 0, [], none, none, 0, true, List.replicate 8 1, none, none⟩
    let s := held hBig 0 fun st => { st with mem := some m }
    (me s).mem = some m ∧ m.ready = true ∧ m.poison = none) ∧
    (let s := held hAway 0x1FFFF8
     guard0 s 0 false = true ∧ (me s).mem = none ∧ hV (hregOf (rd s) (hNum (mw .s64).a)) = true ∧ hNR (hregOf (rd s) (hNum (mw .s64).a)) = true ∧
       offsetOf s (mw .s64).b % 8 = 0 ∧ offsetOf s (mw .s64).b + 8 ≤ hSize (hregOf (rd s) (hNum (mw .s64).a))) := by decide

theorem wit_StoreResults : guard0 (held hBig 0x1FFFF8) 0 false = true ∧ accessMask (mw .s64) = 0 ∧
    accessMask { mw .s64 with mod := 2, c := .lit 31 } ≠ 0 ∧ nothingOut (held hBig 0) 0 0 ∧
    accessGood (held hBig 0x1FFFF8) (mw .s64) 8 8 true ∧ accessGood (held hBig 0x1FFF00) (mw .b32) 4 256 true := by
  unfold accessGood nothingOut; decide
/-- The last offset of one granule, with and without determinism mode; a tag that the tiles hold. -/
theorem wit_StoreResults_scratch : ∀ d ∈ [true, false],
    let s := updStrand 0 0 (setS 1 0xFF00) (spin fun p => { p with sg := 1, det := d })
    guard0 s 0 false = true ∧ scratchGood s false 0xFF00 256 ∧ scratchGood s true 0xFF00 256 ∧ offsetOf s (.s 1) = 0xFF00 ∧
      scratchPoison (mySpindle (entered false (unitsOf 0xFF00 256) s)) 0xFF00 256 = none ∧
      (∀ t ∈ tilesOf 0xFF00 256, tileTag (mySpindle s) t = (srcZero s (.lit 0)).truncate 16) := by
  unfold scratchGood entered; decide

theorem wit_AccessTraps : (∀ s ∈ [held 0 8, held hBig 4, held hBig 0x200000, held hRead 0x1FFFF8, held hAway 0x1FFFF8],
      guard0 s 0 false = true ∧ (me s).mem = none) ∧
    hV (hregOf (rd (held 0 8)) 1) = false ∧
    (hV (hregOf (rd (held hBig 4)) 1) = true ∧ offsetOf (held hBig 4) (.s 1) % 8 ≠ 0) ∧
    (offsetOf (held hBig 0x200000) (.s 1) % 8 = 0 ∧ hSize hBig < offsetOf (held hBig 0x200000) (.s 1) + 8) ∧
    (hWR (hregOf (rd (held hRead 0x1FFFF8)) 1) = false ∧ offsetOf (held hRead 0x1FFFF8) (.s 1) + 8 ≤ hSize hRead) ∧
    (hWR hAway = true ∧ hNR (hregOf (rd (held hAway 0x1FFFF8)) 1) = true) := by decide

/-- Blocks in each state, at the last line of a page; handles with and without NR; privilege. -/
theorem wit_HandleBlockResults : (raw (.h 15) (.s 4) (.v 0) (.v 0) .s8).dst = .h 15 ∧
    (let s := held hBig 0x1FE000
     guard0 s 0 false = true ∧ accessGood s (mw .s8) 128 (128 * 64) false ∧ (blockAt (mySpindle s) 15).st = .free) ∧
    (∀ st ∈ [BlkSt.ready, .filling, .writing, .evicting],
      (blockAt (mySpindle (updSpindle 0 (setBlock 15 ⟨st, 0, 0, 1, 0, none, []⟩) State.reset)) 15).st = st) ∧
    srcNum State.reset (.lit 15) 4 = 15 ∧ hV hBig = true ∧ hNR hBig = false ∧ hV hAway = true ∧ hNR hAway = true ∧ (me handler).privm = true := by
  unfold accessGood; decide
/-- A ring of 256 entries with room. -/
theorem wit_HandleBlockResults_ring : (let s := { held hAway 0 with parts := SMap.modify .start (held hAway 0).parts 0 fun x => { x with w := SMap.set 0 x.w 6 0x800_0001 } }
    (appendRequest 0 0x800_0000 0 0 3 1 false 0 [] s).isSome = true) := by decide
/-- The last place of an image in the page of `held`, at the first issue; and a strand that has occupied itself for 574 and 575 cycles. -/
theorem wit_HandleBlockResults_context : (let s := held hBig 0x1F7000 fun st => { st with privm := true, exl := true }
      guard0 s 0 false = true ∧ (me s).privm = true ∧ (me s).exl = true ∧ (me s).mem = none ∧ accessGood s (mw .s8) 64 ctxBytes true ∧
        accessGood s (mw .s8) 64 ctxBytes false) ∧
    (let m : MemOp := ⟨0, 0, 0, [], none, none, 0, false, [], none, some (0x800_0000, 0x800_0000)⟩
     let s := fun c : Nat => { held hBig 0x1F7000 (fun st => { st with mem := some m, privm := true, exl := true }) with cycle := c }
     guard0 (s 575) 0 false = true ∧ (me (s 575)).privm = true ∧ (me (s 575)).exl = true ∧ (me (s 575)).mem = some m ∧ (s 574).cycle + 1 < m.c0 + 576 ∧
      m.c0 + 576 ≤ (s 575).cycle + 1 ∧ (∀ n, n < 6 → (SMap.get .start (me (s 575)).saved n).st ≠ .pending) ∧ (me (s 575)).handles = [] ∧
      inDevice (s 575) (mySpindle (s 575)).part 0x800_0000 = false ∧
      awaitsInval (s 575) 0 0 0x800_0000 ctxBytes = false ∧
      ownPoison (s 575) 0 0 (attOf (s 575) (me (s 575)).tag) [imageReq 0x800_0000 0x800_0000] = none) := by
  unfold accessGood; decide
/-- Nothing of the strand's own covers a part of the image. -/
theorem wit_HandleBlockResults_own : awaitsOwn (held hBig 0) 0 0 none 8 0x800_0000 ctxBytes = false := by
  have h : ∀ s : State, s.posted = [] → awaitsOwn s 0 0 none 8 0x800_0000 ctxBytes = false := fun s h => by simp [awaitsOwn, ownOver, h]
  exact h _ rfl

theorem wit_FenceAtomicResults : guard0 (held hBig 0) 0 false = true ∧ nothingOut (held hBig 0) 0 0 ∧
    (raw (.v 0) (.lit 1) (.lit 10) (.v 0) .s8).a.litVal = 1 ∧ (raw (.v 0) (.lit 2) (.lit 10) (.v 0) .s8).a.litVal ≠ 1 ∧
    (raw (.v 0) (.lit 2) (.lit 10) (.v 0) .s8).a.litVal ≠ 3 ∧ (raw (.v 0) (.lit 3) (.lit 10) (.v 0) .s8).a.litVal = 3 ∧
    (mySpindle (held hBig 0x1FFFF8)).det = false ∧ accessGood (held hBig 0x1FFFF8) (mw .s64) 8 8 true ∧ (me (held hBig 0)).mem = none ∧
    (mySpindle (updSpindle 0 (fun p => { p with det := true }) (held hBig 0))).det = true ∧ (mw .f32).ty = .f32 := by
  unfold accessGood nothingOut; decide

/-! ### Synchronisation and engines -/

/-- A semaphore that holds just enough, and one too few; a wait for the tick that is reached. -/
theorem wit_SemaphoreResults : guard0 State.reset 0 false = true ∧ (me State.reset).wait = none ∧
    (let s := updSpindle 0 (updSem 3 fun x => { x with count := 5 }) (waiting 1 3 5)
     (∃ x, (me s).wait = some x ∧ x.target ≤ (semAt (mySpindle s) x.obj).count.toNat)) ∧
    (let s := updSpindle 0 (updSem 3 fun x => { x with count := 4 }) (waiting 1 3 5)
     (∃ x, (me s).wait = some x ∧ (semAt (mySpindle s) x.obj).count.toNat < x.target)) ∧
    (∃ x, (me (waiting 4 0 0)).wait = some x ∧ x.target ≤ (waiting 4 0 0).tick) ∧
    (let s := spin fun p => { p with det := true }
     (mySpindle s).det = true ∧ semNamed (mySpindle s) 63 = false ∧ (raw (.v 0) (.s 1) (.v 0) (.v 0) .s8).dst.isS = false) := by
  refine ⟨by decide, by decide, ⟨_, rfl, by decide⟩, ⟨_, rfl, by decide⟩, ⟨_, rfl, by decide⟩, by decide⟩
theorem wit_SemaphoreResults_starts : (let s := spin (setSpool 15 { Spool.start with on := true })
      (spoolAt (mySpindle s) (spoolNum s (raw (.s 1) (.lit 15) (.v 0) (.lit 0) .s8))).on = true) ∧
    (let s := one fun st => { st with regs := [⟨5, 2, 0, 0, false, false, true⟩] }
     ∃ r, regOf (me s) 5 = some r ∧ r.drop = false ∧ r.mode &&& 2 = 2) ∧
    (one fun st => st).free = 0 := ⟨by decide, ⟨_, rfl, by decide, by decide⟩, rfl⟩

/-- A spool with two slots of 64 bytes, one claim of each side and one ready slot. -/
def spool2 (pclaim ready cclaim : Nat) : Spool := { on := true, base := 0, slots := 2, bytes := 64, tail := 0, head := 0, pclaim := pclaim, ready := ready, cclaim := cclaim }
theorem wit_SpoolResults : (let s := spin fun p => { p with sg := 1 }
      guard0 s 0 false = true ∧ (spoolAt (mySpindle s) 0).on = false ∧ (spool2 0 0 0).idle = true ∧ spoolOk 0x0000_0000_0200_0040 1 = true) ∧
    (∀ x ∈ [spool2 1 0 0, spool2 0 0 1, spool2 0 1 0], let s := updSpindle 0 (setSpool 15 x) (waiting 2 15 0)
      spoolAt (mySpindle s) 15 = x ∧ x.on = true ∧ spoolAt (mySpindle (updMe (fun st => { st with wait := none, arrived := false }) s)) 15 = x ∧
        0 < x.slots - x.pclaim - x.ready - x.cclaim) ∧
    (spool2 1 0 0).pclaim ≠ 0 ∧ (spool2 0 0 1).cclaim ≠ 0 ∧ 0 < (spool2 0 1 0).ready := by decide

/-- Registrations of phaser 5: none, pending, a waiter's, a signaller's that has not arrived, one that has arrived, and one that
has passed; a task of a step, which may register on a step-group phaser. -/
theorem wit_SpoolResults_phaser : (regOf (me State.reset) 5 = none ∧ (me State.reset).regs.length < 8 ∧ phLevel 5 ≠ 4) ∧
    (let t : Task := { emptyTask State.reset 0 [] 0 0 0 with instep := true }
     let s := { updSpindle 0 (fun p => { p with task := some 7 }) State.reset with tasks := [(7, some t)] }
     phLevel 64 = 4 ∧ regOf (me s) 64 = none ∧ taskOf s (mySpindle s) = some t ∧ t.instep = true) ∧
    (let r : PhReg := ⟨5, 1, 0, 0, false, false, true⟩
     let s := one fun st => { st with regs := [r] }
     regOf (me s) 5 = some r ∧ r.drop = false ∧ r.pend = false ∧ r.mode % 2 = 1 ∧ r.arrph = (phaserAt s (mySpindle s) 5).phase) ∧
    (∀ r ∈ [PhReg.mk 5 1 0 0 false true false, ⟨5, 2, 0, 0, false, false, true⟩], r.drop = false ∧ (r.pend = true ∨ r.mode % 2 = 0)) ∧
    (let r : PhReg := ⟨5, 3, 7, 0, false, false, true⟩
     let s := updSpindle 0 (fun p => { p with phasers := [(5, ⟨1, 1, 0, [], [], [], 0, 0⟩)], phView := [(5, 1)] })
       (one fun st => { st with regs := [r], wait := some ⟨3, 5, 0, 0, 0, 0⟩, arrived := true })
     regOf (me s) 5 = some r ∧ r.drop = false ∧ r.pend = false ∧ r.mode % 2 = 1 ∧ r.arrph ≠ (phaserAt s (mySpindle s) 5).phase ∧
       r.mode &&& 1 = 1 ∧ r.mode &&& 2 = 2 ∧ r.mode &&& 3 = 3 ∧ phasePassed s 5 = true ∧
       regLive (beginRelease 0 0 (phMask 5) s) 5 = true ∧ hasArrived (beginRelease 0 0 (phMask 5) s) 5 = false ∧
       arrivalReleased (beginRelease 0 0 (phMask 5) s) 5 = true ∧ (me (beginRelease 0 0 (phMask 5) s)).wait.isSome = true ∧
       (let b := arriveOnce (raw (.v 0) (.lit 5) (.v 0) (.lit 0) .s8) 5 (beginRelease 0 0 (phMask 5) s)
        (me b).wait.isSome = true ∧ (me b).arrived = true ∧ phasePassed b 5 = true)) := by decide

/-- A context image that has only its first word: CTXLD takes it. -/
def imaged : State :=
  let m : MemOp := ⟨0, 0, 0, [], none, none, 0, false, [], none, some (0x800_0000, 0x800_0000)⟩
  { held hBig 0 (fun st => { st with mem := some m }) with mem := [(0x800_0001, 0x90), (0x800_0005, 0x40), (0x800_0006, 1)] }
/-- Its bytes, 8 by 8. -/
def imageBytes : List Byte := (unitList 8 0x800_0000 ctxBytes).flatMap fun y => homeBytes imaged none y.1 y.2
theorem wit_HandleBlockResults_image : ctxRefusal (readCtxImage 0x800_0000 0x800_0000 imaged).1 = 0 := by
  obtain ⟨l, j, w, q, h⟩ := requestLines_shape 0 0 ⟨0, 0, 0, [], none, none, 0, false, [], none, some (0x800_0000, 0x800_0000)⟩
    (imageReq 0x800_0000 0x800_0000) imaged rfl
  have e : readCtxImage 0x800_0000 0x800_0000 imaged = readRequest 0 0 none 8 (imageReq 0x800_0000 0x800_0000)
      { imaged with l2 := l, l2Marks := j, whorls := w, races := q } := by rw [← h]; rfl
  have e2 : readRequest 0 0 none 8 (imageReq 0x800_0000 0x800_0000) { imaged with l2 := l, l2Marks := j, whorls := w, races := q } =
      readRange 0 0 none 8 0x800_0000 ctxBytes { imaged with l2 := l, l2Marks := j, whorls := w, races := q } :=
    if_neg (show ¬inDevice imaged (spindleAt imaged 0).part (BitVec.ofNat 64 0x800_0000).toNat = true by decide)
  rw [e, e2, readRange_quiet 0 0 none 8 _ _ _ rfl rfl]
  have same : ∀ n pa, homeBytes { imaged with l2 := l, l2Marks := j, whorls := w, races := q } none pa n = homeBytes imaged none pa n := by
    intro n
    induction n with
    | zero => intro pa; rfl
    | succ n ih => intro pa; rw [homeBytes, homeBytes, ih]; rfl
  simp only [same]
  exact (by decide +kernel : ctxRefusal imageBytes = 0)

/-! ### Engine records -/

/-- Bytes as scratchpad entries from an offset. -/
def bytesAt (off : Nat) (bs : List Byte) : SMap Byte := (bs.mapIdx fun i b => (off + i, b)).filter fun x => x.2 ≠ 0

/-- Word 0 of a record of a kind with SINC 1 and given low flags, and word 1 of a record of one issue. -/
def w0 (kind flags : Nat) : Word := BitVec.ofNat 64 (kind * 2 ^ 58 + 2 ^ 25 + flags)
def w1 : Word := 0x0001000100010001

/-- A spindle with one granule of scratchpad and one of accumulators, and a record at the last offset of the granule. -/
def pushing (k : Nat) (det : Bool) : State := updStrand 0 0 (setS 1 0xFFC0) (spin fun p => { p with
  sg := 1, ag := 1, det := det, scratch := bytesAt 0xFFC0 (toBytes (w0 k 0).toNat 8 ++ toBytes w1.toNat 8) })
/-- A push from the offset in s1 without bias, to channel `k`. -/
def pushWord (k : BitVec 8) : O3 := raw (.v 0) (.s 1) (.lit 0) (.lit k) .s8

theorem wit_PushResults : ∀ det ∈ [true, false], ∀ k ∈ [4, 0x10], let s := pushing k det
    guard0 s 0 false = true ∧ srcNum s (.s 1) 32 = 0xFFC0 ∧ scratchPoison (mySpindle s) 0xFFC0 64 = none ∧ scratchGood s false 0xFFC0 64 := by
  unfold scratchGood; decide
theorem wit_PushResults_matrix : let s := pushing 4 true
    (let r := newRec s 0xFFC0 (recordWords (mySpindle s) 0xFFC0) (pushBias s (.lit 0)) (pushBias s (.lit 0))
     matrixRefusal s (pushBias s (.lit 0)) r = none ∧ (queueAt (mySpindle s) 0).recs.length < 16) := by decide
theorem wit_PushResults_copy : let s := pushing 0x10 true
    (let r := attachHandles (rd s) (newRec s 0xFFC0 (recordWords (mySpindle s) 0xFFC0) (pushBias s (.lit 0)) 0)
     copyRefusal 0x03 s (pushBias s (.lit 0)) r = none ∧ bindRefusal (mySpindle s) r = none ∧
       (queueAt (mySpindle s) (srcNum s (.lit 3) 2 + 1)).recs.length < 16) := by decide
/-- A stage of one record of channel 0, with and without determinism mode. -/
theorem wit_PushResults_stage : ∀ d ∈ [true, false], (let t : Task := { emptyTask State.reset 0 [] 0 0 0 with sched := [[(1, 0xFFC0), (0, 0), (0, 0), (0, 0)]] }
    let s := { updSpindle 0 (fun p => { p with task := some 7 }) (pushing 0x10 d) with tasks := [(7, some t)] }
    let us := unitsOf 0xFFC0 64
    (taskOf s (mySpindle s)).isSome = true ∧ t.sched[srcNum s (.lit 0) 12]?.isSome = true ∧ zoneFault (mySpindle s) us = none ∧
      overlapFault (mySpindle s) 5 (nextEntry (mySpindle s)) false us = none ∧
      (∀ x ∈ stageRecs [(1, 0xFFC0), (0, 0), (0, 0), (0, 0)], scratchPoison (mySpindle s) x.2 64 = none) ∧
      stageRoom (mySpindle s) [(1, 0xFFC0), (0, 0), (0, 0), (0, 0)] = true ∧
      (stagePush (stageRecs [(1, 0xFFC0), (0, 0), (0, 0), (0, 0)]) s).isOk = true ∧
      (stageRecs [(1, 0xFFC0), (0, 0), (0, 0), (0, 0)]).flatMap (fun x => unitsOf x.2 64) = us ∧
      (stagePush (stageRecs [(1, 0xFFC0), (0, 0), (0, 0), (0, 0)]) (entered false us s)).isOk = true) := by decide
/-- A drained channel and a FAULTED one; QSTAT of queue 4, under determinism mode with privilege. -/
theorem wit_PushResults_queues : (let s := updSpindle 0 (updQueue 4 fun x => { x with faulted := true, recs := [newRec State.reset 0 [] 0 0] }) (waiting 5 0xF 0)
      (∃ x, (me s).wait = some x ∧ ∀ c, c < 4 → bitOf x.obj c = true → drained (mySpindle s) c = true) ∧ (queueAt (mySpindle s) 4).faulted = true) ∧
    (let s := updSpindle 0 (fun p => { p with det := true }) handler
     guard0 s 0 false = true ∧ srcNum s (.lit 4) 3 ≤ 4 ∧ (mySpindle s).det = true ∧ (me s).privm = true ∧ (queueAt (mySpindle s) 4).faulted = false) :=
  ⟨⟨⟨_, rfl, by decide⟩, by decide⟩, by decide⟩

/-! ### Creel, bobbins, windows and steps -/

/-- A zone of 16 slots and a binding of 16 slots with a credit, both of number 15, on spindle 0. -/
def zone16 : Zone := { base := 0, slots := 16, bytes := 64, sem := 0, tags := false, head := 15, taken := 0, slot := [], flags := 0, owner := 0, binder := none }
def bind16 : Binding := { za := 0, slots := 16, bytes := 64, next := 15, credits := 1, resv := [], att := 0, kr := 65535, cancels := [] }
def zoned (st : SlotSt) (taken : Nat) (f : Strand → Strand := id) : State := updStrand 0 0 f (spin fun p => { p with
  sg := 1, zones := [(15, some { zone16 with taken := taken, slot := [(15, ⟨st, 0, [], [], 0, []⟩)] })], binds := [(15, some bind16)] })

theorem wit_LandingZoneResults : zoneNum State.reset (raw (.s 1) (.lit 15) (.v 0) (.v 0) .s8) = 15 ∧
    (let s := zoned .free 0
     guard0 s 0 false = true ∧ (∀ x, zoneAt (mySpindle s) 15 = some x → x.taken = 0 ∧ ∀ j, j < x.slots → (slotAt x j).st ≠ .inflight) ∧
       (∀ x, zoneAt (mySpindle s) 3 = some x → x.taken = 0) ∧ zoneDescOk (15 * 2 ^ 36 + 4096) (mySpindle s).sg = true ∧
       (∀ b, bindAt (mySpindle s) 15 = some b → b.resv = [] ∧ b.att = 0) ∧ bindDescOk (15 * 2 ^ 36 + 64) 0x0000_7FFF_03FF_000F = true) ∧
    (∀ d ∈ [true, false], let s := updSpindle 0 (fun p => { p with det := d }) (zoned .consumed 1)
     ∃ x, zoneAt (mySpindle s) 15 = some x ∧ 0 < x.taken ∧ (mySpindle s).det = d ∧
       (let us := unitsOf (x.base + x.head * x.bytes) x.bytes
        zoneFault (mySpindle s) us = none ∧ overlapFault (mySpindle s) 5 (nextEntry (mySpindle s)) true us = none)) := by
  refine ⟨by decide, ⟨by decide, ?_, ?_, by decide, ?_, by decide⟩, fun d h => ⟨_, rfl, by decide, by cases d <;> rfl, by cases d <;> decide⟩⟩
  · intro x h; cases h; decide
  · intro x h; cases h
  · intro b h; cases h; decide
theorem wit_LandingZoneResults_waits : (∀ st ∈ [SlotSt.arrived, .broken], let s := zoned st 0 fun x => { x with wait := some ⟨1, 15, 0, 0, 0, 0⟩ }
      let t := updMe (fun st => { st with wait := none, arrived := false }) s
      (∃ x, zoneAt (mySpindle s) 15 = some x ∧ zoneAt (mySpindle t) 15 = some x ∧ x.taken < x.slots ∧ (slotAt x ((x.head + x.taken) % x.slots)).st = st) ∧
      (∃ b, bindAt (mySpindle s) 15 = some b ∧ bindAt (mySpindle t) 15 = some b ∧ 0 < b.credits) ∧ (me s).wait.isSome = true) := by
  intro st h
  simp only [List.mem_cons, List.not_mem_nil, or_false] at h
  rcases h with rfl | rfl <;> exact ⟨⟨_, rfl, rfl, by decide, by decide⟩, ⟨_, rfl, rfl, by decide⟩, by decide⟩

/-- The bobbin of the key, and its package, the strand's own and another. -/
def bob (n : Nat) : Bobbin := { tag := 0, pkg := 0x7FFF, page := 1, grp := 0, step := 0, att := none, part := 0
                                elems := List.replicate n ⟨0, false, none, .s32, 0, 0, 0⟩, born := 0, last := 0, bage := 256, id := 0, port := 0 }
theorem wit_BobbinResults : (let s := { updStrand 0 0 (fun st => setS 2 0x7FFF (setS 1 0x1FFF8 st)) State.reset with bobbins := [(0, some (bob 15))] }
      guard0 s 0 false = true ∧ (srcZero s (.s 1)).toNat % 2 ^ 57 % (Ty.s64.width / 8) = 0 ∧ srcNum s (.s 2) 15 = 0x7FFF ∧ 0x7FFF ≠ domPkg (mySpindle s) ∧
        openBobbin s 0 0 0 0 0x7FFF 1 = some 0 ∧ bobbinAt s 0 = some (bob 15) ∧ Ty.s64 ≠ .f32) ∧
    (srcNum State.reset (.lit 0) 15 = domPkg (mySpindle State.reset) ∧ (mySpindle State.reset).det = false) ∧
    (bob 14).elems.length ≠ 15 ∧ (bob 15).elems.length = 15 := by decide +kernel

/-- EXP at both ends of its range; a window of the task with room for one more XADD; port 19. -/
theorem wit_WindowResults : (let s := { updSpindle 0 (fun p => { p with task := some 1 }) State.reset with windows := [(63, { Window.start with owner := some 1 })] }
      guard0 s 0 false = true ∧ srcNum s (.lit 63) 6 = 63 ∧ (winAt s 0 63).owner.isSome = true ∧ (winAt s 0 63).owner = (mySpindle s).task ∧
        (winAt s 0 63).queue.length < 16 ∧ servedType s .f32 = true ∧ (winAt s 0 0).owner = none ∧ srcNum s (.lit 19) 5 ≤ 19) ∧
    signedValue 0xFF40 16 = -192 ∧ signedValue 64 16 = 64 ∧
    (let m : MemOp := ⟨0, 0, 0, [], none, none, 0, false, [], none, none⟩
     let s := { updSpindle 0 (fun p => { p with task := some 1 }) (one fun st => { st with mem := some m }) with
       windows := [(63, { Window.start with owner := some 1 })], cycle := 24 }
     (me s).mem = some m ∧ m.c0 + 24 ≤ s.cycle ∧ xaddPending s (winAt s 0 63) 0 0 = false ∧ (winAt s 0 63).owner = (mySpindle s).task) := by decide

/-- A spindle in a step, and the context of its step group. -/
def stepping (det privm : Bool) : State :=
  { updStrand 0 0 (fun st => { st with privm := privm }) (spin fun p => { p with step := 0x8000_0000_0000_0005, det := det }) with
    ctxs := [(15, { Ctx.start with used := true, hist := [⟨5, true, 0, none, 0⟩] })] }

theorem wit_StepIdValues : ∀ d ∈ [true, false], ∀ v ∈ [true, false], let s := stepping d v
    guard0 s 0 false = true ∧ (mySpindle s).step.getLsbD 63 = true ∧ myCtx s = some 15 ∧ (mySpindle s).det = d ∧ (me s).privm = v := by decide

/-- Vote values at the ends of the mask, losses at both sides of the threshold, regions, pages and purges. -/
theorem wit_StepWordResults : (let s := stepping false true
      guard0 s 0 false = true ∧ (mySpindle s).step.getLsbD 63 = true ∧ srcNum s (.lit 0x23) 8 % 4 + 32 * (srcNum s (.lit 0x23) 8 / 32 % 2) = srcNum s (.lit 0x23) 8 ∧
        isSpike (Fp.decode .fp32 0x7F800000) (lossLimit s (.lit 0)) = true ∧ isSpike (Fp.decode .fp32 0) (lossLimit s (.lit 0)) = false ∧
        Src.isNone (.v 0) = true ∧ Src.isNone (.s 1) = false ∧ (me s).privm = true ∧ (srcZero s (.lit 1)).truncate 16 ≠ (me s).tag ∧
        (srcZero s (.lit 0)).truncate 16 = (me s).tag) ∧
    (let s := { stepping false true with parts := [(0, { Part.start with suspect := some (79, 0, 0, 0) })] }
     (partAt s (mySpindle s).part).suspect = some (79, 0, 0, 0) ∧ skeinFenced s 79 = true) ∧
    (hV (hregOf (rd (held hBig 0)) 1) = true ∧ hNR (hregOf (rd (held hBig 0)) 1) = false) := by decide
theorem wit_StepWordResults_regions : (let s := { stepping false true with parts := [(0, { Part.start with regions := [(15, some ⟨0, 2 ^ 21, 3⟩)] })] }
      verdefReason s 0 15 0 0 = 0 ∧ regionAt s 0 15 = some ⟨0, 2 ^ 21, 3⟩) ∧
    (let s0 := State.reset.withFetchWord 64 0
     let s := { s0 with ctxs := (stepping false true).ctxs, parts := SMap.modify .start s0.parts 0 fun x => { x with w := SMap.set 0 (SMap.set 0 x.w 8 (2 ^ 30)) 14 (2 ^ 31) } }
     verdefReason s 0 15 0x800_0000 (2 ^ 21) = 0 ∧ regionAt s 0 15 = none ∧ myCtx s = some 15) := by decide
theorem wit_StepWordResults_waits : (let s := { waiting 7 0 5 with ctxs := (stepping false true).ctxs }
      ∃ y, (me s).wait = some y ∧ (waitAnswer s y).isSome = true ∧
        waitAnswer (updMe (fun st => { st with wait := none, arrived := false }) s) y = waitAnswer s y) ∧
    ((mySpindle State.reset).step.getLsbD 63 = false ∧ guard0 State.reset 0 false = true) ∧
    (let s := stepping false false
     (mySpindle (stepping true false)).det = true ∧ (me (stepping true false)).privm = false ∧ guard0 (stepping true false) 0 false = true ∧
     srcNum s (.lit 5) 48 = (mySpindle s).step.toNat % 2 ^ 48 ∧ (me s).wait = none ∧ (me s).privm = false ∧ (srcZero s (.lit 1)).truncate 16 ≠ (me s).tag) ∧
    (let s := { stepping false true with parts := [(0, { Part.start with w := [(0, 0x8000_0000_0000_0000), (1, 1)], suspect := some (0, 0, 0, 0) })] }
     (me s).privm = true ∧ ∀ d, (partAt s 0).suspect = some d → skeinFenced s d.1 = false) ∧
    (∀ a ∈ [(0, 1), (1, 2 ^ 21), (0, 2 ^ 21)], verdefReason (stepping false true) 0 0 a.1 a.2 ≠ 0) := by
  refine ⟨⟨_, rfl, by decide, by decide⟩, by decide, by decide, ⟨by decide, ?_⟩, by decide⟩
  intro d h; cases h; decide

/-! ### Debug words and the Whorl -/

theorem wit_DebugWordResults : (let s := spin fun p => { p with dbg := { p.dbg with ctl := 0x0080_0000 } }
      guard0 s 0 false = true ∧ (mySpindle s).dbg.ctl.getLsbD 23 = true ∧ (spindleAt s 0).dbg.state = 0 ∧ bitOf (spindleAt s 0).dbg.ctl.toNat 22 = false) ∧
    ((mySpindle State.reset).dbg.ctl.getLsbD 23 = false ∧ (mySpindle State.reset).det = false) ∧
    (let s := spin fun p => { p with det := true }
     (mySpindle s).det = true ∧ (me s).privm = false) ∧
    (let s := updSpindle 639 (fun p => { p with dbg := { p.dbg with state := 1 } }) State.reset
     (spindleAt s 639).dbg.state = 1 ∧ (spindleAt s 639).dbg.state ≠ 0 ∧ (∀ k, k < 4 → strandStopped (strandOf (spindleAt s 639) k) = true) ∧
       (∀ q, q < 5 → queueStopped s.cycle (queueAt (spindleAt s 639) q) = true)) ∧
    (let s := spin fun p => { p with dbg := { p.dbg with stopIn := true } }
     (spindleAt s 0).dbg.stopIn = true ∧ (spindleAt s 0).dbg.state = 0 ∧ bitOf (spindleAt s 0).dbg.ctl.toNat 22 = false) ∧
    (let s := spin fun p => { p with dbg := { p.dbg with ctl := 2 ^ 22, stopIn := true } }
     (spindleAt s 0).dbg.stopIn = true ∧ (spindleAt s 0).dbg.state = 0 ∧ bitOf (spindleAt s 0).dbg.ctl.toNat 22 = true) := by decide

theorem wit_WhorlRegisterResults : (whorlAt (State.reset.withFetchWord 32 0) 0).run.isSome = true := by decide
/-- A run whose register w1 is 0, and one where it is not; and two cells of one table. -/
theorem wit_WhorlTableResults : (whorlAt (State.reset.withFetchWord 32 0) 0).run.isSome = true ∧
    SMap.get (0 : Word) [] 1 = 0 ∧ SMap.get (0 : Word) [(1, 5)] 1 ≠ 0 ∧ (0 : Nat) ≠ 0 + 1 % 4096 := by decide

/-! ### Events of strands, memory and engines -/

/-- A strand with a landing and a deposit that are due, and one of each that is not. -/
theorem wit_StrandEvents : (let land := fun c : Nat => (⟨c, .s 63 5, 0, 0, none, 0, false, false⟩ : Landing)
      let dep := fun c : Nat => (⟨c, 5, [], 7, 0, false, none, 0, false⟩ : Deposit)
      let s := { updStrand 639 3 (fun st => { st with landings := [land 4, land 6], deposits := [dep 4, dep 6] }) State.reset with cycle := 5 }
      (∀ g ∈ (strandAt s 639 3).landings, g.shadow = none ∧ g.target ≠ .met ∧ g.target = .s 63 5) ∧ ∀ d ∈ (strandAt s 639 3).deposits, d.shadow = none) ∧
    (let d : HandleDep := ⟨0, 15, hBig, 0, 0, false⟩
     let s := one fun st => { st with handles := [d], hold := .nop, trap := some ⟨1, 0, false, .precise, 0, 0⟩, run := .running }
     (strandAt s 0 0).handles = [d] ∧ d.due ≤ s.cycle ∧ (strandAt s 0 0).hold = .nop ∧ (strandAt s 0 0).readyAt ≤ s.cycle ∧ trapDue (spindleAt s 0).stopping (strandAt s 0 0) = true) ∧
    (∀ h ∈ [HoldSt.yield [] 9, .yield [3] 0], (one fun st => { st with hold := h }).cycle = 0) ∧
    (let s := updSpindle 0 (fun p => { p with wdDue := true }) (updStrand 0 3 (fun st => { st with run := .running }) State.reset)
     (spindleAt s 0).wdDue = true ∧ (strandAt s 0 3).run = .running ∧ ∀ j, j < 3 → (strandAt s 0 j).run ≠ .running) ∧
    (let s := { updSpindle 0 (fun p => { p with waited := true }) (updStrand 0 0 (fun st => { st with wait := some ⟨1, 3, 0, 1, 5, 0⟩ }) State.reset) with tick := 2 }
     ∃ x, (strandAt s 0 0).wait = some x ∧ (strandAt s 0 0).trap = none ∧ x.limit ≠ 0 ∧ x.since + 2 ^ x.limit ≤ s.tick ∧ (spindleAt s 0).waited = true ∧
       (spindleAt s 0).stopping = false ∧ (spindleAt s 0).dbg.state = 0 ∧ purging s (spindleAt s 0).part (strandAt s 0 0).tag = false) ∧
    (let r : TrapReq := ⟨0x12, 0, false, .imprecise, 0, 0⟩
     let s := updStrand 0 0 (fun st => { st with wait := some ⟨1, 3, 0, 1, 5, 0⟩, trap := some r }) State.reset
     (strandAt s 0 0).wait.isSome = true ∧ (strandAt s 0 0).trap = some r) := by
  refine ⟨by decide, by decide, by decide, by decide, ⟨_, rfl, by decide, by decide, by decide, by decide, by decide, by decide, by decide⟩, by decide⟩
/-- A TICKW at its target, under determinism mode without a destination. -/
theorem wit_StrandEvents_tick : (let s := updStrand 0 0 (fun st => { st with wait := some ⟨4, 0, 0, 0, 0, 0⟩ }) (State.reset.withFetchWord 64 1458614341610766336)
      (∃ x, (strandAt s 0 0).wait = some x ∧ x.code = 4 ∧ x.target ≤ s.tick) ∧ fetchWord s 0 0 (strandAt s 0 0).pc = .word 1458614341610766336) ∧
    decodeWord 1458614341610766336 = .ok (.tickw (raw (.s 1) (.s 2) (.v 0) (.v 0) .s8)) ∧
    (raw (.v 0) (.s 2) (.v 0) (.v 0) .s8).dst.isS = false := ⟨⟨⟨_, rfl, by decide, by decide⟩, by decide⟩, by decide, by decide⟩

/-- A posted store and a posted ATOM of strand 3, each the only one; a load and an atomic operation on their way. -/
def posted (a : Option (BitVec 4 × Ty)) : State := { State.reset with posted := [⟨0, 3, 0x800_0000, 127, [1, 2, 3, 4], a, 0, 0, 0, none, false, 0, 1, false, 0, false, ⟨0, 0, 0, 0, [], [], [], 0⟩⟩] }
theorem wit_MemoryEvents : (∀ a ∈ [none, some ((2 : BitVec 4), Ty.s32)], let s := posted a
      ∀ w ∈ s.posted, mayApply s 0 w = true ∧ stale s w.tag w.att = false ∧ refusesAny s w.att w.pa w.data.length = false ∧ w.strand < 4 ∧
        w.data.length = Ty.s32.width / 8 ∧ inDevice s w.part w.va.toNat = false ∧ loadPoison s w.att [(w.pa, w.va, w.data.length)] = none) ∧
    (let m : MemOp := ⟨0, 0, 0, [(127, 0x800_0000, 8)], none, none, 0, false, [], none, none⟩
     let s := { one fun st => { st with mem := some m } with cycle := 40 }
     (strandAt s 0 0).mem = some m ∧ stale s (strandAt s 0 0).tag m.att = false ∧ m.reqs ≠ [] ∧ loadTime s 0 m ≤ s.cycle ∧ m.c0 + 40 ≤ s.cycle ∧ loadWaits s 0 0 m.att m.reqs = false ∧
       m.acq = 0 ∧ hasPosted s 0 0 = false ∧ homeReady s ⟨0, 0, 0, 0, [], [], [], 0⟩ 127 s.posted = true ∧ inDevice s (spindleAt s 0).part 0x800_0000 = false ∧
       loadPoison s m.att m.reqs = none ∧ refusesAny s m.att 127 8 = false ∧
       refusesAny (noteAcquire 0 0 m.acq (gainLast 0 0 m.att 127 8 (requestLines 0 0 m (127, 0x800_0000, 8) s))) m.att 127 8 = false ∧
       acquireClear s 0 0x1F (viewOf (noteAcquire 0 0 0x1F s) 0 0).hb = true) ∧
    (requestNew ⟨7, .s64, 1, 0, 1, 0, 0, 0, 0, ⟨0, 0, 0, 0, [], [], [], 0⟩⟩ 0 = none ∧ requestNew ⟨7, .s64, 0, 9, 1, 0, 0, 0, 0, ⟨0, 0, 0, 0, [], [], [], 0⟩⟩ 0 = some 9) := by decide
/-- Blocks in each state are in the witness of HandleBlockResults; a gather message of the open attempt and of the phase that the
phaser is in, which completes it or not; and one of the next attempt, where the group has a context and where it has none yet. -/
theorem wit_MemoryEvents_gather : (let g := { Ctx.start with used := true, grp := 9, isOpen := true, att := 4 }
    let s := { State.reset with ctxs := [(15, g)] }
    let x := SMap.get .start g.phasers 15
    groupCtx s 9 = some 15 ∧ (ctxAt s 15).isOpen = true ∧ (ctxAt s 15).att = 4 ∧ later x.phase 0 = false ∧
      ({ x with far := putCount ⟨6, 0, 1, 0⟩ x.far } : Phaser).full = false ∧ ({ x with far := putCount ⟨6, 0, 1, 1⟩ x.far } : Phaser).full = true) ∧
    ∀ cs ∈ [[(15, { Ctx.start with used := true, grp := 9, isOpen := true })], ([] : SMap Ctx)], let s := { State.reset with ctxs := cs }
      let m : GatherMsg := { grp := 9, idx := 15, src := 6, phase := 0, signallers := 1, arrivals := 1, att := some 1 }
      (∀ c ∈ groupCtx s 9, m.att ≠ some (ctxAt s c).att) ∧ gatherAhead s m = 1 := by decide
/-- A neighbour's counts of an attempt that is yet to open here wait for it (R216). -/
theorem test_gather_early : (let s := { State.reset with ctxs := [(15, { Ctx.start with used := true, grp := 9 })] }
    let m : GatherMsg := { grp := 9, idx := 15, src := 6, phase := 0, signallers := 1, arrivals := 1, att := some 1 }
    let t := match exec (.phaserGatherReceive m) s with | .next t => t | _ => s
    t.early = [m] ∧ (SMap.get .start (ctxAt t 15).phasers 15).far = []) := by decide

/-- A record of a kind as head of a queue, with its wait met; its words, spindle and queue. -/
def headed (q k : Nat) (ws : List Word) (f : Rec → Rec := id) : State := spin fun p => updQueue q (fun x => { x with recs :=
  [f { newRec State.reset 0 (w0 k (if k < 0x10 then 2 ^ 11 * 11 else 0) :: w1 :: ws) 0 0 with met := true }] })
  { p with sg := 1, ag := 1, task := some 1, matrix := { Matrix.start with awake := (upto 8).map (fun i => (i, true)), btype := some .bf16 } }
/-- The head. -/
def headOf (q : Nat) (s : State) : Rec := ((headRec (spindleAt s 0) q).getD (newRec State.reset 0 [] 0 0))

theorem wit_MatrixIssues : (∀ k ∈ [1, 2, 3, 4, 5, 6], let s := headed 0 k []
      headRec (spindleAt s 0) 0 = some (headOf 0 s) ∧ matrixReady s 0 (headOf 0 s) = true ∧ (headOf 0 s).kind = k ∧
        (spindleAt s 0).matrix.btype = some .bf16 ∧ pairOk ((headOf 0 s).ty.getD .bf16) .bf16 = true ∧
        engineGood s 0 0 (headOf 0 s) none [(0, 256)] [] ∧ engineGood s 0 0 (headOf 0 s) none [] [(0, 256)] ∧
        rowPoison (spindleAt s 0) 0 4 = 0) := by unfold engineGood; decide
theorem wit_MatrixIssues_stores : (∀ k ∈ [5, 6], let s := headed 0 k []
      (headOf 0 s).byte (rowOperand 1) 0 = 0 ∧ (headOf 0 s).row (accOperand 0) 0 = 0 ∧ shadowColumn (spindleAt s 0).matrix 0 64 = none) := by decide +kernel

/-- A copy record of kind 0x10 to 0x14 whose operands lie in scratchpad, and one whose source and destination lie in the page
of `held`: 16 bytes an issue. -/
def copying (k : Nat) : State := headed 1 k []
theorem wit_CopyIssues : (∀ k ∈ [0x10, 0x11, 0x12, 0x13, 0x14], let s := copying k
      headRec (spindleAt s 0) 1 = some (headOf 1 s) ∧ headReady s 0 1 (headOf 1 s) = true ∧ (headOf 1 s).kind = k ∧ (headOf 1 s).sp 0 = false ∧
        (headOf 1 s).sp 1 = false ∧ (headOf 1 s).chunk = 16) ∧
    pathTo State.reset 0 0 = some bridge := by decide
/-- The source chunk is read and the destination takes it. -/
theorem wit_CopyIssues_chunks : ∀ k ∈ [0x10, 0x11, 0x12, 0x13, 0x14], let s := copying k
    (∃ bs v, readsChunk 0 1 (headOf 1 s) 0 16 s bs v) ∧ (∀ bs, bs.length = 16 → ∃ t, putsChunk 0 1 (headOf 1 s) bs s t) ∧
      engineGood s 0 1 (headOf 1 s) none [(0, 4)] [] ∧ engineGood s 0 1 (headOf 1 s) none [(0, 16)] [] := by
  intro k h
  have good : ∀ reads writes, (∀ x ∈ reads, scratchPoison (spindleAt (copying k) 0) x.1 x.2 = none) →
      (spindleAt (copying k) 0).det = false → engineGood (copying k) 0 1 (headOf 1 (copying k)) none reads writes := by
    intro reads writes hp hd
    exact And.intro (fun c hc => nomatch hc) (And.intro (fun h => by rw [hd] at h; cases h) hp)
  simp only [List.mem_cons, List.not_mem_nil, or_false] at h
  rcases h with rfl | rfl | rfl | rfl | rfl <;>
    exact ⟨⟨_, _, .inl ⟨by decide, by unfold engineGood; decide, rfl, rfl⟩⟩,
      fun bs hb => ⟨_, .inl ⟨by decide, good _ _ (by simp) (by decide), rfl⟩⟩, good _ _ (by decide) (by decide), good _ _ (by decide) (by decide)⟩
/-- A copy record as head of channel 0 whose source and, where `wr`, destination lie in the page of `held`. -/
def copyMem (k : Nat) (wr : Bool) (f : Rec → Rec := id) : State :=
  { headed 1 k [0, 0x880000, 0, if wr then 0x880000 else 0] (fun r => f { r with handles := [(0, hBig), (1, hBig)] }) with
    mem := (held hBig 0).mem, parts := (held hBig 0).parts }
/-- Memory operands: a read that is asked for, of a COPY and of a GATHER; pages that take the chunk; and a read that returns. -/
theorem wit_CopyIssues_memory : (∀ k ∈ [0x10, 0x13], let s := copyMem k true
      let r := headOf 1 s
      headRec (spindleAt s 0) 1 = some r ∧ headReady s 0 1 r = true ∧ r.kind = k ∧ r.sp 0 = true ∧ r.sp 1 = true ∧ r.data = none ∧ r.sent = false ∧
        (recordReqs s 0 (recordVa r 0 (16 * r.addr (srcOperand r) 0)) r.srcBytes false).toOption = some [(0x800_0000, 0x800_0000, 16)] ∧
        (recordReqs s 0 (recordVa r 0 0) r.chunk false).toOption = some [(0x800_0000, 0x800_0000, 16)] ∧
        (recordReqs s 0 (recordVa r 1 (16 * r.addr (dstOperand r) 0)) 16 true).toOption = some [(0x800_0000, 0x800_0000, 16)] ∧
        16 * r.from (srcOperand r) + ofBytes (scratchBytes (spindleAt s 0) 0 4) * r.chunk = 0 ∧ hSize (r.handle 0) = 2 ^ 21) := by decide
theorem wit_CopyIssues_return : (let s := copyMem 0x10 false fun r => { r with sent := true, src := 0x800_0000 }
     let r := headOf 1 s
     headRec (spindleAt s 0) 1 = some r ∧ r.sent = true ∧ r.data = none ∧ (queueAt (spindleAt s 0) 1).faulted = false ∧
       ownPoison s 0 (copyAgent 1) (attOf s r.tag) [(0x800_0000, 0x800_0000, 16)] = none ∧
       (recordReqs s 0 r.src r.srcBytes false).toOption = some [(0x800_0000, 0x800_0000, 16)]) ∧
    (let s := copyMem 0x13 false fun r => { r with sent := true, data := some (List.replicate 16 7) }
     let r := headOf 1 s
     headRec (spindleAt s 0) 1 = some r ∧ r.kind = 0x13 ∧ r.sp 0 = true ∧ r.data = some (List.replicate 16 7) ∧ r.sp 1 = false) := by decide
/-- A record past its last issue; a sub-array that wakes, and one that nothing has used for 2049 cycles. -/
theorem wit_CopyIssues_ends : (let r := newRec State.reset 0 [w0 0x10 0, w1] 0 0
      recordApplied State.reset 0 4 r = true ∧ mulShadow (spindleAt State.reset 0) r = none) ∧
    (let m := { Matrix.start with waking := [(7, 96)], awake := [(0, true)] }
     let s := { updSpindle 0 (fun p => { p with matrix := m }) State.reset with cycle := 2049 }
     SMap.get 0 (spindleAt s 0).matrix.waking 7 ≠ 0 ∧ SMap.get 0 (spindleAt s 0).matrix.waking 7 ≤ s.cycle ∧
       SMap.get false (spindleAt s 0).matrix.awake 0 = true ∧ SMap.get 0 (spindleAt s 0).matrix.used 0 + 2048 < s.cycle ∧
       s.dev.wakeHold = false ∧ arrayNeeded (spindleAt s 0) 0 = false) ∧
    ({ State.reset with dev := { Device.start with wakeHold := true } } : State).dev.wakeHold = true := by decide

/-! ### Messages, attempts and recovery -/

/-- A device that is package 5 of step group 9 with child 6, the tree's root or below 4: context 3 holds the group, its
attempt 0xFFFF open; spindle 0 holds a task of the group, and zone 15. -/
def grouped (parent : Word) (f : Ctx → Ctx := id) : State :=
  let t : Task := { emptyTask State.reset 0 [] 0 0 0 with grp := 9, st := .resident }
  let s := updSpindle 0 (fun p => { p with task := some 7, dom := 0x9_0005_0000 }) (zoned .free 0)
  let g : Ctx := { Ctx.start with used := true, grp := 9, isOpen := true, att := 0xFFFF, decided := false, kids := [] }
  { s with tasks := [(7, some t)], groups := [(0, [(0, 0x8000_0009_0005_0010), (1, parent), (2, 6)])], ctxs := [(3, f g)] }
/-- A header of a packet from package 6 to this one, outside an attempt. -/
def hdr6 : PktHdr := ⟨6, 5, 9, 1, 0, 0, none⟩

theorem wit_PortEvents : ∀ x ∈ [(1, false, 50000000, false), (2, false, 0, true), (2, true, 20000, true), (3, false, 0, true), (0, false, 0, false)],
    let s := { State.reset with tick := 50000000, ports := [(19, { Port.start with st := x.1, down := x.2.1, since := 50000000 - x.2.2.1, en := x.2.2.2 })] }
    (portAt s 19).st = x.1 ∧ (portAt s 19).down = x.2.1 ∧ (portAt s 19).since + x.2.2.1 ≤ s.tick ∧ (portAt s 19).en = x.2.2.2 := by decide
/-- A chunk that the zone's last slot takes, at the end of the slot, and the other messages of a zone. -/
theorem wit_PortEvents_messages : (let s := grouped 5
      ownPkg s 9 = 5 ∧ hdr6.dst = ownPkg s 9 ∧ hdr6.src ≠ hdr6.dst ∧ pktFuture s hdr6 = false ∧ pktStale s hdr6 = false ∧ targetSpindle s 9 0 = some 0 ∧ stepDiffers (spindleAt s 0) s hdr6 = false ∧
        (∃ x, zoneAt (spindleAt s 0) 15 = some x ∧ 15 < x.slots ∧ (slotAt x 15).st = .free ∧ 48 + 16 ≤ x.bytes ∧ expectedSeq x 15 = 16 ∧
          (slotAt x 15).got.length + 1 = 1) ∧
        windowForeign s 0 ⟨hdr6, 0, 15, 15, 16, 48, 1, 0, 0, List.replicate 16 0, 0, 0, 1, 0⟩ = false ∧ ownPkg s 9 ≠ 6 ∧
        (let h := { hdr6 with att := some 0xFFFE }
         h.dst = ownPkg s h.grp ∧ h.src ≠ h.dst ∧ pktFuture s h = false ∧ pktStale s h = true)) ∧
    (let s := updSpindle 0 (fun p => { p with binds := [(15, some { bind16 with za := 0x6_0000_000F, cancels := [⟨hdr6, 0, 15, 0, 1⟩] })] }) (grouped 5)
     let e : CreditMsg := { hdr := hdr6, lspn := 0, zone := 15 }
     (s.spindles.find? fun x => x.2.task.isSome && (bindingFor? e x.2).isSome) = some (0, spindleAt s 0) ∧
       bindingFor? e (spindleAt s 0) = some 15 ∧ stepDiffers (spindleAt s 0) s hdr6 = false ∧
       ((grouped 5).spindles.find? fun x => x.2.task.isSome && (bindingFor? e x.2).isSome) = none ∧ (openCancels s)[0]? = some ⟨hdr6, 0, 15, 0, 1⟩ ∧ s.net.contains (.cancel ⟨hdr6, 0, 15, 0, 1⟩) = false) := by
  refine ⟨⟨by decide, by decide, by decide, by decide, by decide, by decide, by decide, ⟨_, rfl, by decide⟩, by decide, by decide, by decide⟩, by decide⟩
/-- A bobbin at its age, a flit with one element at the end of its 64 KiB page, its completion, and an XADD at a window. -/
theorem wit_PortEvents_bobbins : (let s := { State.reset with bobbins := [(255, some (bob 1))], cycle := 256 }
      bobbinAt s (64 * 3 + 63) = some (bob 1) ∧ (bob 1).born + (bob 1).bage ≤ s.cycle) ∧
    (let s := { (grouped 5) with mem := (held hBig 0).mem, parts := (held hBig 0).parts }
     (groupTasks s 9).isEmpty = false ∧ groupStep s 9 = none ∧ groupPart s 9 = 0 ∧ pktFuture s hdr6 = false ∧ pktStale s hdr6 = false ∧
       (translate s 0 (0x800 * 2 ^ 16 + 0xFFF8)).any (fun t => t.wr && !t.nr && !t.dev) = true ∧
       refusesAny s none (0x800_0000 + 0xFFF8) 8 = false ∧ readPoison s none (0x800_0000 + 0xFFF8) 8 = 0) ∧
    (let s := { State.reset with flits := [bob 1] }
     (s.flits.find? fun b => b.id = 0) = some (bob 1) ∧ ∀ r ∈ [0, 0], r = 0) ∧
    (let s := { State.reset with windows := [(63, { Window.start with owner := some 1, queue := [⟨0, 0, 0, [], .f32, none, ⟨0, 0, 0, 0, [], [], [], 0⟩⟩] })] }
     (winAt s 0 63).queue = [⟨0, 0, 0, [], .f32, none, ⟨0, 0, 0, 0, [], [], [], 0⟩⟩] ∧ stale s 0 none = false ∧ mayAdd s 0 ⟨0, 0, 0, [], .f32, none, ⟨0, 0, 0, 0, [], [], [], 0⟩⟩ = true) := by
  refine ⟨by decide, ⟨by decide, by decide, by decide, by decide, by decide +kernel, by decide, by decide⟩, by decide, by decide⟩

/-- A STEPOPEN of group 9 that waits, in a queue of a device at full service. -/
def opening : State := { grouped 5 (fun g => { g with isOpen := false, decided := true }) with
  queues := [(1023, { CmdQ.start with bind := 0x8000, pkts := [⟨0, [6, 0, 0x9_0000_0000, 0, 0, 0, 0, 0], true, 0, none, none, none, [], 0, 2⟩] })]
  dev := { Device.start with svc := 2 } }
theorem wit_AttemptEvents : (let s := opening
      (∃ y, openWaiter s 1023 = some y ∧ groupCtx s (openGrp y.w) = some 3 ∧ purging s (queuePart s 1023) (pktTag y.w) = false) ∧ mayOpen s 3 = true ∧ s.dev.svc = 2) ∧
    (let s := grouped 5
     (ctxAt s 3).isOpen = true ∧ (ctxAt s 3).cast = none ∧ (ctxAt s 3).td ≤ s.tick ∧ (ctxAt s 3).decided = false ∧ 6 ∈ treeKids s 9 ∧
       (∀ x ∈ (ctxAt s 3).kids, x.1 ≠ 6) ∧ (ctxAt s 3).td + 2400 * treeHeight s 9 ≤ s.tick ∧ ownPkg s 9 = 5 ∧ 6 ≠ ownPkg s 9 ∧ groupCtx s 9 = some 3 ∧
       treeParent s 9 = ownPkg s 9) := by
  refine ⟨⟨⟨_, rfl, by decide, by decide⟩, by decide, by decide⟩, by decide⟩
/-- A child that has been heard, with F.LATE among its flags; a vote for another attempt. -/
theorem wit_AttemptEvents_heard : (let s := grouped 5 fun g => { g with kids := [(6, 0x10, some 3)] }
      groupCtx s 9 = some 3 ∧ (ctxAt s 3).isOpen = true ∧ (ctxAt s 3).att = 0xFFFF ∧ 6 ∈ treeKids s 9 ∧ 6 ≠ ownPkg s 9 ∧
        (ctxAt s 3).kids.find? (fun x => x.1 = 6) = some (6, 0x10, some 3)) ∧
    (∀ c, groupCtx (grouped 5) 9 = some c → (ctxAt (grouped 5) c).isOpen = true → (ctxAt (grouped 5) c).att ≠ 0xFFFE) := by
  refine ⟨by decide, fun c h => ?_⟩
  have : c = 3 := by have e : groupCtx (grouped 5) 9 = some 3 := by decide
                     rw [e] at h; exact (Option.some.inj h).symm
  subst this; decide
/-- The root with its last vote, and with a flag before it; a vote to send again over a port that is UP. -/
theorem wit_AttemptEvents_root : (let s := grouped 5 fun g => { g with cast := some 0, kids := [(6, 0, none)] }
      (ctxAt s 3).isOpen = true ∧ (ctxAt s 3).decided = false ∧ treeParent s 9 = ownPkg s 9 ∧ (combinedVote (ctxAt s 3)).1 = 0 ∧
        (ctxAt s 3).cast.isSome = true ∧ ∀ k ∈ treeKids s 9, ∃ x ∈ (ctxAt s 3).kids, x.1 = k) ∧
    (let s := grouped 5 fun g => { g with cast := some 0x10 }
     (combinedVote (ctxAt s 3)).1 ≠ 0) ∧
    (let s := { (grouped 4) with mem := [(18, 0x08), (19, 0x80)], ports := [(19, { Port.start with st := 2 })], unacked := [.vote 4 ⟨9, 5, 0xFFFF, 0, none⟩, .decision 6 ⟨9, 6, 0xFFFE, true, 0, none⟩] }
     s.unacked[0]? = some (.vote 4 ⟨9, 5, 0xFFFF, 0, none⟩) ∧ s.unacked[1]? = some (.decision 6 ⟨9, 6, 0xFFFE, true, 0, none⟩) ∧ NetMsg.vote 4 ⟨9, 5, 0xFFFF, 0, none⟩ ∉ s.net ∧ (routePort s 9 4).isSome = true ∧ treeRoot s 9 = false) := by
  refine ⟨⟨by decide, by decide, by decide, by decide, by decide, ?_⟩, by decide, by decide⟩
  intro k hk
  have : k = 6 := by revert hk; decide +revert
  subst this; exact ⟨_, .head _, rfl⟩

theorem wit_DecisionApplied : ∀ c ∈ [true, false], let m : DecisionMsg := ⟨9, 5, 0xFFFF, c, 0, none⟩
    ({ m with dst := 6 } : DecisionMsg).dst ≠ ownPkg (grouped 5) 9 ∧ m.dst = ownPkg (grouped 5) 9 ∧ (let s := { (grouped 5) with net := [.decision 5 m] }
     groupCtx s 9 = some 3 ∧ (ctxAt s 3).isOpen = true ∧ (ctxAt s 3).att = m.att ∧ treeRoot s 9 = true ∧ NetMsg.decision (ownPkg s 9) m ∈ s.net) ∧
    treeRoot (grouped 4) 9 = false := by decide

/-- A purge that has nothing to wait for; a version block that was written before the open attempt; an in-field test. -/
theorem wit_RecoveryEvents : (let s := { State.reset with purges := [(63, 0xFFFF)] }
      (0xFFFF : BitVec 16) ∈ (s.purges.filter fun x => x.1 = 63).map (·.2) ∧ purgeReady s 63 0xFFFF = true ∧ s.dev.svc ≠ 3) ∧
    (let s := { (grouped 5) with vpage := [(64, some ⟨3, 2 ^ 30⟩)], vmeta := [(0x80000, ⟨false, true, 0xFFFE⟩)] }
     vpageAt s (256 * 0x80000) = some ⟨3, 2 ^ 30⟩ ∧ (vmetaAt s (256 * 0x80000)).v = true ∧ (ctxAt s 3).isOpen = true ∧
       (vmetaAt s (256 * 0x80000)).a ≠ (ctxAt s 3).att) ∧
    (let s := { (grouped 5) with parts := [(1, { Part.start with w := [(0, 0x8000_0000_0000_0000), (2, 0x8000)] })] }
     bitOf (partWord s 1 0) 63 = true ∧ inPartition s 1 (8 * 79) = true ∧ ∀ c, c < 16 → (ctxAt s c).isOpen = true → groupPart s (ctxAt s c).grp ≠ 1) := by decide

/-! ### The command processor -/

/-- Words in memory, from the lowest address on. -/
def withWords : List (Nat × List Nat) → State → State
  | [], s => s
  | (a, ws) :: xs, s => withWords xs (setMemBytes a (ws.flatMap fun w => toBytes w 8) s)

/-- Queue 1023, bound to partition 0, that runs a ring of 16 slots at 0x800_0000 with one packet more; the partition and
the group 0 of its launches are valid, and the device is at full service. -/
def queued (slots : List (Nat × List Nat)) (pkts : List Pkt) : State :=
  let s := withWords slots (State.reset.withFetchWord 64 0)
  { s with
    queues := [(1023, { CmdQ.start with d0 := 0x800_0405, bind := 0x8000, state := 1, wptr := 1, pkts := pkts })]
    parts := SMap.modify .start s.parts 0 fun x => { x with w := SMap.set 0 (SMap.set 0 x.w 0 0x8000_0000_0000_0000) 1 1 }
    groups := [(0, [(0, 0x8000_0000_0000_0000)])]
    dev := { Device.start with svc := 2 } }
/-- A packet taken from slot 0. -/
def taken (ws : List Word) : Pkt := newPkt 0 ws

/-- A NOP and a RESYNC in the ring, and a descriptor that enables and one that does not. -/
theorem wit_QueueEvents : (∀ k ∈ [1, 8], let s := queued [(0x800_0000, [0x8000 + k])] []
      mayTake s 1023 = true ∧ s.dev.svc ≠ 3 ∧ (cpWords s 0 (slotVa (cmdqAt s 1023) 0) 8).isSome = true ∧
        (cpWords s 0 (slotVa (cmdqAt s 1023) 0) 8).map (fun w => (pktValid w, pktKind w, takeReason (cmdqAt s 1023) w)) = some (true, k, 0) ∧
        spanTaker (cmdqAt s 1023) = none) ∧
    ((descWord .start 0x401).getLsbD 0 = true ∧ CmdQ.start.d0.getLsbD 0 = false ∧ (descWord .start 0x301).getLsbD 0 = false) := by decide +kernel
/-- An interrupt asked for and allowed. -/
theorem wit_QueueEvents_irq : pktFlags [0x4_0000_8004, 0x800_0000] / 4 % 2 = 1 ∧ ({ CmdQ.start with d0 := 0x800_0407 } : CmdQ).d0.getLsbD 1 = true := by decide
/-- NOP, SIGNAL and WAITSIG that may start; a WAITSIG that waits, and one whose time is over. -/
theorem wit_QueueEvents_packets : (∀ w0 ∈ [0x8001, 0x3_0000_8004, 0x8005], let s := queued [] [taken [w0, 0x800_0000]]
      (∃ y, pktAt s 1023 0 = some y ∧ mayStart s 1023 y = true ∧ y.idx = 0 ∧ pktFlags y.w < 4) ∧ (cpWords s 0 0x800_0000 1).isSome = true) ∧
    (let s := { queued [] [{ taken [0x8005, 0x800_0000, 5, 1] with started := true }] with tick := 1 }
     ∃ y, pktAt s 1023 0 = some y ∧ pktKind y.w = 5 ∧ y.started = true ∧ pktWord y.w 3 % 2 ^ 32 = 1 ∧ y.since + 1 ≤ s.tick ∧
       waitsigMet y.w 0 = false ∧ (cmdqAt s 1023).state = 1) ∧
    (let y := { taken [0x8008, 0x800_0000, 0x800_0008] with started := true, kept := [[1, 2, 3, 4, 5, 6, 7, 8]] }
     pktAt (queued [] [y]) 1023 0 = some y ∧ y.started = true ∧ pktKind y.w = 8) := by
  refine ⟨?_, ⟨_, rfl, by decide⟩, by decide⟩
  intro w h
  simp only [List.mem_cons, List.not_mem_nil, or_false] at h
  rcases h with rfl | rfl | rfl <;> exact ⟨⟨_, rfl, by decide⟩, by decide +kernel⟩

/-- The words of an image with one section of text, its table, a placement table and a LAUNCH packet of them. -/
def image : List (Nat × List Nat) := [(0x800_1000, [0x4249_4E31_0001_0040, 0x1_0000_0040_0000, 0, 0, 64, 0, 0, 0, 0x0100_0000_0000_0008, 80]), (0x800_2000, [1, 0])]
def launchPkt : List Word := [0x8002, 0x800_1000, 0x800_2000, 0x010101]

theorem wit_QueueEvents_launch : (let s := queued image [taken launchPkt]
      (∃ y, pktAt s 1023 0 = some y ∧ mayStart s 1023 y = true ∧ pktKind y.w = 2 ∧ y.span = none)) ∧
    (loadTask (queued image []) 0 launchPkt 0 1023 0 none).isOk = true ∧ (loadTask (queued [] []) 0 launchPkt 0 1023 0 none).isOk = false := by
  refine ⟨⟨_, rfl, by decide⟩, by decide +kernel, by decide +kernel⟩
/-- A GRAPH of one COND node without successors. -/
theorem wit_QueueEvents_graph : (let s := queued [(0x800_0400, [0x8011, 0, 0, 0xFFFF_FFFF_FFFF_FFFF, 0xFFFF_FFFF_FFFF_FFFF, 0, 0, 0])] []
      let w : List Word := [0x8003, 0x800_0400, 1]
      pktKind w = 3 ∧ (upto 64).find? (fun i => (graphAt s i).isNone) = some 0 ∧
        ((cpWords s 0 0x800_0400 8).map fun ws => bodyOk (pieces 8 1 ws) && (launchesOf s 0 (pieces 8 1 ws)).any fun ls =>
          ls.all fun l => decide (bits (pktFlags l) 1 2 ≤ bits (cmdqAt s 1023).d0.toNat 3 2)) = some true) := by decide +kernel
/-- STEPOPEN before its attempt, and STEPCLOSE in an attempt and after its decision. -/
theorem wit_QueueEvents_step : (let y := { taken [6, 0, 0x9_0000_0000] with phase := 1 }
      let s := { opening with queues := [(1023, { CmdQ.start with bind := 0x8000, pkts := [y] })] }
      pktAt s 1023 0 = some y ∧ mayStart s 1023 y = true ∧ pktKind y.w = 6 ∧ s.dev.svc = 2 ∧ ctxFor s (openGrp y.w) = some 3) ∧
    (let o := { taken [6, 0, 0x9_0000_0000] with phase := 3 }
     let y := { taken [7] with idx := 1, span := some 0 }
     let s := { (grouped 5) with queues := [(1023, { CmdQ.start with pkts := [o, y] })] }
     pktAt s 1023 1 = some y ∧ y.span = some 0 ∧ pktAt s 1023 0 = some o ∧ groupCtx s (openGrp o.w) = some 3 ∧ (ctxAt s 3).isOpen = true ∧
       (ctxAt s 3).opened = o.since ∧ spanDone s 1023 3 y = true ∧
       (let g : Ctx := { Ctx.start with hist := [⟨0, true, 0, none, 0⟩] }
        g.isOpen = false ∧ g.hist.find? (fun h => h.seqno = o.since) = some ⟨0, true, 0, none, 0⟩)) := by decide

/-- A task that is ready to launch on the free skein of its partition, resident, being stopped, and restored. -/
def ready1 (st : TaskSt) (instep : Bool) : Task := { emptyTask State.reset 0 [] 0 0 0 with
  st := st, place := [0], binding := if st = .ready then [] else [(0, 0)], instep := instep }
def scheduling (st : TaskSt) (instep : Bool) : State := { queued [] [] with tasks := [(5, some (ready1 st instep))] }
theorem wit_ScheduleEvents : (let s := scheduling .ready false
      candidates s = [(5, ready1 .ready false)] ∧ bindingFor s (ready1 .ready false) [] = some [(0, 0)] ∧ mayLaunch s (ready1 .ready false) = true) ∧
    (∀ i ∈ [true, false], let s := scheduling .stopping i
     taskAt s 5 = some (ready1 .stopping i) ∧ s.dev.svc ≠ 3 ∧ (∀ b ∈ (ready1 .stopping i).binding, spindleStopped (recallChunks (ready1 .stopping i) s) b.2 = true) ∧
       ∀ m ∈ (recallChunks (ready1 .stopping i) s).net, packetOf (recallChunks (ready1 .stopping i) s) (ready1 .stopping i) m = false) ∧
    (let s := scheduling .restoring false
     taskAt s 5 = some (ready1 .restoring false) ∧ ∀ w ∈ windowPlaces (ready1 .restoring false), (SMap.get Window.start s.windows w.1).owner = none ∧
       (SMap.get Window.start s.windows w.1).queue = []) := by
  decide +kernel
/-- Where no skein is free, no placement of a spindle or more has a binding. -/
theorem no_binding (s : State) (t : Task) (e : Nat) (es : List Nat) (hp : t.place = e :: es)
    (h : ∀ k, skeinFree s t.part (heldSkeins s []) k = false) : bindingFor s t [] = none := by
  have none_of : ∀ f, imagesOf (skeinFree s t.part (heldSkeins s [])) f (e :: es) = none := by
    intro f; unfold imagesOf; rw [List.foldr_cons]; split
    · simp [h]
    · rfl
  unfold bindingFor findBinding tryMaps
  simp only [hp, none_of, List.findSome?_eq_none_iff, ite_self, implies_true]
  intros; split <;> simp
/-- Nothing to launch; a task that is bound again; a victim of a lower class, whose skein the candidate would have; and a partition
without skeins. -/
theorem wit_ScheduleEvents_round : candidates State.reset = [] ∧
    (let s := scheduling .away false
     candidates s = [(5, ready1 .away false)] ∧ (ready1 .away false).st = .away ∧ (bindingFor s (ready1 .away false) []).isSome = true ∧ mayLaunch s (ready1 .away false) = true) := by
  decide +kernel
/-- A candidate for which nothing is free, beside a task of a lower class. -/
def pressing (n : Nat) : Task := { ready1 .ready false with prio := 3, part := n }
theorem wit_ScheduleEvents_victim : (let s := { queued [] [] with tasks := [(5, some (ready1 .resident false)), (6, some (pressing 0))] }
      candidates s = [(6, pressing 0)] ∧ victimsFor s (pressing 0) = [(5, ready1 .resident false)] ∧ stoppingTasks s = [] ∧
        (bindingFor s (pressing 0) [5]).isSome = true) := by decide +kernel
/-- The victim's skein is the only one of the partition. -/
theorem wit_ScheduleEvents_none : bindingFor { queued [] [] with tasks := [(5, some (ready1 .resident false)), (6, some (pressing 0))] } (pressing 0) [] = none := by
  refine no_binding _ _ 0 [] rfl fun k => ?_
  have w : partWord (queued [] []) 0 1 = 1 ∧ partWord (queued [] []) 0 2 = 0 := by decide +kernel
  by_cases hk : k = 0
  · subst hk; decide +kernel
  · have : inPartition { queued [] [] with tasks := [(5, some (ready1 .resident false)), (6, some (pressing 0))] } 0 (8 * k) = false := by
      show (if skeinOf (8 * k) < 64 then bitOf (partWord (queued [] []) 0 1) (skeinOf (8 * k)) else bitOf (partWord (queued [] []) 0 2) (skeinOf (8 * k) - 64)) = false
      rw [w.1, w.2, show skeinOf (8 * k) = k by unfold skeinOf; omega]
      split
      · unfold bitOf; simp [Nat.div_eq_of_lt (Nat.one_lt_two_pow hk)]
      · unfold bitOf; simp
    unfold skeinFree; rw [show (pressing 0).part = 0 from rfl, this]; rfl
/-- Two candidates, the second in a partition of two skeins, the first in that one or in one without. -/
def rival (n : Nat) : State := { queued [] [] with
  parts := SMap.modify .start (queued [] []).parts 0 fun x => { x with w := SMap.set 0 x.w 1 3 }
  tasks := [(5, some { ready1 .ready false with part := n }), (6, some { ready1 .ready false with q := 2 })] }
theorem wit_ScheduleEvents_two : (let s := rival 0
      let t := { ready1 .ready false with part := 0 }
      let t2 := { ready1 .ready false with q := 2 }
      let u := launchTask 5 t [(0, 0)] s
      candidates s = [(5, t), (6, t2)] ∧ bindingFor s t [] = some [(0, 0)] ∧ mayLaunch s t = true ∧ heldBack [(5, t), (6, t2)] [] (5, t) = false ∧
        heldBack [(5, t), (6, t2)] [5] (6, t2) = false ∧ bindingFor u t2 [] = some [(0, 8)] ∧ mayLaunch u t2 = true) ∧
    (let s := rival 1
     let t := { ready1 .ready false with part := 1 }
     let t2 := { ready1 .ready false with q := 2 }
     candidates s = [(5, t), (6, t2)] ∧ stoppingTasks s = [] ∧ victimsFor s t = [] ∧
       heldBack [(5, t), (6, t2)] [] (5, t) = false ∧ heldBack [(5, t), (6, t2)] [] (6, t2) = false ∧ bindingFor s t2 [] = some [(0, 0)] ∧
       mayLaunch s t2 = true) := by decide +kernel
/-- No skein of partition 1: nothing binds, with a victim or without. -/
theorem wit_ScheduleEvents_passed : bindingFor (rival 1) { ready1 .ready false with part := 1 } [] = none ∧
    takeVictims (rival 1) { ready1 .ready false with part := 1 } [] [] = none := by
  have h : bindingFor (rival 1) { ready1 .ready false with part := 1 } [] = none := by
    refine no_binding _ _ 0 [] rfl fun k => ?_
    have w : partWord (rival 1) 1 1 = 0 ∧ partWord (rival 1) 1 2 = 0 := by decide +kernel
    have : inPartition (rival 1) 1 (8 * k) = false := by unfold inPartition bitOf; simp [w.1, w.2]
    unfold skeinFree; rw [show ({ ready1 .ready false with part := 1 } : Task).part = 1 from rfl, this]; rfl
  exact ⟨h, by unfold takeVictims; simp [h]⟩
/-- A task that is bound and whose strand 0 is yet to start (R436). -/
theorem wit_ScheduleEvents_start : (let t := ready1 .resident false
    let s := { updStrand 0 0 (fun st => { st with hold := .launch }) (queued [] []) with tasks := [(5, some t)] }
    t.binding = [(0, 0)] ∧ (strandOf (spindleAt s 0) 0).hold = .launch ∧ t.node = none ∧ taskAt s 5 = some t ∧ t.tstart = 0) := by decide +kernel
theorem wit_ScheduleEvents_complete : (let s := { State.reset with tasks := [(5, some (ready1 .resident false))] }
      taskAt s 5 = some (ready1 .resident false) ∧ ∀ b ∈ (ready1 .resident false).binding, spindleComplete s b.2 = true) ∧
    (emptyTask State.reset 0 [] 0 0 0).descs = [] := by decide +kernel
/-- A graph whose one node is a TASK, a COND, a SWITCH, a LOOP without a count and a LOOP with 65535 iterations. -/
def graph1 (kind : Nat) (w1 w2 : Word) : GraphSt := { newGraph 1023 0 (taken []) [[BitVec.ofNat 64 (0x8000 + kind), w1, w2]] [launchPkt] with st := [] }
theorem wit_ScheduleEvents_nodes : (∀ x ∈ [(0x10, 0), (0x11, 0x800_0000), (0x13, 0x800_0000), (0x12, 0)], let g := graph1 x.1 (BitVec.ofNat 64 x.2) 0
      firstDue g = some 0 ∧ pktKind (nodeOf g 0) = x.1) ∧
    (let s := { queued [] [] with graphs := [(63, some (graph1 0x11 0x800_0000 0))] }
     graphAt s 63 = some (graph1 0x11 0x800_0000 0) ∧ (cpWords s 0 0x800_0000 1).isSome = true) ∧
    (let g := graph1 0x12 0x800_0000 0
     firstDue g = some 0 ∧ pktKind (nodeOf g 0) = 0x12 ∧ pktWord (nodeOf g 0) 1 ≠ 0) ∧
    bits (pktWord (nodeOf (graph1 0x12 0 0x0000_FFFF_0000_0000) 0) 2) 32 16 = 0xFFFF := by decide +kernel

/-! ### The host and the device -/

/-- VF 96 enabled for partition 1, which holds spindle 639. -/
def hosting (f : Spindle → Spindle) : State := updSpindle 639 f { State.reset with
  parts := [(1, { Part.start with w := [(2, 0x8000)] })], dev := { Device.start with vfmap := [(95, 0x81)] } }
theorem wit_HostAccesses : (∀ i, i < 1 → paExists (0 + (0xBF_FFFF_FFFF % 2 ^ 36 + i)) = true) ∧
    paExists (0xC0_0000_0000 / 2 ^ 36 % 2 ^ 28 * 2 ^ 36 + 0) = false ∧ refusesAny State.reset none 0 8 = false ∧
    (let s := { (grouped 5) with vpage := [(64, some ⟨3, 2 ^ 30⟩)] }
     refusesAny s none 0x800_0000 8 = true ∧ vpageAt s 0x800_0000 = some ⟨3, 2 ^ 30⟩ ∧ paExists 0x800_0000 = true) ∧
    (let s := hosting id
     vfOn s 96 = true ∧ inPartition s (vfPart s 96) 639 = true ∧ (spindleAt s 639).det = false ∧ (spoolAt (spindleAt s 639) 15).idle = true ∧
       phaserBusy (spindleAt s 639) 15 = false) ∧
    (let s := hosting fun p => { p with det := true, spools := [(15, spool2 1 0 0)], phasers := [(15, ⟨0, 1, 0, [], [], [], 0, 0⟩)],
                                        queues := [(0, { Queue.start with recs := [newRec State.reset 0 [BitVec.ofNat 64 (63 * 2 ^ 45)] 0 0] })] }
     (spindleAt s 639).det = true ∧ semNamed (spindleAt s 639) 63 = true ∧ semNamed (spindleAt s 639) 1 = false ∧
       (spoolAt (spindleAt s 639) 15).idle = false ∧ phaserBusy (spindleAt s 639) 15 = true) := by decide

theorem wit_DeviceRegisters : SMap.get none State.reset.races (raceKey 5 0) = none ∧ 0 < State.reset.den ∧ partLocked State.reset 63 = false ∧ (partAt State.reset 63).go = false ∧ (cmdqAt State.reset 1023).d0.getLsbD 0 = false ∧
    bits (0x803F : BitVec 16).toNat 8 7 = 0 ∧ (0x803F : BitVec 16).getLsbD 15 = true ∧ groupLocked State.reset 15 = false ∧
    (let s := { (hosting id) with queues := [(1023, { CmdQ.start with bind := 0x8001, d0 := 1 })] }
     partLocked s 1 = true ∧ (cmdqAt s 1023).d0.getLsbD 0 = true) ∧
    (let s := { State.reset with parts := [(63, { Part.start with go := true })] }
     (partAt s 63).go = true ∧ invalidated s 63 = true) ∧
    (let s := { State.reset with parts := [(63, { Part.start with w := [(11, 0x1_0000)] })] }
     (partAt s 63).go = false ∧ (0x8000_0000_0000_0000 : Word).getLsbD 63 = true ∧ bits (partWord s 63 11) 0 32 ≠ 0) ∧
    groupLocked (grouped 5) 0 = true := by decide
/-- Bindings of a VF to its own partition and to another; an entry that overlaps and one that may be enabled; a group entry that
is legal and one that is not; corrections of the tick with the clock free, locked to another, and too near to the last. -/
theorem wit_DeviceRegisters_values : (let s := hosting id
      bits (0xE001 : BitVec 16).toNat 8 7 = 96 ∧ vfPart s 96 = 1 ∧ bits (0xE002 : BitVec 16).toNat 8 7 = 96 ∧ (cmdqAt s 0).d0.getLsbD 0 = false) ∧
    (let s := { State.reset with parts := [(1, { Part.start with w := [(0, 2 ^ 63), (1, 1)] }), (2, { Part.start with w := [(1, 3)] }), (3, { Part.start with w := [(1, 2)] })] }
     mayEnable s 2 = false ∧ mayEnable s 3 = true) ∧
    groupLegal State.reset 15 (2 ^ 63 + 0x10) = true ∧ groupLegal (grouped 5) 15 (2 ^ 63 + 9 * 2 ^ 32 + 0x10) = false ∧
    State.reset.dev.timectl = 0 ∧
    (let s := { State.reset with dev := { Device.start with timectl := 1, lastCorr := some 0 } }
     s.dev.timectl ≠ 0 ∧ s.dev.lastCorr = some 0 ∧ s.tick < 0 + 10000) ∧
    (let s := { State.reset with dev := { Device.start with timectl := 1, lastCorr := some 0 }, tick := 10000 }
     s.dev.timectl ≠ 0 ∧ ∀ x ∈ s.dev.lastCorr, x + 10000 ≤ s.tick) := by decide +kernel
/-- Each stage of the start, and the mailbox while it is idle. -/
theorem wit_DeviceRegisters_start : (∀ x ∈ [(1, 0), (2, 1), (3, 1), (4, 1)], let s := { State.reset with dev := { Device.start with stage := x.1, svc := x.2, devcap := 1 } }
    s.dev.stage = x.1 ∧ s.dev.svc = x.2 ∧ (0xF : BitVec 4) &&& s.dev.devcap.truncate 4 ≠ 0 ∧ (∀ p, p < 64 → nres s p = 0) ∧ s.dev.mboxSts ≠ 1) ∧
    State.reset.dev.stage = 0 := by decide

/-- A slot with a program of one EXIT word, legal and with a tenant that has no budget; a Whorl with an event in the last
slot's queue. -/
def slotted (budget : Word) : Whorl := { Whorl.start with prog := [(0, 0x5C00_0000)], tenants := [(0, budget)] }
theorem wit_WhorlSlots : (let w := slotted 1000000
      let a : Attach := (attachAt w 31).withWord0 (0x0D00_0000_0000 ||| 0x8000_0000_0000_0000)
      (attachAt w 31).w0.getLsbD 63 = false ∧ attachErr w 31 a = 0 ∧ attachErr (slotted 0) 31 a ≠ 0) ∧
    (0 % 1000000 = 0 ∧ (State.reset.withFetchWord 32 0).whorls ≠ []) ∧
    (let e : TapEvent := ⟨0, 0, 0, 0, 0, 0, 0, none⟩
     let w : Whorl := { slotted 1000000 with slots := [(31, { Attach.start with w0 := 0x8000_0000_0000_0000, queue := [e] })] }
     w.run = none ∧ w.next ≤ 0 ∧ nextRunSlot w = some 31 ∧ (attachAt w 31).queue = [e] ∧ (attachAt { Whorl.start with slots := [(31, { Attach.start with w0 := 0x8000_0000_0000_0000 })] } 31).w0.getLsbD 63 = true) := by decide
theorem wit_WhorlSlots_budget : (let a : Attach := { Attach.start with w1 := 16 }
    0 / 2 ^ 24 % 2 ^ 20 + a.maxc ≤ 1000000 % 2 ^ 20 ∧ 0 % 2 ^ 20 < 0 / 2 ^ 24 % 2 ^ 20 + a.maxc) := by decide

/-! ### A step, decoding, memory and traps -/

/-- A word alone and a word that is refused, at the address of a strand whose turn it is, in a turn of its own and in one that
the plan gives; a mark on the second register of VADD v0, v1, v2. -/
theorem wit_StepRunsInstruction : (∀ w ∈ [0x03280000_00000000, 0], ∀ h ∈ [true, false], let s := State.reset.withFetchWord 64 w
      s.agenda = [] ∧ (nextMove h s).isNone = true ∧ nextIssue s = some (0, 0) ∧ fetchGroup s 0 0 = .words w 0 ∧ (strandAt s 0 0).vmark = []) ∧
    groupMark (strandAt State.reset 0 0) (.vadd (raw (.v 0) (.v 1) (.v 2) (.v 0) .f32)) none = none ∧
    groupMark { Strand.start with vmark := SMap.set 0 [] (4 * 2 + 3) 1 } (.vadd (raw (.v 0) (.v 1) (.v 2) (.v 0) .f32)) none = some (false, 1) ∧
    (decodeGroup 0x03280000_00000000 0).isOk = true ∧ (decodeGroup 0 0).isOk = false := by decide +kernel
/-- The manual's pair at the strand's pc, and the place of each of its words. -/
theorem wit_StepRunsInstruction_pair : (let s := setMemBytes 0x800_0000 (toBytes 0x88101809_0380A490 8 ++ toBytes 0x020E2000_0000800C 8) (State.reset.withFetchWord 64 0)
    s.agenda = [] ∧ (nextMove false s).isNone = true ∧ nextIssue s = some (0, 0) ∧ fetchGroup s 0 0 = .words 0x88101809_0380A490 0x020E2000_0000800C ∧
      s.posted = [] ∧ physOf s 0 0x800_0000 = some 0x800_0000 ∧ physOf s 0 0x800_0008 = some 0x800_0008 ∧ wordP 0x88101809_0380A490 = true ∧
      (∀ i, i < 16 → vpageAt s (0x800_0000 + i) = none) ∧ skeinMark s (skeinOf 0) (attOf s 0) 0x800_0000 = 0 ∧ skeinMark s (skeinOf 0) (attOf s 0) 0x800_0008 = 0) := by
  decide +kernel
/-- A planned event, a Whorl's run that is due, and a cycle with nothing to do. -/
theorem wit_StepRunsInstruction_others : (let s := State.reset.withFetchWord 32 0x5C00_0000
      s.agenda = [] ∧ (nextMove false s).isNone = true ∧ nextIssue s = none ∧ (engineMove false s).isNone = true ∧ (whorlAt s 0).run.any (fun r => decide (r.due ≤ s.tick)) = true ∧
        (decodeWhorl (SMap.get 0 (whorlAt s 0).prog 0).toNat).isSome = true) ∧
    (State.reset.agenda = [] ∧ (nextMove false State.reset).isNone = true ∧ nextIssue State.reset = none ∧ (engineMove false State.reset).isNone = true ∧
      (whorlMoves State.reset).isNone = true) ∧
    (let s := copying 0x10
     (nextMove false s).isNone = true ∧ nextIssue s = none ∧ (engineMove false s).any (fun o => match o with | .next _ => true | _ => false) = true) ∧
    ({ State.reset with agenda := [.event .serviceFull] } : State).agenda = [.event .serviceFull] := by decide +kernel

theorem wit_DecodeEncode : (Instr.add { o3 with p := true, v := true, dst := .s 63, a := .s 63, b := .cb 253, g := 15, gn := true }).wf = true ∧
    (encode (.add { o3 with p := true, v := true, dst := .s 63, a := .s 63, b := .cb 253, g := 15, gn := true })).isSome = true := by decide

theorem wit_StepKeepsSound : State.reset.sound ∧ (∃ t, step State.reset = .next t) := ⟨by unfold State.sound; decide, _, rfl⟩

/-- A store at the end of a page that is not versioned. -/
theorem wit_StoredBytes : (let s := posted none
      ∃ w, s.posted[0]? = some w ∧ w.atom = none ∧ w.strand < 4 ∧ w.data ≠ [] ∧ mayApply s 0 w = true ∧ stale s w.tag w.att = false) ∧
    ∀ a, vpageAt (posted none) a = none := ⟨⟨_, rfl, by decide⟩, fun _ => rfl⟩

/-- The last block of a versioned frame in an open attempt, after a commit and after an abort. -/
def versioned (bit : Bool) (isOpen : Bool) : State :=
  { (grouped 5 fun g => { g with isOpen := isOpen, bitmap := SMap.set false g.bitmap 0xFFF bit }) with
    vpage := [(64, some ⟨3, 2 ^ 30⟩)], vmeta := [(0x81FFF, ⟨true, true, 0xFFFF⟩)] }
theorem wit_AttemptIsolation : vpageAt (versioned false true) 0x81FFF00 = some ⟨3, 2 ^ 30⟩ ∧ 256 ≤ 2 ^ 30 ∧
    (ctxAt (versioned false true) 3).isOpen = true ∧ 0x81FFF80 % 128 + 128 ≤ 128 ∧ 0x81FFFFF / 256 = 0x81FFF80 / 256 ∧
    (∀ b ∈ [true, false], (ctxAt (versioned b false) 3).isOpen = false ∧ SMap.get false (ctxAt (versioned b false) 3).bitmap ((0xFFFF : BitVec 16).toNat % 4096) = b) := by
  decide
theorem wit_SlotOfRead : vpageAt (versioned true false) 0x81FFFFF = some ⟨3, 2 ^ 30⟩ ∧ (versioned true false).posted = [] ∧
    0x81FFFFF = (versioned true false).dev.apbase.toNat / 2 ^ 36 % 2 ^ 28 * 2 ^ 36 + 0x81FFFFF ∧ (∀ i, i < 1 → paExists (0x81FFFFF + i) = true) := by decide

theorem wit_RegisterReadsAfterWrites : (63 : Nat) < 64 ∧ (List.replicate 64 (0 : Lane)).length = 64 := by decide

theorem wit_RegisterWordFrame : Instr.add ∈ ops01 ++ ops08 ++ ops09 ++ ops0B ++ ops0C ∧ State.reset.upsets = [] ∧ State.reset.cur.raised = none ∧
    State.reset.cur.late = none ∧ (∃ t, exec (.add o3) State.reset = .next t ∧ t.cur.raised = none ∧ t.cur.late = none) := by
  refine ⟨by simp [ops01], rfl, rfl, rfl, _, rfl, rfl, rfl⟩

theorem wit_CauseLayout : (0x20 : Nat) < 64 ∧ (63 : Nat) < 64 ∧ (15 : Nat) < 16 ∧ State.reset.cur.pair = false ∧ (me State.reset).exl = false ∧
    (me State.reset).landings = [] := by decide

/-- A strand with no write in flight, with one, and in a handler; and the first word of a pair that has raised a trap. -/
theorem wit_PreciseTraps : State.reset.cur.pair = false ∧ (me State.reset).exl = false ∧ (me State.reset).landings = [] ∧
    (let s := one fun st => { st with landings := [⟨4, .s 1 0, 0, 0, none, 0, false, false⟩] }
     (me s).exl = false ∧ (me s).landings ≠ []) ∧
    (me handler).exl = true ∧ handler.cur.pair = false ∧
    (let s := { State.reset with cur := { Focus.start with pair := true } }
     let s1 := raise 0x0C (det 1 0) 0 s
     s1.cur.again = false ∧ s1.cur.raised.any (fun r => decide (r.kind ≠ .after)) = true) := by decide

theorem wit_TrapReturn : (me handler).held = [] ∧ (let h : TrapReq := ⟨0x12, 0, false, .imprecise, 0, 0⟩
    (me (one fun st => { st with exl := true, held := [h] })).held ≠ []) := by decide

/-- A deposit of a word before the trap and one of the handler; MOVL in a handler from a FULL latch. -/
theorem wit_LatchBanks : (me handler).exl = true ∧ (me State.reset).exl = false ∧ (5 : Nat) < 6 ∧ (3 : Nat) ≠ 5 ∧
    (let s := updStrand 0 0 (setLatch 5 ⟨.full, [], 7, 0⟩) handler
     goes 0 false s ∧ (latchAt (rd s) 5).st = .full ∧ (latchAt (me s) 5).st = .full ∧ enabled (rd s) (latchAt (rd s) 5).flags = 0) := by unfold goes; decide

/-- A guard whose lane 0 is false, on words of each form. -/
theorem wit_FalseGuardHasNoEffect : (me State.reset).wait = none ∧ (me State.reset).mem = none ∧ State.reset.upsets = [] ∧
    guard0 State.reset 15 false = false ∧ guard0 State.reset 0 true = false ∧
    (o3Op 0x24 1).isSome = true ∧ (o3Op 0x0A 7).isSome = true ∧ Instr.li ∈ ops02 ∧ (opsB24 7).isSome = true := by
  refine ⟨by decide, by decide, by decide, by decide, by decide, by decide, by decide, by simp [ops02], by decide⟩

end Sys2Proof.Tests
end

namespace Sys2Proof.Machine

/-! ## What leaves memory alone -/

/-- A fold of steps that each leave memory alone leaves it alone. -/
theorem foldl_mem {α : Type} {f : State → α → State} (h : ∀ s a, (f s a).mem = s.mem) (l : List α) (s : State) :
    (l.foldl f s).mem = s.mem :=
  List.foldlRecOn (motive := fun t : State => t.mem = s.mem) l f rfl fun t ht a _ => (h t a).trans ht

/-- So does one that gathers a value beside the state. -/
theorem foldl_snd_mem {α β : Type} {f : β × State → α → β × State} (h : ∀ r a, (f r a).2.mem = r.2.mem) (l : List α) (r : β × State) :
    (l.foldl f r).2.mem = r.2.mem :=
  List.foldlRecOn (motive := fun q : β × State => q.2.mem = r.2.mem) l f rfl fun q hq a _ => (h q a).trans hq

/-! ### Strands and spindles -/

@[simp] theorem landAt_mem (n t f s) : (landAt n t f s).mem = s.mem := by simp [landAt]

@[simp] theorem completeSeq_mem (s) : (completeSeq s).mem = s.mem := by simp [completeSeq]

@[simp] theorem completeGroup_mem (s) : (completeGroup s).mem = s.mem := by
  unfold completeGroup
  split <;> rfl

@[simp] theorem softWrite_mem (key old new s) : (softWrite key old new s).2.mem = s.mem := by simp [softWrite]

@[simp] theorem hardWrite_mem (key mask old f s) : (hardWrite key mask old f s).2.mem = s.mem := by simp [hardWrite]

@[simp] theorem hardTenant_mem (d p i mask f s) : (hardTenant d p i mask f s).mem = s.mem := by simp [hardTenant]

@[simp] theorem countDrop_mem (d p lo s) : (countDrop d p lo s).mem = s.mem := by simp [countDrop]

@[simp] theorem offerSlot_mem (e s i) : (offerSlot e s i).mem = s.mem := by
  simp only [offerSlot]
  (repeat' split) <;> simp

@[simp] theorem offerEvent_mem (e s) : (offerEvent e s).mem = s.mem := by simp -implicitDefEqProofs [offerEvent, apply_ite State.mem, foldl_mem]

@[simp] theorem tap_mem (t n agent tag f3 f4 f5 s) : (tap t n agent tag f3 f4 f5 s).mem = s.mem := by
  unfold tap
  split <;> simp

@[simp] theorem voteFlags_mem (tag f s) : (voteFlags tag f s).mem = s.mem := by
  unfold voteFlags
  split <;> rfl

@[simp] theorem logCorrection_mem (n k addr s) : (logCorrection n k addr s).mem = s.mem := by simp [logCorrection]

@[simp] theorem noteCorrupt_mem (n k kind addr detail s) : (noteCorrupt n k kind addr detail s).mem = s.mem := by simp [noteCorrupt]

@[simp] theorem enterTrap_mem (n k r raisedAt s) : (enterTrap n k r raisedAt s).mem = s.mem := by simp [enterTrap]

@[simp] theorem doubleTrap_mem (n k r s) : (doubleTrap n k r s).mem = s.mem := by
  unfold doubleTrap
  split <;> rfl

@[simp] theorem beginTrap_mem (n k r s) : (beginTrap n k r s).mem = s.mem := by
  simp only [beginTrap]
  (repeat' split) <;> simp

@[simp] theorem takeTrap_mem (n k r s) : (takeTrap n k r s).mem = s.mem := by
  unfold takeTrap
  split <;> simp

@[simp] theorem deliverReq_mem (n k r own s) : (deliverReq n k r own s).mem = s.mem := by
  simp only [deliverReq]
  (repeat' split) <;> simp

@[simp] theorem deliverTrap_mem (n k code detail eaddr own s) : (deliverTrap n k code detail eaddr own s).mem = s.mem := by simp [deliverTrap]

@[simp] theorem noteRaised_mem (r s) : (noteRaised r s).mem = s.mem := by simp [noteRaised]

@[simp] theorem raiseReq_mem (r s) : (raiseReq r s).mem = s.mem := by
  unfold raiseReq
  split <;> simp

@[simp] theorem meetCorrupt_mem (kind detail s) : (meetCorrupt kind detail s).mem = s.mem := by
  unfold meetCorrupt
  split <;> simp

@[simp] theorem raise_mem (code detail eaddr s) : (raise code detail eaddr s).mem = s.mem := by simp [raise]

@[simp] theorem raiseAfter_mem (code detail s) : (raiseAfter code detail s).mem = s.mem := by
  unfold raiseAfter
  split <;> simp

@[simp] theorem raiseIllegal_mem (cls op reason s) : (raiseIllegal cls op reason s).mem = s.mem := by simp [raiseIllegal]

@[simp] theorem raisePriv_mem (s) : (raisePriv s).mem = s.mem := by simp [raisePriv]

@[simp] theorem raiseAlign_mem (eaddr s) : (raiseAlign eaddr s).mem = s.mem := by simp [raiseAlign]

@[simp] theorem raiseSched_mem (a b s) : (raiseSched a b s).mem = s.mem := by simp [raiseSched]

@[simp] theorem raiseNondet_mem (a b s) : (raiseNondet a b s).mem = s.mem := by simp [raiseNondet]

@[simp] theorem again_mem (s) : (again s).mem = s.mem := by simp [again]

@[simp] theorem transfer_mem (t s) : (transfer t s).mem = s.mem := by simp [transfer]

@[simp] theorem lockUntil_mem (c s) : (lockUntil c s).mem = s.mem := by simp [lockUntil]

@[simp] theorem returnTrap_mem (s) : (returnTrap s).mem = s.mem := by simp [returnTrap]

/-! ### Operand forms -/

@[simp] theorem whenGuard_mem (g gn k s) (hk : ∀ t, (k t).mem = t.mem) : (whenGuard g gn k s).mem = s.mem := by
  unfold whenGuard
  split <;> simp [hk]

@[simp] theorem whenPriv_mem (k s) (hk : ∀ t, (k t).mem = t.mem) : (whenPriv k s).mem = s.mem := by
  unfold whenPriv
  split <;> simp [hk]

@[simp] theorem voted_mem (v k s) (hk : ∀ t, (k t).mem = t.mem) : (voted v k s).mem = s.mem := by
  simp only [voted]
  (repeat' split) <;> simp [hk]

@[simp] theorem landS_mem (n d x f s) : (landS n d x f s).mem = s.mem := by simp [landS]

/-! ### Memory: copies, marks, views and posted writes -/

@[simp] theorem updCopy_mem (c pa tent f s) : (updCopy c pa tent f s).mem = s.mem := by simp [updCopy]

@[simp] theorem updCopies_mem (c pa f s) : (updCopies c pa f s).mem = s.mem := by simp [updCopies]

@[simp] theorem markLine_mem (pa src s) : (markLine pa src s).mem = s.mem := by simp [markLine]

@[simp] theorem markCopy_mem (key src s) : (markCopy key src s).mem = s.mem := by simp [markCopy]

@[simp] theorem markHome_mem (x pa src s) : (markHome x pa src s).mem = s.mem := by
  unfold markHome
  split <;> rfl

@[simp] theorem homeTaint_mem (key s) : (homeTaint key s).mem = s.mem := by
  simp only [homeTaint]
  (repeat' split) <;> simp

@[simp] theorem markCopies_mem (c pa src s) :
    (markCopies c pa src s).mem = s.mem := by simp [markCopies, apply_ite State.mem]

@[simp] theorem dropCopy_mem (key s) : (dropCopy key s).mem = s.mem := by simp [dropCopy]

@[simp] theorem evictCopies_mem (c pa s) :
    (evictCopies c pa s).mem = s.mem := by simp [evictCopies, apply_ite State.mem]

@[simp] theorem fillLine_mem (c x pa s) : (fillLine c x pa s).mem = s.mem := by simp [fillLine]

@[simp] theorem fillMiss_mem (c x pa s) : (fillMiss c x pa s).mem = s.mem := by
  unfold fillMiss
  split <;> rfl

@[simp] theorem touchLine_mem (skein x pa s) : (touchLine skein x pa s).mem = s.mem := by
  unfold touchLine
  split <;> simp

@[simp] theorem dirtyLine_mem (skein x rel poisoned pa s) : (dirtyLine skein x rel poisoned pa s).mem = s.mem := by
  simp only [dirtyLine]
  (repeat' split) <;> simp

@[simp] theorem updView_mem (n a f s) : (updView n a f s).mem = s.mem := by
  unfold updView
  (repeat' split) <;> simp

@[simp] theorem noteRelease_mem (n a mask s) : (noteRelease n a mask s).mem = s.mem := by simp [noteRelease]

@[simp] theorem noteAcquire_mem (n a mask s) : (noteAcquire n a mask s).mem = s.mem := by simp [noteAcquire]

@[simp] theorem deliverInval_mem (i s) : (deliverInval i s).mem = s.mem := by
  simp only [deliverInval]
  (repeat' split) <;> simp

@[simp] theorem issueWrite_mem (n a s) : (issueWrite n a s).mem = s.mem := by simp [issueWrite]

@[simp] theorem tickDie_mem (n a o s) : (tickDie n a o s).mem = s.mem := by
  unfold tickDie
  split <;> rfl

@[simp] theorem readUnit_mem (n a x pa len s) : (readUnit n a x pa len s).2.mem = s.mem := by
  unfold readUnit
  split <;> simp

@[simp] theorem readOwn_mem (n a x pa len s) : (readOwn n a x pa len s).2.mem = s.mem := by
  unfold readOwn
  split <;> simp

@[simp] theorem readRange_mem (n a x u pa len s) :
    (readRange n a x u pa len s).2.mem = s.mem := by simp -implicitDefEqProofs [readRange, foldl_snd_mem]

@[simp] theorem clearWhole_mem (w s) : (clearWhole w s).mem = s.mem := by
  simp only [clearWhole]
  (repeat' split) <;> simp

@[simp] theorem postAny_mem (atom whole lane marked hn va pa bs rel s) :
    (postAny atom whole lane marked hn va pa bs rel s).mem = s.mem := by simp [postAny]

@[simp] theorem postAtom_mem (atom hn va pa bs rel s) : (postAtom atom hn va pa bs rel s).mem = s.mem := by simp [postAtom]

@[simp] theorem postLane_mem (lane marked hn va pa bs s) : (postLane lane marked hn va pa bs s).mem = s.mem := by simp [postLane]

@[simp] theorem postPiece_mem (start len marked spoilt hn va pa bs rel s) :
    (postPiece start len marked spoilt hn va pa bs rel s).mem = s.mem := by simp [postPiece]

/-! ### Floating-point delivery -/

@[simp] theorem checkShadow_mem (unit rows s) : (checkShadow unit rows s).2.mem = s.mem := by simp [checkShadow]

@[simp] theorem keepFlags_mem (f s) : (keepFlags f s).mem = s.mem := by
  unfold keepFlags
  split <;> rfl

@[simp] theorem meetShadow_mem (shadow s) : (meetShadow shadow s).mem = s.mem := by
  unfold meetShadow
  split <;> simp

@[simp] theorem deliverScalarFp_mem (n d x f shadow s) : (deliverScalarFp n d x f shadow s).mem = s.mem := by
  unfold deliverScalarFp
  (repeat' split) <;> simp

@[simp] theorem raiseLate_mem (n r f shadow s) : (raiseLate n r f shadow s).mem = s.mem := by
  unfold raiseLate
  split <;> rfl

@[simp] theorem deliverFp_mem (n t f shadow s) : (deliverFp n t f shadow s).mem = s.mem := by
  unfold deliverFp
  (repeat' split) <;> simp

@[simp] theorem whenMode_mem (cls op w k s) (hk : ∀ t, (k t).mem = t.mem) : (whenMode cls op w k s).mem = s.mem := by
  unfold whenMode
  split <;> simp [hk]

@[simp] theorem whenServed_mem (cls op ts k s) (hk : ∀ t, (k t).mem = t.mem) : (whenServed cls op ts k s).mem = s.mem := by
  unfold whenServed
  split <;> simp [hk]

/-! ### Scalar words -/

@[simp] theorem scalarWord_mem (v g gn k s) (hk : ∀ t, (k t).mem = t.mem) : (scalarWord v g gn k s).mem = s.mem := by simp [scalarWord, hk]

@[simp] theorem scalarInt_mem (w f s) : (scalarInt w f s).mem = s.mem := by simp [scalarInt]

@[simp] theorem scalarField_mem (w f s) : (scalarField w f s).mem = s.mem := by simp [scalarField]

@[simp] theorem scalarMinMax_mem (w wantMax s) : (scalarMinMax w wantMax s).mem = s.mem := by simp [scalarMinMax]

@[simp] theorem immOp_mem (w f s) : (immOp w f s).mem = s.mem := by simp [immOp]

@[simp] theorem immBits_mem (w f s) : (immBits w f s).mem = s.mem := by simp [immBits]

/-! ### Control words -/

@[simp] theorem callTo_mem (t s) : (callTo t s).mem = s.mem := by
  unfold callTo
  split <;> simp

@[simp] theorem whenTarget_mem (t k s) (hk : ∀ x t, (k x t).mem = t.mem) : (whenTarget t k s).mem = s.mem := by
  unfold whenTarget
  split <;> simp [hk]

@[simp] theorem enterWith_mem (lid off t stages s) : (enterWith lid off t stages s).mem = s.mem := by
  unfold enterWith
  (repeat' split) <;> simp

@[simp] theorem moveLatch_mem (w n s) : (moveLatch w n s).mem = s.mem := by
  simp only [moveLatch]
  (repeat' split) <;> simp

/-! ### System words -/

@[simp] theorem crWrite_mem (r x s) : (crWrite r x s).mem = s.mem := by
  unfold crWrite
  split <;> rfl

@[simp] theorem afterFlags_mem (k s) (hk : ∀ t, (k t).mem = t.mem) : (afterFlags k s).mem = s.mem := by
  unfold afterFlags
  split <;> simp [hk]

@[simp] theorem raiseHandle_mem (reason h lane eaddr s) : (raiseHandle reason h lane eaddr s).mem = s.mem := by simp [raiseHandle]

/-! ### Objects of a spindle -/

@[simp] theorem raiseSem_mem (n k amount vt s) : (raiseSem n k amount vt s).mem = s.mem := by simp [raiseSem]

@[simp] theorem carrySem_mem (n k rel s) : (carrySem n k rel s).mem = s.mem := by simp [carrySem]

@[simp] theorem takeCarry_mem (n a k s) : (takeCarry n a k s).mem = s.mem := by simp [takeCarry]

@[simp] theorem setPhaser_mem (n lit x s) : (setPhaser n lit x s).mem = s.mem := by
  simp only [setPhaser]
  (repeat' split) <;> simp

@[simp] theorem endPhase_mem (lit ms s) : (endPhase lit ms s).1.mem = s.mem := by simp -implicitDefEqProofs [endPhase, foldl_mem]

@[simp] theorem completePhase_mem (n lit s) : (completePhase n lit s).mem = s.mem := by simp [completePhase]

@[simp] theorem tryComplete_mem (n lit s) : (tryComplete n lit s).mem = s.mem := by
  unfold tryComplete
  split <;> simp

@[simp] theorem arrive_mem (n lit rel s) : (arrive n lit rel s).mem = s.mem := by simp [arrive]

@[simp] theorem whenOrdered_mem (wr us k s) (hk : ∀ t, (k t).mem = t.mem) : (whenOrdered wr us k s).mem = s.mem := by
  simp only [whenOrdered]
  (repeat' split) <;> simp [hk]

@[simp] theorem whenFree_mem (wr us k s) (hk : ∀ t, (k t).mem = t.mem) : (whenFree wr us k s).mem = s.mem := by
  simp only [whenFree]
  (repeat' split) <;> simp [hk]

@[simp] theorem whenEntry_mem (wr us k s) (hk : ∀ t, (k t).mem = t.mem) : (whenEntry wr us k s).mem = s.mem := by
  unfold whenEntry
  split <;> simp [hk]

@[simp] theorem startPurge_mem_eq (part tag s) : (startPurge part tag s).mem = s.mem := by
  unfold startPurge; dsimp only; split <;> simp

@[simp] theorem consume_mem (part src addr tag s) : (consume part src addr tag s).mem = s.mem := by
  unfold consume; rw [startPurge_mem_eq]

@[simp] theorem raisePoison_mem (src addr s) : (raisePoison src addr s).mem = s.mem := by simp [raisePoison]

/-! ### The device region -/

@[simp] theorem writeWptr_mem (q v s) : (writeWptr q v s).mem = s.mem := by simp [writeWptr]

@[simp] theorem writeQsts_mem (q v s) : (writeQsts q v s).mem = s.mem := by simp [writeQsts]

theorem windowStore_mem {n off v s t} (h : windowStore n off v s = .ok t) : t.mem = s.mem := by
  unfold windowStore at h
  dsimp only at h
  (repeat' split at h) <;> cases h <;> rfl

theorem devStoreWord_mem {p off v s t} (h : devStoreWord p off v s = .ok t) : t.mem = s.mem := by
  unfold devStoreWord at h
  dsimp only at h
  split at h
  · (repeat' split at h) <;> cases h <;> simp
  · split at h
    · exact windowStore_mem h
    · cases h; rfl

theorem devStore_mem {p k off bs s t} (h : devStore p k off bs s = .ok t) : t.mem = s.mem := by
  induction k generalizing off bs s with
  | zero => cases h; rfl
  | succ k ih =>
    unfold devStore at h
    dsimp only at h
    split at h
    · cases h; rfl
    · split at h
      · cases h
      · next h' => rw [ih h, devStoreWord_mem h']

@[simp] theorem whenWindow_mem (va n k s) (hk : ∀ t, (k t).mem = t.mem) : (whenWindow va n k s).mem = s.mem := by
  unfold whenWindow
  split <;> simp [hk]

@[simp] theorem devWrite_mem (va bs s) : (devWrite va bs s).mem = s.mem := by
  refine whenWindow_mem _ _ _ _ fun t => ?_
  split
  · simp
  · next h => exact devStore_mem h

/-! ### Bobbins, releases and scope events -/

@[simp] theorem failElem_mem (tag pkg page idx reason e s) : (failElem tag pkg page idx reason e s).mem = s.mem := by simp [failElem]

@[simp] theorem failElems_mem (tag pkg page i es rs s) : (failElems tag pkg page i es rs s).mem = s.mem := by
  induction es generalizing i rs s with
  | nil => simp [failElems]
  | cons e es ih => cases rs <;> simp [failElems, ih, apply_ite State.mem]

@[simp] theorem leaveBobbin_mem (i why s) : (leaveBobbin i why s).mem = s.mem := by
  simp only [leaveBobbin]
  (repeat' split) <;> simp

@[simp] theorem leaveAll_mem (why f s) : (leaveAll why f s).mem = s.mem := by simp -implicitDefEqProofs [leaveAll, apply_ite State.mem, foldl_mem]

@[simp] theorem beginRelease_mem (n k mask s) : (beginRelease n k mask s).mem = s.mem := by
  unfold beginRelease
  split <;> simp

@[simp] theorem writeBack_mem (skein s) : (writeBack skein s).mem = s.mem := by simp -implicitDefEqProofs [writeBack, apply_ite State.mem, foldl_mem]

@[simp] theorem endRelease_mem (n k mask s) : (endRelease n k mask s).mem = s.mem := by
  unfold endRelease
  split <;> simp

@[simp] theorem afterRelease_mem (mask k s) (hk : ∀ t, (k t).mem = t.mem) : (afterRelease mask k s).mem = s.mem := by
  simp only [afterRelease]
  (repeat' split) <;> simp [hk]

@[simp] theorem scopeCount_mem (n s) : (scopeCount n s).mem = s.mem := by simp [scopeCount]

@[simp] theorem scopeAddress_mem (n va s) : (scopeAddress n va s).mem = s.mem := by
  simp only [scopeAddress]
  (repeat' split) <;> simp

@[simp] theorem noteScope_mem (n agent tag va scope bit s) : (noteScope n agent tag va scope bit s).mem = s.mem := by simp [noteScope]

@[simp] theorem acquireLines_mem (n agent tag x bit va pa len s) :
    (acquireLines n agent tag x bit va pa len s).mem = s.mem := by simp -implicitDefEqProofs [acquireLines, apply_ite State.mem, foldl_mem]

/-! ### Floating-point vector words -/

@[simp] theorem whenLanes_mem (cls op w ts dyn k s) (hk : ∀ t, (k t).mem = t.mem) : (whenLanes cls op w ts dyn k s).mem = s.mem := by
  unfold whenLanes
  (repeat' split) <;> simp [hk]

@[simp] theorem vecFp_mem (op w dyn f s) : (vecFp op w dyn f s).mem = s.mem := by simp [vecFp]

/-! ### Integer vector words -/

@[simp] theorem vecInt_mem (w f s) : (vecInt w f s).mem = s.mem := by simp [vecInt]

@[simp] theorem vecIntVal_mem (w f s) : (vecIntVal w f s).mem = s.mem := by simp [vecIntVal]

/-! ### Conversion, movement and reduction words -/

@[simp] theorem deliverData_mem (n fp t f shadow s) : (deliverData n fp t f shadow s).mem = s.mem := by
  unfold deliverData
  split <;> simp

@[simp] theorem convertToBlock_mem (op w rm s) : (convertToBlock op w rm s).mem = s.mem := by simp [convertToBlock]

@[simp] theorem convert_mem (op w rm s) : (convert op w rm s).mem = s.mem := by
  unfold convert
  split <;> simp

@[simp] theorem moveLanes_mem (n w f s) : (moveLanes n w f s).mem = s.mem := by simp [moveLanes]

@[simp] theorem reduceWord_mem (w r s) : (reduceWord w r s).mem = s.mem := by simp [reduceWord]

@[simp] theorem writePred_mem (w x s) : (writePred w x s).mem = s.mem := by simp [writePred]

/-! ### Loads and stores -/

@[simp] theorem sendLoad_mem (acq reqs s) : (sendLoad acq reqs s).mem = s.mem := by simp [sendLoad]

@[simp] theorem memLoad_mem (acq reqs fin s) (hfin : ∀ x t, (fin x t).mem = t.mem) : (memLoad acq reqs fin s).mem = s.mem := by
  unfold memLoad
  (repeat' split) <;> simp [hfin]

@[simp] theorem readRequest_mem (n a x u r s) : (readRequest n a x u r s).2.mem = s.mem := by
  simp only [readRequest]
  (repeat' split) <;> simp

@[simp] theorem readRequests_mem (n k x reqs s) :
    (readRequests n k x reqs s).2.mem = s.mem := by simp -implicitDefEqProofs [readRequests, foldl_snd_mem]

@[simp] theorem readLine_mem (n agent tag t0 x va a s) : (readLine n agent tag t0 x va a s).mem = s.mem := by
  unfold readLine
  split <;> simp

@[simp] theorem requestLines_mem (n k m r s) :
    (requestLines n k m r s).mem = s.mem := by simp -implicitDefEqProofs [requestLines, apply_ite State.mem, foldl_mem]

@[simp] theorem loadAnswer_mem (n k m s) : (loadAnswer n k m s).2.mem = s.mem := by simp -implicitDefEqProofs [loadAnswer, foldl_mem]

@[simp] theorem whenAccess_mem (w al len store k s) (hk : ∀ x y z t, (k x y z t).mem = t.mem) : (whenAccess w al len store k s).mem = s.mem := by
  simp only [whenAccess]
  (repeat' split) <;> simp [hk]

@[simp] theorem resumeOr_mem (fin k s) (hfin : ∀ x t, (fin x t).mem = t.mem) (hk : ∀ t, (k t).mem = t.mem) : (resumeOr fin k s).mem = s.mem := by
  unfold resumeOr
  split <;> simp [hfin, hk]

@[simp] theorem landAbsent_mem (n t resid s) : (landAbsent n t resid s).mem = s.mem := by simp [landAbsent]

theorem loadWord_mem (w al len absent fin s) (ha : ∀ t, (absent t).mem = t.mem) (hf : ∀ bs t, (fin bs t).mem = t.mem) :
    (loadWord w al len absent fin s).mem = s.mem := by
  refine resumeOr_mem _ _ _ hf fun t => whenAccess_mem _ _ _ _ _ _ fun va pa nr u => ?_
  have go := fun acq v => memLoad_mem acq [(pa, BitVec.ofNat 64 va, len)] fin v hf
  split
  · exact ha u
  · dsimp only
    split
    · exact whenWindow_mem _ _ _ _ (go _)
    · exact go _ u

@[simp] theorem storeWord_mem (w al unit mk bs s) : (storeWord w al unit mk bs s).mem = s.mem := by
  refine whenAccess_mem _ _ _ _ _ _ fun va pa nr t => ?_
  split
  · simp
  · split
    · exact whenWindow_mem _ _ _ _ fun u => afterRelease_mem _ _ _ (devWrite_mem _ _)
    · exact afterRelease_mem _ _ _ fun u => foldl_mem (fun _ _ => postPiece_mem ..) _ _

@[simp] theorem landLanes_mem (n w bs s) : (landLanes n w bs s).mem = s.mem := by simp [landLanes]

@[simp] theorem absentLanes_mem (w s) : (absentLanes w s).mem = s.mem := by simp [absentLanes]

@[simp] theorem whenIndexed_mem (w store k s) (hk : ∀ x y z t, (k x y z t).mem = t.mem) : (whenIndexed w store k s).mem = s.mem := by
  simp only [whenIndexed]
  (repeat' split) <;> simp [hk]

@[simp] theorem whenLanesWindow_mem (w base k s) (hk : ∀ t, (k t).mem = t.mem) : (whenLanesWindow w base k s).mem = s.mem := by
  unfold whenLanesWindow
  split <;> simp [hk]

@[simp] theorem devLanes_mem (w base s) : (devLanes w base s).mem = s.mem := by
  unfold devLanes
  dsimp only
  split
  · simp
  · next t h =>
    refine List.foldlRecOn (motive := fun r : Except WinErr State => ∀ t, r = .ok t → t.mem = s.mem) _ _ (fun _ h => by cases h; rfl)
      (fun r ih l _ t ht => ?_) t h
    cases r with
    | error e => cases ht
    | ok u => rw [devStore_mem ht, ih u rfl]

theorem whenScratch_mem (wr off len) (check : (State → State) → State → State) (k s)
    (hc : ∀ k : State → State, (∀ t, (k t).mem = t.mem) → ∀ t, (check k t).mem = t.mem) (hk : ∀ t, (k t).mem = t.mem) :
    (whenScratch wr off len check k s).mem = s.mem := by
  have free := whenFree_mem wr (unitsOf off len) (check (whenEntry wr (unitsOf off len) k)) s (hc _ fun t => whenEntry_mem _ _ _ _ hk)
  unfold whenScratch
  by_cases h1 : aligned off 4
  · by_cases h2 : (mySpindle s).sg * 65536 < off + len
    · simp [h1, h2]
    · rw [if_neg (by simpa using h1), if_neg h2]; exact free
  · simp [h1]

@[simp] theorem whenTagged_mem (off len tag k s) (hk : ∀ t, (k t).mem = t.mem) : (whenTagged off len tag k s).mem = s.mem := by
  unfold whenTagged
  split <;> simp [hk]

@[simp] theorem cbRefill_mem (first ws s) : (cbRefill first ws s).mem = s.mem := by simp [cbRefill]

@[simp] theorem whenCtx_mem (w store k s) (hk : ∀ x y t, (k x y t).mem = t.mem) :
    (whenCtx w store k s).mem = s.mem := by simp [whenCtx, apply_ite State.mem, hk]

theorem occupy_mem (n checks wait k s) (hc : ∀ k, (∀ x y t, (k x y t).mem = t.mem) → ∀ t, (checks k t).mem = t.mem)
    (hk : ∀ x y t, (k x y t).mem = t.mem) : (occupy n checks wait k s).mem = s.mem := by
  unfold occupy
  split
  · exact hc _ (fun _ _ _ => by simp) s
  · split
    · split
      · simp
      · exact hk ..
    · simp

@[simp] theorem postImage_mem (mk hn va pa k i bs s) : (postImage mk hn va pa k i bs s).mem = s.mem := by
  induction k generalizing i bs s with
  | zero => rfl
  | succ k ih => unfold postImage; split <;> simp [ih]

@[simp] theorem endImage_mem (s) : (endImage s).mem = s.mem := by simp [endImage]

@[simp] theorem readCtxImage_mem (va pa s) : (readCtxImage va pa s).2.mem = s.mem := by
  unfold readCtxImage
  split <;> simp

/-! ### Fences and atomics -/

@[simp] theorem tagLines_mem (n k mask s) : (tagLines n k mask s).mem = s.mem := by simp -implicitDefEqProofs [tagLines, foldl_mem]

@[simp] theorem afterAcquire_mem (mask k s) (hk : ∀ t, (k t).mem = t.mem) : (afterAcquire mask k s).mem = s.mem := by
  simp only [afterAcquire]
  (repeat' split) <;> simp [hk]

@[simp] theorem whenAtomic_mem (w op k s) (hk : ∀ x y t, (k x y t).mem = t.mem) :
    (whenAtomic w op k s).mem = s.mem := by simp [whenAtomic, apply_ite State.mem, hk]

@[simp] theorem sendAtomic_mem (w opw op y s) : (sendAtomic w opw op y s).mem = s.mem := by
  unfold sendAtomic
  split <;> simp

@[simp] theorem dropPosted_mem (n s) : (dropPosted n s).mem = s.mem := by simp [dropPosted]

@[simp] theorem refuseWrite_mem (w s) : (refuseWrite w s).mem = s.mem := by simp [refuseWrite]

@[simp] theorem refuseStore_mem (w s) : (refuseStore w s).mem = s.mem := by simp [refuseStore]

@[simp] theorem noteLines_mem (n k att rel poisoned pa len s) :
    (noteLines n k att rel poisoned pa len s).mem = s.mem := by simp -implicitDefEqProofs [noteLines, foldl_mem]

@[simp] theorem gainLast_mem (n k x pa len s) : (gainLast n k x pa len s).mem = s.mem := by simp [gainLast]

/-! ### Translation, blocks and page requests -/

@[simp] theorem raiseBlock_mem (b s) : (raiseBlock b s).mem = s.mem := by simp [raiseBlock]

@[simp] theorem leaveReady_mem (w nx s) : (leaveReady w nx s).mem = s.mem := by
  simp only [leaveReady]
  (repeat' split) <;> simp

@[simp] theorem holdLine_mem (skein x pa s) : (holdLine skein x pa s).mem = s.mem := by
  simp only [holdLine]
  (repeat' split) <;> simp

@[simp] theorem cleanCopies_mem (keys s) : (cleanCopies keys s).mem = s.mem := by simp -implicitDefEqProofs [cleanCopies, foldl_mem]

@[simp] theorem fillBlock_mem (n x s) : (fillBlock n x s).mem = s.mem := by simp -implicitDefEqProofs [fillBlock, foldl_mem]

@[simp] theorem releaseBlock_mem (n b s) : (releaseBlock n b s).mem = s.mem := by simp -implicitDefEqProofs [releaseBlock, foldl_mem]

@[simp] theorem raiseRequest_mem (r s) : (raiseRequest r s).mem = s.mem := by
  unfold raiseRequest
  (repeat' split) <;> simp

@[simp] theorem replayRequests_mem (p s) :
    (replayRequests p s).mem = s.mem := by simp -implicitDefEqProofs [replayRequests, apply_ite State.mem, foldl_mem]

/-! ### Semaphores, spools and phasers -/

@[simp] theorem startWait_mem (code obj e target s) : (startWait code obj e target s).mem = s.mem := by simp [startWait]

@[simp] theorem waitWord_mem (code obj e target ok act s) (hact : ∀ x t, (act x t).mem = t.mem) :
    (waitWord code obj e target ok act s).mem = s.mem := by
  unfold waitWord
  (repeat' split) <;> simp [hact]

@[simp] theorem meetWait_mem (x s) : (meetWait x s).mem = s.mem := by simp [meetWait]

@[simp] theorem whenSpool_mem (i k s) (hk : ∀ t, (k t).mem = t.mem) : (whenSpool i k s).mem = s.mem := by
  unfold whenSpool
  split <;> simp [hk]

@[simp] theorem claimSlot_mem (w x s) : (claimSlot w x s).mem = s.mem := by simp [claimSlot]

@[simp] theorem takeSlot_mem (w x s) : (takeSlot w x s).mem = s.mem := by simp [takeSlot]

@[simp] theorem gatherFrom_mem (c lit but s) : (gatherFrom c lit but s).mem = s.mem := by simp -implicitDefEqProofs [gatherFrom, foldl_mem]

@[simp] theorem gatherOut_mem (n lit but s) : (gatherOut n lit but s).mem = s.mem := by
  unfold gatherOut
  (repeat' split) <;> simp

@[simp] theorem whenReg_mem (lit need k s) (hk : ∀ t, (k t).mem = t.mem) : (whenReg lit need k s).mem = s.mem := by
  unfold whenReg
  (repeat' split) <;> simp [hk]

@[simp] theorem makeArrival_mem (lit s) : (makeArrival lit s).mem = s.mem := by simp [makeArrival]

@[simp] theorem landS0_mem (d x s) : (landS0 d x s).mem = s.mem := by
  unfold landS0
  split <;> rfl

@[simp] theorem passPhase_mem (w lit s) : (passPhase w lit s).mem = s.mem := by simp [passPhase]

@[simp] theorem arriveOnce_mem (w lit s) : (arriveOnce w lit s).mem = s.mem := by
  unfold arriveOnce
  (repeat' split) <;> simp

@[simp] theorem completeStep_mem (c lit s) : (completeStep c lit s).mem = s.mem := by simp [completeStep]

@[simp] theorem gatherIn_mem (c m s) : (gatherIn c m s).mem = s.mem := by
  simp only [gatherIn]
  (repeat' split) <;> simp

@[simp] theorem receiveGather_mem (m s) : (receiveGather m s).mem = s.mem := by
  unfold receiveGather
  (repeat' split) <;> simp

@[simp] theorem receiveEarly_mem (s) : (receiveEarly s).mem = s.mem := by simp -implicitDefEqProofs [receiveEarly, foldl_mem]

/-! ### Engine queues -/

@[simp] theorem whenRecord_mem (off k s) (hk : ∀ x t, (k x t).mem = t.mem) : (whenRecord off k s).mem = s.mem := by
  unfold whenRecord
  (repeat' split) <;> simp [hk]

@[simp] theorem appendRec_mem (q r s) : (appendRec q r s).mem = s.mem := by simp [appendRec]

@[simp] theorem landNext_mem (w q s) : (landNext w q s).mem = s.mem := by simp [landNext]

@[simp] theorem deliverFault_mem (n q r code detail eaddr s) : (deliverFault n q r code detail eaddr s).mem = s.mem := by
  unfold deliverFault
  (repeat' split) <;> simp

@[simp] theorem breakSlot_mem (n r s) : (breakSlot n r s).mem = s.mem := by
  unfold breakSlot
  split <;> rfl

@[simp] theorem faultHead_mem (n q r code detail eaddr s) : (faultHead n q r code detail eaddr s).mem = s.mem := by simp [faultHead]

@[simp] theorem faultPoison_mem (n q r src eaddr s) : (faultPoison n q r src eaddr s).mem = s.mem := by simp [faultPoison]

@[simp] theorem corruptRecord_mem (n q r col s) : (corruptRecord n q r col s).mem = s.mem := by simp [corruptRecord]

@[simp] theorem whenEngine_mem (n q r chk reads writes k s) (hk : ∀ t, (k t).mem = t.mem) : (whenEngine n q r chk reads writes k s).mem = s.mem := by
  simp only [whenEngine]
  (repeat' split) <;> simp [hk]

@[simp] theorem updHead_mem (n q f s) : (updHead n q f s).mem = s.mem := by simp [updHead]

@[simp] theorem acquireHead_mem (n q r s) : (acquireHead n q r s).mem = s.mem := by simp [acquireHead]

@[simp] theorem meetHead_mem (n q r s) : (meetHead n q r s).mem = s.mem := by simp [meetHead]

@[simp] theorem serveQueue_mem (n q s) : (serveQueue n q s).mem = s.mem := by
  simp only [serveQueue]
  (repeat' split) <;> simp

@[simp] theorem serveQueues_mem (n s) : (serveQueues n s).mem = s.mem := by simp -implicitDefEqProofs [serveQueues, foldl_mem]

@[simp] theorem countIssue_mem (n q units s) : (countIssue n q units s).mem = s.mem := by simp [countIssue]

@[simp] theorem queueFlags_mem (n q f s) : (queueFlags n q f s).mem = s.mem := by simp [queueFlags]

@[simp] theorem withBlock_mem (n q pbi r k s) (hk : ∀ x t, (k x t).mem = t.mem) : (withBlock n q pbi r k s).mem = s.mem := by
  unfold withBlock
  split <;> simp [hk]

/-! ### The matrix engine -/

@[simp] theorem issueMatrix_mem (kinds n f s) (hf : ∀ x t, (f x t).mem = t.mem) : (issueMatrix kinds n f s).mem = s.mem := by
  unfold issueMatrix
  (repeat' split) <;> simp [hf]

@[simp] theorem updMatrix_mem (n f s) : (updMatrix n f s).mem = s.mem := by simp [updMatrix]

@[simp] theorem useArrays_mem (n xs s) : (useArrays n xs s).mem = s.mem := by simp [useArrays]

@[simp] theorem whenRow_mem (n r row units k s) (hk : ∀ t, (k t).mem = t.mem) : (whenRow n r row units k s).mem = s.mem := by
  simp only [whenRow]
  (repeat' split) <;> simp [hk]

@[simp] theorem mulIssue_mem (n r t u row off soff s) : (mulIssue n r t u row off soff s).mem = s.mem := by
  simp only [mulIssue]
  (repeat' split) <;> simp

@[simp] theorem mulStep_mem (n r s) : (mulStep n r s).mem = s.mem := by
  simp only [mulStep]
  (repeat' split) <;> simp

@[simp] theorem bloadStep_mem (n r s) : (bloadStep n r s).mem = s.mem := by simp [bloadStep]

@[simp] theorem accldStep_mem (n r s) : (accldStep n r s).mem = s.mem := by simp [accldStep]

@[simp] theorem whenShadow_mem (n r row k s) (hk : ∀ t, (k t).mem = t.mem) : (whenShadow n r row k s).mem = s.mem := by
  unfold whenShadow
  split <;> simp [hk]

@[simp] theorem storeStep_mem (n r o f s) : (storeStep n r o f s).mem = s.mem :=
  whenEngine_mem _ _ _ _ _ _ _ _ fun _ => whenRow_mem _ _ _ _ _ _ fun _ => whenShadow_mem _ _ _ _ _ fun _ => by simp

/-! ### The copy channels -/

@[simp] theorem pushCopy_mem (q r s) : (pushCopy q r s).mem = s.mem := by
  unfold pushCopy
  (repeat' split) <;> simp

theorem stagePush_mem {rs s t} (h : stagePush rs s = .ok t) : t.mem = s.mem := by
  induction rs generalizing s with
  | nil => cases h; rfl
  | cons r rs ih =>
    unfold stagePush at h
    dsimp only at h
    split at h
    · cases h
    · rw [ih h, pushCopy_mem]

@[simp] theorem appendStage_mem (rs s) : (appendStage rs s).mem = s.mem := by
  unfold appendStage
  split
  · next h => exact stagePush_mem h
  · simp

@[simp] theorem parkHead_mem (n q va wr s) : (parkHead n q va wr s).mem = s.mem := by simp [parkHead]

@[simp] theorem postRecord_mem (n q r start size k va pa bs s) : (postRecord n q r start size k va pa bs s).mem = s.mem := by
  induction k generalizing va pa bs s with
  | zero => rfl
  | succ k ih => unfold postRecord; split <;> simp [ih]

@[simp] theorem writeReqs_mem (n q r rs bs s) : (writeReqs n q r rs bs s).mem = s.mem := by
  induction rs generalizing bs s with
  | nil => rfl
  | cons x rs ih =>
    unfold writeReqs
    dsimp only
    rw [ih]
    split
    · split
      · next h => exact devStore_mem h
      · rfl
    · simp

@[simp] theorem sendChunk_mem (n q r bs s) : (sendChunk n q r bs s).mem = s.mem := by
  unfold sendChunk
  split <;> simp

@[simp] theorem readChunk_mem (n q tag rs s) : (readChunk n q tag rs s).2.mem = s.mem := by
  unfold readChunk
  refine (foldl_snd_mem (fun _ _ => by simp) _ _).trans ?_
  dsimp only
  split
  · split <;> simp
  · rfl

@[simp] theorem recordLines_mem (n q r x s) :
    (recordLines n q r x s).mem = s.mem := by simp -implicitDefEqProofs [recordLines, apply_ite State.mem, foldl_mem]

@[simp] theorem failIssued_mem (n q r code detail eaddr s) : (failIssued n q r code detail eaddr s).mem = s.mem := by simp [failIssued]

@[simp] theorem failRecord_mem (n q seq code detail eaddr s) : (failRecord n q seq code detail eaddr s).mem = s.mem := by
  simp only [failRecord]
  (repeat' split) <;> simp

@[simp] theorem wakeBehind_mem (n q r s) : (wakeBehind n q r s).mem = s.mem := by simp [wakeBehind]

@[simp] theorem completeRec_mem (n q r s) : (completeRec n q r s).mem = s.mem := by
  simp only [completeRec]
  (repeat' split) <;> simp

@[simp] theorem whenQueue_mem (w k s) (hk : ∀ x t, (k x t).mem = t.mem) : (whenQueue w k s).mem = s.mem := by
  simp only [whenQueue]
  (repeat' split) <;> simp [hk]

@[simp] theorem flushQueue_mem (q s) : (flushQueue q s).mem = s.mem := by simp -implicitDefEqProofs [flushQueue, foldl_mem]

/-! ### Zones, windows, ports and packets -/

@[simp] theorem raiseLz_mem (reason n s) : (raiseLz reason n s).mem = s.mem := by simp [raiseLz]

@[simp] theorem reserve_mem (w x s) : (reserve w x s).mem = s.mem := by
  unfold reserve
  split <;> rfl

@[simp] theorem returnSlot_mem (z x s) : (returnSlot z x s).mem = s.mem := by
  unfold returnSlot
  split <;> rfl

@[simp] theorem takeArrival_mem (w x s) : (takeArrival w x s).mem = s.mem := by
  simp only [takeArrival]
  (repeat' split) <;> simp

@[simp] theorem whenStatus_mem (code k s) (hk : ∀ t, (k t).mem = t.mem) : (whenStatus code k s).mem = s.mem := by
  unfold whenStatus
  split <;> simp [hk]

@[simp] theorem appendElem_mem (i b e s) : (appendElem i b e s).mem = s.mem := by
  simp only [appendElem]
  (repeat' split) <;> simp

@[simp] theorem bobbinPut_mem (pkg va e s) : (bobbinPut pkg va e s).mem = s.mem := by
  simp only [bobbinPut]
  (repeat' split) <;> simp

@[simp] theorem putElem_mem (w op s) : (putElem w op s).mem = s.mem := by
  simp only [putElem]
  (repeat' split) <;> simp

@[simp] theorem flushBobbins_mem (pkg s) : (flushBobbins pkg s).mem = s.mem := by simp [flushBobbins]

@[simp] theorem windowWrite_mem (i f s) : (windowWrite i f s).mem = s.mem := by simp [windowWrite]

@[simp] theorem whenBound_mem (i k s) (hk : ∀ t, (k t).mem = t.mem) : (whenBound i k s).mem = s.mem := by
  simp only [whenBound]
  (repeat' split) <;> simp [hk]

@[simp] theorem tapLink_mem (i s) : (tapLink i s).mem = s.mem := by simp [tapLink]

@[simp] theorem raiseVector_mem (fn vec s) : (raiseVector fn vec s).mem = s.mem := by simp [raiseVector]

@[simp] theorem updPort_mem (i f s) : (updPort i f s).mem = s.mem := by
  simp only [updPort]
  (repeat' split) <;> simp

@[simp] theorem failRput_mem (n q seq reason s) : (failRput n q seq reason s).mem = s.mem := by
  simp only [failRput]
  (repeat' split) <;> simp

@[simp] theorem breakZone_mem (n z j x s) : (breakZone n z j x s).mem = s.mem := by simp [breakZone]

@[simp] theorem breakArriving_mem (port n s) : (breakArriving port n s).mem = s.mem := by
  unfold breakArriving
  refine foldl_mem (fun s z => foldl_mem (fun s j => ?_) _ _) _ _
  split
  · split <;> simp
  · rfl

@[simp] theorem losePacket_mem (s m) : (losePacket s m).mem = s.mem := by
  unfold losePacket
  split <;> simp

@[simp] theorem failCarried_mem (port n s) : (failCarried port n s).mem = s.mem := by simp -implicitDefEqProofs [failCarried, foldl_mem]

@[simp] theorem onSaved_mem (f p s) (hf : ∀ x t, (f x t).mem = t.mem) : (onSaved f p s).2.mem = s.mem := by simp [onSaved, hf]

@[simp] theorem overSaved_mem (f t s) (hf : ∀ x t, (f x t).mem = t.mem) :
    (overSaved f t s).2.mem = s.mem := by simp -implicitDefEqProofs [overSaved, foldl_snd_mem, hf]

theorem overAway_mem (f s) (hf : ∀ x t, (f x t).mem = t.mem) : (overAway f s).mem = s.mem := by
  unfold overAway
  refine foldl_mem (fun t id => ?_) _ _
  dsimp only
  split
  · split
    · rfl
    · exact overSaved_mem _ _ _ hf
  · rfl

@[simp] theorem failThrough_mem (port n s) : (failThrough port n s).mem = s.mem := by simp [failThrough]

@[simp] theorem losePackets_mem (port s) : (losePackets port s).mem = s.mem := by
  unfold losePackets
  refine (overAway_mem _ _ fun _ _ => by simp).trans ((foldl_mem (fun _ _ => by simp) _ _).trans ?_)
  exact (foldl_mem (fun _ _ => by simp) _ _).trans rfl

theorem received_mem {h m s t} (e : received h m s = some t) : t.mem = s.mem := by
  unfold received at e
  (repeat' split at e) <;> cases e <;> rfl

@[simp] theorem answerChunk_mem (m status s) : (answerChunk m status s).mem = s.mem := by simp [answerChunk]

@[simp] theorem applyChunk_mem (n z x m s) : (applyChunk n z x m s).mem = s.mem := by
  unfold applyChunk
  (repeat' split) <;> simp

@[simp] theorem arriveSlot_mem (n z j x carry s) : (arriveSlot n z j x carry s).mem = s.mem := by simp [arriveSlot]

@[simp] theorem landChunk_mem (n x m s) : (landChunk n x m s).mem = s.mem := by
  unfold landChunk
  split <;> simp

@[simp] theorem takeChunk_mem (m s) : (takeChunk m s).mem = s.mem := by
  simp only [takeChunk]
  (repeat' split) <;> simp

@[simp] theorem updNumbered_mem (n q seq f s) : (updNumbered n q seq f s).mem = s.mem := by simp [updNumbered]

@[simp] theorem countAccept_mem (n q seq s) : (countAccept n q seq s).mem = s.mem := by simp [countAccept]

@[simp] theorem takeAnswer_mem (m s) : (takeAnswer m s).mem = s.mem := by
  unfold takeAnswer
  (repeat' split) <;> simp

@[simp] theorem dropCancel_mem (m s) : (dropCancel m s).mem = s.mem := by simp [dropCancel]

/-! ### Step transactions -/

@[simp] theorem releaseCtxs_mem (s) : (releaseCtxs s).mem = s.mem := by simp -implicitDefEqProofs [releaseCtxs, apply_ite State.mem, foldl_mem]

@[simp] theorem assignCtx_mem (c grp s) : (assignCtx c grp s).mem = s.mem := by
  unfold assignCtx
  split <;> rfl

@[simp] theorem tapGroup_mem (t grp f3 f4 f5 s) : (tapGroup t grp f3 f4 f5 s).mem = s.mem := by simp -implicitDefEqProofs [tapGroup, foldl_mem]

@[simp] theorem sendTree_mem (grp dst m s) : (sendTree grp dst m s).mem = s.mem := by
  simp only [sendTree]
  (repeat' split) <;> simp

@[simp] theorem ackTree_mem (m s) : (ackTree m s).mem = s.mem := by simp [ackTree]

@[simp] theorem sendDecision_mem (m s) : (sendDecision m s).mem = s.mem := by simp -implicitDefEqProofs [sendDecision, foldl_mem]

@[simp] theorem rootDecide_mem (c v s) : (rootDecide c v s).mem = s.mem := by simp [rootDecide]

@[simp] theorem weighVotes_mem (c s) : (weighVotes c s).mem = s.mem := by
  simp only [weighVotes]
  (repeat' split) <;> simp

@[simp] theorem castVote_mem (c s) : (castVote c s).mem = s.mem := by
  simp only [castVote]
  (repeat' split) <;> simp

@[simp] theorem castEarly_mem (s) : (castEarly s).mem = s.mem := by simp -implicitDefEqProofs [castEarly, apply_ite State.mem, foldl_mem]

@[simp] theorem abortObjects_mem (c s) : (abortObjects c s).mem = s.mem := by simp -implicitDefEqProofs [abortObjects, foldl_mem]

@[simp] theorem countCommit_mem (part step s) : (countCommit part step s).mem = s.mem := by simp [countCommit]

@[simp] theorem applyDecision_mem (c m s) : (applyDecision c m s).mem = s.mem := by
  unfold applyDecision; dsimp only; split <;> simp [startPurge_mem_eq]

@[simp] theorem openAttempt_mem (c tag step deadline ord s) : (openAttempt c tag step deadline ord s).mem = s.mem := by simp [openAttempt]

@[simp] theorem normalise_mem (block s) : (normalise block s).mem = s.mem := by
  simp only [normalise]
  (repeat' split) <;> simp

@[simp] theorem normalisePage_mem (pa size s) : (normalisePage pa size s).mem = s.mem := by simp -implicitDefEqProofs [normalisePage, foldl_mem]

@[simp] theorem clearHandles_mem (p lo hi s) :
    (clearHandles p lo hi s).mem = s.mem := by simp -implicitDefEqProofs [clearHandles, apply_ite State.mem, foldl_mem]

@[simp] theorem setRegion_mem (p r x s) : (setRegion p r x s).mem = s.mem := by simp [setRegion]

@[simp] theorem versionFrame_mem (c twin pa s) : (versionFrame c twin pa s).mem = s.mem := by simp [versionFrame]

@[simp] theorem plainCopies_mem (pa s) : (plainCopies pa s).mem = s.mem := by simp -implicitDefEqProofs [plainCopies, apply_ite State.mem, foldl_mem]

@[simp] theorem defineRegion_mem (p r a b c s) : (defineRegion p r a b c s).mem = s.mem := by
  unfold defineRegion
  rw [clearHandles_mem, setRegion_mem]
  refine foldl_mem (fun t va => ?_) _ _
  split <;> simp

@[simp] theorem whenStep_mem (k s) (hk : ∀ t, (k t).mem = t.mem) : (whenStep k s).mem = s.mem := by
  unfold whenStep
  split <;> simp [hk]

@[simp] theorem postFlags_mem (f s) : (postFlags f s).mem = s.mem := by simp [postFlags]

@[simp] theorem updMyPart_mem (f s) : (updMyPart f s).mem = s.mem := by simp [updMyPart]

/-! ### Debug stops, trace and accounting -/

@[simp] theorem updDebug_mem (n f s) : (updDebug n f s).mem = s.mem := by simp [updDebug]

@[simp] theorem stopRequest_mem (n code bcode s) :
    (stopRequest n code bcode s).mem = s.mem := by simp -implicitDefEqProofs [stopRequest, apply_ite State.mem, foldl_mem]

@[simp] theorem resumeSpindle_mem (n s) : (resumeSpindle n s).mem = s.mem := by
  unfold resumeSpindle
  split <;> rfl

@[simp] theorem stopAfter_mem (a s) : (stopAfter a s).mem = s.mem := by
  simp only [stopAfter]
  (repeat' split) <;> simp

@[simp] theorem writeScopecnt_mem (n v s) : (writeScopecnt n v s).mem = s.mem := by simp [writeScopecnt]

@[simp] theorem writeScopeadr_mem (n v s) : (writeScopeadr n v s).mem = s.mem := by
  unfold writeScopeadr
  split <;> rfl

/-! ### Queues of the command processor -/

@[simp] theorem cpGain_mem (q pa s) : (cpGain q pa s).mem = s.mem := by simp [cpGain]

@[simp] theorem cpRelease_mem (q s) : (cpRelease q s).mem = s.mem := by simp [cpRelease]

@[simp] theorem cpAcquire_mem (q p va s) : (cpAcquire q p va s).mem = s.mem := by
  unfold cpAcquire
  split <;> simp

@[simp] theorem stopQueue_mem (q reason s) : (stopQueue q reason s).mem = s.mem := by simp [stopQueue]

@[simp] theorem updPkt_mem (q k f s) : (updPkt q k f s).mem = s.mem := by simp [updPkt]

@[simp] theorem dropPkt_mem (q k s) : (dropPkt q k s).mem = s.mem := by simp [dropPkt]

@[simp] theorem takeSpan_mem (q o w s) : (takeSpan q o w s).mem = s.mem := by
  simp only [takeSpan]
  (repeat' split) <;> simp

@[simp] theorem takePkt_mem (q idx w s) : (takePkt q idx w s).mem = s.mem := by
  simp only [takePkt]
  (repeat' split) <;> simp

/-! ### Packets -/

@[simp] theorem withPkt_mem (q k kind ok f s) (hf : ∀ x t, (f x t).mem = t.mem) : (withPkt q k kind ok f s).mem = s.mem := by
  unfold withPkt
  (repeat' split) <;> simp [hf]

@[simp] theorem startPkt_mem (q k kind f s) (hf : ∀ x t, (f x t).mem = t.mem) : (startPkt q k kind f s).mem = s.mem := by simp [startPkt, hf]

@[simp] theorem stopRunning_mem (q reason s) : (stopRunning q reason s).mem = s.mem := by
  unfold stopRunning
  split <;> rfl

@[simp] theorem enterReady_mem (t s) : (enterReady t s).mem = s.mem := by simp [enterReady]

@[simp] theorem readWaitsig_mem (q y s) : (readWaitsig q y s).mem = s.mem := by
  unfold readWaitsig
  (repeat' split) <;> simp

@[simp] theorem expireWaitsig_mem (q y s) : (expireWaitsig q y s).mem = s.mem := by
  simp only [expireWaitsig]
  (repeat' split) <;> simp

@[simp] theorem beginAttempt_mem (q c y s) : (beginAttempt q c y s).mem = s.mem := by simp [beginAttempt]

@[simp] theorem dropSpan_mem (q o s) : (dropSpan q o s).mem = s.mem := by simp [dropSpan]

/-! ### Task graphs -/

@[simp] theorem rejectGraph_mem (q reason y s) : (rejectGraph q reason y s).mem = s.mem := by simp [rejectGraph]

@[simp] theorem loadGraph_mem (q i y s) : (loadGraph q i y s).mem = s.mem := by
  simp only [loadGraph]
  (repeat' split) <;> simp

/-! ### Scheduling and purges -/

@[simp] theorem noteGraphStart_mem (t s) : (noteGraphStart t s).mem = s.mem := by
  unfold noteGraphStart
  split <;> rfl

@[simp] theorem launchTask_mem (id t b s) : (launchTask id t b s).mem = s.mem := by
  simp only [launchTask]
  (repeat' split) <;> simp -implicitDefEqProofs [foldl_mem]

@[simp] theorem startTask_mem (id t s) : (startTask id t s).mem = s.mem := by simp -implicitDefEqProofs [startTask, foldl_mem]

@[simp] theorem placeSaved_mem (n p s) : (placeSaved n p s).mem = s.mem := by simp -implicitDefEqProofs [placeSaved, apply_ite State.mem, foldl_mem]

@[simp] theorem rebindTask_mem (id t b s) : (rebindTask id t b s).mem = s.mem := by simp -implicitDefEqProofs [rebindTask, foldl_mem]

@[simp] theorem stopTask_mem (id s) : (stopTask id s).mem = s.mem := by
  simp only [stopTask]
  (repeat' split) <;> simp -implicitDefEqProofs [foldl_mem]

@[simp] theorem preempt_mem (t s) : (preempt t s).mem = s.mem := by
  simp only [preempt]
  (repeat' split) <;> simp -implicitDefEqProofs [foldl_mem]

@[simp] theorem placeTask_mem (id t b s) : (placeTask id t b s).mem = s.mem := by
  unfold placeTask
  split <;> simp

@[simp] theorem roundOver_mem (cs l gone s) : (roundOver cs l gone s).1.mem = s.mem := by
  induction l generalizing gone s with
  | nil => rfl
  | cons c l ih => unfold roundOver; (repeat' split) <;> simp [ih]

@[simp] theorem countSkips_mem (gone l s) : (countSkips gone l s).mem = s.mem := by
  induction l generalizing s with
  | nil => rfl
  | cons c l ih => unfold countSkips; rw [ih]; split <;> rfl

@[simp] theorem schedulingRound_mem (s) : (schedulingRound s).mem = s.mem := by simp [schedulingRound]

@[simp] theorem releaseSpindle_mem (n s) :
    (releaseSpindle n s).mem = s.mem := by simp -implicitDefEqProofs [releaseSpindle, apply_ite State.mem, foldl_mem]

@[simp] theorem breakLeft_mem (n s) : (breakLeft n s).mem = s.mem := by simp -implicitDefEqProofs [breakLeft, foldl_mem]

@[simp] theorem freeSpindle_mem (n s) : (freeSpindle n s).mem = s.mem := by simp [freeSpindle]

@[simp] theorem unbindWindows_mem (id t s) : (unbindWindows id t s).mem = s.mem := by
  simp only [unbindWindows]
  (repeat' split) <;> simp

@[simp] theorem releaseTask_mem (t s) : (releaseTask t s).mem = s.mem := by simp [releaseTask]

@[simp] theorem takeElems_mem (ns i b s) : (takeElems ns i b s).mem = s.mem := by
  simp only [takeElems]
  (repeat' split) <;> simp

@[simp] theorem saveTask_mem (id t s) : (saveTask id t s).mem = s.mem := by simp -implicitDefEqProofs [saveTask, apply_ite State.mem, foldl_mem]

@[simp] theorem notePreempt_mem (part tag s) : (notePreempt part tag s).mem = s.mem := by simp [notePreempt]

@[simp] theorem recallChunks_mem (t s) : (recallChunks t s).mem = s.mem := by simp -implicitDefEqProofs [recallChunks, apply_ite State.mem, foldl_mem]

@[simp] theorem restoreBobbin_mem (t b s) : (restoreBobbin t b s).mem = s.mem := by
  simp only [restoreBobbin]
  (repeat' split) <;> simp

@[simp] theorem restoreTask_mem (id t s) : (restoreTask id t s).mem = s.mem := by simp -implicitDefEqProofs [restoreTask, foldl_mem]

@[simp] theorem purgeEngines_mem (n hit s) : (purgeEngines n hit s).mem = s.mem := by simp -implicitDefEqProofs [purgeEngines, foldl_mem]

@[simp] theorem discardTask_mem (id t tag s) : (discardTask id t tag s).mem = s.mem := by simp -implicitDefEqProofs [discardTask, foldl_mem]

@[simp] theorem purgeFabric_mem (p tag s) : (purgeFabric p tag s).mem = s.mem := by simp -implicitDefEqProofs [purgeFabric, foldl_mem]

/-! ### The Whorl -/

@[simp] theorem clearIrqsts_mem (w v s) : (clearIrqsts w v s).mem = s.mem := by simp [clearIrqsts]

@[simp] theorem setIrqsts_mem (w slot s) : (setIrqsts w slot s).mem = s.mem := by simp [setIrqsts]

@[simp] theorem startRun_mem (d i s) : (startRun d i s).mem = s.mem := by
  simp only [startRun]
  (repeat' split) <;> simp

@[simp] theorem goOn_mem (r pc ticks s) : (goOn r pc ticks s).mem = s.mem := by simp [goOn]

@[simp] theorem withRun_mem (k s) (hk : ∀ x t, (k x t).mem = t.mem) : (withRun k s).mem = s.mem := by
  unfold withRun
  split <;> simp [hk]

@[simp] theorem writeD_mem (w f s) : (writeD w f s).mem = s.mem := by simp [writeD]

@[simp] theorem setCell_mem (r x v s) : (setCell r x v s).mem = s.mem := by simp [setCell]

@[simp] theorem addCell_mem (r x v s) : (addCell r x v s).mem = s.mem := by simp [addCell]

@[simp] theorem branchWord_mem (w test s) : (branchWord w test s).mem = s.mem := by simp [branchWord]

@[simp] theorem signalSpindle_mem (e id s) : (signalSpindle e id s).mem = s.mem := by
  unfold signalSpindle
  (repeat' split) <;> simp

@[simp] theorem stopEvent_mem (e s) : (stopEvent e s).mem = s.mem := by
  unfold stopEvent
  (repeat' split) <;> simp

@[simp] theorem trigActions_mem (r id s) : (trigActions r id s).mem = s.mem := by
  simp only [trigActions]
  (repeat' split) <;> simp

@[simp] theorem awayTick_mem (s) : (awayTick s).mem = s.mem := by
  unfold awayTick
  split <;> rfl

@[simp] theorem oneTick_mem (s) : (oneTick s).mem = s.mem := by
  simp only [oneTick, execBudgetWindowReset]
  split <;> simp_all

/-! ### The device -/

@[simp] theorem countRefused_mem (p s) : (countRefused p s).mem = s.mem := by simp [countRefused]

@[simp] theorem setEntry_mem (p i v s) : (setEntry p i v s).mem = s.mem := by simp [setEntry]

@[simp] theorem writeGo_mem (p v s) : (writeGo p v s).mem = s.mem := by
  simp only [writeGo]
  (repeat' split) <;> simp

@[simp] theorem writeEntry_mem (p i v s) : (writeEntry p i v s).mem = s.mem := by
  unfold writeEntry
  (repeat' split) <;> simp

@[simp] theorem bindQueue_mem (q v s) : (bindQueue q v s).mem = s.mem := by
  unfold bindQueue
  split <;> rfl

@[simp] theorem writeGroup_mem (e i v s) : (writeGroup e i v s).mem = s.mem := by
  unfold writeGroup
  split <;> rfl

@[simp] theorem readAperture_mem (p va n s) : (readAperture p va n s).2.mem = s.mem := by
  unfold readAperture
  (repeat' split) <;> simp

@[simp] theorem readVf_mem (p va n s) : (readVf p va n s).2.mem = s.mem := by simp -implicitDefEqProofs [readVf, foldl_snd_mem]

@[simp] theorem vfStore_mem (fn off v s) : (vfStore fn off v s).mem = s.mem := by
  unfold vfStore
  split
  · rfl
  · split
    · next h => exact devStoreWord_mem h
    · simp

@[simp] theorem setClock_mem (mhz s) : (setClock mhz s).mem = s.mem := by simp [setClock]

@[simp] theorem keepLimit_mem (s) : (keepLimit s).mem = s.mem := by
  unfold keepLimit
  split <;> rfl

@[simp] theorem reportPower_mem (hold r s) : (reportPower hold r s).mem = s.mem := by simp [reportPower]

@[simp] theorem setStage_mem (stage svc s) : (setStage stage svc s).mem = s.mem := by
  unfold setStage
  split <;> rfl

@[simp] theorem failStart_mem (reason s) : (failStart reason s).mem = s.mem := by simp [failStart]

@[simp] theorem takeImage_mem (img s) : (takeImage img s).mem = s.mem := by simp [takeImage]

@[simp] theorem checkImage_mem (img s) : (checkImage img s).mem = s.mem := by
  unfold checkImage
  (repeat' split) <;> simp

@[simp] theorem fullSpeed_mem (s) : (fullSpeed s).mem = s.mem := by simp [fullSpeed]

@[simp] theorem mboxDone_mem (bs s) : (mboxDone bs s).mem = s.mem := by simp [mboxDone]

@[simp] theorem mboxRefuse_mem (s) : (mboxRefuse s).mem = s.mem := by simp [mboxRefuse]

@[simp] theorem mailboxLoad_mem (len s) : (mailboxLoad len s).mem = s.mem := by
  unfold mailboxLoad
  split <;> simp

@[simp] theorem mailboxCommand_mem (v s) : (mailboxCommand v s).mem = s.mem := by
  simp only [mailboxCommand, execMailboxLoadImage, execMailboxReadKey, execMailboxAttest]
  (repeat' split) <;> simp

@[simp] theorem writeDbgctl_mem (n v s) : (writeDbgctl n v s).mem = s.mem := by
  unfold writeDbgctl
  (repeat' split) <;> simp

@[simp] theorem writeDebug_mem (n off v s) : (writeDebug n off v s).mem = s.mem := by
  unfold writeDebug
  (repeat' split) <;> simp

@[simp] theorem writeTenant_mem (d p i v s) : (writeTenant d p i v s).mem = s.mem := by
  unfold writeTenant
  (repeat' split) <;> simp

@[simp] theorem writeWhorl_mem (d off v s) : (writeWhorl d off v s).mem = s.mem := by
  unfold writeWhorl
  (repeat' split) <;> simp

@[simp] theorem thenState_next (s t : State) : thenState s (.next t) = t := rfl

@[simp] theorem writeBlock_mem (off v s) : (writeBlock off v s).mem = s.mem := by
  simp only [writeBlock, execTimectlWrite, execPlimsetWrite, execIpeakClear, thenState_next]
  (repeat' split) <;> simp

@[simp] theorem writeReg_mem (off v s) : (writeReg off v s).mem = s.mem := by
  simp -implicitDefEqProofs [writeReg, foldl_mem, execPortRetrain, execPortEnable, apply_ite State.mem]

theorem storeSpace_mem (get put k off bs s) (hp : ∀ x y t, (put x y t).mem = t.mem) : (storeSpace get put k off bs s).mem = s.mem := by
  induction k generalizing off bs s with
  | zero => rfl
  | succ k ih => unfold storeSpace; split <;> simp [ih, hp]

@[simp] theorem startAtTake_mem (q k s) : (startAtTake q k s).mem = s.mem := by simp [startAtTake]

/-! ### Latch-unit words -/

@[simp] theorem depositIn_mem (lat n lanes x f shadow s) : (depositIn lat n lanes x f shadow s).mem = s.mem := by simp [depositIn]

@[simp] theorem vecLatch_mem (op w f s) : (vecLatch op w f s).mem = s.mem := by simp [vecLatch]

@[simp] theorem scalarLatch_mem (w f s) : (scalarLatch w f s).mem = s.mem := by simp [scalarLatch]

/-! ### What befalls a strand between its groups -/

@[simp] theorem lateShadow_mem (n k addr second handler d s) : (lateShadow n k addr second handler d s).mem = s.mem := by simp [lateShadow]

@[simp] theorem landOne_mem (n k g s) : (landOne n k g s).mem = s.mem := by
  simp only [landOne]
  (repeat' split) <;> simp

@[simp] theorem depositOne_mem (n k d s) : (depositOne n k d s).mem = s.mem := by
  unfold depositOne
  split <;> simp

/-! ### Issue -/

@[simp] theorem soloEnd_mem (s) : (soloEnd s).mem = s.mem := by
  unfold soloEnd
  (repeat' split) <;> simp

@[simp] theorem undoPair_mem (s0 s) : (undoPair s0 s).mem = s0.mem := rfl

@[simp] theorem holdWrites_mem (s0 s) : (holdWrites s0 s).mem = s.mem := rfl

@[simp] theorem noteMet_mem (s) : (noteMet s).mem = s.mem := by
  unfold noteMet
  split <;> simp

@[simp] theorem pairTrap_mem (s0 s r) : (pairTrap s0 s r).mem = s0.mem := by simp [pairTrap]

@[simp] theorem pairLate_mem (s0 s g) : (pairLate s0 s g).mem = s0.mem := rfl

@[simp] theorem secondWord_mem (s) : (secondWord s).mem = s.mem := by simp [secondWord]

@[simp] theorem joinWords_mem (a s) : (joinWords a s).mem = s.mem := rfl

@[simp] theorem noteMeet_mem (n k s) : (noteMeet n k s).mem = s.mem := by
  unfold noteMeet
  split <;> rfl

/-! ### The clock -/

@[simp] theorem timeOut_mem (n k s) : (timeOut n k s).mem = s.mem := by
  simp only [timeOut, execWaitTimeout]
  (repeat' split) <;> simp

@[simp] theorem loseMeta_mem (pa s) : (loseMeta pa s).mem = s.mem := by
  simp only [loseMeta]
  (repeat' split) <;> simp

@[simp] theorem strike_mem (s) : (strike s).mem = s.mem := by
  unfold strike
  split <;> simp

/-! ## What keeps memory canonical -/

/-- A fold of steps that each keep memory canonical keeps it so. -/
theorem foldl_wf {α : Type} {f : State → α → State} (h : ∀ s a, Memory.wf s.mem = true → Memory.wf (f s a).mem = true) (l : List α)
    {s : State} (hw : Memory.wf s.mem = true) : Memory.wf (l.foldl f s).mem = true :=
  List.foldlRecOn (motive := fun t : State => Memory.wf t.mem = true) l f hw fun t ht a _ => h t a ht

/-! ### Operand forms -/

@[simp] theorem whenGuard_wf (g gn k s) (hk : ∀ t, Memory.wf t.mem = true → Memory.wf (k t).mem = true) (hw : Memory.wf s.mem = true) :
    Memory.wf (whenGuard g gn k s).mem = true := by
  unfold whenGuard
  (repeat' split) <;> simp [hw, hk]

/-! ### Memory: copies, marks, views and posted writes -/

@[simp] theorem writeNow_wf (n a x pa bs s) (hw : Memory.wf s.mem = true) :
    Memory.wf (writeNow n a x pa bs s).mem = true := by simp [writeNow, hw, homeWrite_wf]

/-! ### Fences and atomics -/

@[simp] theorem applyWrite_wf (w bs s) (hw : Memory.wf s.mem = true) : Memory.wf (applyWrite w bs s).mem = true := by
  unfold applyWrite
  (repeat' split) <;> simp [hw, homeWrite_wf]

@[simp] theorem outsideWrite_wf (a rmw x pa bs s) (hw : Memory.wf s.mem = true) :
    Memory.wf (outsideWrite a rmw x pa bs s).mem = true := by simp [outsideWrite, hw, homeWrite_wf]

/-! ### Translation, blocks and page requests -/

theorem appendRequest_wf {p va spn agent sem src wr tag carry s t} (h : appendRequest p va spn agent sem src wr tag carry s = some t)
    (hw : Memory.wf s.mem = true) : Memory.wf t.mem = true := by
  unfold appendRequest at h
  dsimp only at h
  (repeat' split at h) <;> cases h
  simp [hw]

/-! ### Engine queues -/

@[simp] theorem whenEngine_wf (n q r chk reads writes k s) (hk : ∀ t, Memory.wf t.mem = true → Memory.wf (k t).mem = true) (hw :
    Memory.wf s.mem = true) : Memory.wf (whenEngine n q r chk reads writes k s).mem = true := by
  simp only [whenEngine]
  (repeat' split) <;> simp [hw, hk]

@[simp] theorem withBlock_wf (n q pbi r k s) (hk : ∀ x t, Memory.wf t.mem = true → Memory.wf (k x t).mem = true) (hw : Memory.wf s.mem = true) :
    Memory.wf (withBlock n q pbi r k s).mem = true := by
  unfold withBlock
  (repeat' split) <;> simp [hw, hk]

/-! ### The copy channels -/

@[simp] theorem enterParked_wf (n q s) (hw : Memory.wf s.mem = true) : Memory.wf (enterParked n q s).mem = true := by
  unfold enterParked
  split
  · exact hw
  · split
    · exact hw
    · split
      · next h => exact (congrArg _ (updHead_mem ..)).trans (appendRequest_wf h hw)
      · exact hw

@[simp] theorem parkAccess_wf (n q va wr s) (hw : Memory.wf s.mem = true) :
    Memory.wf (parkAccess n q va wr s).mem = true := by simp [parkAccess, hw]

theorem withSource_wf (n q r off len k s) (hk : ∀ bs t, Memory.wf t.mem = true → Memory.wf (k bs t).mem = true)
    (hw : Memory.wf s.mem = true) : Memory.wf (withSource n q r off len k s).mem = true := by
  unfold withSource
  split
  · exact whenEngine_wf _ _ _ _ _ _ _ _ (fun t => hk _ t) hw
  · split
    · exact hk _ s hw
    · split
      · exact hw
      · split <;> simp [hw]

@[simp] theorem writeChunk_wf (n q r bs s) (hw : Memory.wf s.mem = true) : Memory.wf (writeChunk n q r bs s).mem = true := by
  simp only [writeChunk]
  (repeat' split) <;> simp [hw]

@[simp] theorem issueCopy_wf (kind n ch f s) (hf : ∀ x y t, Memory.wf t.mem = true → Memory.wf (f x y t).mem = true) (hw : Memory.wf s.mem = true) :
    Memory.wf (issueCopy kind n ch f s).mem = true := by
  unfold issueCopy
  (repeat' split) <;> simp [hw, hf]

@[simp] theorem copyStep_wf (n q r s) (hw : Memory.wf s.mem = true) : Memory.wf (copyStep n q r s).mem = true :=
  withSource_wf _ _ _ _ _ _ _ (fun _ _ ht => by simp [ht]) hw

@[simp] theorem copyaccStep_wf (n q r s) (hw : Memory.wf s.mem = true) : Memory.wf (copyaccStep n q r s).mem = true := by
  unfold copyaccStep
  refine withBlock_wf _ _ _ _ _ _ (fun r t ht => withSource_wf _ _ _ _ _ _ _ (fun xs u hu => ?_) ht) hw
  exact whenEngine_wf _ _ _ _ _ _ _ _ (fun v hv => by simp [hv]) hu

@[simp] theorem fillStep_wf (n q r s) (hw : Memory.wf s.mem = true) :
    Memory.wf (fillStep n q r s).mem = true := by simp [fillStep, hw]

@[simp] theorem gatherStep_wf (n q r s) (hw : Memory.wf s.mem = true) : Memory.wf (gatherStep n q r s).mem = true := by
  have go : ∀ off len t, Memory.wf t.mem = true → Memory.wf (withSource n q r off len (writeChunk n q r) t).mem = true :=
    fun _ _ t ht => withSource_wf _ _ _ _ _ _ _ (fun bs u hu => writeChunk_wf _ _ _ _ _ hu) ht
  unfold gatherStep
  dsimp only
  split
  · exact go _ _ s hw
  · refine whenEngine_wf _ _ _ _ _ _ _ _ (fun t ht => ?_) hw
    (repeat' split) <;> simp [go, ht]

@[simp] theorem rputStep_wf (n q r s) (hw : Memory.wf s.mem = true) : Memory.wf (rputStep n q r s).mem = true :=
  withSource_wf _ _ _ _ _ _ _ (fun _ _ ht => by simp [ht]) hw

@[simp] theorem applyRecord_wf (w s) (hw : Memory.wf s.mem = true) : Memory.wf (applyRecord w s).mem = true := by
  unfold applyRecord
  split
  · simp [hw]
  · rw [clearWhole_mem]
    exact foldl_wf (fun t a ht => by simp [ht]) _ (homeWrite_wf _ _ _ _ _ _ hw)

@[simp] theorem whenQueue_wf (w k s) (hk : ∀ x t, Memory.wf t.mem = true → Memory.wf (k x t).mem = true) (hw : Memory.wf s.mem = true) :
    Memory.wf (whenQueue w k s).mem = true := by
  simp only [whenQueue]
  (repeat' split) <;> simp [hw, hk]

theorem readQueue_wf (w act s) (ha : ∀ q t, Memory.wf t.mem = true → Memory.wf (act q t).mem = true) (hw : Memory.wf s.mem = true) :
    Memory.wf (readQueue w act s).mem = true := by
  unfold readQueue
  refine whenGuard_wf _ _ _ _ (fun t ht => whenQueue_wf _ _ _ (fun q u hu => ?_) ht) hw
  split
  · simp [hu]
  · exact ha _ _ (by simp [hu])

/-! ### Zones, windows, ports and packets -/

@[simp] theorem applyElem_wf (pkg p page att e s) (hw : Memory.wf s.mem = true) : Memory.wf (applyElem pkg p page att e s).1.mem = true := by
  simp only [applyElem]
  generalize (if e.wide = true then 8 else 4) = n
  split
  · exact hw
  · repeat' split
    · exact hw
    · exact hw
    · exact hw
    · next h => exact (congrArg _ (devStore_mem h)).trans hw
    · exact hw
    · exact hw
    · exact hw
    · simp [hw]

@[simp] theorem applyElems_wf (pkg p page att es s) (hw : Memory.wf s.mem = true) : Memory.wf (applyElems pkg p page att es s).1.mem = true := by
  induction es generalizing s with
  | nil => exact hw
  | cons e es ih => simp [applyElems, ih, hw]

@[simp] theorem takeFlit_wf (m s) (hw : Memory.wf s.mem = true) : Memory.wf (takeFlit m s).1.mem = true := by
  unfold takeFlit
  (repeat' split) <;> simp [hw]

/-! ### Step transactions -/

@[simp] theorem plainFrame_wf (pa s) (hw : Memory.wf s.mem = true) : Memory.wf (plainFrame pa s).mem = true := by
  unfold plainFrame
  split
  · exact hw
  · simp only [plainCopies_mem]
    refine foldl_wf (fun t x ht => ?_) _ hw
    split
    · exact copyBlock_wf _ _ _ _ _ ht
    · exact ht

@[simp] theorem undefineRegion_wf (p r x s) (hw : Memory.wf s.mem = true) : Memory.wf (undefineRegion p r x s).mem = true := by
  unfold undefineRegion
  simp only [releaseCtxs_mem, clearHandles_mem, setRegion_mem]
  exact foldl_wf (fun t va ht => by split <;> simp [ht]) _ hw

/-! ### Debug stops, trace and accounting -/

@[simp] theorem ringPut_wf (d p wi ci drop ws s) (hw : Memory.wf s.mem = true) : Memory.wf (ringPut d p wi ci drop ws s).mem = true := by
  unfold ringPut
  (repeat' split) <;> simp [hw]

@[simp] theorem traceIter_wf (n k x l s) (hw : Memory.wf s.mem = true) :
    Memory.wf (traceIter n k x l s).mem = true := by simp [traceIter, hw]

@[simp] theorem traceGroup_wf (n k s) (hw : Memory.wf s.mem = true) : Memory.wf (traceGroup n k s).mem = true := by
  unfold traceGroup
  dsimp only
  split
  · exact hw
  · exact foldl_wf (fun t x ht => by (repeat' split) <;> simp [ht]) _ hw

@[simp] theorem noteGroup_wf (a s) (hw : Memory.wf s.mem = true) : Memory.wf (noteGroup a s).mem = true := by
  unfold noteGroup
  (repeat' split) <;> simp [hw]

/-! ### Queues of the command processor -/

@[simp] theorem cpWrite_wf (q p va bs s) (hw : Memory.wf s.mem = true) : Memory.wf (cpWrite q p va bs s).mem = true := by
  unfold cpWrite
  (repeat' split) <;> simp [hw]

@[simp] theorem cpAtomic_wf (q p va f s) (hw : Memory.wf s.mem = true) : Memory.wf (cpAtomic q p va f s).mem = true := by
  unfold cpAtomic
  (repeat' split) <;> simp [hw, homeWrite_wf]

@[simp] theorem signalDone_wf (q p va s) (hw : Memory.wf s.mem = true) : Memory.wf (signalDone q p va s).mem = true := by
  unfold signalDone
  (repeat' split) <;> simp [hw]

@[simp] theorem writeRecord_wf (q p crec csig ws s) (hw : Memory.wf s.mem = true) : Memory.wf (writeRecord q p crec csig ws s).mem = true := by
  unfold writeRecord
  (repeat' split) <;> simp [hw]

/-! ### The loader -/

@[simp] theorem finishRecord_wf (t lstat outcome s) (hw : Memory.wf s.mem = true) :
    Memory.wf (finishRecord t lstat outcome s).mem = true := by simp [finishRecord, hw]

/-! ### Packets -/

@[simp] theorem withPkt_wf (q k kind ok f s) (hf : ∀ x t, Memory.wf t.mem = true → Memory.wf (f x t).mem = true) (hw : Memory.wf s.mem = true) :
    Memory.wf (withPkt q k kind ok f s).mem = true := by
  unfold withPkt
  (repeat' split) <;> simp [hw, hf]

@[simp] theorem startPkt_wf (q k kind f s) (hf : ∀ x t, Memory.wf t.mem = true → Memory.wf (f x t).mem = true) (hw : Memory.wf s.mem = true) :
    Memory.wf (startPkt q k kind f s).mem = true := by simp +contextual [startPkt, hw, hf]

@[simp] theorem startLaunch_wf (q y s) (hw : Memory.wf s.mem = true) : Memory.wf (startLaunch q y s).mem = true := by
  simp only [startLaunch]
  (repeat' split) <;> simp [hw]

@[simp] theorem startSignal_wf (q y s) (hw : Memory.wf s.mem = true) : Memory.wf (startSignal q y s).mem = true := by
  simp only [startSignal]
  (repeat' split) <;> simp [hw]

@[simp] theorem closeStep_wf (q o y h s) (hw : Memory.wf s.mem = true) :
    Memory.wf (closeStep q o y h s).mem = true := by simp [closeStep, hw]

@[simp] theorem afterDecision_wf (q o y h s) (hw : Memory.wf s.mem = true) : Memory.wf (afterDecision q o y h s).mem = true := by
  simp only [afterDecision]
  (repeat' split) <;> simp [hw]

@[simp] theorem closeSpan_wf (q o y s) (hw : Memory.wf s.mem = true) : Memory.wf (closeSpan q o y s).mem = true := by
  unfold closeSpan
  (repeat' split) <;> simp [hw]

/-! ### Task graphs -/

@[simp] theorem graphDone_wf (i s) (hw : Memory.wf s.mem = true) : Memory.wf (graphDone i s).mem = true := by
  unfold graphDone
  (repeat' split) <;> simp [hw]

@[simp] theorem updGraph_wf (i f s) (hw : Memory.wf s.mem = true) : Memory.wf (updGraph i f s).mem = true := by
  unfold updGraph
  (repeat' split) <;> simp [hw]

@[simp] theorem completeNode_wf (i n es s) (hw : Memory.wf s.mem = true) :
    Memory.wf (completeNode i n es s).mem = true := by simp [completeNode, hw]

@[simp] theorem withNode_wf (i n kind start running s) (hstart : ∀ x t, Memory.wf t.mem = true → Memory.wf (start x t).mem = true) (hrunning :
    ∀ x t, Memory.wf t.mem = true → Memory.wf (running x t).mem = true) (hw : Memory.wf s.mem = true) : Memory.wf (withNode i n kind start running s).mem = true := by
  unfold withNode
  (repeat' split) <;> simp [hw, hstart, hrunning]

@[simp] theorem startTaskNode_wf (i n g s) (hw : Memory.wf s.mem = true) : Memory.wf (startTaskNode i n g s).mem = true := by
  simp only [startTaskNode]
  (repeat' split) <;> simp [hw]

@[simp] theorem withNodeWord_wf (g n k s) (hk : ∀ x t, Memory.wf t.mem = true → Memory.wf (k x t).mem = true) (hw : Memory.wf s.mem = true) :
    Memory.wf (withNodeWord g n k s).mem = true := by
  unfold withNodeWord
  (repeat' split) <;> simp [hw, hk]

@[simp] theorem condStep_wf (i n g s) (hw : Memory.wf s.mem = true) :
    Memory.wf (condStep i n g s).mem = true := by simp +contextual [condStep, hw]

@[simp] theorem switchStep_wf (i n g s) (hw : Memory.wf s.mem = true) :
    Memory.wf (switchStep i n g s).mem = true := by simp +contextual [switchStep, hw]

@[simp] theorem endLoop_wf (i n g s) (hw : Memory.wf s.mem = true) :
    Memory.wf (endLoop i n g s).mem = true := by simp [endLoop, hw]

@[simp] theorem beginLoop_wf (i n count g s) (hw : Memory.wf s.mem = true) : Memory.wf (beginLoop i n count g s).mem = true := by
  unfold beginLoop
  (repeat' split) <;> simp [hw]

@[simp] theorem startLoop_wf (i n g s) (hw : Memory.wf s.mem = true) : Memory.wf (startLoop i n g s).mem = true := by
  unfold startLoop
  split
  · simp [hw]
  · exact withNodeWord_wf _ _ _ _ (fun v t ht => by simp [ht]) hw

@[simp] theorem loopStep_wf (i n g s) (hw : Memory.wf s.mem = true) : Memory.wf (loopStep i n g s).mem = true := by
  simp only [loopStep]
  (repeat' split) <;> simp [hw]

/-! ### Scheduling and purges -/

@[simp] theorem endOfTask_wf (t outcome s) (hw : Memory.wf s.mem = true) : Memory.wf (endOfTask t outcome s).mem = true := by
  simp only [endOfTask]
  (repeat' split) <;> simp [hw]

@[simp] theorem finishTask_wf (id t outcome s) (hw : Memory.wf s.mem = true) :
    Memory.wf (finishTask id t outcome s).mem = true := by simp [finishTask, hw]

@[simp] theorem completeTask_wf (id t s) (hw : Memory.wf s.mem = true) :
    Memory.wf (completeTask id t s).mem = true := by simp -implicitDefEqProofs +contextual [completeTask, foldl_mem, hw]

@[simp] theorem takeSlotOut_wf (q i w s) (hw : Memory.wf s.mem = true) :
    Memory.wf (takeSlotOut q i w s).mem = true := by simp [takeSlotOut, hw]

@[simp] theorem removedRecord_wf (p q k w tag s) (hw : Memory.wf s.mem = true) : Memory.wf (removedRecord p q k w tag s).mem = true := by
  unfold removedRecord
  (repeat' split) <;> simp [hw]

@[simp] theorem purgeRing_wf (q tag k i s) (hw : Memory.wf s.mem = true) : Memory.wf (purgeRing q tag k i s).mem = true := by
  induction k generalizing i s with
  | zero => exact hw
  | succ k ih =>
    simp only [purgeRing]
    split
    · exact hw
    · split
      · exact ih _ _ hw
      · split
        · exact ih _ _ hw
        · split
          · exact ih _ _ (by simp [hw])
          · exact ih _ _ hw

@[simp] theorem purgeQueue_wf (q tag s) (hw : Memory.wf s.mem = true) : Memory.wf (purgeQueue q tag s).mem = true := by
  unfold purgeQueue
  exact foldl_wf (fun t y ht => by simp [ht]) _ (by simp [hw])

@[simp] theorem nodeRecord_wf (g tag s n) (hw : Memory.wf s.mem = true) : Memory.wf (nodeRecord g tag s n).mem = true := by
  unfold nodeRecord
  (repeat' split) <;> simp [hw]

@[simp] theorem purgeGraph_wf (i tag s) (hw : Memory.wf s.mem = true) : Memory.wf (purgeGraph i tag s).mem = true := by
  unfold purgeGraph
  split
  · exact hw
  · exact updGraph_wf _ _ _ (foldl_wf (fun t n ht => by simp [ht]) _ hw)

@[simp] theorem purgeAway_wf (id t tag s) (hw : Memory.wf s.mem = true) : Memory.wf (purgeAway id t tag s).mem = true := by
  simp only [purgeAway]
  (repeat' split) <;> simp [hw]

@[simp] theorem purgeTask_wf (id tag s) (hw : Memory.wf s.mem = true) : Memory.wf (purgeTask id tag s).mem = true := by
  unfold purgeTask
  repeat' split
  · exact hw
  · simp [hw]
  · exact hw
  · simp [hw]
  · simp [hw]
  · exact foldl_wf (fun t x ht => by simp [ht]) _ hw

@[simp] theorem completePurge_wf (p tag s) (hw : Memory.wf s.mem = true) : Memory.wf (completePurge p tag s).mem = true := by
  unfold completePurge
  simp only [releaseCtxs_mem]
  have tasks : ∀ (ts : List Nat) (t : State), Memory.wf t.mem = true → Memory.wf (ts.foldl (fun s i => purgeTask i tag s) t).mem = true :=
    fun ts t => foldl_wf (fun u x hu => by simp [hu]) ts
  have queues : ∀ (qs : List Nat) (t : State), Memory.wf t.mem = true → Memory.wf (qs.foldl (fun s q => purgeQueue q tag s) t).mem = true :=
    fun qs t => foldl_wf (fun u x hu => by simp [hu]) qs
  have graphs : ∀ (gs : List Nat) (t : State), Memory.wf t.mem = true → Memory.wf (gs.foldl (fun s g => purgeGraph g tag s) t).mem = true :=
    fun gs t => foldl_wf (fun u x hu => by simp [hu]) gs
  refine foldl_wf (fun t c ht => by split <;> simp [ht]) _ ?_
  simp only [castEarly_mem, voteFlags_mem]
  exact graphs _ _ (queues _ _ (tasks _ _ (by simp [hw])))

/-! ### The Whorl -/

@[simp] theorem withRun_wf (k s) (hk : ∀ x t, Memory.wf t.mem = true → Memory.wf (k x t).mem = true) (hw : Memory.wf s.mem = true) :
    Memory.wf (withRun k s).mem = true := by
  unfold withRun
  (repeat' split) <;> simp [hw, hk]

/-! ### The device -/

theorem writePa_wf {pa bs s t} (h : writePa pa bs s = .ok t) (hw : Memory.wf s.mem = true) : Memory.wf t.mem = true := by
  unfold writePa at h
  (repeat' split at h) <;> cases h
  · exact foldl_wf (fun t p ht => by simp [ht]) _ hw
  · simp [hw]

@[simp] theorem writeAperture_wf (fn p va bs s) (hw : Memory.wf s.mem = true) : Memory.wf (writeAperture fn p va bs s).mem = true := by
  unfold writeAperture
  repeat' split
  · next h => exact (congrArg _ (devStore_mem h)).trans hw
  · simp [hw]
  · simp [hw]
  · simp [hw]
  · simp [hw]

@[simp] theorem writeVf_wf (fn p va bs s) (hw : Memory.wf s.mem = true) : Memory.wf (writeVf fn p va bs s).mem = true :=
  List.foldlRecOn (motive := fun a : List Byte × State => Memory.wf a.2.mem = true) _ _ hw fun _ ha _ _ => writeAperture_wf _ _ _ _ _ ha

@[simp] theorem restart_wf (img s) : Memory.wf (restart img s).mem = true := by
  unfold restart
  split <;> simp [State.reset, SMap.wf]

/-! ### What befalls a strand between its groups -/

@[simp] theorem finishAtomic_wf (n k m a old s) (hw : Memory.wf s.mem = true) :
    Memory.wf (finishAtomic n k m a old s).mem = true := by simp [finishAtomic, hw]

/-! ### Issue -/

@[simp] theorem afterIssue_wf (n k a s) (hw : Memory.wf s.mem = true) :
    Memory.wf (afterIssue n k a s).mem = true := by simp [afterIssue, hw]

/-! ## Every instruction keeps memory canonical -/

/-- Every next state of an outcome has canonical memory. -/
def leavesWf (o : Host.Outcome State Fault Refusal) : Prop := ∀ t, o = .next t → Memory.wf t.mem = true

@[simp] theorem leavesWf_next (t : State) : leavesWf (.next t) ↔ Memory.wf t.mem = true := by simp [leavesWf]

@[simp] theorem leavesWf_fault (f) : leavesWf (.fault f) := by simp [leavesWf]

@[simp] theorem leavesWf_refused (r) : leavesWf (.refused r) := by simp [leavesWf]

theorem wf_of_mem_eq {s t : State} (h : t.mem = s.mem) (hw : Memory.wf s.mem = true) : Memory.wf t.mem = true := h ▸ hw

/-! ### Scalar words -/

theorem execAdd_wf (w s) (hw : Memory.wf s.mem = true) : leavesWf (execAdd w s) := by simp [execAdd, hw]

theorem execSub_wf (w s) (hw : Memory.wf s.mem = true) : leavesWf (execSub w s) := by simp [execSub, hw]

theorem execMul_wf (w s) (hw : Memory.wf s.mem = true) : leavesWf (execMul w s) := by simp [execMul, hw]

theorem execMulh_wf (w s) (hw : Memory.wf s.mem = true) : leavesWf (execMulh w s) := by simp [execMulh, hw]

theorem execMadd_wf (w s) (hw : Memory.wf s.mem = true) : leavesWf (execMadd w s) := by simp [execMadd, hw]

theorem execAnd_wf (w s) (hw : Memory.wf s.mem = true) : leavesWf (execAnd w s) := by simp [execAnd, hw]

theorem execOr_wf (w s) (hw : Memory.wf s.mem = true) : leavesWf (execOr w s) := by simp [execOr, hw]

theorem execXor_wf (w s) (hw : Memory.wf s.mem = true) : leavesWf (execXor w s) := by simp [execXor, hw]

theorem execAndn_wf (w s) (hw : Memory.wf s.mem = true) : leavesWf (execAndn w s) := by simp [execAndn, hw]

theorem execShl_wf (w s) (hw : Memory.wf s.mem = true) : leavesWf (execShl w s) := by simp [execShl, hw]

theorem execShr_wf (w s) (hw : Memory.wf s.mem = true) : leavesWf (execShr w s) := by simp [execShr, hw]

theorem execSra_wf (w s) (hw : Memory.wf s.mem = true) : leavesWf (execSra w s) := by simp [execSra, hw]

theorem execRotl_wf (w s) (hw : Memory.wf s.mem = true) : leavesWf (execRotl w s) := by simp [execRotl, hw]

theorem execMin_wf (w s) (hw : Memory.wf s.mem = true) : leavesWf (execMin w s) := by simp [execMin, apply_ite State.mem, hw]

theorem execMax_wf (w s) (hw : Memory.wf s.mem = true) : leavesWf (execMax w s) := by simp [execMax, apply_ite State.mem, hw]

theorem execAbs_wf (w s) (hw : Memory.wf s.mem = true) : leavesWf (execAbs w s) := by simp [execAbs, hw]

theorem execNeg_wf (w s) (hw : Memory.wf s.mem = true) : leavesWf (execNeg w s) := by simp [execNeg, hw]

theorem execClz_wf (w s) (hw : Memory.wf s.mem = true) : leavesWf (execClz w s) := by simp [execClz, hw]

theorem execPopc_wf (w s) (hw : Memory.wf s.mem = true) : leavesWf (execPopc w s) := by simp [execPopc, hw]

theorem execBfx_wf (w s) (hw : Memory.wf s.mem = true) : leavesWf (execBfx w s) := by simp [execBfx, hw]

theorem execBfi_wf (w s) (hw : Memory.wf s.mem = true) : leavesWf (execBfi w s) := by simp [execBfi, hw]

theorem execCmp_wf (w s) (hw : Memory.wf s.mem = true) : leavesWf (execCmp w s) := by simp [execCmp, apply_ite State.mem, hw]

theorem execSel_wf (w s) (hw : Memory.wf s.mem = true) : leavesWf (execSel w s) := by simp [execSel, hw]

theorem execMov_wf (w s) (hw : Memory.wf s.mem = true) : leavesWf (execMov w s) := by simp [execMov, hw]

theorem execIdx_wf (w s) (hw : Memory.wf s.mem = true) : leavesWf (execIdx w s) := by simp [execIdx, hw]

theorem execLi_wf (w s) (hw : Memory.wf s.mem = true) : leavesWf (execLi w s) := by simp [execLi, hw]

theorem execLih_wf (w s) (hw : Memory.wf s.mem = true) : leavesWf (execLih w s) := by simp [execLih, hw]

theorem execAddi_wf (w s) (hw : Memory.wf s.mem = true) : leavesWf (execAddi w s) := by simp [execAddi, hw]

theorem execMuli_wf (w s) (hw : Memory.wf s.mem = true) : leavesWf (execMuli w s) := by simp [execMuli, hw]

theorem execAndi_wf (w s) (hw : Memory.wf s.mem = true) : leavesWf (execAndi w s) := by simp [execAndi, hw]

theorem execOri_wf (w s) (hw : Memory.wf s.mem = true) : leavesWf (execOri w s) := by simp [execOri, hw]

theorem execXori_wf (w s) (hw : Memory.wf s.mem = true) : leavesWf (execXori w s) := by simp [execXori, hw]

/-! ### Control words -/

theorem execBr_wf (w s) (hw : Memory.wf s.mem = true) : leavesWf (execBr w s) := by simp [execBr, hw]

theorem execCall_wf (w s) (hw : Memory.wf s.mem = true) : leavesWf (execCall w s) := by simp [execCall, hw]

theorem execCalli_wf (w s) (hw : Memory.wf s.mem = true) : leavesWf (execCalli w s) := by simp [execCalli, hw]

theorem execJmpi_wf (w s) (hw : Memory.wf s.mem = true) : leavesWf (execJmpi w s) := by simp [execJmpi, hw]

theorem execRet_wf (w s) (hw : Memory.wf s.mem = true) : leavesWf (execRet w s) := by simp [execRet, apply_ite State.mem, hw]

theorem execLoop_wf (w s) (hw : Memory.wf s.mem = true) : leavesWf (execLoop w s) := by simp [execLoop, hw]

theorem execLoopi_wf (w s) (hw : Memory.wf s.mem = true) : leavesWf (execLoopi w s) := by simp [execLoopi, hw]

theorem execMovl_wf (w s) (hw : Memory.wf s.mem = true) : leavesWf (execMovl w s) := by simp [execMovl, apply_ite State.mem, hw]

theorem execNop_wf (w s) (hw : Memory.wf s.mem = true) : leavesWf (execNop w s) := by simp [execNop, apply_ite State.mem, hw]

theorem execHalt_wf (w s) (hw : Memory.wf s.mem = true) : leavesWf (execHalt w s) := by
  simp -implicitDefEqProofs [execHalt, hw]

theorem execYield_wf (w s) (hw : Memory.wf s.mem = true) : leavesWf (execYield w s) := by simp [execYield, apply_ite State.mem, hw]

/-! ### System words -/

theorem execTrap_wf (w s) (hw : Memory.wf s.mem = true) : leavesWf (execTrap w s) := by simp [execTrap, hw]

theorem execEret_wf (w s) (hw : Memory.wf s.mem = true) : leavesWf (execEret w s) := by simp [execEret, apply_ite State.mem, hw]

theorem execMfcr_wf (w s) (hw : Memory.wf s.mem = true) : leavesWf (execMfcr w s) := by
  simp only [execMfcr, leavesWf_next, whenGuard]
  (repeat' split) <;> simp [hw]

theorem execMtcr_wf (w s) (hw : Memory.wf s.mem = true) : leavesWf (execMtcr w s) := by simp [execMtcr, apply_ite State.mem, hw]

theorem execStrstart_wf (w s) (hw : Memory.wf s.mem = true) : leavesWf (execStrstart w s) := by simp [execStrstart, apply_ite State.mem, hw]

theorem execStrwait_wf (w s) (hw : Memory.wf s.mem = true) : leavesWf (execStrwait w s) := by simp [execStrwait, apply_ite State.mem, hw]

theorem execStrid_wf (w s) (hw : Memory.wf s.mem = true) : leavesWf (execStrid w s) := by simp [execStrid, hw]

theorem execSetfp_wf (w s) (hw : Memory.wf s.mem = true) : leavesWf (execSetfp w s) := by simp [execSetfp, hw]

/-! ### Floating-point vector words -/

theorem execVadd_wf (w s) (hw : Memory.wf s.mem = true) : leavesWf (execVadd w s) := by simp [execVadd, hw]

theorem execVsub_wf (w s) (hw : Memory.wf s.mem = true) : leavesWf (execVsub w s) := by simp [execVsub, hw]

theorem execVmul_wf (w s) (hw : Memory.wf s.mem = true) : leavesWf (execVmul w s) := by simp [execVmul, hw]

theorem execVfma_wf (w s) (hw : Memory.wf s.mem = true) : leavesWf (execVfma w s) := by simp [execVfma, hw]

theorem execVfms_wf (w s) (hw : Memory.wf s.mem = true) : leavesWf (execVfms w s) := by simp [execVfms, hw]

theorem execVfnma_wf (w s) (hw : Memory.wf s.mem = true) : leavesWf (execVfnma w s) := by simp [execVfnma, hw]

theorem execVmin_wf (w s) (hw : Memory.wf s.mem = true) : leavesWf (execVmin w s) := by simp [execVmin, hw]

theorem execVmax_wf (w s) (hw : Memory.wf s.mem = true) : leavesWf (execVmax w s) := by simp [execVmax, hw]

theorem execVabs_wf (w s) (hw : Memory.wf s.mem = true) : leavesWf (execVabs w s) := by simp [execVabs, hw]

theorem execVneg_wf (w s) (hw : Memory.wf s.mem = true) : leavesWf (execVneg w s) := by simp [execVneg, hw]

theorem execVscale_wf (w s) (hw : Memory.wf s.mem = true) : leavesWf (execVscale w s) := by simp [execVscale, hw]

theorem execVcmp_wf (w s) (hw : Memory.wf s.mem = true) : leavesWf (execVcmp w s) := by simp [execVcmp, hw]

theorem execVclass_wf (w s) (hw : Memory.wf s.mem = true) : leavesWf (execVclass w s) := by simp [execVclass, hw]

/-! ### Integer vector words -/

theorem execViadd_wf (w s) (hw : Memory.wf s.mem = true) : leavesWf (execViadd w s) := by simp [execViadd, hw]

theorem execVisub_wf (w s) (hw : Memory.wf s.mem = true) : leavesWf (execVisub w s) := by simp [execVisub, hw]

theorem execVimul_wf (w s) (hw : Memory.wf s.mem = true) : leavesWf (execVimul w s) := by simp [execVimul, hw]

theorem execVimulh_wf (w s) (hw : Memory.wf s.mem = true) : leavesWf (execVimulh w s) := by simp [execVimulh, hw]

theorem execVimadd_wf (w s) (hw : Memory.wf s.mem = true) : leavesWf (execVimadd w s) := by simp [execVimadd, hw]

theorem execVimin_wf (w s) (hw : Memory.wf s.mem = true) : leavesWf (execVimin w s) := by simp [execVimin, hw]

theorem execVimax_wf (w s) (hw : Memory.wf s.mem = true) : leavesWf (execVimax w s) := by simp [execVimax, hw]

theorem execViabs_wf (w s) (hw : Memory.wf s.mem = true) : leavesWf (execViabs w s) := by simp [execViabs, hw]

theorem execVand_wf (w s) (hw : Memory.wf s.mem = true) : leavesWf (execVand w s) := by simp [execVand, hw]

theorem execVor_wf (w s) (hw : Memory.wf s.mem = true) : leavesWf (execVor w s) := by simp [execVor, hw]

theorem execVxor_wf (w s) (hw : Memory.wf s.mem = true) : leavesWf (execVxor w s) := by simp [execVxor, hw]

theorem execVandn_wf (w s) (hw : Memory.wf s.mem = true) : leavesWf (execVandn w s) := by simp [execVandn, hw]

theorem execVnot_wf (w s) (hw : Memory.wf s.mem = true) : leavesWf (execVnot w s) := by simp [execVnot, hw]

theorem execVshl_wf (w s) (hw : Memory.wf s.mem = true) : leavesWf (execVshl w s) := by simp [execVshl, hw]

theorem execVshr_wf (w s) (hw : Memory.wf s.mem = true) : leavesWf (execVshr w s) := by simp [execVshr, hw]

theorem execVsra_wf (w s) (hw : Memory.wf s.mem = true) : leavesWf (execVsra w s) := by simp [execVsra, hw]

theorem execVrotl_wf (w s) (hw : Memory.wf s.mem = true) : leavesWf (execVrotl w s) := by simp [execVrotl, hw]

theorem execVicmp_wf (w s) (hw : Memory.wf s.mem = true) : leavesWf (execVicmp w s) := by simp [execVicmp, hw]

theorem execVsel_wf (w s) (hw : Memory.wf s.mem = true) : leavesWf (execVsel w s) := by simp [execVsel, hw]

theorem execVclz_wf (w s) (hw : Memory.wf s.mem = true) : leavesWf (execVclz w s) := by simp [execVclz, hw]

theorem execVpopc_wf (w s) (hw : Memory.wf s.mem = true) : leavesWf (execVpopc w s) := by simp [execVpopc, hw]

/-! ### Conversion, movement and reduction words -/

theorem execVcvt_wf (w s) (hw : Memory.wf s.mem = true) : leavesWf (execVcvt w s) := by simp [execVcvt, hw]

theorem execVcvtsr_wf (w s) (hw : Memory.wf s.mem = true) : leavesWf (execVcvtsr w s) := by simp [execVcvtsr, hw]

theorem execVpack_wf (w s) (hw : Memory.wf s.mem = true) : leavesWf (execVpack w s) := by simp [execVpack, hw]

theorem execVunpack_wf (w s) (hw : Memory.wf s.mem = true) : leavesWf (execVunpack w s) := by simp [execVunpack, hw]

theorem execVbcast_wf (w s) (hw : Memory.wf s.mem = true) : leavesWf (execVbcast w s) := by simp [execVbcast, hw]

theorem execVperm_wf (w s) (hw : Memory.wf s.mem = true) : leavesWf (execVperm w s) := by simp [execVperm, hw]

theorem execVshuf_wf (w s) (hw : Memory.wf s.mem = true) : leavesWf (execVshuf w s) := by simp [execVshuf, hw]

theorem execVrot_wf (w s) (hw : Memory.wf s.mem = true) : leavesWf (execVrot w s) := by simp [execVrot, hw]

theorem execVcompress_wf (w s) (hw : Memory.wf s.mem = true) : leavesWf (execVcompress w s) := by simp [execVcompress, hw]

theorem execVexpand_wf (w s) (hw : Memory.wf s.mem = true) : leavesWf (execVexpand w s) := by simp [execVexpand, hw]

theorem execViota_wf (w s) (hw : Memory.wf s.mem = true) : leavesWf (execViota w s) := by simp [execViota, hw]

theorem execVmovx_wf (w s) (hw : Memory.wf s.mem = true) : leavesWf (execVmovx w s) := by simp [execVmovx, hw]

theorem execVmovs_wf (w s) (hw : Memory.wf s.mem = true) : leavesWf (execVmovs w s) := by simp [execVmovs, hw]

theorem execVins_wf (w s) (hw : Memory.wf s.mem = true) : leavesWf (execVins w s) := by simp [execVins, hw]

theorem execVredadd_wf (w s) (hw : Memory.wf s.mem = true) : leavesWf (execVredadd w s) := by simp [execVredadd, hw]

theorem execVredmax_wf (w s) (hw : Memory.wf s.mem = true) : leavesWf (execVredmax w s) := by simp [execVredmax, hw]

theorem execVredmin_wf (w s) (hw : Memory.wf s.mem = true) : leavesWf (execVredmin w s) := by simp [execVredmin, hw]

theorem execVscan_wf (w s) (hw : Memory.wf s.mem = true) : leavesWf (execVscan w s) := by simp [execVscan, hw]

theorem execVrng_wf (w s) (hw : Memory.wf s.mem = true) : leavesWf (execVrng w s) := by simp [execVrng, hw]

theorem execVrngf_wf (w s) (hw : Memory.wf s.mem = true) : leavesWf (execVrngf w s) := by simp [execVrngf, hw]

theorem execPand_wf (w s) (hw : Memory.wf s.mem = true) : leavesWf (execPand w s) := by simp [execPand, hw]

theorem execPor_wf (w s) (hw : Memory.wf s.mem = true) : leavesWf (execPor w s) := by simp [execPor, hw]

theorem execPxor_wf (w s) (hw : Memory.wf s.mem = true) : leavesWf (execPxor w s) := by simp [execPxor, hw]

theorem execPandn_wf (w s) (hw : Memory.wf s.mem = true) : leavesWf (execPandn w s) := by simp [execPandn, hw]

theorem execPnot_wf (w s) (hw : Memory.wf s.mem = true) : leavesWf (execPnot w s) := by simp [execPnot, hw]

theorem execPset_wf (w s) (hw : Memory.wf s.mem = true) : leavesWf (execPset w s) := by simp [execPset, hw]

theorem execPget_wf (w s) (hw : Memory.wf s.mem = true) : leavesWf (execPget w s) := by simp [execPget, hw]

theorem execPcnt_wf (w s) (hw : Memory.wf s.mem = true) : leavesWf (execPcnt w s) := by simp [execPcnt, hw]

theorem execPfirst_wf (w s) (hw : Memory.wf s.mem = true) : leavesWf (execPfirst w s) := by simp [execPfirst, hw]

theorem execPmov_wf (w s) (hw : Memory.wf s.mem = true) : leavesWf (execPmov w s) := by simp [execPmov, hw]

/-! ### Loads and stores -/

theorem execLoadDataReturn_wf (n k s) (hw : Memory.wf s.mem = true) : leavesWf (execLoadDataReturn n k s) := by
  simp only [execLoadDataReturn, leavesWf_next]
  (repeat' split) <;> simp [hw]

theorem execLd_wf (w s) (hw : Memory.wf s.mem = true) : leavesWf (execLd w s) := by
  simp [execLd, loadWord_mem, hw]

theorem execSt_wf (w s) (hw : Memory.wf s.mem = true) : leavesWf (execSt w s) := by simp [execSt, hw]

theorem execVld_wf (w s) (hw : Memory.wf s.mem = true) : leavesWf (execVld w s) := by
  simp [execVld, loadWord_mem, hw]

theorem execVst_wf (w s) (hw : Memory.wf s.mem = true) : leavesWf (execVst w s) := by simp [execVst, hw]

theorem execVldx_wf (w s) (hw : Memory.wf s.mem = true) : leavesWf (execVldx w s) := by
  rw [execVldx, leavesWf_next]
  refine wf_of_mem_eq (whenGuard_mem _ _ _ _ fun t => resumeOr_mem _ _ _ (fun _ _ => by simp) fun t => ?_) hw
  refine whenIndexed_mem _ _ _ _ fun base pa nr u => ?_
  dsimp only
  (repeat' split) <;> simp

theorem execVstx_wf (w s) (hw : Memory.wf s.mem = true) : leavesWf (execVstx w s) := by
  simp only [execVstx, leavesWf_next, whenGuard]
  (repeat' split) <;> simp -implicitDefEqProofs [apply_ite State.mem, foldl_mem, hw]

theorem execVlds_wf (w s) (hw : Memory.wf s.mem = true) : leavesWf (execVlds w s) := by
  rw [execVlds, leavesWf_next]
  refine wf_of_mem_eq (whenGuard_mem _ _ _ _ fun t => whenScratch_mem _ _ _ _ _ _ (fun k hk u => ?_) fun u => ?_) hw
  · split
    · exact whenTagged_mem _ _ _ _ _ hk
    · exact hk u
  · split <;> simp

theorem execVsts_wf (w s) (hw : Memory.wf s.mem = true) : leavesWf (execVsts w s) := by
  rw [execVsts, leavesWf_next]
  exact wf_of_mem_eq (whenGuard_mem _ _ _ _ fun t => whenScratch_mem _ _ _ _ _ _ (fun k hk => hk) fun u => rfl) hw

theorem execSld_wf (w s) (hw : Memory.wf s.mem = true) : leavesWf (execSld w s) := by simp [execSld, hw]

theorem execSst_wf (w s) (hw : Memory.wf s.mem = true) : leavesWf (execSst w s) := by
  simp -implicitDefEqProofs [execSst, hw]

theorem execCbload_wf (w s) (hw : Memory.wf s.mem = true) : leavesWf (execCbload w s) := by
  rw [execCbload, leavesWf_next]
  refine wf_of_mem_eq (whenGuard_mem _ _ _ _ fun t => resumeOr_mem _ _ _ (fun _ _ => by simp) fun u => ?_) hw
  (repeat' split) <;> simp

theorem execCtxsv_wf (w s) (hw : Memory.wf s.mem = true) : leavesWf (execCtxsv w s) := by
  rw [execCtxsv, leavesWf_next]
  refine wf_of_mem_eq (whenGuard_mem _ _ _ _ fun t => whenPriv_mem _ _ fun u => ?_) hw
  refine occupy_mem _ _ _ _ _ (fun k hk v => whenCtx_mem _ _ _ _ hk) fun va pa v => ?_
  dsimp only
  split <;> simp

theorem execCtxld_wf (w s) (hw : Memory.wf s.mem = true) : leavesWf (execCtxld w s) := by
  rw [execCtxld, leavesWf_next]
  refine wf_of_mem_eq (whenGuard_mem _ _ _ _ fun t => whenPriv_mem _ _ fun u => ?_) hw
  refine occupy_mem _ _ _ _ _ (fun k hk v => whenCtx_mem _ _ _ _ hk) fun va pa v => ?_
  dsimp only
  (repeat' split) <;> simp

/-! ### Fences and atomics -/

theorem execFence_wf (w s) (hw : Memory.wf s.mem = true) : leavesWf (execFence w s) := by
  simp only [execFence, leavesWf_next, whenGuard]
  (repeat' split) <;> simp [hw]

theorem execAtom_wf (w s) (hw : Memory.wf s.mem = true) : leavesWf (execAtom w s) := by
  simp only [execAtom, leavesWf_next, whenGuard]
  (repeat' split) <;> simp [hw]

theorem execAtomr_wf (w s) (hw : Memory.wf s.mem = true) : leavesWf (execAtomr w s) := by simp [execAtomr, hw]

theorem execCas_wf (w s) (hw : Memory.wf s.mem = true) : leavesWf (execCas w s) := by simp [execCas, hw]

theorem execSwap_wf (w s) (hw : Memory.wf s.mem = true) : leavesWf (execSwap w s) := by simp [execSwap, hw]

theorem execAtomApply_wf (n s) (hw : Memory.wf s.mem = true) : leavesWf (execAtomApply n s) := by
  simp only [execAtomApply, leavesWf_next]
  split
  · exact hw
  · split
    · exact hw
    · repeat' split
      · exact hw
      · simp [hw]
      · next h => exact wf_of_mem_eq ((devStore_mem h).trans (dropPosted_mem _ _)) hw
      · simp [hw]
      · simp [hw]
      · simp [hw]

/-! ### Translation, blocks and page requests -/

theorem execTrans_wf (w s) (hw : Memory.wf s.mem = true) : leavesWf (execTrans w s) := by
  simp -implicitDefEqProofs [execTrans, hw]

theorem execHrel_wf (w s) (hw : Memory.wf s.mem = true) : leavesWf (execHrel w s) := by simp [execHrel, hw]

theorem execHchk_wf (w s) (hw : Memory.wf s.mem = true) : leavesWf (execHchk w s) := by simp [execHchk, hw]

theorem execHandleDeposit_wf (n k s) (hw : Memory.wf s.mem = true) :
    leavesWf (execHandleDeposit n k s) := by simp [execHandleDeposit, hw]

theorem execLdblk_wf (w s) (hw : Memory.wf s.mem = true) : leavesWf (execLdblk w s) := by simp [execLdblk, apply_ite State.mem, hw]

theorem execBlkwait_wf (w s) (hw : Memory.wf s.mem = true) : leavesWf (execBlkwait w s) := by simp [execBlkwait, apply_ite State.mem, hw]

theorem execWbblk_wf (w s) (hw : Memory.wf s.mem = true) : leavesWf (execWbblk w s) := by simp [execWbblk, hw]

theorem execEvblk_wf (w s) (hw : Memory.wf s.mem = true) : leavesWf (execEvblk w s) := by simp [execEvblk, hw]

theorem execBlockFillDone_wf (n b s) (hw : Memory.wf s.mem = true) :
    leavesWf (execBlockFillDone n b s) := by simp [execBlockFillDone, apply_ite State.mem, hw]

theorem execBlockWritebackDone_wf (n b s) (hw : Memory.wf s.mem = true) :
    leavesWf (execBlockWritebackDone n b s) := by simp [execBlockWritebackDone, apply_ite State.mem, hw]

theorem execBlockEvictDone_wf (n b s) (hw : Memory.wf s.mem = true) :
    leavesWf (execBlockEvictDone n b s) := by simp [execBlockEvictDone, apply_ite State.mem, hw]

theorem execReschk_wf (w s) (hw : Memory.wf s.mem = true) : leavesWf (execReschk w s) := by simp [execReschk, hw]

theorem execPgreq_wf (w s) (hw : Memory.wf s.mem = true) : leavesWf (execPgreq w s) := by
  rw [execPgreq, leavesWf_next]
  refine whenGuard_wf _ _ _ _ (fun t ht => ?_) hw
  dsimp only
  repeat' split
  · simp [ht]
  · simp [ht]
  · next h => exact appendRequest_wf h ht
  · simp [ht]

theorem execReplay_wf (w s) (hw : Memory.wf s.mem = true) : leavesWf (execReplay w s) := by simp [execReplay, hw]

/-! ### Semaphores, spools and phasers -/

theorem execWaitTimeout_wf (n k s) (hw : Memory.wf s.mem = true) : leavesWf (execWaitTimeout n k s) := by
  simp only [execWaitTimeout, leavesWf_next]
  (repeat' split) <;> simp [hw]

theorem execSemsig_wf (w s) (hw : Memory.wf s.mem = true) : leavesWf (execSemsig w s) := by simp [execSemsig, hw]

theorem execSemwait_wf (w s) (hw : Memory.wf s.mem = true) : leavesWf (execSemwait w s) := by simp [execSemwait, hw]

theorem execSemset_wf (w s) (hw : Memory.wf s.mem = true) : leavesWf (execSemset w s) := by simp [execSemset, apply_ite State.mem, hw]

theorem execSemrd_wf (w s) (hw : Memory.wf s.mem = true) : leavesWf (execSemrd w s) := by simp [execSemrd, apply_ite State.mem, hw]

theorem execSpldef_wf (w s) (hw : Memory.wf s.mem = true) : leavesWf (execSpldef w s) := by simp [execSpldef, apply_ite State.mem, hw]

theorem execSpfreew_wf (w s) (hw : Memory.wf s.mem = true) : leavesWf (execSpfreew w s) := by
  simp only [execSpfreew, leavesWf_next, whenGuard]
  (repeat' split) <;> simp [hw]

theorem execSpfillw_wf (w s) (hw : Memory.wf s.mem = true) : leavesWf (execSpfillw w s) := by
  simp only [execSpfillw, leavesWf_next, whenGuard]
  (repeat' split) <;> simp [hw]

theorem execSppub_wf (w s) (hw : Memory.wf s.mem = true) : leavesWf (execSppub w s) := by simp [execSppub, apply_ite State.mem, hw]

theorem execSpret_wf (w s) (hw : Memory.wf s.mem = true) : leavesWf (execSpret w s) := by simp [execSpret, apply_ite State.mem, hw]

theorem execPhreg_wf (w s) (hw : Memory.wf s.mem = true) : leavesWf (execPhreg w s) := by simp [execPhreg, apply_ite State.mem, hw]

theorem execPhdrop_wf (w s) (hw : Memory.wf s.mem = true) : leavesWf (execPhdrop w s) := by
  simp only [execPhdrop, leavesWf_next, whenGuard]
  (repeat' split) <;> simp [hw]

theorem execPharr_wf (w s) (hw : Memory.wf s.mem = true) : leavesWf (execPharr w s) := by
  simp only [execPharr, leavesWf_next, whenGuard]
  (repeat' split) <;> simp [hw]

theorem execPhwait_wf (w s) (hw : Memory.wf s.mem = true) : leavesWf (execPhwait w s) := by
  simp only [execPhwait, leavesWf_next, whenGuard]
  (repeat' split) <;> simp [hw]

theorem execPharw_wf (w s) (hw : Memory.wf s.mem = true) : leavesWf (execPharw w s) := by
  simp only [execPharw, leavesWf_next, whenGuard]
  (repeat' split) <;> simp [hw]

theorem execPhaserReleaseReceive_wf (n lit s) (hw : Memory.wf s.mem = true) :
    leavesWf (execPhaserReleaseReceive n lit s) := by simp [execPhaserReleaseReceive, hw]

theorem execPhaserGatherReceive_wf (m s) (hw : Memory.wf s.mem = true) :
    leavesWf (execPhaserGatherReceive m s) := by simp [execPhaserGatherReceive, hw]

theorem execTickw_wf (w s) (hw : Memory.wf s.mem = true) : leavesWf (execTickw w s) := by
  simp [execTickw, apply_ite State.mem, hw]

/-! ### The matrix engine -/

theorem execMqpush_wf (w s) (hw : Memory.wf s.mem = true) : leavesWf (execMqpush w s) := by
  rw [execMqpush, leavesWf_next]
  refine wf_of_mem_eq (whenGuard_mem _ _ _ _ fun t => whenRecord_mem _ _ _ fun ws u => ?_) hw
  dsimp only
  (repeat' split) <;> simp

theorem execMma_wf (n s) (hw : Memory.wf s.mem = true) : leavesWf (execMma n s) := by simp [execMma, hw]

theorem execMmaz_wf (n s) (hw : Memory.wf s.mem = true) : leavesWf (execMmaz n s) := by simp [execMmaz, hw]

theorem execBload_wf (n s) (hw : Memory.wf s.mem = true) : leavesWf (execBload n s) := by simp [execBload, hw]

theorem execAccld_wf (n s) (hw : Memory.wf s.mem = true) : leavesWf (execAccld n s) := by simp [execAccld, hw]

theorem execAccst_wf (n s) (hw : Memory.wf s.mem = true) : leavesWf (execAccst n s) := by simp [execAccst, hw]

theorem execMxt_wf (n s) (hw : Memory.wf s.mem = true) : leavesWf (execMxt n s) := by simp [execMxt, hw]

theorem execSubarrayWakeDone_wf (n x s) (hw : Memory.wf s.mem = true) :
    leavesWf (execSubarrayWakeDone n x s) := by simp [execSubarrayWakeDone, apply_ite State.mem, hw]

theorem execSubarrayGate_wf (n x s) (hw : Memory.wf s.mem = true) :
    leavesWf (execSubarrayGate n x s) := by simp [execSubarrayGate, apply_ite State.mem, hw]

/-! ### The copy channels -/

theorem execCqpush_wf (w s) (hw : Memory.wf s.mem = true) : leavesWf (execCqpush w s) := by
  rw [execCqpush, leavesWf_next]
  refine wf_of_mem_eq (whenGuard_mem _ _ _ _ fun t => whenRecord_mem _ _ _ fun ws u => ?_) hw
  dsimp only
  (repeat' split) <;> simp

theorem execCstage_wf (w s) (hw : Memory.wf s.mem = true) : leavesWf (execCstage w s) := by
  simp only [execCstage, leavesWf_next, whenGuard]
  (repeat' split) <;> simp [hw]

theorem execCdrain_wf (w s) (hw : Memory.wf s.mem = true) : leavesWf (execCdrain w s) := by simp [execCdrain, hw]

theorem execCopy_wf (n ch s) (hw : Memory.wf s.mem = true) : leavesWf (execCopy n ch s) := by
  simp -implicitDefEqProofs +contextual [execCopy, hw]

theorem execCopyacc_wf (n ch s) (hw : Memory.wf s.mem = true) : leavesWf (execCopyacc n ch s) := by
  simp -implicitDefEqProofs +contextual [execCopyacc, hw]

theorem execFill_wf (n ch s) (hw : Memory.wf s.mem = true) : leavesWf (execFill n ch s) := by
  simp -implicitDefEqProofs +contextual [execFill, hw]

theorem execGather_wf (n ch s) (hw : Memory.wf s.mem = true) : leavesWf (execGather n ch s) := by
  simp -implicitDefEqProofs +contextual [execGather, hw]

theorem execRput_wf (n ch s) (hw : Memory.wf s.mem = true) : leavesWf (execRput n ch s) := by
  simp -implicitDefEqProofs +contextual [execRput, hw]

theorem execCopyReadReturn_wf (n ch s) (hw : Memory.wf s.mem = true) : leavesWf (execCopyReadReturn n ch s) := by
  simp only [execCopyReadReturn, leavesWf_next]
  (repeat' split) <;> simp -implicitDefEqProofs [foldl_mem, hw]

theorem execStoreApply_wf (n s) (hw : Memory.wf s.mem = true) : leavesWf (execStoreApply n s) := by
  simp only [execStoreApply, leavesWf_next]
  (repeat' split) <;> simp [hw]

theorem execEngineRecordComplete_wf (n q s) (hw : Memory.wf s.mem = true) : leavesWf (execEngineRecordComplete n q s) := by
  simp only [execEngineRecordComplete, leavesWf_next]
  (repeat' split) <;> simp [hw]

theorem execQstatRead_wf (w s) (hw : Memory.wf s.mem = true) : leavesWf (execQstatRead w s) := by
  rw [execQstatRead, leavesWf_next]
  exact readQueue_wf _ _ _ (fun q t ht => ht) hw

theorem execQstatSkip_wf (w s) (hw : Memory.wf s.mem = true) : leavesWf (execQstatSkip w s) := by simp [execQstatSkip, apply_ite State.mem, hw]

theorem execQstatFlush_wf (w s) (hw : Memory.wf s.mem = true) : leavesWf (execQstatFlush w s) := by
  rw [execQstatFlush, leavesWf_next]
  exact readQueue_wf _ _ _ (fun q t ht => by simp [ht]) hw

theorem execQstatMxcap_wf (w s) (hw : Memory.wf s.mem = true) : leavesWf (execQstatMxcap w s) := by simp [execQstatMxcap, hw]

theorem execQstatClear_wf (w s) (hw : Memory.wf s.mem = true) : leavesWf (execQstatClear w s) := by
  rw [execQstatClear, leavesWf_next]
  exact readQueue_wf _ _ _ (fun q t ht => ht) hw

/-! ### Zones, windows, ports and packets -/

theorem execLzdefZone_wf (w s) (hw : Memory.wf s.mem = true) : leavesWf (execLzdefZone w s) := by simp [execLzdefZone, apply_ite State.mem, hw]

theorem execLzdefBinding_wf (w s) (hw : Memory.wf s.mem = true) :
    leavesWf (execLzdefBinding w s) := by simp [execLzdefBinding, apply_ite State.mem, hw]

theorem execLzres_wf (w s) (hw : Memory.wf s.mem = true) : leavesWf (execLzres w s) := by simp [execLzres, apply_ite State.mem, hw]

theorem execLzrel_wf (w s) (hw : Memory.wf s.mem = true) : leavesWf (execLzrel w s) := by
  simp only [execLzrel, leavesWf_next, whenGuard]
  (repeat' split) <;> simp [hw]

theorem execLzwait_wf (w s) (hw : Memory.wf s.mem = true) : leavesWf (execLzwait w s) := by simp [execLzwait, apply_ite State.mem, hw]

theorem execLzstat_wf (w s) (hw : Memory.wf s.mem = true) : leavesWf (execLzstat w s) := by simp [execLzstat, hw]

theorem execBst_wf (w s) (hw : Memory.wf s.mem = true) : leavesWf (execBst w s) := by simp [execBst, hw]

theorem execBatom_wf (w s) (hw : Memory.wf s.mem = true) : leavesWf (execBatom w s) := by simp [execBatom, hw]

theorem execBflush_wf (w s) (hw : Memory.wf s.mem = true) : leavesWf (execBflush w s) := by simp [execBflush, hw]

theorem execBflushall_wf (w s) (hw : Memory.wf s.mem = true) : leavesWf (execBflushall w s) := by simp [execBflushall, hw]

theorem execBstat_wf (w s) (hw : Memory.wf s.mem = true) : leavesWf (execBstat w s) := by simp [execBstat, hw]

theorem execBobbinAgeExpiry_wf (die j s) (hw : Memory.wf s.mem = true) : leavesWf (execBobbinAgeExpiry die j s) := by
  simp only [execBobbinAgeExpiry, leavesWf_next]
  (repeat' split) <;> simp [hw]

theorem execXwdef_wf (w s) (hw : Memory.wf s.mem = true) : leavesWf (execXwdef w s) := by simp [execXwdef, apply_ite State.mem, hw]

theorem execXadd_wf (w s) (hw : Memory.wf s.mem = true) : leavesWf (execXadd w s) := by
  simp only [execXadd, leavesWf_next, whenGuard]
  (repeat' split) <;> simp [apply_ite State.mem, hw]

theorem execXwread_wf (w s) (hw : Memory.wf s.mem = true) : leavesWf (execXwread w s) := by
  rw [execXwread, leavesWf_next]
  refine wf_of_mem_eq (whenGuard_mem _ _ _ _ fun t => whenBound_mem _ _ _ fun u => ?_) hw
  split
  · simp
  · dsimp only
    split <;> simp

theorem execXwclr_wf (w s) (hw : Memory.wf s.mem = true) : leavesWf (execXwclr w s) := by simp [execXwclr, hw]

theorem execXaddApply_wf (die i s) (hw : Memory.wf s.mem = true) : leavesWf (execXaddApply die i s) := by
  simp only [execXaddApply, leavesWf_next]
  (repeat' split) <;> simp [hw]

theorem execLnkstat_wf (w s) (hw : Memory.wf s.mem = true) : leavesWf (execLnkstat w s) := by simp [execLnkstat, apply_ite State.mem, hw]

theorem execLinkLoss_wf (i s) (hw : Memory.wf s.mem = true) : leavesWf (execLinkLoss i s) := by simp [execLinkLoss, apply_ite State.mem, hw]

theorem execPortFailure_wf (i s) (hw : Memory.wf s.mem = true) : leavesWf (execPortFailure i s) := by simp [execPortFailure, apply_ite State.mem, hw]

theorem execPortTrained_wf (i peer es s) (hw : Memory.wf s.mem = true) :
    leavesWf (execPortTrained i peer es s) := by simp [execPortTrained, apply_ite State.mem, hw]

theorem execTrainingRetry_wf (i s) (hw : Memory.wf s.mem = true) :
    leavesWf (execTrainingRetry i s) := by simp [execTrainingRetry, apply_ite State.mem, hw]

theorem execFlitCrcResend_wf (i s) (hw : Memory.wf s.mem = true) :
    leavesWf (execFlitCrcResend i s) := by simp [execFlitCrcResend, apply_ite State.mem, hw]

theorem execPeerEntryExchange_wf (i es s) (hw : Memory.wf s.mem = true) :
    leavesWf (execPeerEntryExchange i es s) := by simp [execPeerEntryExchange, apply_ite State.mem, hw]

theorem execPortEnable_wf (i en s) (hw : Memory.wf s.mem = true) :
    leavesWf (execPortEnable i en s) := by simp [execPortEnable, apply_ite State.mem, hw]

theorem execPortRetrain_wf (i s) (hw : Memory.wf s.mem = true) : leavesWf (execPortRetrain i s) := by simp [execPortRetrain, apply_ite State.mem, hw]

theorem execRputChunkReceive_wf (m s) (hw : Memory.wf s.mem = true) : leavesWf (execRputChunkReceive m s) := by
  simp only [execRputChunkReceive, leavesWf_next]
  split
  · exact hw
  · split
    · exact hw
    · next h => exact wf_of_mem_eq ((takeChunk_mem _ _).trans (received_mem h)) hw

theorem execRputChunkAccept_wf (m s) (hw : Memory.wf s.mem = true) : leavesWf (execRputChunkAccept m s) := by
  simp only [execRputChunkAccept, leavesWf_next]
  split
  · exact hw
  · next h =>
    have := wf_of_mem_eq (received_mem h) hw
    (repeat' split) <;> simp [this]

theorem execSlotCreditReceive_wf (m s) (hw : Memory.wf s.mem = true) : leavesWf (execSlotCreditReceive m s) := by
  simp only [execSlotCreditReceive, leavesWf_next]
  split
  · exact hw
  · next h =>
    have := wf_of_mem_eq (received_mem h) hw
    (repeat' split) <;> exact this

theorem execCancelNoticeReceive_wf (m s) (hw : Memory.wf s.mem = true) : leavesWf (execCancelNoticeReceive m s) := by
  simp only [execCancelNoticeReceive, leavesWf_next]
  split
  · simp [hw]
  · split
    · exact hw
    · split
      · exact hw
      · next h =>
        have := wf_of_mem_eq (received_mem h) hw
        (repeat' split) <;> simp [this]

theorem execCancelNoticeResend_wf (i s) (hw : Memory.wf s.mem = true) : leavesWf (execCancelNoticeResend i s) := by
  simp only [execCancelNoticeResend, leavesWf_next]
  (repeat' split) <;> simp [hw]

theorem execBobbinFlitReceive_wf (m s) (hw : Memory.wf s.mem = true) : leavesWf (execBobbinFlitReceive m s) := by
  simp only [execBobbinFlitReceive, leavesWf_next]
  split
  · exact hw
  · next h =>
    have := wf_of_mem_eq (received_mem h) hw
    split <;> simp [this]

theorem execBobbinCompletionReceive_wf (m s) (hw : Memory.wf s.mem = true) : leavesWf (execBobbinCompletionReceive m s) := by
  simp only [execBobbinCompletionReceive, leavesWf_next]
  (repeat' split) <;> simp [hw]

/-! ### Step transactions -/

theorem execVoteDeadline_wf (c s) (hw : Memory.wf s.mem = true) :
    leavesWf (execVoteDeadline c s) := by simp [execVoteDeadline, apply_ite State.mem, hw]

theorem execChildVoteDeadline_wf (c child s) (hw : Memory.wf s.mem = true) :
    leavesWf (execChildVoteDeadline c child s) := by simp [execChildVoteDeadline, apply_ite State.mem, hw]

theorem execVoteReceive_wf (m s) (hw : Memory.wf s.mem = true) : leavesWf (execVoteReceive m s) := by
  simp only [execVoteReceive, leavesWf_next]
  (repeat' split) <;> simp [hw]

theorem execVoteResend_wf (n s) (hw : Memory.wf s.mem = true) : leavesWf (execVoteResend n s) := by
  simp only [execVoteResend, leavesWf_next]
  (repeat' split) <;> simp [hw]

theorem execDecisionReceive_wf (m s) (hw : Memory.wf s.mem = true) : leavesWf (execDecisionReceive m s) := by
  simp only [execDecisionReceive, leavesWf_next]
  (repeat' split) <;> simp [hw]

theorem execScrubberVisit_wf (block s) (hw : Memory.wf s.mem = true) :
    leavesWf (execScrubberVisit block s) := by simp [execScrubberVisit, hw]

theorem execStepid_wf (w s) (hw : Memory.wf s.mem = true) : leavesWf (execStepid w s) := by simp [execStepid, apply_ite State.mem, hw]

theorem execVote_wf (w s) (hw : Memory.wf s.mem = true) : leavesWf (execVote w s) := by simp [execVote, apply_ite State.mem, hw]

theorem execStepwait_wf (w s) (hw : Memory.wf s.mem = true) : leavesWf (execStepwait w s) := by simp [execStepwait, apply_ite State.mem, hw]

theorem execLosschk_wf (w s) (hw : Memory.wf s.mem = true) : leavesWf (execLosschk w s) := by simp [execLosschk, apply_ite State.mem, hw]

theorem execRqtag_wf (w s) (hw : Memory.wf s.mem = true) : leavesWf (execRqtag w s) := by simp [execRqtag, apply_ite State.mem, hw]

theorem execMcread_wf (w s) (hw : Memory.wf s.mem = true) : leavesWf (execMcread w s) := by simp [execMcread, apply_ite State.mem, hw]

theorem execMcackLog_wf (w s) (hw : Memory.wf s.mem = true) : leavesWf (execMcackLog w s) := by
  simp -implicitDefEqProofs [execMcackLog, hw]

theorem execMcackPoison_wf (w s) (hw : Memory.wf s.mem = true) : leavesWf (execMcackPoison w s) := by simp [execMcackPoison, hw]

theorem execMcackSuspect_wf (w s) (hw : Memory.wf s.mem = true) :
    leavesWf (execMcackSuspect w s) := by simp [execMcackSuspect, apply_ite State.mem, hw]

theorem execTagpurge_wf (w s) (hw : Memory.wf s.mem = true) : leavesWf (execTagpurge w s) := by simp [execTagpurge, apply_ite State.mem, hw]

theorem execScrub_wf (w s) (hw : Memory.wf s.mem = true) : leavesWf (execScrub w s) := by simp [execScrub, apply_ite State.mem, hw]

theorem execVerdef_wf (w s) (hw : Memory.wf s.mem = true) : leavesWf (execVerdef w s) := by
  simp only [execVerdef, leavesWf_next, whenGuard, whenPriv]
  (repeat' split) <;> simp [hw]

theorem execInFieldTest_wf (skein pass s) (hw : Memory.wf s.mem = true) : leavesWf (execInFieldTest skein pass s) := by
  simp -implicitDefEqProofs [execInFieldTest, foldl_mem, apply_ite State.mem, hw]

theorem execContainmentLost_wf (s) (hw : Memory.wf s.mem = true) : leavesWf (execContainmentLost s) := by
  simp -implicitDefEqProofs [execContainmentLost, foldl_mem, apply_ite State.mem, hw]

/-! ### Debug stops, trace and accounting -/

theorem execDebugStopreq_wf (n s) (hw : Memory.wf s.mem = true) :
    leavesWf (execDebugStopreq n s) := by simp [execDebugStopreq, hw]

theorem execDebugResume_wf (n s) (hw : Memory.wf s.mem = true) : leavesWf (execDebugResume n s) := by simp [execDebugResume, hw]

theorem execAllstopRequestReceive_wf (n s) (hw : Memory.wf s.mem = true) :
    leavesWf (execAllstopRequestReceive n s) := by simp [execAllstopRequestReceive, apply_ite State.mem, hw]

theorem execDebugStopped_wf (n s) (hw : Memory.wf s.mem = true) :
    leavesWf (execDebugStopped n s) := by simp [execDebugStopped, apply_ite State.mem, hw]

theorem execScopecntWrite_wf (n v s) (hw : Memory.wf s.mem = true) :
    leavesWf (execScopecntWrite n v s) := by simp [execScopecntWrite, hw]

theorem execScopeadrWrite_wf (n v s) (hw : Memory.wf s.mem = true) :
    leavesWf (execScopeadrWrite n v s) := by simp [execScopeadrWrite, hw]

theorem execBkpt_wf (w s) (hw : Memory.wf s.mem = true) : leavesWf (execBkpt w s) := by simp [execBkpt, apply_ite State.mem, hw]

theorem execTmark_wf (w s) (hw : Memory.wf s.mem = true) : leavesWf (execTmark w s) := by simp [execTmark, hw]

theorem execWhorlsig_wf (w s) (hw : Memory.wf s.mem = true) : leavesWf (execWhorlsig w s) := by simp [execWhorlsig, apply_ite State.mem, hw]

/-! ### Queues of the command processor -/

theorem execNotifyWptrWrite_wf (q v s) (hw : Memory.wf s.mem = true) :
    leavesWf (execNotifyWptrWrite q v s) := by simp [execNotifyWptrWrite, apply_ite State.mem, hw]

theorem execQstsWrite_wf (q v s) (hw : Memory.wf s.mem = true) : leavesWf (execQstsWrite q v s) := by simp [execQstsWrite, apply_ite State.mem, hw]

theorem execQueueDescriptorWrite_wf (q word v s) (hw : Memory.wf s.mem = true) :
    leavesWf (execQueueDescriptorWrite q word v s) := by simp [execQueueDescriptorWrite, apply_ite State.mem, hw]

/-! ### Packets -/

theorem execPacketNop_wf (q k s) (hw : Memory.wf s.mem = true) : leavesWf (execPacketNop q k s) := by simp [execPacketNop, hw]

theorem execLaunch_wf (q k s) (hw : Memory.wf s.mem = true) : leavesWf (execLaunch q k s) := by
  simp -implicitDefEqProofs +contextual [execLaunch, hw]

theorem execSignal_wf (q k s) (hw : Memory.wf s.mem = true) : leavesWf (execSignal q k s) := by
  simp -implicitDefEqProofs +contextual [execSignal, hw]

theorem execWaitsig_wf (q k s) (hw : Memory.wf s.mem = true) : leavesWf (execWaitsig q k s) := by simp [execWaitsig, hw]

theorem execWaitsigReread_wf (q k s) (hw : Memory.wf s.mem = true) :
    leavesWf (execWaitsigReread q k s) := by simp [execWaitsigReread, hw]

theorem execWaitsigTimeout_wf (q k s) (hw : Memory.wf s.mem = true) :
    leavesWf (execWaitsigTimeout q k s) := by simp [execWaitsigTimeout, hw]

theorem execStepopen_wf (q k s) (hw : Memory.wf s.mem = true) : leavesWf (execStepopen q k s) := by
  rw [execStepopen, leavesWf_next]
  refine wf_of_mem_eq (startPkt_mem _ _ _ _ _ fun y t => ?_) hw
  (repeat' split) <;> simp

theorem execAttemptOpen_wf (q s) (hw : Memory.wf s.mem = true) : leavesWf (execAttemptOpen q s) := by
  simp only [execAttemptOpen, leavesWf_next]
  (repeat' split) <;> simp [hw]

theorem execStepclose_wf (q k s) (hw : Memory.wf s.mem = true) : leavesWf (execStepclose q k s) := by
  rw [execStepclose, leavesWf_next]
  refine withPkt_wf _ _ _ _ _ _ (fun y t ht => ?_) hw
  (repeat' split) <;> simp [ht]

/-! ### Task graphs -/

theorem execTaskNode_wf (g n s) (hw : Memory.wf s.mem = true) : leavesWf (execTaskNode g n s) := by
  simp -implicitDefEqProofs +contextual [execTaskNode, hw]

theorem execCondNode_wf (g n s) (hw : Memory.wf s.mem = true) : leavesWf (execCondNode g n s) := by
  simp -implicitDefEqProofs +contextual [execCondNode, hw]

theorem execSwitchNode_wf (g n s) (hw : Memory.wf s.mem = true) : leavesWf (execSwitchNode g n s) := by
  simp -implicitDefEqProofs +contextual [execSwitchNode, hw]

theorem execLoopNode_wf (g n s) (hw : Memory.wf s.mem = true) : leavesWf (execLoopNode g n s) := by
  simp -implicitDefEqProofs +contextual [execLoopNode, hw]

theorem execGraph_wf (q k s) (hw : Memory.wf s.mem = true) : leavesWf (execGraph q k s) := by
  rw [execGraph, leavesWf_next]
  refine wf_of_mem_eq (startPkt_mem _ _ _ _ _ fun y t => ?_) hw
  (repeat' split) <;> simp

/-! ### Scheduling and purges -/

theorem execSchedulingRound_wf (s) (hw : Memory.wf s.mem = true) :
    leavesWf (execSchedulingRound s) := by simp [execSchedulingRound, hw]

theorem execTaskCompletion_wf (t s) (hw : Memory.wf s.mem = true) : leavesWf (execTaskCompletion t s) := by
  simp only [execTaskCompletion, leavesWf_next]
  (repeat' split) <;> simp [hw]

theorem execPreemptSave_wf (t s) (hw : Memory.wf s.mem = true) : leavesWf (execPreemptSave t s) := by
  simp only [execPreemptSave, leavesWf_next]
  (repeat' split) <;> simp [hw]

theorem execResumptionRestoreDone_wf (t s) (hw : Memory.wf s.mem = true) : leavesWf (execResumptionRestoreDone t s) := by
  simp only [execResumptionRestoreDone, leavesWf_next]
  (repeat' split) <;> simp [hw]

theorem execPurgeComplete_wf (part tag s) (hw : Memory.wf s.mem = true) : leavesWf (execPurgeComplete part tag s) := by
  simp only [execPurgeComplete, leavesWf_next]
  (repeat' split) <;> simp [hw]

/-! ### The Whorl -/

theorem execAttachSlotEnable_wf (w slot v s) (hw : Memory.wf s.mem = true) :
    leavesWf (execAttachSlotEnable w slot v s) := by simp [execAttachSlotEnable, apply_ite State.mem, hw]

theorem execAttachSlotDisable_wf (w slot s) (hw : Memory.wf s.mem = true) :
    leavesWf (execAttachSlotDisable w slot s) := by simp [execAttachSlotDisable, apply_ite State.mem, hw]

theorem execIrqstsClear_wf (w v s) (hw : Memory.wf s.mem = true) :
    leavesWf (execIrqstsClear w v s) := by simp [execIrqstsClear, hw]

theorem execTenantBudgetWrite_wf (w p v s) (hw : Memory.wf s.mem = true) :
    leavesWf (execTenantBudgetWrite w p v s) := by simp [execTenantBudgetWrite, apply_ite State.mem, hw]

theorem execBudgetWindowReset_wf (s) (hw : Memory.wf s.mem = true) :
    leavesWf (execBudgetWindowReset s) := by simp [execBudgetWindowReset, apply_ite State.mem, hw]

theorem execWhorlEventOffer_wf (e s) (hw : Memory.wf s.mem = true) :
    leavesWf (execWhorlEventOffer e s) := by simp [execWhorlEventOffer, hw]

theorem execWhorlRunStart_wf (w slot s) (hw : Memory.wf s.mem = true) :
    leavesWf (execWhorlRunStart w slot s) := by simp [execWhorlRunStart, apply_ite State.mem, hw]

theorem execLde_wf (w s) (hw : Memory.wf s.mem = true) : leavesWf (execLde w s) := by simp [execLde, hw]

theorem execLdi_wf (w s) (hw : Memory.wf s.mem = true) : leavesWf (execLdi w s) := by simp [execLdi, hw]

theorem execLdt_wf (w s) (hw : Memory.wf s.mem = true) : leavesWf (execLdt w s) := by simp [execLdt, hw]

theorem execStt_wf (w s) (hw : Memory.wf s.mem = true) : leavesWf (execStt w s) := by simp [execStt, hw]

theorem execWhorlAdd_wf (w s) (hw : Memory.wf s.mem = true) : leavesWf (execWhorlAdd w s) := by simp [execWhorlAdd, hw]

theorem execWhorlAddi_wf (w s) (hw : Memory.wf s.mem = true) : leavesWf (execWhorlAddi w s) := by simp [execWhorlAddi, hw]

theorem execWhorlSub_wf (w s) (hw : Memory.wf s.mem = true) : leavesWf (execWhorlSub w s) := by simp [execWhorlSub, hw]

theorem execWhorlAnd_wf (w s) (hw : Memory.wf s.mem = true) : leavesWf (execWhorlAnd w s) := by simp [execWhorlAnd, hw]

theorem execWhorlOr_wf (w s) (hw : Memory.wf s.mem = true) : leavesWf (execWhorlOr w s) := by simp [execWhorlOr, hw]

theorem execWhorlXor_wf (w s) (hw : Memory.wf s.mem = true) : leavesWf (execWhorlXor w s) := by simp [execWhorlXor, hw]

theorem execWhorlShl_wf (w s) (hw : Memory.wf s.mem = true) : leavesWf (execWhorlShl w s) := by simp [execWhorlShl, hw]

theorem execWhorlShr_wf (w s) (hw : Memory.wf s.mem = true) : leavesWf (execWhorlShr w s) := by simp [execWhorlShr, hw]

theorem execWhorlMin_wf (w s) (hw : Memory.wf s.mem = true) : leavesWf (execWhorlMin w s) := by simp [execWhorlMin, hw]

theorem execWhorlMax_wf (w s) (hw : Memory.wf s.mem = true) : leavesWf (execWhorlMax w s) := by simp [execWhorlMax, hw]

theorem execBeq_wf (w s) (hw : Memory.wf s.mem = true) : leavesWf (execBeq w s) := by simp [execBeq, hw]

theorem execBne_wf (w s) (hw : Memory.wf s.mem = true) : leavesWf (execBne w s) := by simp [execBne, hw]

theorem execBlt_wf (w s) (hw : Memory.wf s.mem = true) : leavesWf (execBlt w s) := by simp [execBlt, hw]

theorem execHbin_wf (w s) (hw : Memory.wf s.mem = true) : leavesWf (execHbin w s) := by simp [execHbin, hw]

theorem execCms_wf (w s) (hw : Memory.wf s.mem = true) : leavesWf (execCms w s) := by
  simp -implicitDefEqProofs [execCms, foldl_mem, hw]

theorem execHll_wf (w s) (hw : Memory.wf s.mem = true) : leavesWf (execHll w s) := by simp [execHll, hw]

theorem execTrig_wf (w s) (hw : Memory.wf s.mem = true) : leavesWf (execTrig w s) := by simp [execTrig, apply_ite State.mem, hw]

theorem execEmit_wf (w s) (hw : Memory.wf s.mem = true) : leavesWf (execEmit w s) := by
  simp -implicitDefEqProofs +contextual [execEmit, hw]

theorem execExit_wf (_w s) (hw : Memory.wf s.mem = true) : leavesWf (execExit _w s) := by
  simp -implicitDefEqProofs [execExit, hw]

/-! ### The device -/

theorem execInvalidateGo_wf (p v s) (hw : Memory.wf s.mem = true) :
    leavesWf (execInvalidateGo p v s) := by simp [execInvalidateGo, apply_ite State.mem, hw]

theorem execInvalidationComplete_wf (p s) (hw : Memory.wf s.mem = true) :
    leavesWf (execInvalidationComplete p s) := by simp [execInvalidationComplete, apply_ite State.mem, hw]

theorem execPartitionEntryWrite_wf (p word v s) (hw : Memory.wf s.mem = true) :
    leavesWf (execPartitionEntryWrite p word v s) := by simp [execPartitionEntryWrite, apply_ite State.mem, hw]

theorem execQueueBindingWrite_wf (q v s) (hw : Memory.wf s.mem = true) :
    leavesWf (execQueueBindingWrite q v s) := by simp [execQueueBindingWrite, apply_ite State.mem, hw]

theorem execStepGroupEntryWrite_wf (e word v s) (hw : Memory.wf s.mem = true) :
    leavesWf (execStepGroupEntryWrite e word v s) := by simp [execStepGroupEntryWrite, apply_ite State.mem, hw]

theorem execObjectWindowSemaphoreStore_wf (fn sp k v s) (hw : Memory.wf s.mem = true) :
    leavesWf (execObjectWindowSemaphoreStore fn sp k v s) := by simp [execObjectWindowSemaphoreStore, apply_ite State.mem, hw]

theorem execObjectWindowSpoolStore_wf (fn sp n half v s) (hw : Memory.wf s.mem = true) :
    leavesWf (execObjectWindowSpoolStore fn sp n half v s) := by simp [execObjectWindowSpoolStore, apply_ite State.mem, hw]

theorem execObjectWindowPhaserStore_wf (fn sp n off v s) (hw : Memory.wf s.mem = true) :
    leavesWf (execObjectWindowPhaserStore fn sp n off v s) := by simp [execObjectWindowPhaserStore, apply_ite State.mem, hw]

theorem execHostMemoryRead_wf (fn addr n s) (hw : Memory.wf s.mem = true) : leavesWf (execHostMemoryRead fn addr n s) := by
  simp only [execHostMemoryRead]
  (repeat' split) <;> simp [hw]

theorem execTimectlWrite_wf (v s) (hw : Memory.wf s.mem = true) :
    leavesWf (execTimectlWrite v s) := by simp [execTimectlWrite, apply_ite State.mem, hw]

theorem execTickDiscipline_wf (add err s) (hw : Memory.wf s.mem = true) : leavesWf (execTickDiscipline add err s) := by
  simp only [execTickDiscipline, leavesWf_next]
  (repeat' split) <;> simp [hw]

theorem execPlimsetWrite_wf (v s) (hw : Memory.wf s.mem = true) :
    leavesWf (execPlimsetWrite v s) := by simp [execPlimsetWrite, apply_ite State.mem, hw]

theorem execIpeakClear_wf (s) (hw : Memory.wf s.mem = true) : leavesWf (execIpeakClear s) := by simp [execIpeakClear, hw]

theorem execPowerThrottle_wf (mhz hold r s) (hw : Memory.wf s.mem = true) :
    leavesWf (execPowerThrottle mhz hold r s) := by simp [execPowerThrottle, hw]

theorem execThermalLimitChange_wf (watts s) (hw : Memory.wf s.mem = true) :
    leavesWf (execThermalLimitChange watts s) := by simp [execThermalLimitChange, hw]

theorem execPowerOnReset_wf (img s) :
    leavesWf (execPowerOnReset img s) := by simp [execPowerOnReset]

theorem execFundamentalReset_wf (img s) :
    leavesWf (execFundamentalReset img s) := by simp [execFundamentalReset]

theorem execPfFunctionLevelReset_wf (img s) :
    leavesWf (execPfFunctionLevelReset img s) := by simp [execPfFunctionLevelReset]

theorem execVfFunctionLevelReset_wf (vf s) (hw : Memory.wf s.mem = true) : leavesWf (execVfFunctionLevelReset vf s) := by
  simp -implicitDefEqProofs [execVfFunctionLevelReset, foldl_mem, apply_ite State.mem, hw]

theorem execHbmTrainingComplete_wf (dies hbm good s) (hw : Memory.wf s.mem = true) :
    leavesWf (execHbmTrainingComplete dies hbm good s) := by simp [execHbmTrainingComplete, apply_ite State.mem, hw]

theorem execServiceFull_wf (s) (hw : Memory.wf s.mem = true) : leavesWf (execServiceFull s) := by simp [execServiceFull, apply_ite State.mem, hw]

theorem execMailboxLoadImage_wf (len s) (hw : Memory.wf s.mem = true) :
    leavesWf (execMailboxLoadImage len s) := by simp [execMailboxLoadImage, apply_ite State.mem, hw]

theorem execMailboxReadKey_wf (die s) (hw : Memory.wf s.mem = true) :
    leavesWf (execMailboxReadKey die s) := by simp [execMailboxReadKey, apply_ite State.mem, hw]

theorem execMailboxAttest_wf (s) (hw : Memory.wf s.mem = true) :
    leavesWf (execMailboxAttest s) := by simp [execMailboxAttest, apply_ite State.mem, hw]

theorem execRegisterWrite_wf (off v s) (hw : Memory.wf s.mem = true) :
    leavesWf (execRegisterWrite off v s) := by simp [execRegisterWrite, hw]

theorem execHostMemoryWrite_wf (fn addr data s) (hw : Memory.wf s.mem = true) : leavesWf (execHostMemoryWrite fn addr data s) := by
  unfold execHostMemoryWrite
  dsimp only
  repeat' split
  · simp [storeSpace_mem, hw]
  · next h => exact (leavesWf_next _).2 (writePa_wf h hw)
  · exact leavesWf_fault _
  · simp [hw]
  · simp [storeSpace_mem, hw]
  · simp [hw]

theorem execQueuePoll_wf (q s) (hw : Memory.wf s.mem = true) : leavesWf (execQueuePoll q s) := by
  simp only [execQueuePoll, leavesWf_next]
  (repeat' split) <;> simp [hw]

theorem execResync_wf (q k s) (hw : Memory.wf s.mem = true) : leavesWf (execResync q k s) := by
  rw [execResync, leavesWf_next]
  exact withPkt_wf _ _ _ _ _ _ (fun y t ht => by simp [ht]) hw

/-! ### Latch-unit words -/

theorem execVdiv_wf (w s) (hw : Memory.wf s.mem = true) : leavesWf (execVdiv w s) := by simp [execVdiv, hw]

theorem execVsqrt_wf (w s) (hw : Memory.wf s.mem = true) : leavesWf (execVsqrt w s) := by simp [execVsqrt, hw]

theorem execVrsqrt_wf (w s) (hw : Memory.wf s.mem = true) : leavesWf (execVrsqrt w s) := by simp [execVrsqrt, hw]

theorem execVrcp_wf (w s) (hw : Memory.wf s.mem = true) : leavesWf (execVrcp w s) := by simp [execVrcp, hw]

theorem execVexp2_wf (w s) (hw : Memory.wf s.mem = true) : leavesWf (execVexp2 w s) := by simp [execVexp2, hw]

theorem execVlog2_wf (w s) (hw : Memory.wf s.mem = true) : leavesWf (execVlog2 w s) := by simp [execVlog2, hw]

theorem execDiv_wf (w s) (hw : Memory.wf s.mem = true) : leavesWf (execDiv w s) := by simp [execDiv, hw]

theorem execRem_wf (w s) (hw : Memory.wf s.mem = true) : leavesWf (execRem w s) := by simp [execRem, hw]

/-! ### What befalls a strand between its groups -/

theorem execFixedLatencyWriteback_wf (n k s) (hw : Memory.wf s.mem = true) : leavesWf (execFixedLatencyWriteback n k s) := by
  simp -implicitDefEqProofs [execFixedLatencyWriteback, foldl_mem, hw]

theorem execLatchDeposit_wf (n k s) (hw : Memory.wf s.mem = true) : leavesWf (execLatchDeposit n k s) := by
  simp -implicitDefEqProofs [execLatchDeposit, foldl_mem, hw]

theorem execIdleCountEnd_wf (n k s) (hw : Memory.wf s.mem = true) :
    leavesWf (execIdleCountEnd n k s) := by simp [execIdleCountEnd, apply_ite State.mem, hw]

theorem execTakeTrap_wf (n k s) (hw : Memory.wf s.mem = true) : leavesWf (execTakeTrap n k s) := by
  simp only [execTakeTrap, leavesWf_next]
  (repeat' split) <;> simp [hw]

theorem execWatchdogExpiry_wf (n s) (hw : Memory.wf s.mem = true) : leavesWf (execWatchdogExpiry n s) := by
  simp only [execWatchdogExpiry, leavesWf_next]
  (repeat' split) <;> simp [hw]

theorem execAtomicReply_wf (n k s) (hw : Memory.wf s.mem = true) : leavesWf (execAtomicReply n k s) := by
  simp only [execAtomicReply, leavesWf_next]
  split
  · exact hw
  · split
    · split
      · simp [hw]
      · split
        · exact hw
        · split
          · split
            · simp [hw]
            · split
              · next h => exact finishAtomic_wf _ _ _ _ _ _ (wf_of_mem_eq (devStore_mem h) hw)
              · simp [hw]
          · split
            · simp [hw]
            · (repeat' split) <;> simp [hw]
    · exact hw

theorem execTickTargetReached_wf (n k s) (hw : Memory.wf s.mem = true) : leavesWf (execTickTargetReached n k s) := by
  have tick : ∀ o c t, execTickw o { s with cur := c } = .next t → Memory.wf t.mem = true :=
    fun o c t => execTickw_wf o { s with cur := c } hw t
  simp only [execTickTargetReached, leavesWf_next]
  split
  · split
    · split
      · split
        · next h =>
          have := tick _ _ _ h
          split <;> simp [this]
        · exact hw
      · exact hw
    · exact hw
  · exact hw

/-! ### The dispatch -/

/-- Every instruction and every event keeps memory canonical. -/
theorem exec_wf (i : Instr) (s) (hw : Memory.wf s.mem = true) : leavesWf (exec i s) :=
  match i with
  | .add w => execAdd_wf w s hw
  | .sub w => execSub_wf w s hw
  | .mul w => execMul_wf w s hw
  | .mulh w => execMulh_wf w s hw
  | .madd w => execMadd_wf w s hw
  | .and w => execAnd_wf w s hw
  | .or w => execOr_wf w s hw
  | .xor w => execXor_wf w s hw
  | .andn w => execAndn_wf w s hw
  | .shl w => execShl_wf w s hw
  | .shr w => execShr_wf w s hw
  | .sra w => execSra_wf w s hw
  | .rotl w => execRotl_wf w s hw
  | .min w => execMin_wf w s hw
  | .max w => execMax_wf w s hw
  | .abs w => execAbs_wf w s hw
  | .neg w => execNeg_wf w s hw
  | .clz w => execClz_wf w s hw
  | .popc w => execPopc_wf w s hw
  | .bfx w => execBfx_wf w s hw
  | .bfi w => execBfi_wf w s hw
  | .cmp w => execCmp_wf w s hw
  | .sel w => execSel_wf w s hw
  | .mov w => execMov_wf w s hw
  | .idx w => execIdx_wf w s hw
  | .li w => execLi_wf w s hw
  | .lih w => execLih_wf w s hw
  | .addi w => execAddi_wf w s hw
  | .muli w => execMuli_wf w s hw
  | .andi w => execAndi_wf w s hw
  | .ori w => execOri_wf w s hw
  | .xori w => execXori_wf w s hw
  | .br w => execBr_wf w s hw
  | .call w => execCall_wf w s hw
  | .calli w => execCalli_wf w s hw
  | .ret w => execRet_wf w s hw
  | .jmpi w => execJmpi_wf w s hw
  | .loop w => execLoop_wf w s hw
  | .loopi w => execLoopi_wf w s hw
  | .movl w => execMovl_wf w s hw
  | .nop w => execNop_wf w s hw
  | .halt w => execHalt_wf w s hw
  | .yield w => execYield_wf w s hw
  | .trap w => execTrap_wf w s hw
  | .eret w => execEret_wf w s hw
  | .mfcr w => execMfcr_wf w s hw
  | .mtcr w => execMtcr_wf w s hw
  | .strstart w => execStrstart_wf w s hw
  | .strwait w => execStrwait_wf w s hw
  | .strid w => execStrid_wf w s hw
  | .setfp w => execSetfp_wf w s hw
  | .ctxsv w => execCtxsv_wf w s hw
  | .ctxld w => execCtxld_wf w s hw
  | .vadd w => execVadd_wf w s hw
  | .vsub w => execVsub_wf w s hw
  | .vmul w => execVmul_wf w s hw
  | .vfma w => execVfma_wf w s hw
  | .vfms w => execVfms_wf w s hw
  | .vfnma w => execVfnma_wf w s hw
  | .vmin w => execVmin_wf w s hw
  | .vmax w => execVmax_wf w s hw
  | .vabs w => execVabs_wf w s hw
  | .vneg w => execVneg_wf w s hw
  | .vscale w => execVscale_wf w s hw
  | .vcmp w => execVcmp_wf w s hw
  | .vclass w => execVclass_wf w s hw
  | .viadd w => execViadd_wf w s hw
  | .visub w => execVisub_wf w s hw
  | .vimul w => execVimul_wf w s hw
  | .vimulh w => execVimulh_wf w s hw
  | .vimadd w => execVimadd_wf w s hw
  | .vimin w => execVimin_wf w s hw
  | .vimax w => execVimax_wf w s hw
  | .viabs w => execViabs_wf w s hw
  | .vand w => execVand_wf w s hw
  | .vor w => execVor_wf w s hw
  | .vxor w => execVxor_wf w s hw
  | .vandn w => execVandn_wf w s hw
  | .vnot w => execVnot_wf w s hw
  | .vshl w => execVshl_wf w s hw
  | .vshr w => execVshr_wf w s hw
  | .vsra w => execVsra_wf w s hw
  | .vrotl w => execVrotl_wf w s hw
  | .vicmp w => execVicmp_wf w s hw
  | .vsel w => execVsel_wf w s hw
  | .vclz w => execVclz_wf w s hw
  | .vpopc w => execVpopc_wf w s hw
  | .vdiv w => execVdiv_wf w s hw
  | .vsqrt w => execVsqrt_wf w s hw
  | .vrsqrt w => execVrsqrt_wf w s hw
  | .vrcp w => execVrcp_wf w s hw
  | .vexp2 w => execVexp2_wf w s hw
  | .vlog2 w => execVlog2_wf w s hw
  | .div w => execDiv_wf w s hw
  | .rem w => execRem_wf w s hw
  | .vcvt w => execVcvt_wf w s hw
  | .vcvtsr w => execVcvtsr_wf w s hw
  | .vpack w => execVpack_wf w s hw
  | .vunpack w => execVunpack_wf w s hw
  | .vbcast w => execVbcast_wf w s hw
  | .vperm w => execVperm_wf w s hw
  | .vshuf w => execVshuf_wf w s hw
  | .vrot w => execVrot_wf w s hw
  | .vcompress w => execVcompress_wf w s hw
  | .vexpand w => execVexpand_wf w s hw
  | .viota w => execViota_wf w s hw
  | .vmovx w => execVmovx_wf w s hw
  | .vmovs w => execVmovs_wf w s hw
  | .vins w => execVins_wf w s hw
  | .vredadd w => execVredadd_wf w s hw
  | .vredmax w => execVredmax_wf w s hw
  | .vredmin w => execVredmin_wf w s hw
  | .vscan w => execVscan_wf w s hw
  | .vrng w => execVrng_wf w s hw
  | .vrngf w => execVrngf_wf w s hw
  | .pand w => execPand_wf w s hw
  | .por w => execPor_wf w s hw
  | .pxor w => execPxor_wf w s hw
  | .pandn w => execPandn_wf w s hw
  | .pnot w => execPnot_wf w s hw
  | .pset w => execPset_wf w s hw
  | .pget w => execPget_wf w s hw
  | .pcnt w => execPcnt_wf w s hw
  | .pfirst w => execPfirst_wf w s hw
  | .pmov w => execPmov_wf w s hw
  | .ld w => execLd_wf w s hw
  | .st w => execSt_wf w s hw
  | .vld w => execVld_wf w s hw
  | .vst w => execVst_wf w s hw
  | .vldx w => execVldx_wf w s hw
  | .vstx w => execVstx_wf w s hw
  | .vlds w => execVlds_wf w s hw
  | .vsts w => execVsts_wf w s hw
  | .sld w => execSld_wf w s hw
  | .sst w => execSst_wf w s hw
  | .cbload w => execCbload_wf w s hw
  | .trans w => execTrans_wf w s hw
  | .hrel w => execHrel_wf w s hw
  | .hchk w => execHchk_wf w s hw
  | .ldblk w => execLdblk_wf w s hw
  | .blkwait w => execBlkwait_wf w s hw
  | .wbblk w => execWbblk_wf w s hw
  | .evblk w => execEvblk_wf w s hw
  | .reschk w => execReschk_wf w s hw
  | .pgreq w => execPgreq_wf w s hw
  | .replay w => execReplay_wf w s hw
  | .semsig w => execSemsig_wf w s hw
  | .semwait w => execSemwait_wf w s hw
  | .semset w => execSemset_wf w s hw
  | .semrd w => execSemrd_wf w s hw
  | .spldef w => execSpldef_wf w s hw
  | .spfillw w => execSpfillw_wf w s hw
  | .spfreew w => execSpfreew_wf w s hw
  | .sppub w => execSppub_wf w s hw
  | .spret w => execSpret_wf w s hw
  | .phreg w => execPhreg_wf w s hw
  | .phdrop w => execPhdrop_wf w s hw
  | .pharr w => execPharr_wf w s hw
  | .phwait w => execPhwait_wf w s hw
  | .pharw w => execPharw_wf w s hw
  | .tickw w => execTickw_wf w s hw
  | .fence w => execFence_wf w s hw
  | .atom w => execAtom_wf w s hw
  | .atomr w => execAtomr_wf w s hw
  | .cas w => execCas_wf w s hw
  | .swap w => execSwap_wf w s hw
  | .mqpush w => execMqpush_wf w s hw
  | .qstatRead w => execQstatRead_wf w s hw
  | .qstatSkip w => execQstatSkip_wf w s hw
  | .qstatFlush w => execQstatFlush_wf w s hw
  | .qstatMxcap w => execQstatMxcap_wf w s hw
  | .qstatClear w => execQstatClear_wf w s hw
  | .cqpush w => execCqpush_wf w s hw
  | .cstage w => execCstage_wf w s hw
  | .cdrain w => execCdrain_wf w s hw
  | .lzdefZone w => execLzdefZone_wf w s hw
  | .lzdefBinding w => execLzdefBinding_wf w s hw
  | .lzres w => execLzres_wf w s hw
  | .lzrel w => execLzrel_wf w s hw
  | .lzwait w => execLzwait_wf w s hw
  | .lzstat w => execLzstat_wf w s hw
  | .bst w => execBst_wf w s hw
  | .batom w => execBatom_wf w s hw
  | .bflush w => execBflush_wf w s hw
  | .bflushall w => execBflushall_wf w s hw
  | .bstat w => execBstat_wf w s hw
  | .xwdef w => execXwdef_wf w s hw
  | .xadd w => execXadd_wf w s hw
  | .xwread w => execXwread_wf w s hw
  | .xwclr w => execXwclr_wf w s hw
  | .lnkstat w => execLnkstat_wf w s hw
  | .stepid w => execStepid_wf w s hw
  | .vote w => execVote_wf w s hw
  | .stepwait w => execStepwait_wf w s hw
  | .losschk w => execLosschk_wf w s hw
  | .rqtag w => execRqtag_wf w s hw
  | .mcread w => execMcread_wf w s hw
  | .mcackLog w => execMcackLog_wf w s hw
  | .mcackPoison w => execMcackPoison_wf w s hw
  | .mcackSuspect w => execMcackSuspect_wf w s hw
  | .tagpurge w => execTagpurge_wf w s hw
  | .scrub w => execScrub_wf w s hw
  | .verdef w => execVerdef_wf w s hw
  | .bkpt w => execBkpt_wf w s hw
  | .tmark w => execTmark_wf w s hw
  | .whorlsig w => execWhorlsig_wf w s hw
  | .fixedLatencyWriteback sp st => execFixedLatencyWriteback_wf sp st s hw
  | .idleCountEnd sp st => execIdleCountEnd_wf sp st s hw
  | .latchDeposit sp st => execLatchDeposit_wf sp st s hw
  | .handleDeposit sp st => execHandleDeposit_wf sp st s hw
  | .takeTrap sp st => execTakeTrap_wf sp st s hw
  | .watchdogExpiry sp => execWatchdogExpiry_wf sp s hw
  | .waitTimeout sp st => execWaitTimeout_wf sp st s hw
  | .loadDataReturn sp st => execLoadDataReturn_wf sp st s hw
  | .storeApply n => execStoreApply_wf n s hw
  | .atomApply n => execAtomApply_wf n s hw
  | .atomicReply sp st => execAtomicReply_wf sp st s hw
  | .blockFillDone sp b => execBlockFillDone_wf sp b s hw
  | .blockWritebackDone sp b => execBlockWritebackDone_wf sp b s hw
  | .blockEvictDone sp b => execBlockEvictDone_wf sp b s hw
  | .phaserGatherReceive m => execPhaserGatherReceive_wf m s hw
  | .phaserReleaseReceive sp lit => execPhaserReleaseReceive_wf sp lit s hw
  | .mma sp => execMma_wf sp s hw
  | .mmaz sp => execMmaz_wf sp s hw
  | .bload sp => execBload_wf sp s hw
  | .accld sp => execAccld_wf sp s hw
  | .accst sp => execAccst_wf sp s hw
  | .mxt sp => execMxt_wf sp s hw
  | .copy sp ch => execCopy_wf sp ch s hw
  | .copyacc sp ch => execCopyacc_wf sp ch s hw
  | .fill sp ch => execFill_wf sp ch s hw
  | .gather sp ch => execGather_wf sp ch s hw
  | .rput sp ch => execRput_wf sp ch s hw
  | .engineRecordComplete sp q => execEngineRecordComplete_wf sp q s hw
  | .subarrayWakeDone sp x => execSubarrayWakeDone_wf sp x s hw
  | .subarrayGate sp x => execSubarrayGate_wf sp x s hw
  | .rputChunkReceive m => execRputChunkReceive_wf m s hw
  | .rputChunkAccept m => execRputChunkAccept_wf m s hw
  | .slotCreditReceive m => execSlotCreditReceive_wf m s hw
  | .cancelNoticeReceive m => execCancelNoticeReceive_wf m s hw
  | .bobbinAgeExpiry die b => execBobbinAgeExpiry_wf die b s hw
  | .bobbinFlitReceive m => execBobbinFlitReceive_wf m s hw
  | .bobbinCompletionReceive m => execBobbinCompletionReceive_wf m s hw
  | .xaddApply die w => execXaddApply_wf die w s hw
  | .portTrained port peerPort es => execPortTrained_wf port peerPort es s hw
  | .portFailure port => execPortFailure_wf port s hw
  | .trainingRetry port => execTrainingRetry_wf port s hw
  | .flitCrcResend port => execFlitCrcResend_wf port s hw
  | .peerEntryExchange port es => execPeerEntryExchange_wf port es s hw
  | .attemptOpen q => execAttemptOpen_wf q s hw
  | .voteDeadline c => execVoteDeadline_wf c s hw
  | .childVoteDeadline c child => execChildVoteDeadline_wf c child s hw
  | .voteReceive m => execVoteReceive_wf m s hw
  | .decisionReceive m => execDecisionReceive_wf m s hw
  | .purgeComplete part tag => execPurgeComplete_wf part tag s hw
  | .scrubberVisit block => execScrubberVisit_wf block s hw
  | .inFieldTest skein pass => execInFieldTest_wf skein pass s hw
  | .containmentLost => execContainmentLost_wf s hw
  | .notifyWptrWrite q v => execNotifyWptrWrite_wf q v s hw
  | .queuePoll q => execQueuePoll_wf q s hw
  | .qstsWrite q v => execQstsWrite_wf q v s hw
  | .queueDescriptorWrite q word v => execQueueDescriptorWrite_wf q word v s hw
  | .packetNop q k => execPacketNop_wf q k s hw
  | .launch q k => execLaunch_wf q k s hw
  | .graph q k => execGraph_wf q k s hw
  | .signal q k => execSignal_wf q k s hw
  | .waitsig q k => execWaitsig_wf q k s hw
  | .waitsigReread q k => execWaitsigReread_wf q k s hw
  | .waitsigTimeout q k => execWaitsigTimeout_wf q k s hw
  | .stepopen q k => execStepopen_wf q k s hw
  | .stepclose q k => execStepclose_wf q k s hw
  | .resync q k => execResync_wf q k s hw
  | .taskNode g n => execTaskNode_wf g n s hw
  | .condNode g n => execCondNode_wf g n s hw
  | .loopNode g n => execLoopNode_wf g n s hw
  | .switchNode g n => execSwitchNode_wf g n s hw
  | .schedulingRound => execSchedulingRound_wf s hw
  | .preemptSave t => execPreemptSave_wf t s hw
  | .taskCompletion t => execTaskCompletion_wf t s hw
  | .hostMemoryRead fn addr n => execHostMemoryRead_wf fn addr n s hw
  | .hostMemoryWrite fn addr data => execHostMemoryWrite_wf fn addr data s hw
  | .objectWindowSemaphoreStore fn sp k v => execObjectWindowSemaphoreStore_wf fn sp k v s hw
  | .objectWindowSpoolStore fn sp n half v => execObjectWindowSpoolStore_wf fn sp n half v s hw
  | .objectWindowPhaserStore fn sp n off v => execObjectWindowPhaserStore_wf fn sp n off v s hw
  | .partitionEntryWrite p word v => execPartitionEntryWrite_wf p word v s hw
  | .invalidateGo p v => execInvalidateGo_wf p v s hw
  | .invalidationComplete p => execInvalidationComplete_wf p s hw
  | .queueBindingWrite q v => execQueueBindingWrite_wf q v s hw
  | .stepGroupEntryWrite e word v => execStepGroupEntryWrite_wf e word v s hw
  | .portEnable port en => execPortEnable_wf port en s hw
  | .portRetrain port => execPortRetrain_wf port s hw
  | .timectlWrite v => execTimectlWrite_wf v s hw
  | .plimsetWrite v => execPlimsetWrite_wf v s hw
  | .ipeakClear => execIpeakClear_wf s hw
  | .powerThrottle mhz hold r => execPowerThrottle_wf mhz hold r s hw
  | .registerWrite off v => execRegisterWrite_wf off v s hw
  | .powerOnReset img => execPowerOnReset_wf img s
  | .fundamentalReset img => execFundamentalReset_wf img s
  | .pfFunctionLevelReset img => execPfFunctionLevelReset_wf img s
  | .vfFunctionLevelReset vf => execVfFunctionLevelReset_wf vf s hw
  | .serviceFull => execServiceFull_wf s hw
  | .mailboxLoadImage len => execMailboxLoadImage_wf len s hw
  | .mailboxReadKey die => execMailboxReadKey_wf die s hw
  | .mailboxAttest => execMailboxAttest_wf s hw
  | .attachSlotEnable w slot v => execAttachSlotEnable_wf w slot v s hw
  | .attachSlotDisable w slot => execAttachSlotDisable_wf w slot s hw
  | .irqstsClear w v => execIrqstsClear_wf w v s hw
  | .tenantBudgetWrite w p v => execTenantBudgetWrite_wf w p v s hw
  | .budgetWindowReset => execBudgetWindowReset_wf s hw
  | .whorlEventOffer e => execWhorlEventOffer_wf e s hw
  | .whorlRunStart w slot => execWhorlRunStart_wf w slot s hw
  | .lde w => execLde_wf w s hw
  | .ldi w => execLdi_wf w s hw
  | .ldt w => execLdt_wf w s hw
  | .stt w => execStt_wf w s hw
  | .whorlAdd w => execWhorlAdd_wf w s hw
  | .whorlAddi w => execWhorlAddi_wf w s hw
  | .whorlSub w => execWhorlSub_wf w s hw
  | .whorlAnd w => execWhorlAnd_wf w s hw
  | .whorlOr w => execWhorlOr_wf w s hw
  | .whorlXor w => execWhorlXor_wf w s hw
  | .whorlShl w => execWhorlShl_wf w s hw
  | .whorlShr w => execWhorlShr_wf w s hw
  | .whorlMin w => execWhorlMin_wf w s hw
  | .whorlMax w => execWhorlMax_wf w s hw
  | .beq w => execBeq_wf w s hw
  | .bne w => execBne_wf w s hw
  | .blt w => execBlt_wf w s hw
  | .hbin w => execHbin_wf w s hw
  | .cms w => execCms_wf w s hw
  | .hll w => execHll_wf w s hw
  | .trig w => execTrig_wf w s hw
  | .emit w => execEmit_wf w s hw
  | .exit w => execExit_wf w s hw
  | .debugStopreq sp => execDebugStopreq_wf sp s hw
  | .debugResume sp => execDebugResume_wf sp s hw
  | .debugStopped sp => execDebugStopped_wf sp s hw
  | .allstopRequestReceive sp => execAllstopRequestReceive_wf sp s hw
  | .scopecntWrite sp v => execScopecntWrite_wf sp v s hw
  | .scopeadrWrite sp v => execScopeadrWrite_wf sp v s hw
  | .tickTargetReached sp st => execTickTargetReached_wf sp st s hw
  | .linkLoss port => execLinkLoss_wf port s hw
  | .tickDiscipline add err => execTickDiscipline_wf add err s hw
  | .thermalLimitChange watts => execThermalLimitChange_wf watts s hw
  | .voteResend n => execVoteResend_wf n s hw
  | .cancelNoticeResend n => execCancelNoticeResend_wf n s hw
  | .resumptionRestoreDone t => execResumptionRestoreDone_wf t s hw
  | .copyReadReturn sp ch => execCopyReadReturn_wf sp ch s hw
  | .hbmTrainingComplete dies hbm good => execHbmTrainingComplete_wf dies hbm good s hw

/-! ## A step of the machine -/

/-! ### Issue -/

theorem thenDo_wf {o : Host.Outcome State Fault Refusal} {k} (ho : leavesWf o) (hk : ∀ t, Memory.wf t.mem = true → leavesWf (k t)) :
    leavesWf (thenDo o k) := by
  cases o with
  | next t => exact hk t (ho t rfl)
  | fault f => exact leavesWf_fault f
  | refused r => exact leavesWf_refused r

@[simp] theorem pairEnd_wf (s0 s) (h0 : Memory.wf s0.mem = true) (hw : Memory.wf s.mem = true) : Memory.wf (pairEnd s0 s).mem = true := by
  simp only [pairEnd]
  (repeat' split) <;> simp [h0, hw]

theorem runSolo_wf (i s) (hw : Memory.wf s.mem = true) : leavesWf (runSolo i s) :=
  thenDo_wf (exec_wf i s hw) fun t ht => by simp [ht]

theorem runPair_wf (i j s) (hw : Memory.wf s.mem = true) : leavesWf (runPair i j s) := by
  refine thenDo_wf (exec_wf i s hw) fun a ha => ?_
  split
  · simp [ha, hw]
  · exact thenDo_wf (exec_wf j _ ha) fun b hb => by simp [hb, hw]

theorem issueGroup_wf (n k s) (hw : Memory.wf s.mem = true) : leavesWf (issueGroup n k s) := by
  have focus : ∀ c, Memory.wf ({ s with cur := c } : State).mem = true := fun _ => hw
  have out : ∀ t, Memory.wf t.mem = true → leavesWf (.next (afterIssue n k (strandAt s n k) t)) := fun t ht => by simp [ht]
  unfold issueGroup
  dsimp only
  split
  · simp [hw]
  · exact out _ (by simp [hw])
  · split
    · exact out _ (by simp [hw])
    · split
      · exact out _ (by simp [hw])
      · split
        · exact thenDo_wf (runSolo_wf _ _ (focus _)) out
        · exact thenDo_wf (runPair_wf _ _ _ (focus _)) out

@[simp] theorem rerunWord_wf (n k s) (hw : Memory.wf s.mem = true) : Memory.wf (rerunWord n k s).mem = true := by
  have solo := fun i c t => runSolo_wf i { s with cur := c } hw t
  unfold rerunWord
  split
  · split
    · split
      · next h => exact noteGroup_wf _ _ (by simpa using solo _ _ _ h)
      · exact hw
    · exact hw
  · exact hw

/-! ### Moves -/

/-- Every outcome that a move may take keeps memory canonical. -/
def movesWf (x : Option (Host.Outcome State Fault Refusal)) : Prop := ∀ o ∈ x, leavesWf o

@[simp] theorem movesWf_none : movesWf none := by simp [movesWf]
@[simp] theorem movesWf_some (o) : movesWf (some o) ↔ leavesWf o := by simp [movesWf]

theorem movesWf_or {x y} (hx : movesWf x) (hy : movesWf y) : movesWf (x.or y) := by
  cases x with
  | none => exact hy
  | some o => exact hx

theorem movesWf_findSome {α : Type} {f : α → Option (Host.Outcome State Fault Refusal)} (hf : ∀ a, movesWf (f a)) (l : List α) :
    movesWf (l.findSome? f) := fun o ho => by
  obtain ⟨a, _, ha⟩ := List.exists_of_findSome?_eq_some ho
  exact hf a o ha

theorem movesWf_bind {α : Type} {f : α → Option (Host.Outcome State Fault Refusal)} (hf : ∀ a, movesWf (f a)) (x : Option α) :
    movesWf (x.bind f) := by
  cases x with
  | none => exact movesWf_none
  | some a => exact hf a

/-- An event of the machine as a move. -/
theorem event_wf (i : Instr) {s : State} (hw : Memory.wf s.mem = true) : movesWf (some (exec i s)) := (movesWf_some _).2 (exec_wf i s hw)

theorem changes_wf {s : State} {o} (ho : leavesWf o) : movesWf (changes s o) := by
  unfold changes
  split
  · split
    · exact movesWf_none
    · exact (movesWf_some _).2 ho
  · exact (movesWf_some _).2 ho

/-- An event as a move that is taken where it changes the state. -/
theorem changing_wf (i : Instr) {s : State} (hw : Memory.wf s.mem = true) : movesWf (changes s (exec i s)) := changes_wf (exec_wf i s hw)

section
variable {s : State} (hw : Memory.wf s.mem = true)
include hw

theorem replyMove_wf (held n k) : movesWf (replyMove held s n k) := by
  unfold replyMove
  split
  · exact changing_wf (.atomicReply n k) hw
  · exact movesWf_none

theorem strandMove_wf (held n k) : movesWf (strandMove held s n k) := by
  unfold strandMove
  dsimp only
  repeat' split
  · exact event_wf (.handleDeposit n k) hw
  · exact event_wf (.fixedLatencyWriteback n k) hw
  · exact event_wf (.latchDeposit n k) hw
  · exact event_wf (.idleCountEnd n k) hw
  · exact event_wf (.takeTrap n k) hw
  · exact event_wf (.loadDataReturn n k) hw
  · exact replyMove_wf hw held n k

theorem queueMove_wf (n q) : movesWf (queueMove s n q) := by
  unfold queueMove
  split
  · exact event_wf (.engineRecordComplete n q) hw
  · exact movesWf_none

theorem headIssue_wf (n q r) : leavesWf (headIssue s n q r) := by
  unfold headIssue
  split
  · exact exec_wf (.mma n) s hw
  · exact exec_wf (.mmaz n) s hw
  · exact exec_wf (.bload n) s hw
  · exact exec_wf (.accld n) s hw
  · exact exec_wf (.accst n) s hw
  · exact exec_wf (.mxt n) s hw
  · exact exec_wf (.copy n (q - 1)) s hw
  · exact exec_wf (.copyacc n (q - 1)) s hw
  · exact exec_wf (.fill n (q - 1)) s hw
  · exact exec_wf (.gather n (q - 1)) s hw
  · exact exec_wf (.rput n (q - 1)) s hw

theorem bankTurn_wf (held n q) : movesWf (bankTurn held s n q) := by
  have issue : ∀ r, movesWf (changes s (headIssue s n q r)) := fun r => changes_wf (headIssue_wf hw n q r)
  have back : movesWf (changes s (execCopyReadReturn n (q - 1) s)) := changing_wf (.copyReadReturn n (q - 1)) hw
  unfold bankTurn
  dsimp only
  split
  · exact movesWf_none
  · split
    · exact movesWf_none
    · split
      · simp [hw]
      · split
        · exact movesWf_none
        · split
          · exact issue _
          · split
            · split
              · exact movesWf_none
              · split
                · next h => simpa using back _ h
                · exact back
            · split
              · next h =>
                have := issue _ _ h
                rw [leavesWf_next] at this
                rw [movesWf_some, leavesWf_next, updSpindle_mem]
                split <;> split
                exacts [hw, this, hw, this]
              · exact issue _

theorem engineMove_wf (held) : movesWf (engineMove held s) := by
  unfold engineMove
  exact movesWf_findSome (fun _ => movesWf_findSome (fun q => bankTurn_wf hw held _ q) _) _

theorem blockMove_wf (n b) : movesWf (blockMove s n b) := by
  unfold blockMove
  split
  · exact event_wf (.blockFillDone n b) hw
  · exact event_wf (.blockWritebackDone n b) hw
  · exact event_wf (.blockEvictDone n b) hw
  · exact movesWf_none

theorem spindleMove_wf (held n) : movesWf (spindleMove held s n) := by
  unfold spindleMove
  dsimp only
  repeat' split
  · exact event_wf (.watchdogExpiry n) hw
  · exact event_wf (.allstopRequestReceive n) hw
  · exact event_wf (.subarrayWakeDone n _) hw
  · exact event_wf (.subarrayGate n _) hw
  · exact event_wf (.phaserReleaseReceive n _) hw
  · exact changing_wf (.debugStopped n) hw
  · exact movesWf_none

theorem spindleMoves_wf (held n) : movesWf (spindleMoves held s n) := by
  refine movesWf_or (movesWf_findSome (strandMove_wf hw held n) _) (movesWf_or (movesWf_or (spindleMove_wf hw held n)
    (movesWf_findSome (queueMove_wf hw n) _)) ?_)
  split
  · exact movesWf_none
  · exact movesWf_findSome (fun _ => blockMove_wf hw n _) _

theorem postedMove_wf (held) : movesWf (postedMove held s) := by
  unfold postedMove
  refine movesWf_findSome (fun i => movesWf_bind (fun w => ?_) _) _
  split
  · split
    · exact event_wf (.atomApply i) hw
    · exact event_wf (.storeApply i) hw
  · exact movesWf_none

theorem addendMove_wf (held) : movesWf (addendMove held s) := by
  unfold addendMove
  refine movesWf_findSome (fun x => movesWf_bind (fun w => ?_) _) _
  split
  · exact event_wf (.xaddApply (x.1 / 64) (x.1 % 64)) hw
  · exact movesWf_none

theorem invalMove_wf (held) : movesWf (invalMove held s) := by
  unfold invalMove
  rw [Option.map_eq_bind]
  exact movesWf_bind (fun i => by simp [hw]) _

theorem memoryMove_wf (held) : movesWf (memoryMove held s) :=
  movesWf_or (movesWf_or (postedMove_wf hw held) (addendMove_wf hw held)) (invalMove_wf hw held)

theorem netMove_wf (m) : movesWf (netMove s m) := by
  unfold netMove
  repeat' split
  · exact changing_wf (.rputChunkReceive _) hw
  · exact movesWf_none
  · exact changing_wf (.rputChunkAccept _) hw
  · exact movesWf_none
  · exact changing_wf (.slotCreditReceive _) hw
  · exact movesWf_none
  · exact changing_wf (.cancelNoticeReceive _) hw
  · exact movesWf_none
  · exact changing_wf (.decisionReceive _) hw
  · exact movesWf_none
  · exact movesWf_none

theorem fabricMove_wf (held) : movesWf (fabricMove held s) := by
  unfold fabricMove
  split
  · exact event_wf (.bobbinAgeExpiry _ _) hw
  · split
    · exact movesWf_none
    · exact movesWf_findSome (netMove_wf hw) _

theorem portMove_wf (i x) : movesWf (portMove s i x) := by
  unfold portMove
  repeat' split
  · exact event_wf (.portFailure i) hw
  · exact event_wf (.trainingRetry i) hw
  · exact movesWf_none

theorem ctxMove_wf (c) : movesWf (ctxMove s c) := by
  unfold ctxMove
  dsimp only
  repeat' split
  · exact movesWf_none
  · exact changing_wf (.voteDeadline c) hw
  · exact movesWf_findSome (fun k => changing_wf (.childVoteDeadline c k) hw) _
  · exact movesWf_none

theorem packetMove_wf (q y) : movesWf (packetMove s q y) := by
  unfold packetMove
  split
  · exact changing_wf (.packetNop q y.idx) hw
  · exact changing_wf (.launch q y.idx) hw
  · exact changing_wf (.graph q y.idx) hw
  · exact changing_wf (.signal q y.idx) hw
  · split
    · exact movesWf_or (changing_wf (.waitsigReread q y.idx) hw) (changing_wf (.waitsigTimeout q y.idx) hw)
    · exact changing_wf (.waitsig q y.idx) hw
  · refine movesWf_or (changing_wf (.stepopen q y.idx) hw) ?_
    split
    · exact changing_wf (.attemptOpen q) hw
    · exact movesWf_none
  · exact changing_wf (.stepclose q y.idx) hw
  · exact changing_wf (.resync q y.idx) hw
  · exact movesWf_none

theorem cmdqMove_wf (q x) : movesWf (cmdqMove s q x) := by
  refine movesWf_or (movesWf_findSome (packetMove_wf hw q) _) ?_
  split
  · exact changing_wf (.queuePoll q) hw
  · exact movesWf_none

theorem nodeMove_wf (i g n) : movesWf (nodeMove s i g n) := by
  unfold nodeMove
  split
  · exact changing_wf (.taskNode i n) hw
  · exact changing_wf (.condNode i n) hw
  · exact changing_wf (.loopNode i n) hw
  · exact changing_wf (.switchNode i n) hw
  · exact movesWf_none

theorem graphMove_wf (i g) : movesWf (graphMove s i g) := by
  unfold graphMove
  exact movesWf_findSome (nodeMove_wf hw i g) _

theorem taskMove_wf (t x) : movesWf (taskMove s t x) := by
  unfold taskMove
  split
  · exact movesWf_none
  · split
    · split
      · simp [hw]
      · exact changing_wf (.taskCompletion t) hw
    · exact movesWf_or (changing_wf (.taskCompletion t) hw) (changing_wf (.preemptSave t) hw)
    · exact changing_wf (.resumptionRestoreDone t) hw
    · exact movesWf_none

theorem scrubMove_wf : movesWf (scrubMove s) := by
  unfold scrubMove
  refine movesWf_findSome (fun x => movesWf_bind (fun y => movesWf_bind (fun c => ?_) _) _) _
  split
  · exact movesWf_none
  · exact movesWf_bind (fun b : Nat × VMeta => changing_wf (.scrubberVisit b.1) hw) _

theorem commandMove_wf : movesWf (commandMove s) := by
  unfold commandMove
  refine movesWf_or (movesWf_or (movesWf_findSome (fun x => ?_) _) (movesWf_findSome (fun _ => movesWf_bind (taskMove_wf hw _) _) _))
    (movesWf_or (movesWf_findSome (fun _ => cmdqMove_wf hw _ _) _)
      (movesWf_or (movesWf_findSome (fun _ => movesWf_bind (graphMove_wf hw _) _) _)
        (movesWf_or ?_ (scrubMove_wf hw))))
  · split
    · exact event_wf (.purgeComplete x.1 x.2) hw
    · exact movesWf_none
  · repeat' split
    · exact event_wf .serviceFull hw
    · exact event_wf .schedulingRound hw
    · exact movesWf_none

theorem openMove_wf : movesWf (openMove s) := by
  unfold openMove
  refine movesWf_or (commandMove_wf hw) (movesWf_findSome (fun x => ?_) _)
  split
  · exact changing_wf (.invalidationComplete x.1) hw
  · exact movesWf_none

theorem nextMove_wf (held) : movesWf (nextMove held s) := by
  unfold nextMove
  refine movesWf_or (movesWf_findSome (fun _ => spindleMoves_wf hw held _) _)
    (movesWf_or (movesWf_or (fabricMove_wf hw held) (memoryMove_wf hw held))
      (movesWf_or (movesWf_or (movesWf_findSome (fun _ => portMove_wf hw _ _) _) (movesWf_findSome (fun _ => ctxMove_wf hw _) _)) ?_))
  split
  · exact movesWf_none
  · exact openMove_wf hw

theorem runWord_wf (d pc) : leavesWf (runWord s d pc) := by
  unfold runWord
  dsimp only
  split
  · exact exec_wf _ _ hw
  · exact exec_wf (.exit ⟨0, 0, 0, 0⟩) _ hw

theorem whorlMove_wf (d w) : movesWf (whorlMove s d w) := by
  unfold whorlMove
  split
  · split
    · exact (movesWf_some _).2 (runWord_wf hw d _)
    · exact movesWf_none
  · split
    · rw [Option.map_eq_bind]
      exact movesWf_bind (fun i => event_wf (.whorlRunStart d i) hw) _
    · exact movesWf_none

theorem whorlMoves_wf : movesWf (whorlMoves s) := by
  unfold whorlMoves
  exact movesWf_findSome (fun _ => whorlMove_wf hw _ _) _

end

/-! ### The end of a cycle -/

@[simp] theorem serveStrand_wf (n k s) (hw : Memory.wf s.mem = true) : Memory.wf (serveStrand n k s).mem = true := by
  unfold serveStrand
  dsimp only
  split <;> simp [hw]

@[simp] theorem endSpindle_wf (n s) (hw : Memory.wf s.mem = true) : Memory.wf (endSpindle n s).mem = true := by
  unfold endSpindle
  simp only [updSpindle_mem]
  have parked := foldl_wf (fun t q ht => enterParked_wf n q t ht) [1, 2, 3, 4] (s := serveQueues n s) (by simp [hw])
  have served := foldl_wf (fun t k ht => serveStrand_wf n k t ht) (upto 4) parked
  exact foldl_wf (fun t k ht => by simp [ht]) (upto 4) (by simpa using served)

@[simp] theorem whorlTick_wf (k s) (hw : Memory.wf s.mem = true) : Memory.wf (whorlTick k s).mem = true := by
  induction k generalizing s with
  | zero => exact hw
  | succ k ih =>
    unfold whorlTick
    split
    · next h => exact ih _ ((leavesWf_next _).1 (whorlMoves_wf hw _ h))
    · exact hw

@[simp] theorem passTicks_wf (k s) (hw : Memory.wf s.mem = true) : Memory.wf (passTicks k s).mem = true := by
  induction k generalizing s with
  | zero => exact hw
  | succ k ih =>
    unfold passTicks
    dsimp only
    split <;> simp [ih, hw]

@[simp] theorem advance_wf (s) (hw : Memory.wf s.mem = true) : Memory.wf (advance s).mem = true := by
  simp only [advance]
  split <;> exact passTicks_wf _ _ hw

@[simp] theorem endCycle_wf (s) (hw : Memory.wf s.mem = true) : Memory.wf (endCycle s).mem = true := by
  unfold endCycle
  refine advance_wf _ ?_
  rw [strike_mem]
  exact foldl_wf (fun t n ht => endSpindle_wf n t ht) _ hw

/-! ### The step -/

theorem ownMove_wf (held s) (hw : Memory.wf s.mem = true) : leavesWf (ownMove held s) := by
  unfold ownMove
  split
  · next h => exact nextMove_wf hw held _ h
  · split
    · exact issueGroup_wf _ _ s hw
    · split
      · next h => exact movesWf_or (engineMove_wf hw held) (whorlMoves_wf hw) _ h
      · simp [hw]

/-- Telling the Whorls of a group leaves the focus as it is; so does all that a vote can come to. -/
@[simp] theorem tapGroup_cur (t g a b c s) : (tapGroup t g a b c s).cur = s.cur := by
  obtain ⟨w, r, h⟩ := tapGroup_shape t g a b c s
  rw [h]

@[simp] theorem sendTree_cur (grp dst m s) : (sendTree grp dst m s).cur = s.cur := by
  simp only [sendTree]
  (repeat' split) <;> rfl

@[simp] theorem sendDecision_cur (m s) : (sendDecision m s).cur = s.cur :=
  List.foldlRecOn (motive := fun t : State => t.cur = s.cur) _ _ rfl fun t ht k _ => by simp [ht]

@[simp] theorem rootDecide_cur (c v s) : (rootDecide c v s).cur = s.cur := by
  simp [rootDecide]

@[simp] theorem weighVotes_cur (c s) : (weighVotes c s).cur = s.cur := by
  simp only [weighVotes]
  (repeat' split) <;> simp

@[simp] theorem castVote_cur (c s) : (castVote c s).cur = s.cur := by
  simp only [castVote]
  split <;> simp

theorem castEarly_cur (s) : (castEarly s).cur = s.cur :=
  List.foldlRecOn (motive := fun t : State => t.cur = s.cur) _ _ rfl fun t ht c _ => by split <;> simp [ht]

/-- An outcome that keeps memory canonical leaves a sound state behind. -/
theorem atRest_sound {o t} (h : atRest o = .next t) (ho : leavesWf o) : t.sound := by
  cases o with
  | next s =>
    rw [atRest, Host.Outcome.next.injEq] at h
    subst h
    exact ⟨(congrArg _ (castEarly_mem _)).trans ((leavesWf_next s).1 ho), castEarly_cur _⟩
  | fault f => simp [atRest] at h
  | refused r => simp [atRest] at h

/-- Settles O48: whatever a step does goes through `exec` or a move of the machine's own, and both keep memory canonical; the
focus is cleared at the end of the step. -/
theorem stepKeepsSound : Obligations.StepKeepsSound := by
  rintro s t ⟨hw, -⟩ h
  unfold step at h
  split at h
  · exact atRest_sound h (exec_wf _ _ hw)
  · exact atRest_sound h (ownMove_wf _ _ hw)
  · exact atRest_sound h (ownMove_wf _ _ hw)
  · exact atRest_sound h (ownMove_wf _ _ hw)

/-- Settles O49: nothing is listed in memory, and nothing is in focus. -/
theorem resetSound : Obligations.ResetSound := ⟨reset_mem_wf, rfl⟩

end Sys2Proof.Machine

namespace Sys2Proof.Machine

/-! ## The events of a strand, when they are due -/

theorem updStrand_congr (n k : Nat) (f g : Strand → Strand) (s : State) (h : f (strandAt s n k) = g (strandAt s n k)) :
    updStrand n k f s = updStrand n k g s := by
  simp only [updStrand, updSpindle, updStrandOf]
  exact congrArg (fun st => setSpindle n { spindleAt s n with strands := SMap.set .start (spindleAt s n).strands k st } s) h

/-- Two folds agree where their steps agree at what an invariant keeps. -/
theorem foldl_congr_keeping {α β} (P : β → Prop) (f g : β → α → β) :
    ∀ (l : List α) (b : β), (∀ x ∈ l, ∀ b, P b → f b x = g b x) → (∀ x ∈ l, ∀ b, P b → P (g b x)) → P b → l.foldl f b = l.foldl g b
  | [], _, _, _, _ => rfl
  | x :: xs, b, hfg, hg, hb => by
    rw [List.foldl_cons, List.foldl_cons, hfg x (.head _) b hb]
    exact foldl_congr_keeping P f g xs (g b x) (fun y hy => hfg y (.tail _ hy)) (fun y hy => hg y (.tail _ hy)) (hg x (.head _) b hb)

/-- A landing that brings neither corruption nor a trap writes its target, its flags and its residency flags only. -/
theorem landOne_quiet (n k : Nat) (g : Landing) (s : State) (hs : g.shadow = none) (hm : g.target ≠ .met) (ht : ∀ t, g.target ≠ .trap t) :
    landOne n k g s = updStrand n k (fun st => { orFlagsIn s.cycle g.flags (writeTarget g.target st) with resid := st.resid ||| g.resid }) s := by
  unfold landOne
  rw [hs]
  cases hg : g.target with
  | met => exact absurd hg hm
  | trap t => exact absurd hg (ht t)
  | _ => rfl

/-- The landings that are due, where none brings corruption or a trap (R86). -/
theorem execFixedLatencyWriteback_quiet (n k : Nat) (s : State)
    (h : ∀ g ∈ (strandAt s n k).landings, g.shadow = none ∧ g.target ≠ .met ∧ ∀ t, g.target ≠ .trap t) :
    execFixedLatencyWriteback n k s =
      .next ((byDue ((strandAt s n k).landings.filter fun g => decide (g.due ≤ s.cycle))).foldl (fun t g => updStrand n k (fun st =>
        { orFlagsIn s.cycle g.flags (writeTarget g.target st) with resid := st.resid ||| g.resid }) t)
        (updStrand n k (fun st => { st with landings := st.landings.filter fun g => !decide (g.due ≤ s.cycle) }) s)) := by
  refine congrArg Host.Outcome.next (foldl_congr_keeping (fun t => t.cycle = s.cycle) _ _ _ _ ?_ (fun _ _ _ hc => ?_) rfl)
  · intro g hg t hc
    obtain ⟨hs, hm, ht⟩ := h g (List.mem_filter.mp (byDue_mem g _ hg)).1
    rw [landOne_quiet n k g t hs hm ht, hc]
  · exact hc

/-- The deposits that are due, where none brings corruption (R88). -/
theorem execLatchDeposit_quiet (n k : Nat) (s : State) (h : ∀ d ∈ (strandAt s n k).deposits, d.shadow = none) :
    execLatchDeposit n k s =
      .next (((strandAt s n k).deposits.filter fun d => decide (d.due ≤ s.cycle)).foldl (fun t d => updStrand n k (fun st =>
        orFlagsIn s.cycle d.flags (depositLatch d st)) t)
        (updStrand n k (fun st => { st with deposits := st.deposits.filter fun d => !decide (d.due ≤ s.cycle) }) s)) := by
  refine congrArg Host.Outcome.next (foldl_congr_keeping (fun t => t.cycle = s.cycle) _ _ _ _ ?_ (fun _ _ _ hc => ?_) rfl)
  · intro d hd t hc
    simp only [depositOne, h d (List.mem_filter.mp hd).1, hc]
  · exact hc

/-- The only handle deposit of a strand, due and not killed, writes its register and its address (R178). -/
theorem execHandleDeposit_one (n k : Nat) (s : State) (d : HandleDep) (h : (strandAt s n k).handles = [d]) (hd : d.due ≤ s.cycle)
    (hk : d.killed = false) : execHandleDeposit n k s = .next (updStrand n k (fun st =>
      { st with handles := [], hreg := SMap.set 0 st.hreg d.h d.value, hpa := SMap.set 0 st.hpa d.h d.pa }) s) := by
  refine congrArg Host.Outcome.next (updStrand_congr n k _ _ s ?_)
  simp [h, hd, hk, setH]

theorem execIdleCountEnd_over (n k : Nat) (s : State) (h : idleOver s.cycle (strandAt s n k) = true) :
    execIdleCountEnd n k s = .next (updStrand n k (fun st => { st with hold := .none }) s) := by
  rw [execIdleCountEnd, if_pos h]

theorem execTakeTrap_due (n k : Nat) (s : State) (r : TrapReq) (hr : (strandAt s n k).trap = some r)
    (hd : trapDue (spindleAt s n).stopping (strandAt s n k) = true) :
    execTakeTrap n k s = .next (enterTrap n k r (strandAt s n k).trapAt s) := by
  simp only [execTakeTrap, hr, hd, if_true]

/-- The lowest strand of a spindle that runs. -/
theorem find_lowest_running (n k : Nat) (s : State) (hk : k < 4) (hr : (strandAt s n k).run = .running)
    (hl : ∀ j, j < k → (strandAt s n j).run ≠ .running) : ((upto 4).find? fun j => (strandAt s n j).run = .running) = some k := by
  rw [upto, List.find?_range_eq_some]
  exact ⟨by simpa using hr, List.mem_range.mpr hk, fun j hj => by simpa using hl j hj⟩

theorem execWatchdogExpiry_lowest (n k : Nat) (s : State) (hd : (spindleAt s n).wdDue = true) (hk : k < 4)
    (hr : (strandAt s n k).run = .running) (hl : ∀ j, j < k → (strandAt s n j).run ≠ .running) :
    execWatchdogExpiry n s = .next (deliverTrap n k 0x12 0 0 none (updSpindle n (fun p => { p with wdDue := false, wdArmed := false }) s)) := by
  simp only [execWatchdogExpiry, hd, if_true, find_lowest_running n k s hk hr hl]

/-- The limit of a wait that nothing holds raises TIMEOUT (R203). -/
theorem execWaitTimeout_over (n k : Nat) (s : State) (x : WaitSt) (hw : (strandAt s n k).wait = some x) (ht : (strandAt s n k).trap = none)
    (hl : x.limit ≠ 0) (ho : x.since + 2 ^ x.limit ≤ s.tick) (hp : (spindleAt s n).waited = true) (hs : (spindleAt s n).stopping = false)
    (hd : (spindleAt s n).dbg.state = 0) (hg : purging s (spindleAt s n).part (strandAt s n k).tag = false) :
    execWaitTimeout n k s =
      .next (raise 0x0D (x.code * 2 ^ 24 + x.obj * 2 ^ 16) 0 (updStrand n k (fun st => { st with wait := none, arrived := false })
        { s with cur := focusOn n k (strandAt s n k).pc (addr57 ((strandAt s n k).pc + 8)) })) := by
  simp only [execWaitTimeout, hw, waitOver, hl, ho, hp, hs, hd, ht, hg, det, ne_eq, not_false_eq_true, not_true_eq_false, decide_true,
    decide_false, Bool.and_self, Bool.not_true, Bool.or_self, Option.isSome_none, Bool.false_eq_true, if_false]

theorem execWaitTimeout_trap (n k : Nat) (s : State) (x : WaitSt) (r : TrapReq) (hw : (strandAt s n k).wait = some x)
    (ht : (strandAt s n k).trap = some r) : execWaitTimeout n k s = .next s := by
  simp [execWaitTimeout, hw, ht]

/-- A TICKW that waits takes its word's action once the tick is there. -/
theorem execTickw_met (w : O3) (s : State) (x : WaitSt) (hw : (me s).wait = some x) (hx : x.target ≤ s.tick)
    (hd : (mySpindle s).det = true → w.dst.isS = false) : execTickw w s =
      .next (landS0 w.dst (BitVec.ofNat 64 s.tick) (updMe (fun st => { st with wait := none, arrived := false }) s)) := by
  have hn : ((mySpindle s).det && w.dst.isS) = false := by
    cases h : (mySpindle s).det with
    | false => rfl
    | true => exact hd h
  rw [execTickw, whenGuard_resuming w.g w.gn s _ x hw, if_neg (by rw [hn]; exact Bool.false_ne_true)]
  simp only [waitWord, hw, hx, decide_true, if_true, updMe_tick]

@[simp] theorem landS0_cur (d : Dst) (x : Word) (s : State) : (landS0 d x s).cur = s.cur := by
  unfold landS0
  split <;> rfl

/-- The tick that a TICKW awaits completes its word (R221). -/
theorem execTickTargetReached_met (n k : Nat) (s : State) (x : WaitSt) (w : Nat) (o : O3) (hw : (strandAt s n k).wait = some x) (hc : x.code = 4)
    (hx : x.target ≤ s.tick) (hf : fetchWord s n k (strandAt s n k).pc = .word w) (ho : decodeWord w = .ok (.tickw o))
    (hd : (spindleAt s n).det = true → o.dst.isS = false) : execTickTargetReached n k s =
      .next (noteGroup (strandAt s n k) (completeGroup (updSpindle n (fun p => { p with met := k :: p.met })
        (landS0 o.dst (BitVec.ofNat 64 s.tick) (updStrand n k (fun st => { st with wait := none, arrived := false })
          { s with cur := focusOn n k (strandAt s n k).pc (addr57 ((strandAt s n k).pc + 8)) }))))) := by
  have ht := execTickw_met o { s with cur := focusOn n k (strandAt s n k).pc (addr57 ((strandAt s n k).pc + 8)) } x hw hx hd
  simp only [execTickTargetReached, hw, hf, hc, hx, ho, ht, and_self, if_true]
  exact congrArg Host.Outcome.next (if_neg (by rw [landS0_cur]; exact Bool.false_ne_true))

/-- Settles O30: one lemma for each event of a strand, above. -/
theorem strandEvents : Obligations.StrandEvents := by
  intro n k s st upd
  refine ⟨execFixedLatencyWriteback_quiet n k s, execLatchDeposit_quiet n k s, execHandleDeposit_one n k s, ?_, ?_, execTakeTrap_due n k s,
    execWatchdogExpiry_lowest n k s, execWaitTimeout_over n k s, execWaitTimeout_trap n k s, ?_⟩
  · intro hh hr
    refine execIdleCountEnd_over n k s ?_
    rw [idleOver, hh]
    exact decide_eq_true hr
  · intro others stop hh ho
    refine execIdleCountEnd_over n k s ?_
    rw [idleOver, hh]
    simpa using ho
  · exact fun x w o hw hc hx hf ho hd => execTickTargetReached_met n k s x w o hw hc hx hf ho hd

end Sys2Proof.Machine

namespace Sys2Proof.Machine

/-! ## Debug: the words of class 0x24, stop requests, the stop and the scope words -/

theorem whenGuard_of_guard0 (g gn) (k : State → State) (s : State) (h : guard0 s g gn = true) : whenGuard g gn k s = k s := by
  rw [whenGuard, h, Bool.true_or, if_pos rfl]

@[simp] theorem updDebug_dbg (n : Nat) (f : Debug → Debug) (s : State) : (spindleAt (updDebug n f s) n).dbg = f (spindleAt s n).dbg := by
  simp [updDebug]

/-! ### Stop requests (R390) -/

theorem stopRequest_busy (n code bcode : Nat) (s : State) (h : (spindleAt s n).dbg.state ≠ 0) : stopRequest n code bcode s = s := by
  rw [stopRequest, if_pos h]

theorem stopRequest_own (n code bcode : Nat) (s : State) (h : (spindleAt s n).dbg.state = 0) (ha : (spindleAt s n).dbg.allstop = false) :
    stopRequest n code bcode s = updDebug n (fun d => { d with state := 1, scode := code, bcode := bcode }) s := by
  simp only [stopRequest, h, ha, ne_eq, not_true_eq_false, Bool.false_eq_true, if_false]

/-- Under ALLSTOP the request goes to the other spindles of the task. -/
theorem stopRequest_all (n code bcode : Nat) (s : State) (h : (spindleAt s n).dbg.state = 0) (ha : (spindleAt s n).dbg.allstop = true) :
    stopRequest n code bcode s = (siblings s n).foldl (fun t m => updDebug m (fun d => { d with stopIn := true }) t)
      (updDebug n (fun d => { d with state := 1, scode := code, bcode := bcode }) s) := by
  simp only [stopRequest, h, ha, ne_eq, not_true_eq_false, if_false, if_true]

theorem resumeSpindle_stopped (n : Nat) (s : State) (h : (spindleAt s n).dbg.state ≠ 0) :
    resumeSpindle n s = updSpindle n (fun p => (upto 4).foldl (fun p k => updStrandOf k (fun st => { st with atStop := false }) p)
      { p with dbg := { p.dbg with state := 0 } }) s := by
  rw [resumeSpindle, if_neg h]

theorem execAllstopRequestReceive_in (n : Nat) (s : State) (h : (spindleAt s n).dbg.stopIn = true) :
    execAllstopRequestReceive n s = .next (stopRequest n 4 0 (updDebug n (fun d => { d with stopIn := false }) s)) := by
  rw [execAllstopRequestReceive, if_pos h]

/-- A spindle all of whose agents are at their stop points stops (R391). -/
theorem execDebugStopped_all (n : Nat) (s : State) (h : (spindleAt s n).dbg.state = 1)
    (hk : ∀ k, k < 4 → strandStopped (strandOf (spindleAt s n) k) = true)
    (hq : ∀ q, q < 5 → queueStopped s.cycle (queueAt (spindleAt s n) q) = true) :
    execDebugStopped n s = .next (updDebug n (fun d => { d with state := 2 }) s) := by
  rw [execDebugStopped, if_pos ⟨h, by simpa [upto] using hk, by simpa [upto] using hq⟩]

theorem writeScopeadr_zero (n : Nat) (s : State) :
    writeScopeadr n 0 s = updDebug n (fun d => { d with scopeadr := (softWrite (raceKey 1 n) (spindleAt s n).dbg.scopeadr 0 s).1 })
      (softWrite (raceKey 1 n) (spindleAt s n).dbg.scopeadr 0 s).2 := by
  simp only [writeScopeadr, ne_eq, not_true_eq_false, if_false]

theorem writeScopeadr_other (n : Nat) (v : Word) (s : State) (h : v ≠ 0) : writeScopeadr n v s = s := by
  rw [writeScopeadr, if_pos h]

/-! ### Class 0x24 (R397 to R399) -/

theorem execBkpt_on (w : O3) (s : State) (h : guard0 s w.g w.gn = true) (hb : (mySpindle s).dbg.bken = true) :
    execBkpt w s = .next (stopRequest s.cur.spn 2 w.a.litVal s) := by
  rw [execBkpt, whenGuard_of_guard0 w.g w.gn _ s h, if_pos hb]

theorem execBkpt_off (w : O3) (s : State) (h : guard0 s w.g w.gn = true) (hb : (mySpindle s).dbg.bken = false) :
    execBkpt w s = .next s := by
  rw [execBkpt, whenGuard_of_guard0 w.g w.gn _ s h, hb, if_neg Bool.false_ne_true]

theorem execTmark_on (w : O3) (s : State) (h : guard0 s w.g w.gn = true) :
    execTmark w s = .next (tap 0x0A s.cur.spn s.cur.strand (me s).tag (BitVec.ofNat 64 (srcNum s w.a 8)) (srcZero s w.b) 0 s) := by
  rw [execTmark, whenGuard_of_guard0 w.g w.gn _ s h]

theorem execWhorlsig_takes (w : O3) (s : State) (h : guard0 s w.g w.gn = true) (hd : (mySpindle s).det = true → (me s).privm = true) :
    execWhorlsig w s = .next (landS 1 w.dst (mySpindle s).whorlSig 0 (updMySpindle (fun p => { p with whorlSig := 0 }) s)) := by
  rw [execWhorlsig, whenGuard_of_guard0 w.g w.gn _ s h, if_neg]
  intro hn
  obtain ⟨hdet, hp⟩ := Bool.and_eq_true_iff.mp hn
  simp [hd hdet] at hp

theorem execWhorlsig_nondet (w : O3) (s : State) (h : guard0 s w.g w.gn = true) (hd : (mySpindle s).det = true) (hp : (me s).privm = false) :
    execWhorlsig w s = .next (raiseNondet 0x1A 0 s) := by
  rw [execWhorlsig, whenGuard_of_guard0 w.g w.gn _ s h, hd, hp]
  rfl

/-- Settles O27: each clause is a lemma above. -/
theorem debugWordResults : Obligations.DebugWordResults := by
  refine ⟨fun w s hg => ⟨fun hb => ?_, fun hb => ?_, execTmark_on w s hg, execWhorlsig_takes w s hg, execWhorlsig_nondet w s hg⟩,
    fun n v s => ⟨fun h ha => ?_, fun h ha => ?_, fun h => ?_, fun h => ?_, execDebugStopped_all n s, fun hi h => ⟨fun ha => ?_, fun ha => ?_⟩,
      rfl, fun hv => ?_, fun hv => ?_⟩⟩
  · exact execBkpt_on w s hg ((bitOf_eq_getLsbD _ _).trans hb)
  · exact execBkpt_off w s hg ((bitOf_eq_getLsbD _ _).trans hb)
  · exact congrArg Host.Outcome.next (stopRequest_own n 1 0 s h ha)
  · exact congrArg Host.Outcome.next (stopRequest_all n 1 0 s h ha)
  · exact congrArg Host.Outcome.next (stopRequest_busy n 1 0 s h)
  · exact congrArg Host.Outcome.next (resumeSpindle_stopped n s h)
  · refine (execAllstopRequestReceive_in n s hi).trans (congrArg Host.Outcome.next (stopRequest_own n 4 0 _ ?_ ?_))
    · rwa [updDebug_dbg]
    · rwa [updDebug_dbg]
  · refine (execAllstopRequestReceive_in n s hi).trans (congrArg Host.Outcome.next (stopRequest_all n 4 0 _ ?_ ?_))
    · rwa [updDebug_dbg]
    · rwa [updDebug_dbg]
  · subst hv
    exact congrArg Host.Outcome.next (writeScopeadr_zero n s)
  · exact congrArg Host.Outcome.next (writeScopeadr_other n v s hv)

end Sys2Proof.Machine

namespace Sys2Proof.Machine

/-! ## The device: entries, bindings, the clock, power, start and service -/

/-! ### Partition entries (R403, R405) -/

theorem execPartitionEntryWrite_of_eq {p i : Nat} {v : Word} {s t : State} (hp : p < 64) (h : writeEntry p i v s = t) :
    execPartitionEntryWrite p i v s = .next t := by
  rw [execPartitionEntryWrite, if_pos hp, h]

theorem writeEntry_locked (p i : Nat) (v : Word) (s : State) (hi : i ∈ [1, 2, 3, 5, 8, 9, 13, 14]) (hl : partLocked s p = true) :
    writeEntry p i v s = s := by
  fin_cases hi <;> simp [writeEntry, lockedWord, hl]

theorem writeEntry_unlocked (p i : Nat) (v : Word) (s : State) (hi : i ∈ [1, 2, 3, 5, 8, 9, 13, 14]) (hl : partLocked s p = false) :
    writeEntry p i v s = setEntry p i (v.toNat &&& entryMask i) s := by
  fin_cases hi <;> simp [writeEntry, hl]

/-- VA words that no lock protects. -/
theorem writeEntry_free (p i : Nat) (v : Word) (s : State) (hi : i = 4 ∨ i = 6) :
    writeEntry p i v s = setEntry p i (v.toNat &&& entryMask i) s := by
  rcases hi with rfl | rfl <;> simp [writeEntry, lockedWord]

theorem writeEntry_seven (p : Nat) (v : Word) (s : State) :
    writeEntry p 7 v s = setEntry p 7 (partWord s p 7 / 2 ^ 32 * 2 ^ 32 + v.toNat % 2 ^ 32) s := by
  simp [writeEntry, lockedWord]

/-- INVN keeps its value while an invalidation is under way. -/
theorem writeEntry_eleven (p : Nat) (v : Word) (s : State) :
    writeEntry p 11 v s = if (partAt s p).go then s else setEntry p 11 (v.toNat &&& 0xFFFF_FFFF) s := by
  simp [writeEntry, lockedWord, entryMask, nth]

theorem writeEntry_readOnly (p i : Nat) (v : Word) (s : State) (hi : i = 12 ∨ 14 < i) : writeEntry p i v s = s := by
  have h0 : i ≠ 0 := by omega
  have h10 : i ≠ 10 := by omega
  rw [writeEntry, if_neg h0, if_neg h10, if_pos (hi.elim .inl fun h => .inr (.inl h))]

theorem execInvalidateGo_of_eq {p : Nat} {v : Word} {s t : State} (hp : p < 64) (h : writeGo p v s = t) :
    execInvalidateGo p v s = .next t := by
  rw [execInvalidateGo, if_pos hp, h]

theorem writeGo_busy (p : Nat) (v : Word) (s : State) (hg : (partAt s p).go = true) : writeGo p v s = s := by
  rw [writeGo, if_pos hg]

/-- GO with a range that is not empty drops the handles of the range and runs until what is under way is over. -/
theorem writeGo_starts (p : Nat) (v : Word) (s : State) (hg : (partAt s p).go = false) (hv : v.getLsbD 63 = true)
    (hn : bits (partWord (setEntry p 10 (v.toNat &&& entryMask 10) s) p 11) 0 32 ≠ 0) :
    writeGo p v s =
      let t := setEntry p 10 (v.toNat &&& entryMask 10) s
      clearHandles p (invLo t p) (invHi t p) { t with parts := SMap.modify .start t.parts p fun x => { x with go := true } } := by
  have h : ¬ ((!v.getLsbD 63) = true ∨ bits (partWord (setEntry p 10 (v.toNat &&& entryMask 10) s) p 11) 0 32 = 0) := by
    simp [hv, hn]
  rw [writeGo, hg, if_neg Bool.false_ne_true]
  exact if_neg h

theorem execInvalidationComplete_over (p : Nat) (s : State) (hg : (partAt s p).go = true) (hi : invalidated s p = true) :
    execInvalidationComplete p s = .next { s with parts := SMap.modify .start s.parts p fun x => { x with go := false } } := by
  rw [execInvalidationComplete, if_pos ⟨hg, hi⟩]

/-! ### Queue bindings and step groups (R402, R406) -/

theorem execQueueBindingWrite_of_eq {q : Nat} {b : BitVec 16} {s t : State} (hq : q < 1024) (h : bindQueue q b s = t) :
    execQueueBindingWrite q b s = .next t := by
  rw [execQueueBindingWrite, if_pos hq, h]

theorem bindQueue_enabled (q : Nat) (b : BitVec 16) (s : State) (he : (cmdqAt s q).d0.getLsbD 0 = true) : bindQueue q b s = s := by
  rw [bindQueue, if_pos he]

/-- The masks of a binding keep the function's number. -/
theorem bits_function_and (b : BitVec 16) (m : BitVec 16) (hm : ∀ i, i < 7 → m.getLsbD (8 + i) = true) :
    bits (b &&& m).toNat 8 7 = bits b.toNat 8 7 := by
  refine Nat.eq_of_testBit_eq fun i => ?_
  simp only [bits, Nat.testBit_mod_two_pow, Nat.testBit_div_two_pow, BitVec.testBit_toNat, BitVec.getLsbD_and]
  by_cases hi : i < 7
  · simp [hi, Nat.add_comm i 8, hm i hi]
  · simp [hi]

theorem bindingWord_eq (s : State) (b : BitVec 16) : bindingWord s b =
    if bits b.toNat 8 7 = 0 ∨ (bits b.toNat 8 7 ≤ 96 ∧ vfPart s (bits b.toNat 8 7) = b.toNat % 64) then b &&& 0xFF3F else b &&& 0x7F3F := by
  simp [bindingWord]

/-- PRIVQ stays where the binding takes effect for function 0. -/
theorem bindingWord_own (s : State) (b : BitVec 16) :
    ((bindingWord s b).getLsbD 15 && decide (bits (bindingWord s b).toNat 8 7 = 0)) = (decide (bits b.toNat 8 7 = 0) && b.getLsbD 15) := by
  rw [bindingWord_eq]
  split
  · rw [bits_function_and b _ (by decide), BitVec.getLsbD_and, show (0xFF3F : BitVec 16).getLsbD 15 = true from rfl, Bool.and_true, Bool.and_comm]
  next hn =>
    have h0 : ¬ bits b.toNat 8 7 = 0 := fun h => hn (.inl h)
    rw [bits_function_and b _ (by decide), decide_eq_false h0, Bool.and_false, Bool.false_and]

theorem bindQueue_disabled (q : Nat) (b : BitVec 16) (s : State) (he : (cmdqAt s q).d0.getLsbD 0 = false) :
    bindQueue q b s = updCmdq q (fun x => { x with
      bind := if bits b.toNat 8 7 = 0 ∨ (bits b.toNat 8 7 ≤ 96 ∧ vfPart s (bits b.toNat 8 7) = b.toNat % 64) then b &&& 0xFF3F else b &&& 0x7F3F
      d0 := if bits b.toNat 8 7 = 0 ∧ b.getLsbD 15 = true then x.d0 else x.d0 &&& ~~~(4 : Word) }) s := by
  rw [bindQueue, he, if_neg Bool.false_ne_true]
  simp only [bindingWord_own]
  simp only [bindingWord_eq, Bool.and_eq_true, decide_eq_true_eq]

theorem execStepGroupEntryWrite_of_eq {e i : Nat} {v : Word} {s t : State} (he : e < 16) (hi : i < 8) (h : writeGroup e i v s = t) :
    execStepGroupEntryWrite e i v s = .next t := by
  rw [execStepGroupEntryWrite, if_pos ⟨he, hi⟩, h]

theorem writeGroup_locked (e i : Nat) (v : Word) (s : State) (hl : groupLocked s e = true) : writeGroup e i v s = s := by
  rw [writeGroup, if_pos hl]

theorem writeGroup_other (e i : Nat) (v : Word) (s : State) (hl : groupLocked s e = false) (hi : i ≠ 0) :
    writeGroup e i v s =
      { s with groups := SMap.modify [] s.groups e fun x => SMap.set 0 x i (BitVec.ofNat 64 (v.toNat &&& groupMask i)) } := by
  simp only [writeGroup, hl, hi, Bool.false_eq_true, if_false, false_and]

/-- Word 0 of an entry that is not legal is written without its valid bit. -/
theorem writeGroup_zero (e : Nat) (v : Word) (s : State) (hl : groupLocked s e = false) :
    writeGroup e 0 v s = { s with groups := SMap.modify [] s.groups e fun x => SMap.set 0 x 0 (BitVec.ofNat 64
      (if bitOf (v.toNat &&& groupMask 0) 63 = true ∧ groupLegal s e (v.toNat &&& groupMask 0) = false
        then (v.toNat &&& groupMask 0) % 2 ^ 63 else v.toNat &&& groupMask 0)) } := by
  simp only [writeGroup, hl, Bool.false_eq_true, if_false, true_and, Bool.not_eq_true']

/-! ### Fields that software and hardware both write (R5) -/

theorem raceAt_of_none (s : State) (key : Nat) (old : Word) (h : SMap.get none s.races key = none) : raceAt s key old = ⟨0, old⟩ := by
  rw [raceAt, h]; rfl

theorem softWrite_alone (key : Nat) (old new : Word) (s : State) (h : SMap.get none s.races key = none) :
    (softWrite key old new s).1 = new := by
  simp only [softWrite, raceAt_of_none s key old h, BitVec.ofNat_eq_ofNat, BitVec.not_zero, BitVec.and_allOnes, BitVec.and_zero, BitVec.or_zero]

theorem hardSees_alone (key : Nat) (mask old : Word) (s : State) (h : SMap.get none s.races key = none) : hardSees s key mask old = old := by
  simp only [hardSees, raceAt_of_none s key old h, BitVec.ofNat_eq_ofNat, BitVec.not_zero, BitVec.and_allOnes]
  ext i hi
  cases hm : mask[i] <;> simp [hm]

theorem hardWrite_alone (key : Nat) (mask old : Word) (f : Word → Word) (s : State) (h : SMap.get none s.races key = none) :
    (hardWrite key mask old f s).1 = (f old &&& mask) ||| (old &&& ~~~mask) := by
  rw [hardWrite, hardSees_alone key mask old s h]

/-- What hardware has updated in the cycle stays against software's write. -/
theorem softWrite_hardWrite (key : Nat) (mask old new : Word) (f : Word → Word) (s : State) (h : SMap.get none s.races key = none) :
    (softWrite key (hardWrite key mask old f s).1 new (hardWrite key mask old f s).2).1 = (new &&& ~~~mask) ||| (f old &&& mask) := by
  have hr : (raceAt (hardWrite key mask old f s).2 key (hardWrite key mask old f s).1).hw = mask := by
    simp [raceAt, hardWrite, h]
  rw [softWrite, hr, hardWrite_alone key mask old f s h]
  ext i hi
  cases hm : mask[i] <;> simp [hm]

/-! ### The clock and power (R12, R409, R416, R417) -/

/-- A change of clock keeps the part of a tick that has passed. -/
theorem setClock_keeps (m : Nat) (s : State) (hm : 0 < m) (hd : 0 < s.den) :
    (setClock m s).mhz = m ∧ 0 < (setClock m s).den ∧ (setClock m s).den % m = 0 ∧ (setClock m s).frac * s.den = s.frac * (setClock m s).den := by
  obtain ⟨a, ha⟩ := Nat.gcd_dvd_right s.frac.natAbs s.den
  obtain ⟨b, hb⟩ : (Nat.gcd s.frac.natAbs s.den : Int) ∣ s.frac := Int.natCast_dvd.mpr (Nat.gcd_dvd_left _ _)
  have hg : 0 < Nat.gcd s.frac.natAbs s.den := Nat.gcd_pos_of_pos_right _ hd
  have hq : s.den / Nat.gcd s.frac.natAbs s.den = a := Nat.div_eq_of_eq_mul_right hg ha
  have ha0 : 0 < a := Nat.pos_of_ne_zero fun h => by simp [h] at ha; omega
  obtain ⟨c, hc⟩ := Nat.dvd_lcm_left a m
  refine ⟨rfl, ?_, ?_, ?_⟩
  · simpa only [setClock, hq] using Nat.lcm_pos ha0 hm
  · simpa only [setClock, hq] using Nat.mod_eq_zero_of_dvd (Nat.dvd_lcm_right a m)
  · have hf : s.frac / (Nat.gcd s.frac.natAbs s.den : Int) = b := Int.ediv_eq_of_eq_mul_right (by omega) hb
    have hk : a * c / a = c := Nat.mul_div_cancel_left c ha0
    simp only [setClock, hq, hf, hc, hk]
    calc b * (c : Int) * (s.den : Int) = b * c * ((Nat.gcd s.frac.natAbs s.den * a : Nat) : Int) := by rw [← ha]
      _ = (Nat.gcd s.frac.natAbs s.den : Int) * b * ((a * c : Nat) : Int) := by push_cast; ring
      _ = s.frac * ((a * c : Nat) : Int) := by rw [← hb]

theorem execTickDiscipline_off (add : Option Bool) (err : Nat) (s : State) (h : s.dev.timectl = 0) : execTickDiscipline add err s = .next s := by
  simp only [execTickDiscipline, h, if_true]

theorem execTickDiscipline_none (add : Option Bool) (err : Nat) (s : State) (h : s.dev.timectl ≠ 0)
    (ha : add = none ∨ ∃ x, s.dev.lastCorr = some x ∧ s.tick < x + 10000) :
    execTickDiscipline add err s = .next (updDev (fun d => { d with lock := decide (err < 200) }) s) := by
  rcases ha with rfl | ⟨x, hx, hl⟩
  · simp only [execTickDiscipline, h, if_false, ite_self]
  · simp only [execTickDiscipline, h, hx, Option.any_some, hl, decide_true, if_true, if_false]

/-- An increment is added or withheld where the last correction is 10,000 ticks back. -/
theorem execTickDiscipline_some (b : Bool) (err : Nat) (s : State) (h : s.dev.timectl ≠ 0)
    (hl : ∀ x, s.dev.lastCorr = some x → x + 10000 ≤ s.tick) :
    let u := updDev (fun d => { d with lastCorr := some s.tick }) (updDev (fun d => { d with lock := decide (err < 200) }) s)
    execTickDiscipline (some b) err s = .next (if b then oneTick u else { u with frac := s.frac - s.den }) := by
  have hn : (s.dev.lastCorr.any fun t => decide (s.tick < t + 10000)) = false := by
    cases hc : s.dev.lastCorr with
    | none => rfl
    | some x => simpa using hl x hc
  simp only [execTickDiscipline, h, hn, Bool.false_eq_true, if_false]
  cases b <;> rfl

/-! ### Resets (R410) -/

theorem descWord_and_one (x : CmdQ) (v : Word) : (descWord x (v &&& ~~~(1 : Word))).getLsbD 0 = false := by
  simp only [descWord]
  (repeat' split) <;> simp

/-- A descriptor written without EN stops its queue. -/
theorem writeDesc_disable (x : CmdQ) (v : Word) :
    writeDesc 0 (v &&& ~~~(1 : Word)) x = { x with d0 := descWord x (v &&& ~~~(1 : Word)), state := 0 } := by
  simp only [writeDesc, descWord_and_one, Nat.zero_ne_one, if_false, Bool.false_and, Bool.false_eq_true]

theorem execVfFunctionLevelReset_on (vf : Nat) (s : State) (h : vf ≠ 0) :
    execVfFunctionLevelReset vf s =
      .next (((s.queues.filter fun x => x.2.bind.getLsbD 15 && decide (bits x.2.bind.toNat 8 7 = vf)).map (·.1)).foldl (fun s q =>
        updCmdq q (fun y => { y with d0 := descWord y (y.d0 &&& ~~~(1 : Word)), state := 0 }) s) s) := by
  simp only [execVfFunctionLevelReset, h, if_false, List.foldl_map, writeDesc_disable]

/-! ### Start and service (R411, R412) -/

theorem setStage_of_ne (a b : Nat) (s : State) (h : s.dev.stage ≠ a ∨ s.dev.svc ≠ b) :
    setStage a b s = { s with dev := { s.dev with stage := a, svc := b, msix := s.dev.msix ++ [(0, 0)] } } := by
  rw [setStage, if_neg (by tauto)]
  rfl

theorem failStart_of_ne (r : Nat) (s : State) (h : s.dev.stage ≠ 15) :
    failStart r s = { s with dev := { s.dev with fail := r, stage := 15, svc := svcAfter s.dev 0, msix := s.dev.msix ++ [(0, 0)] } } :=
  setStage_of_ne _ _ _ (.inl h)

theorem execServiceFull_idle (s : State) (h4 : s.dev.stage = 4) (h1 : s.dev.svc = 1) (hp : ∀ p, p < 64 → nres s p = 0) :
    execServiceFull s = .next (fullSpeed { s with dev := { s.dev with stage := 4, svc := 2, msix := s.dev.msix ++ [(0, 0)] } }) := by
  have hall : ((upto 64).all fun p => decide (nres s p = 0)) = true := by simpa [upto] using hp
  rw [execServiceFull, if_pos ⟨h4, h1, hall⟩, setStage_of_ne 4 2 s (.inr (by omega))]

theorem execHbmTrainingComplete_dies (dies : BitVec 4) (hbm : BitVec 12) (s : State) (h : s.dev.stage = 1)
    (hok : dies &&& s.dev.devcap.truncate 4 ≠ 0) :
    execHbmTrainingComplete dies hbm true s = .next (fullSpeed { s with dev := { s.dev with
      dieok := dies &&& s.dev.devcap.truncate 4, hbmok := hbm, stage := 2, svc := svcAfter s.dev 1, msix := s.dev.msix ++ [(0, 0)] } }) := by
  rw [execHbmTrainingComplete, if_pos h, if_pos ⟨rfl, hok⟩]
  refine congrArg (fun t => Host.Outcome.next (fullSpeed t)) (setStage_of_ne _ _ _ (.inl ?_))
  show s.dev.stage ≠ 2
  omega

/-- Without a good die, bring-up fails (reason 4). -/
theorem execHbmTrainingComplete_noDie (dies : BitVec 4) (hbm : BitVec 12) (good : Bool) (s : State) (h : s.dev.stage = 1)
    (hbad : good = false ∨ dies &&& s.dev.devcap.truncate 4 = 0) : execHbmTrainingComplete dies hbm good s =
      .next { s with dev := { s.dev with fail := 4, stage := 15, svc := svcAfter s.dev 0, msix := s.dev.msix ++ [(0, 0)] } } := by
  have hn : ¬ (good = true ∧ dies &&& s.dev.devcap.truncate 4 ≠ 0) := fun ⟨hg, hok⟩ => hbad.elim (by simp [hg]) hok
  rw [execHbmTrainingComplete, if_pos h, if_neg hn, failStart_of_ne 4 s (by omega)]

/-- HBM training goes on by one stage where it is good, and fails (reason 5) where it is not. -/
theorem execHbmTrainingComplete_later (dies : BitVec 4) (hbm : BitVec 12) (good : Bool) (s : State) (h : s.dev.stage = 2 ∨ s.dev.stage = 3) :
    execHbmTrainingComplete dies hbm good s = .next (if good
      then { s with dev := { s.dev with dieok := dies &&& s.dev.devcap.truncate 4, hbmok := hbm, stage := s.dev.stage + 1, svc := svcAfter s.dev 1,
                                        msix := s.dev.msix ++ [(0, 0)] } }
      else { s with dev := { s.dev with fail := 5, stage := 15, svc := svcAfter s.dev 0, msix := s.dev.msix ++ [(0, 0)] } }) := by
  have h1 : s.dev.stage ≠ 1 := by omega
  rw [execHbmTrainingComplete, if_neg h1, if_pos h, failStart_of_ne 5 s (by omega)]
  refine congrArg (fun t => Host.Outcome.next (if good then t else _)) (setStage_of_ne _ _ _ (.inl ?_))
  exact Nat.ne_of_lt (Nat.lt_succ_self s.dev.stage)

/-! ### The mailbox (R414, R415) -/

theorem execMailboxLoadImage_stage0 (n : Nat) (s : State) (h : s.dev.mboxSts ≠ 1) (h0 : s.dev.stage = 0) :
    execMailboxLoadImage n s = .next (checkImage (SMap.getList 0 s.dev.mbox 0 n) (mboxDone [] s)) := by
  rw [execMailboxLoadImage, if_neg h, mailboxLoad, if_pos h0]

theorem execMailboxLoadImage_later (n : Nat) (s : State) (h : s.dev.mboxSts ≠ 1) (h0 : s.dev.stage ≠ 0) :
    execMailboxLoadImage n s = .next (mboxRefuse s) := by
  rw [execMailboxLoadImage, if_neg h, mailboxLoad, if_neg h0]

theorem execMailboxReadKey_free (n : Nat) (s : State) (h : s.dev.mboxSts ≠ 1) :
    execMailboxReadKey n s = .next (mboxDone (dieKey (n % 4)) s) := by
  rw [execMailboxReadKey, if_neg h]

theorem execMailboxAttest_free (s : State) (h : s.dev.mboxSts ≠ 1) :
    execMailboxAttest s = .next (mboxDone (reportBody s ++ (upto 1280).map (Config.signByte (digest (reportBody s)))) s) := by
  rw [execMailboxAttest, if_neg h]

/-! ### The statement -/

/-- Settles O42: each clause is a lemma above, or holds by the definition of its event. -/
theorem deviceRegisters : Obligations.DeviceRegisters := by
  constructor
  · intro p i q e fn mhz now core peak err v b add hold s dev entry
    refine ⟨fun hp hi => ⟨fun hl => execPartitionEntryWrite_of_eq hp (writeEntry_locked p i v s hi hl),
        fun hl => execPartitionEntryWrite_of_eq hp (writeEntry_unlocked p i v s hi hl)⟩,
      fun hp hi => ?_,
      fun hp hi => execPartitionEntryWrite_of_eq hp (writeEntry_free p i v s hi),
      fun hp hi => ?_, fun hp hi => ?_,
      fun hp hi => execPartitionEntryWrite_of_eq hp (writeEntry_readOnly p i v s hi),
      fun hp hg => execInvalidateGo_of_eq hp (writeGo_busy p v s hg),
      fun hp hg hv hn => execInvalidateGo_of_eq hp (writeGo_starts p v s hg hv hn),
      execInvalidationComplete_over p s,
      fun hq he => execQueueBindingWrite_of_eq hq (bindQueue_enabled q b s he),
      fun hq he hf => ?_,
      fun he hi => ⟨fun hl => execStepGroupEntryWrite_of_eq he hi (writeGroup_locked e i v s hl),
        fun hl h0 => execStepGroupEntryWrite_of_eq he hi (writeGroup_other e i v s hl h0),
        fun hl _ => execStepGroupEntryWrite_of_eq he (by omega) (writeGroup_zero e v s hl)⟩,
      rfl, rfl, rfl,
      fun key old new h => softWrite_alone key old new s h,
      fun key mask old new f h => ⟨hardWrite_alone key mask old f s h, softWrite_hardWrite key mask old new f s h⟩,
      fun m hm hd => setClock_keeps m s hm hd,
      rfl, rfl,
      ⟨execTickDiscipline_off add err s, execTickDiscipline_none add err s,
        fun h hl => ⟨execTickDiscipline_some true err s h hl, execTickDiscipline_some false err s h hl⟩⟩,
      rfl, rfl⟩
    · subst hi
      exact execPartitionEntryWrite_of_eq hp rfl
    · subst hi
      exact execPartitionEntryWrite_of_eq hp (writeEntry_seven p v s)
    · subst hi
      exact execPartitionEntryWrite_of_eq hp (writeEntry_eleven p v s)
    · subst hf
      exact execQueueBindingWrite_of_eq hq (bindQueue_disabled q b s he)
  · intro img dies hbm n vf s cold rom ok stage up some1 none0 run out
    have hrom : restart img s = rom := by cases img <;> rfl
    exact ⟨congrArg Host.Outcome.next hrom, congrArg Host.Outcome.next hrom, congrArg Host.Outcome.next hrom,
      execVfFunctionLevelReset_on vf s,
      execHbmTrainingComplete_dies dies hbm s,
      fun h => execHbmTrainingComplete_noDie dies hbm false s h (.inl rfl),
      fun h hok => execHbmTrainingComplete_noDie dies hbm true s h (.inr hok),
      fun h => ⟨execHbmTrainingComplete_later dies hbm true s h, execHbmTrainingComplete_later dies hbm false s h⟩,
      execServiceFull_idle s,
      fun h => ⟨execMailboxLoadImage_stage0 n s h, execMailboxLoadImage_later n s h, execMailboxReadKey_free n s h, execMailboxAttest_free s h⟩⟩

end Sys2Proof.Machine

namespace Sys2Proof.Machine

/-! ## Numbers: scalar words on fields, comparisons, selection and voted copies -/

/-! ### Scalar words that go (R96 to R99) -/

theorem scalarField_goes (w : O3) (f : Nat → Nat → Nat → Int) (s : State) (h : goes w.g w.gn s) :
    scalarField w f s = scalarWrite w (f (scalarBits w.ty s w.a) (scalarBits w.ty s w.b) (scalarBits w.ty s w.c)) s :=
  scalarWord_eq _ _ _ _ s h

/-- A scalar word whose plain meaning writes `x` without .sat, as those of R98 and R99 do. -/
theorem scalarWord_write_of_unclamped {w : O3} {s : State} {k : State → State} {x : Int} (h : goes w.g w.gn s) (hm : modSatBit w.mod = false)
    (hk : k s = landS (voteLat w.v 1) w.dst (commonWrite w.ty false x).1 (commonWrite w.ty false x).2 s) :
    scalarWord w.v w.g w.gn k s = scalarWrite w x s := by
  rw [scalarWord_eq _ _ _ _ s h, hk, scalarWrite, hm]

/-- A scalar result that raises no enabled flag and meets no SHADOW lands (R97, R112). -/
theorem deliverScalarFp_lands {n d x f s} (h : enabled (me s) f = 0) : deliverScalarFp n d x f none s = landS n d x f s := by
  simp only [deliverScalarFp, h, ne_eq, not_true_eq_false, if_false]

/-- A minimum or maximum of .f32 that raises no enabled flag and is near its shadow's lands. -/
theorem scalarMinMax_near (w : O3) (most : Bool) (s : State) (h : goes w.g w.gn s) :
    let a := scalarBits .f32 s w.a
    let b := scalarBits .f32 s w.b
    let r := minMaxFp .fp32 most a b
    enabled (me s) r.2 = 0 →
    shadowOf 4 [[some ⟨.product, r.1, (minMaxFp .fp32 most (shortEnc .fp32 a) (shortEnc .fp32 b)).1⟩]] none = none →
    scalarMinMax w most s = landS (voteLat w.v 1) w.dst (BitVec.ofNat 64 r.1) r.2 s := by
  dsimp only
  intro he hn
  rw [scalarMinMax, scalarWord_eq _ _ _ _ s h]
  simp only [checkShadow_eq _ _ s h.2, hn, deliverScalarFp_lands he]

theorem execCmp_fp (w : O3) (s : State) (h : goes w.g w.gn s) (ht : w.ty = .f32) :
    let a := Fp.decode .fp32 (scalarBits .f32 s w.a)
    let b := Fp.decode .fp32 (scalarBits .f32 s w.b)
    enabled (me s) (sigFlags [a, b]) = 0 →
    execCmp w s = .next (landS (voteLat w.v 1) w.dst (condWord w.dst (condFp w.mod.toNat a b)) (sigFlags [a, b]) s) := by
  dsimp only
  intro he
  rw [execCmp, scalarWord_eq _ _ _ _ s h, if_pos ht, deliverScalarFp_lands he]

theorem execCmp_int (w : O3) (s : State) (h : goes w.g w.gn s) (ht : w.ty ≠ .f32) :
    execCmp w s = .next (landS (voteLat w.v 1) w.dst
      (condWord w.dst (condInt w.mod.toNat (scalarVal w.ty s w.a) (scalarVal w.ty s w.b))) 0 s) := by
  rw [execCmp, scalarWord_eq _ _ _ _ s h, if_neg ht]

theorem execBfx_write (w : O3) (s : State) (h : goes w.g w.gn s) (hm : modSatBit w.mod = false) : execBfx w s =
    .next (scalarWrite w (bfxRes w.ty (scalarVal w.ty s w.a) (scalarSrc w.ty s w.b).toNat (scalarSrc w.ty s w.c).toNat) s) :=
  congrArg Host.Outcome.next (scalarWord_write_of_unclamped h hm rfl)

theorem execBfi_write (w : O3) (s : State) (h : goes w.g w.gn s) (hm : modSatBit w.mod = false) : execBfi w s =
    .next (scalarWrite w (bfiRes w.ty.width (dstRead s w.dst).toNat (scalarBits w.ty s w.a)
      (scalarSrc w.ty s w.b).toNat (scalarSrc w.ty s w.c).toNat) s) :=
  congrArg Host.Outcome.next (scalarWord_write_of_unclamped h hm rfl)

theorem execSel_write (w : O3) (s : State) (h : goes w.g w.gn s) (hm : modSatBit w.mod = false) :
    execSel w s = .next (scalarWrite w (if selCond w s then scalarVal w.ty s w.a else scalarVal w.ty s w.b) s) := by
  refine congrArg Host.Outcome.next (scalarWord_write_of_unclamped h hm ?_)
  rw [← apply_ite (scalarVal w.ty s)]

theorem execIdx_write (w : O3) (s : State) (h : goes w.g w.gn s) (hm : modSatBit w.mod = false) :
    execIdx w s = .next (scalarWrite w (((loopAt (rd s) w.a.litVal).map fun l => l.i).getD 0 : Nat) s) := by
  refine congrArg Host.Outcome.next (scalarWord_write_of_unclamped h hm ?_)
  cases loopAt (rd s) w.a.litVal <;> rfl

/-! ### Voted copies that do not agree (R93) -/

/-- What becomes of a voted word whose copies do not agree: of two that agree the effect takes place and the correction is
logged; where all differ VOTE3 is raised and F.CORRUPT set. -/
def Outvoted (i : Instr) (s : State) : Prop :=
  (∃ t, exec i s = .next t ∧ exec i { s with upsets := [.voteOne s.cur.spn s.cur.strand] } =
    .next (logCorrection s.cur.spn s.cur.strand s.cur.addr t)) ∧
  exec i { s with upsets := [.voteAll s.cur.spn s.cur.strand] } = .next (meetCorrupt 1 0 (raise 0x0B 0 0 s))

theorem upsets_cleared {s : State} (hs : s.upsets = []) : { s with upsets := [] } = s := by rw [← hs]

theorem voted_voteOne (k : State → State) (s : State) (hs : s.upsets = []) :
    voted true k { s with upsets := [.voteOne s.cur.spn s.cur.strand] } = logCorrection s.cur.spn s.cur.strand s.cur.addr (k s) := by
  simp only [voted, takeVote, and_self, if_true, upsets_cleared hs]

theorem voted_voteAll (k : State → State) (s : State) (hs : s.upsets = []) :
    voted true k { s with upsets := [.voteAll s.cur.spn s.cur.strand] } = meetCorrupt 1 0 (raise 0x0B 0 0 s) := by
  simp only [voted, takeVote, and_self, if_true, upsets_cleared hs]

/-- A word that runs its meaning `k` under the vote fares so. -/
theorem outvoted_of_voted {i : Instr} {s : State} {v : Bool} {k : State → State} (hs : s.upsets = []) (hv : v = true)
    (h : ∀ u, exec i { s with upsets := u } = .next (voted v k { s with upsets := u })) : Outvoted i s := by
  subst hv
  have h0 : exec i s = .next (k s) := (h s.upsets).trans (congrArg Host.Outcome.next (voted_eq true k s hs))
  exact ⟨⟨k s, h0, by rw [h, voted_voteOne k s hs]⟩, by rw [h, voted_voteAll k s hs]⟩

theorem minMax_isScalarWord (w : O3) (most : Bool) (f : Int → Int → Int → Int) :
    ∃ k, ∀ t, (if w.ty = .f32 then scalarMinMax w most t else scalarInt w f t) = scalarWord w.v w.g w.gn k t := by
  by_cases ht : w.ty = .f32
  · exact ⟨_, fun _ => if_pos ht⟩
  · exact ⟨_, fun _ => if_neg ht⟩

/-- The words of the form O3 in classes 0x01 and 0x03 vote before the guard is looked at (log entry 111). -/
theorem exec_isScalarWord (w : O3) : ∀ c ∈ [Instr.add, .sub, .mul, .mulh, .madd, .and, .or, .xor, .andn, .shl, .shr, .sra, .rotl, .min, .max,
      .abs, .neg, .clz, .popc, .cmp, .sel, .mov, .idx, .bfx, .bfi, .calli, .ret, .jmpi, .halt, .yield],
    ∃ k, ∀ t, exec (c w) t = .next (scalarWord w.v w.g w.gn k t) := by
  intro c hc
  fin_cases hc
  pick_goal 14
  · exact (minMax_isScalarWord w false fun a b _ => min a b).imp fun _ h t => congrArg Host.Outcome.next (h t)
  pick_goal 14
  · exact (minMax_isScalarWord w true fun a b _ => max a b).imp fun _ h t => congrArg Host.Outcome.next (h t)
  all_goals exact ⟨_, fun _ => rfl⟩

theorem exec_isScalarWord_imm (w : I32) : ∀ c ∈ [Instr.li, .lih, .addi, .muli, .andi, .ori, .xori],
    ∃ k, ∀ t, exec (c w) t = .next (scalarWord w.v w.g w.gn k t) := by
  intro c hc
  fin_cases hc
  all_goals exact ⟨_, fun _ => rfl⟩

theorem exec_isScalarWord_branch (w : B24) : ∀ c ∈ [Instr.br, .call, .loop, .loopi],
    ∃ k, ∀ t, exec (c w) t = .next (scalarWord w.v w.g w.gn k t) := by
  intro c hc
  fin_cases hc
  all_goals exact ⟨_, fun _ => rfl⟩

/-- MOVL votes where its guard is true and its latch is not PENDING: the guard is looked at before the vote (log entry 111). -/
theorem execMovl_votes (w : O3) (s : State) (hg : guard0 s w.g w.gn = true) (hl : (latchAt (rd s) w.a.litVal).st ≠ .pending) :
    execMovl w s = .next (voted w.v (fun s => if (latchAt (rd s) w.a.litVal).st = .full then moveLatch w w.a.litVal s
      else raiseSched 0xE0 w.a.litVal s) s) := by
  simp only [execMovl, hg, hl, Bool.not_true, Bool.false_eq_true, if_false]

theorem outvoted_of_scalarWord {i : Instr} {s : State} {v : Bool} {g : Fin 16} {gn : Bool} (hs : s.upsets = []) (hv : v = true)
    (h : ∃ k, ∀ t, exec i t = .next (scalarWord v g gn k t)) : Outvoted i s := by
  obtain ⟨k, hk⟩ := h
  exact outvoted_of_voted hs hv fun _ => hk _

/-- What the Whorls are told changes no spindle. -/
theorem spindleAt_tap (t n agent : Nat) (tag : BitVec 16) (f3 f4 f5 : Word) (s : State) (m : Nat) :
    spindleAt (tap t n agent tag f3 f4 f5 s) m = spindleAt s m := by
  obtain ⟨w, r, h⟩ := tap_shape t n agent tag f3 f4 f5 s
  rw [h]
  rfl

theorem spindleAt_logCorrection (n k : Nat) (a : Word) (s : State) : spindleAt (logCorrection n k a s) n = { spindleAt s n with
    cvotes := min (2 ^ 32 - 1) ((spindleAt s n).cvotes + 1)
    corr := if (spindleAt s n).corr.length < 16 then (spindleAt s n).corr ++ [(k, a)] else (spindleAt s n).corr } := by
  rw [logCorrection, spindleAt_tap, spindleAt_updSpindle_same]

/-- Settles O2: each clause is a lemma above. -/
theorem scalarFieldResults : Obligations.ScalarFieldResults := by
  refine ⟨fun w s h => ?_, fun w s h => ?_, fun s hs => ?_, spindleAt_logCorrection⟩
  · have field (f) : (.next (scalarField w f s) : Host.Outcome State Fault Refusal) = .next (scalarWrite w _ s) :=
      congrArg Host.Outcome.next (scalarField_goes w f s h)
    exact ⟨field _, field _, field _, field _, field _, field _, field _, field _, field _, execBfx_write w s h, execBfi_write w s h⟩
  · exact ⟨fun ht he hn => congrArg Host.Outcome.next ((if_pos ht).trans (scalarMinMax_near w false s h he hn)),
      fun ht he hn => congrArg Host.Outcome.next ((if_pos ht).trans (scalarMinMax_near w true s h he hn)),
      execCmp_fp w s h, execCmp_int w s h, execSel_write w s h, execIdx_write w s h⟩
  · refine ⟨fun w hv => ⟨fun c hc => outvoted_of_scalarWord hs hv (exec_isScalarWord w c hc), fun hg hl => ?_⟩,
      fun w hv c hc => outvoted_of_scalarWord hs hv (exec_isScalarWord_imm w c hc),
      fun w hv c hc => outvoted_of_scalarWord hs hv (exec_isScalarWord_branch w c hc), fun w hv => outvoted_of_voted hs hv fun _ => rfl⟩
    exact outvoted_of_voted hs hv fun u => execMovl_votes w { s with upsets := u } hg hl

end Sys2Proof.Machine

namespace Sys2Proof.Machine

/-! ## Numbers: floating-point vector words and their delivery -/

/-! ### Vector words that may run (R134 to R143) -/

/-- A floating-point vector word that may run is the write of its elements. -/
theorem vecFp_runs (op : Nat) (w : O3) (dyn : Bool) (f : State → Nat → Nat → ElemRes) (s : State) (hu : s.upsets = [])
    (h : fpMayRun s w [w.ty] dyn) : vecFp op w dyn f s = vecWrite op w (f s) s := by
  rw [vecFp, whenLanes_eq _ _ _ _ _ _ s h]
  simp only [checkShadow_eq _ _ s hu]
  rfl

/-- What may run with the rounding mode of the state may run with one of its own. -/
theorem fpMayRun_static {s : State} {w : O3} {ts : List Ty} {dyn : Bool} (h : fpMayRun s w ts dyn) : fpMayRun s w ts false :=
  ⟨h.1, fun hf => absurd hf Bool.false_ne_true⟩

theorem execVcmp_runs (w : O3) (s : State) (h : fpMayRun s w [w.ty] false) :
    let m := guardMask s w.g w.gn
    let e := w.c.litVal / 8
    let a := fun l => fpAt w.ty s w.a l e
    let b := fun l => fpAt w.ty s w.b l e
    execVcmp w s = .next (deliverFp 4 (dstPred w.dst m (BitVec.ofNat 64 (maskOf (fun l => condFp (w.c.litVal % 8) (a l) (b l)) 64)))
      ((upto 64).foldl (fun fl l => if m.getLsbD l then fl ||| sigFlags [a l, b l] else fl) (0 : Flags)) none s) :=
  congrArg Host.Outcome.next (whenLanes_eq _ _ _ _ _ _ s h)

/-! ### Delivery outside the interlocked mode and in it (R112, R135 to R137) -/

theorem intlk_of_tenOf {st : Strand} (h : tenOf st ≠ 0) : intlk st = true := decide_eq_true h

theorem deliverFp_free (n : Nat) (t : Target) (f : Flags) (sh : Option (BitVec 32)) (s : State) (h : tenOf (rd s) = 0) :
    deliverFp n t f sh s = updMe (fun st => { st with landings := st.landings ++
      [⟨s.cycle + n, t, f, 0, sh, s.cur.addr, s.cur.second, st.exl⟩] }) s := by
  simp only [deliverFp, intlk, h, ne_eq, not_true_eq_false, decide_false, Bool.false_eq_true, if_false]

/-- An enabled flag raises FPX at the landing, whatever the shadow has found (log entry 124). -/
theorem deliverFp_enabled (n : Nat) (t : Target) (f : Flags) (sh : Option (BitVec 32)) (s : State) (h : tenOf (rd s) ≠ 0)
    (hf : f &&& tenOf (rd s) ≠ 0) :
    deliverFp n t f sh s = raiseLate n (trapOf 0x09 (f.toNat % 32) .precise s.cur.group 0 s) f sh s := by
  simp only [deliverFp, intlk_of_tenOf h, enabled, ne_eq, hf, not_false_eq_true, if_true, fpxDetail]

theorem deliverFp_interlocked (n : Nat) (t : Target) (f : Flags) (s : State) (h : tenOf (rd s) ≠ 0) (hf : f &&& tenOf (rd s) = 0) :
    deliverFp n t f none s = lockUntil (s.cycle + n)
      (updCur (fun c => { c with holdTo := max c.holdTo (s.cycle + n) }) (landAt n t f s)) := by
  simp only [deliverFp, intlk_of_tenOf h, enabled, hf, ne_eq, not_true_eq_false, if_true, if_false]

theorem deliverFp_shadow (n : Nat) (t : Target) (f : Flags) (dt : BitVec 32) (s : State) (h : tenOf (rd s) ≠ 0)
    (hf : f &&& tenOf (rd s) = 0) :
    deliverFp n t f (some dt) s = raiseLate n (trapOf 0x0A dt.toNat .precise s.cur.group 0 s) 0 (some dt) s := by
  simp only [deliverFp, intlk_of_tenOf h, enabled, hf, ne_eq, not_true_eq_false, if_true, if_false]

/-! ### Delivery of a scalar word (R97, R112, R137) -/

theorem deliverScalarFp_shadow (n : Nat) (d : Dst) (x : Word) (f : Flags) (dt : BitVec 32) (s : State) (h : f &&& tenOf (me s) = 0) :
    deliverScalarFp n d x f (some dt) s = meetCorrupt 2 dt (raise 0x0A dt.toNat 0 s) := by
  simp only [deliverScalarFp, enabled, h, ne_eq, not_true_eq_false, if_false, meetShadow]

theorem deliverScalarFp_enabled (n : Nat) (d : Dst) (x : Word) (f : Flags) (sh : Option (BitVec 32)) (s : State) (h : f &&& tenOf (me s) ≠ 0) :
    deliverScalarFp n d x f sh s = meetShadow sh (raise 0x09 (f.toNat % 32) 0 (keepFlags f s)) := by
  simp only [deliverScalarFp, enabled, ne_eq, h, not_false_eq_true, if_true, fpxDetail]

/-- Settles O7: the words by `vecFp_runs`, the delivery by its cases above. -/
theorem vectorFloatResults : Obligations.VectorFloatResults := by
  refine ⟨fun w s hu h => ?_, fun n t f s => ⟨fun h => ?_, fun h hf => ?_, fun h hf sh => deliverFp_enabled n t f sh s h hf⟩,
    fun n d x f s => ⟨fun h => ?_, fun h => ?_⟩⟩
  · have runs (op f) : (.next (vecFp op w true f s) : Host.Outcome State Fault Refusal) = .next (vecWrite op w (f s) s) :=
      congrArg Host.Outcome.next (vecFp_runs op w true f s hu h)
    exact ⟨runs _ _, runs _ _, runs _ _, runs _ _, runs _ _, runs _ _, runs _ _, runs _ _, runs _ _, runs _ _, runs _ _,
      congrArg Host.Outcome.next (vecFp_runs 0x0D w false _ s hu (fpMayRun_static h)), execVcmp_runs w s (fpMayRun_static h)⟩
  · exact ⟨deliverFp_free n t f none s h, fun dt => deliverFp_free n t f (some dt) s h⟩
  · exact ⟨deliverFp_interlocked n t f s h hf, fun dt => deliverFp_shadow n t f dt s h hf⟩
  · exact ⟨deliverScalarFp_lands h, fun dt => deliverScalarFp_shadow n d x f dt s h⟩
  · exact ⟨deliverScalarFp_enabled n d x f none s h, fun dt => deliverScalarFp_enabled n d x f (some dt) s h⟩

end Sys2Proof.Machine

namespace Sys2Proof.Machine

/-! ## Numbers: latch words (R88, R144 to R146) -/

/-- A vector latch word that may run deposits the results of its lanes. -/
theorem vecLatch_runs (op : Nat) (w : O3) (f : Fp → Fp → FpF) (s : State) (hu : s.upsets = []) (h : fpMayRun s w [w.ty] true) :
    vecLatch op w f s = latchWrite op w f s := by
  rw [vecLatch, whenLanes_eq _ _ _ _ _ _ s h]
  simp only [checkShadow_eq _ _ s hu]
  rfl

/-- A DIV or REM whose guard is true deposits the field that its function gives, extended by the type's signedness. -/
theorem scalarLatch_runs (w : O3) (f : Int → Int → Nat × Bool) (s : State) (h : guard0 s w.g w.gn = true) :
    let r := f (tyInt w.ty (srcWord litSigned s w.a).toNat) (tyInt w.ty (srcWord litSigned s w.b).toNat)
    scalarLatch w f s = depositIn 22 w.c.litVal [] (if w.ty.signed then signExtend r.1 w.ty.width else zeroExtend r.1 w.ty.width)
      (flIf r.2 flISAT) none s :=
  whenGuard_of_guard0 w.g w.gn _ s h

/-- Settles O9: the vector words by `vecLatch_runs`, DIV and REM by `scalarLatch_runs`. -/
theorem latchWordResults : Obligations.LatchWordResults := by
  refine ⟨fun w s hu h => ?_, fun w s h => ?_⟩
  · have runs (op f) : (.next (vecLatch op w f s) : Host.Outcome State Fault Refusal) = .next (latchWrite op w f s) :=
      congrArg Host.Outcome.next (vecLatch_runs op w f s hu h)
    exact ⟨runs _ _, runs _ _, runs _ _, runs _ _, runs _ _, runs _ _⟩
  · exact ⟨congrArg Host.Outcome.next (scalarLatch_runs w _ s h), congrArg Host.Outcome.next (scalarLatch_runs w _ s h)⟩

end Sys2Proof.Machine

namespace Sys2Proof.Machine

/-! ## Numbers: words of exact-sum windows (R301, R317 to R320) -/

/-- The window that a word names, on the base die of the strand in focus. -/
def namedWin (s : State) (w : O3) : Window := winAt s (dieOf s.cur.spn) (winNum s w)

theorem winAt_named (s : State) (w : O3) : winAt s (dieOf s.cur.spn) (winNum s w) = namedWin s w := rfl

theorem whenBound_owner (w : O3) (k : State → State) (s : State) (h : (namedWin s w).owner.isSome = true)
    (ho : (namedWin s w).owner = (mySpindle s).task) : whenBound (winNum s w) k s = k s := by
  rw [whenBound, winAt_named, h, decide_eq_true ho, Bool.and_self, if_pos rfl]

theorem whenServed_one {t : Ty} (cls op : Nat) (k : State → State) (s : State) (h : servedType s t = true) :
    whenServed cls op [t] k s = k s := by
  rw [whenServed, List.all_cons, List.all_nil, h, Bool.and_self, if_pos rfl]

theorem whenStatus_open (code : Nat) (k : State → State) (s : State) (h : (mySpindle s).det = true → (me s).privm = true) :
    whenStatus code k s = k s := by
  cases hd : (mySpindle s).det with
  | false => rw [whenStatus, hd, Bool.false_and, if_neg Bool.false_ne_true]
  | true => rw [whenStatus, h hd, Bool.not_true, Bool.and_false, if_neg Bool.false_ne_true]

/-- A word whose read is out goes on whatever its guard. -/
theorem whenGuard_reading (g gn s) (k : State → State) (m) (h : (me s).mem = some m) : whenGuard g gn k s = k s := by
  rw [whenGuard, resuming, h, Option.isSome_some, Bool.or_true, Bool.or_true, if_pos rfl]

section
variable (w : O3) (s : State)

/-- XWDEF with an exponent in range, of a window that no other task owns. -/
theorem execXwdef_write (h : guard0 s w.g w.gn = true) {e : Int} (he : signedValue (srcZero s w.b).toNat 16 = e)
    (hlo : -192 ≤ e) (hhi : e ≤ 64) (ho : (namedWin s w).owner = none ∨ (namedWin s w).owner = (mySpindle s).task) :
    execXwdef w s = .next (windowWrite (winNum s w) (fun o x => { clearWin s.cur.spn s.cur.strand o x with
      owner := (mySpindle s).task, e := e, step := myAttempt s }) s) := by
  subst he
  have hfree : ((namedWin s w).owner.isSome && decide ((namedWin s w).owner ≠ (mySpindle s).task)) = false := by
    rcases ho with ho | ho
    · rw [ho, Option.isSome_none, Bool.false_and]
    · rw [decide_eq_false (not_not_intro ho), Bool.and_false]
  rw [execXwdef, whenGuard_of_guard0 w.g w.gn _ s h, if_neg (by omega), winAt_named, hfree, if_neg Bool.false_ne_true]

theorem execLnkstat_port (h : guard0 s w.g w.gn = true) (hi : srcNum s w.a 5 ≤ 19)
    (hd : (mySpindle s).det = true → (me s).privm = true) :
    execLnkstat w s = .next (landS 1 w.dst (portWord s (srcNum s w.a 5) (domGrp (mySpindle s))) 0 s) := by
  rw [execLnkstat, whenGuard_of_guard0 w.g w.gn _ s h, if_neg (Nat.not_lt.2 hi), whenStatus_open _ _ s hd]

variable (hs : (namedWin s w).owner.isSome = true) (ho : (namedWin s w).owner = (mySpindle s).task)
include hs ho

/-- XADD into a window that holds fewer than sixteen addends (R318). -/
theorem execXadd_write (h : guard0 s w.g w.gn = true) (hq : (namedWin s w).queue.length < 16) (ht : servedType s w.ty = true) :
    execXadd w s = .next (windowWrite (winNum s w) (fun o x => { x with queue := x.queue ++
      [⟨s.cur.spn, s.cur.strand, (me s).tag, xaddLanes s w, w.ty, attOf s (me s).tag, o⟩] }) s) := by
  rw [execXadd, whenGuard_of_guard0 w.g w.gn _ s h, whenServed_one _ _ _ s ht, whenBound_owner w _ s hs ho, winAt_named,
    if_neg (Nat.not_le.2 hq)]

theorem execXwclr_write (h : guard0 s w.g w.gn = true) :
    execXwclr w s = .next (windowWrite (winNum s w) (clearWin s.cur.spn s.cur.strand) s) := by
  rw [execXwclr, whenGuard_of_guard0 w.g w.gn _ s h, whenBound_owner w _ s hs ho]

/-- XWREAD ends once 24 cycles have passed and the addends that happen before it are applied (R229, R319). -/
theorem execXwread_ends {m : MemOp} (hm : (me s).mem = some m) (hc : m.c0 + 24 ≤ s.cycle)
    (hp : xaddPending s (namedWin s w) s.cur.spn s.cur.strand = false) :
    execXwread w s = .next (landS 1 w.dst (xwValue (namedWin s w) w.b.litVal).1 (xwValue (namedWin s w) w.b.litVal).2
      (updMe (fun st => { st with mem := none, view := st.view.sawWindow (namedWin s w) }) s)) := by
  have hend : ¬(s.cycle < m.c0 + 24 ∨ xaddPending s (namedWin s w) s.cur.spn s.cur.strand = true) := by
    rw [hp, or_iff_left Bool.false_ne_true]
    exact Nat.not_lt.2 hc
  rw [execXwread, whenGuard_reading w.g w.gn s _ m hm, whenBound_owner w _ s hs ho]
  simp only [hm, winAt_named]
  exact congrArg Host.Outcome.next (if_neg hend)

end

/-- Settles O24: each clause is a lemma above. -/
theorem windowResults : Obligations.WindowResults := by
  intro w s
  exact ⟨fun h => ⟨fun e he hlo hhi ho => execXwdef_write w s h he hlo hhi ho,
      fun hs ho => ⟨execXadd_write w s hs ho h, execXwclr_write w s hs ho h⟩, execLnkstat_port w s h⟩,
    fun m hm hs ho hc hp => execXwread_ends w s hs ho hm hc hp⟩

end Sys2Proof.Machine

namespace Sys2Proof.Laws.Shape
open Sys2Proof
/-- Every instruction has its place in the opcode map, or is an event. -/
theorem statement_all (i : Instr) : Statement i := by
  cases i <;> simp only [
    add, sub, mul, mulh, madd, and, or, xor, andn, shl, shr, sra, rotl, min, max, abs, neg, clz, popc, bfx, bfi, cmp, sel, mov, idx, li, lih, addi,
      muli, andi, ori, xori, br, call, calli, ret, jmpi, loop, loopi, movl, nop, halt, yield, trap, eret, mfcr, mtcr, strstart, strwait, strid,
      setfp, ctxsv, ctxld, vadd, vsub, vmul, vfma, vfms, vfnma, vmin, vmax, vabs, vneg, vscale, vcmp, vclass, viadd, visub, vimul, vimulh, vimadd,
      vimin, vimax, viabs, vand, vor, vxor, vandn, vnot, vshl, vshr, vsra, vrotl, vicmp, vsel, vclz, vpopc, vdiv, vsqrt, vrsqrt, vrcp, vexp2, vlog2,
      div, rem, vcvt, vcvtsr, vpack, vunpack, vbcast, vperm, vshuf, vrot, vcompress, vexpand, viota, vmovx, vmovs, vins, vredadd, vredmax, vredmin,
      vscan, vrng, vrngf, pand, por, pxor, pandn, pnot, pset, pget, pcnt, pfirst, pmov, ld, st, vld, vst, vldx, vstx, vlds, vsts, sld, sst, cbload,
      trans, hrel, hchk, ldblk, blkwait, wbblk, evblk, reschk, pgreq, replay, semsig, semwait, semset, semrd, spldef, spfillw, spfreew, sppub, spret,
      phreg, phdrop, pharr, phwait, pharw, tickw, fence, atom, atomr, cas, swap, mqpush, qstatRead, qstatSkip, qstatFlush, qstatMxcap, qstatClear,
      cqpush, cstage, cdrain, lzdefZone, lzdefBinding, lzres, lzrel, lzwait, lzstat, bst, batom, bflush, bflushall, bstat, xwdef, xadd, xwread,
      xwclr, lnkstat, stepid, vote, stepwait, losschk, rqtag, mcread, mcackLog, mcackPoison, mcackSuspect, tagpurge, scrub, verdef, bkpt, tmark,
      whorlsig, lde, ldi, ldt, stt, whorlAdd, whorlAddi, whorlSub, whorlAnd, whorlOr, whorlXor, whorlShl, whorlShr, whorlMin, whorlMax, beq, bne,
      blt, hbin, cms, hll, trig, emit, exit, fixedLatencyWriteback, idleCountEnd, latchDeposit, handleDeposit, takeTrap, watchdogExpiry, waitTimeout,
      loadDataReturn, storeApply, atomApply, atomicReply, blockFillDone, blockWritebackDone, blockEvictDone, phaserGatherReceive,
      phaserReleaseReceive, mma, mmaz, bload, accld, accst, mxt, copy, copyacc, fill, gather, rput, engineRecordComplete, subarrayWakeDone,
      subarrayGate, rputChunkReceive, rputChunkAccept, slotCreditReceive, cancelNoticeReceive, bobbinAgeExpiry, bobbinFlitReceive,
      bobbinCompletionReceive, xaddApply, portTrained, portFailure, trainingRetry, flitCrcResend, peerEntryExchange, attemptOpen, voteDeadline,
      childVoteDeadline, voteReceive, decisionReceive, purgeComplete, scrubberVisit, inFieldTest, containmentLost, notifyWptrWrite, queuePoll,
      qstsWrite, queueDescriptorWrite, packetNop, launch, graph, signal, waitsig, waitsigReread, waitsigTimeout, stepopen, stepclose, resync,
      taskNode, condNode, loopNode, switchNode, schedulingRound, preemptSave, taskCompletion, hostMemoryRead, hostMemoryWrite,
      objectWindowSemaphoreStore, objectWindowSpoolStore, objectWindowPhaserStore, partitionEntryWrite, invalidateGo, invalidationComplete,
      queueBindingWrite, stepGroupEntryWrite, portEnable, portRetrain, timectlWrite, plimsetWrite, ipeakClear, powerThrottle, registerWrite,
      powerOnReset, fundamentalReset, pfFunctionLevelReset, vfFunctionLevelReset, serviceFull, mailboxLoadImage, mailboxReadKey, mailboxAttest,
      attachSlotEnable, attachSlotDisable, irqstsClear, tenantBudgetWrite, budgetWindowReset, whorlEventOffer, whorlRunStart, debugStopreq,
      debugResume, debugStopped, allstopRequestReceive, scopecntWrite, scopeadrWrite, tickTargetReached, linkLoss, tickDiscipline,
      thermalLimitChange, voteResend, cancelNoticeResend, resumptionRestoreDone, copyReadReturn, hbmTrainingComplete]
end Sys2Proof.Laws.Shape

namespace Sys2Proof.Machine

/-! ## Encoding: every well-formed instruction is decoded from its word -/

/-! ### Bytes and codes (R3, R51, R52, R55) -/

theorem ofBytes_toBytes (x n : Nat) : ofBytes (toBytes x n) = x % 256 ^ n := by
  induction n generalizing x with
  | zero => simp [toBytes, ofBytes, Nat.mod_one]
  | succ n ih =>
    have hb : (BitVec.ofNat 8 x).toNat = x % 256 := BitVec.toNat_ofNat x 8
    rw [toBytes, ofBytes, ih, hb, Nat.pow_succ', Nat.mod_mul]

theorem dstCode_lt (d : Dst) : dstCode d < 128 := by cases d <;> simp only [dstCode] <;> omega

theorem srcCode_lt (x : Src) : srcCode x < 1024 := by cases x <;> simp only [srcCode] <;> omega

theorem typeCode_lt (t : Ty) : t.code < 15 := by cases t <;> decide

theorem ofCode_code (t : Ty) : Ty.ofCode t.code = some t := by cases t <;> rfl

theorem dstOf_dstCode (d : Dst) (hd : d ≠ .p 0) : dstOf (dstCode d) = some d := by
  cases d with
  | v r => revert r; decide
  | s r => revert r; decide
  | p r => revert r; decide
  | h r => revert r; decide

theorem srcOf_srcCode (x : Src) : srcOf (srcCode x) = some x := by
  cases x with
  | v r => revert r; decide
  | s r => revert r; decide
  | p r => revert r; decide
  | h r => revert r; decide
  | stg => rfl
  | cb i => revert i; decide
  | lit i => revert i; decide

theorem bit_lt (b : Bool) : bit b < 2 := by cases b <;> decide

theorem bit_eq_one (b : Bool) : decide (bit b = 1) = b := by cases b <;> rfl

/-- A bit of a number that stands there as a truth value. -/
theorem bitOf_of_eq {n i : Nat} {b : Bool} (h : n / 2 ^ i % 2 = bit b) : bitOf n i = b := by rw [bitOf, h, bit_eq_one]

/-! ### The fields of a word (R46 to R50, R386) -/

/-- What the number of an O3 word holds, field by field (R46, R47). -/
structure O3Fields (cls op : Nat) (w : O3) (n : Nat) : Prop where
  bound : n < 2 ^ 64
  p : wordP n = w.p
  v : wordV n = w.v
  cls : wordClass n = cls
  op : wordOp n = op
  dst : bits n 43 7 = dstCode w.dst
  a : bits n 33 10 = srcCode w.a
  b : bits n 23 10 = srcCode w.b
  c : bits n 13 10 = srcCode w.c
  g : bits n 9 4 = w.g.val
  gn : bitOf n 8 = w.gn
  ty : bits n 4 4 = w.ty.code
  mod : bits n 0 4 = w.mod.toNat

theorem o3_fields {cls op n : Nat} {w : O3} (hc : cls < 64) (ho : op < 64) (hn : (Form.o3 cls op w).number = some n) : O3Fields cls op w n := by
  have hp := bit_lt w.p
  have hv := bit_lt w.v
  have hd := dstCode_lt w.dst
  have ha := srcCode_lt w.a
  have hb := srcCode_lt w.b
  have hx := srcCode_lt w.c
  have hg := w.g.isLt
  have hgn := bit_lt w.gn
  have ht := typeCode_lt w.ty
  have hm := w.mod.isLt
  simp only [Form.number, Option.some.injEq] at hn
  constructor
  case p | v | gn => refine bitOf_of_eq ?_; omega
  case bound => omega
  all_goals simp only [wordClass, wordOp, bits]; omega

/-- The fields of an I32 word (R46, R48). -/
structure I32Fields (op : Nat) (w : I32) (n : Nat) : Prop where
  bound : n < 2 ^ 64
  p : wordP n = w.p
  v : wordV n = w.v
  cls : wordClass n = 2
  op : wordOp n = op
  dst : bits n 43 7 = dstCode w.dst
  imm : bits n 11 32 = w.imm.toNat
  g : bits n 7 4 = w.g.val
  gn : bitOf n 6 = w.gn
  ty : bits n 2 4 = w.ty.code
  low : bits n 0 2 = 0

theorem i32_fields {op n : Nat} {w : I32} (ho : op < 64) (hn : (Form.i32 op w).number = some n) : I32Fields op w n := by
  have hp := bit_lt w.p
  have hv := bit_lt w.v
  have hd := dstCode_lt w.dst
  have hi := w.imm.isLt
  have hg := w.g.isLt
  have hgn := bit_lt w.gn
  have ht := typeCode_lt w.ty
  simp only [Form.number, Option.some.injEq] at hn
  constructor
  case p | v | gn => refine bitOf_of_eq ?_; omega
  case bound => omega
  all_goals simp only [wordClass, wordOp, bits]; omega

/-- The fields of a B24 word (R46, R49). -/
structure B24Fields (op : Nat) (w : B24) (n : Nat) : Prop where
  bound : n < 2 ^ 64
  p : wordP n = w.p
  v : wordV n = w.v
  cls : wordClass n = 3
  op : wordOp n = op
  off : bits n 26 24 = w.off.toNat
  aux : bits n 13 13 = w.aux.toNat
  g : bits n 9 4 = w.g.val
  gn : bitOf n 8 = w.gn
  lid : bits n 6 2 = w.lid.val
  low : bits n 0 6 = 0

theorem b24_fields {op n : Nat} {w : B24} (ho : op < 64) (hn : (Form.b24 op w).number = some n) : B24Fields op w n := by
  have hp := bit_lt w.p
  have hv := bit_lt w.v
  have hf := w.off.isLt
  have ha := w.aux.isLt
  have hg := w.g.isLt
  have hgn := bit_lt w.gn
  have hl := w.lid.isLt
  simp only [Form.number, Option.some.injEq] at hn
  constructor
  case p | v | gn => refine bitOf_of_eq ?_; omega
  case bound => omega
  all_goals simp only [wordClass, wordOp, bits]; omega

/-- The fields of a NOP (R46, R50). -/
structure NopFields (w : FormN) (n : Nat) : Prop where
  bound : n < 2 ^ 64
  p : wordP n = w.p
  v : wordV n = w.v
  cls : wordClass n = 3
  op : wordOp n = 9
  count : n % 2 ^ 8 = w.count.toNat
  low : bits n 8 42 = 0

theorem nop_fields {n : Nat} {w : FormN} (hn : (Form.nop w).number = some n) : NopFields w n := by
  have hp := bit_lt w.p
  have hv := bit_lt w.v
  have hc := w.count.isLt
  simp only [Form.number, Option.some.injEq] at hn
  constructor
  case p | v => refine bitOf_of_eq ?_; omega
  case bound | count => omega
  all_goals simp only [wordClass, wordOp, bits]; omega

/-- The fields of a Whorl word (R386). -/
structure WhorlFields (op : Nat) (w : WW) (n : Nat) : Prop where
  bound : n < 2 ^ 32
  op : bits n 26 6 = op
  d : bits n 22 4 = w.d.val
  a : bits n 18 4 = w.a.val
  b : bits n 14 4 = w.b.val
  imm : n % 2 ^ 14 = w.imm.toNat

theorem whorl_fields {op n : Nat} {w : WW} (ho : op < 64) (hn : (Form.whorl op w).number = some n) : WhorlFields op w n := by
  have hd := w.d.isLt
  have ha := w.a.isLt
  have hb := w.b.isLt
  have hi := w.imm.isLt
  simp only [Form.number, Option.some.injEq] at hn
  constructor
  case bound | imm => omega
  all_goals simp only [bits]; omega

/-! ### What a legal word gives the checks (R59) -/

/-- What the checks of the reserved fields need of a signature: no destination is p0, and a TYPE or MOD that is refused as reserved may
only be 0. `free` excepts a MOD that the entry uses although it calls the field reserved. -/
structure SigTidy (g : Sig) (free : Prop) : Prop where
  dst : ∀ f ∈ g.dst, f (.p 0) = false
  ty : g.tyR = 4 → g.ty = none
  mod : g.modR = 4 → (∀ w, g.mod w = true → w.mod = 0) ∨ free

theorem sig_tidy (cls op : Nat) : SigTidy (sig cls op) (cls = 0x1C ∧ op = 0x07) := by
  unfold sig sig01 sig03 sig04 sig08 sig09 sig0A sig0B sig0C sig10 sig11 sig14 sig15 sig18 sig1C sig20 sig24
  dsimp only
  split <;> split <;> constructor <;> simp [Dst.isV, Dst.isS, Dst.isP, Dst.isH, Dst.isS0, Dst.isNone]

theorem ok6_iff {g : Sig} {w : O3} : ok6 g w = true ↔ dstOk g.dst w.dst = true ∧ srcOk g.a w.a = true ∧ srcOk g.b w.b = true ∧
    srcOk g.c w.c = true ∧ g.x6 w = true := by
  simp only [ok6, Bool.and_eq_true, and_assoc]

theorem wf_o3_iff {cls op : Nat} {w : O3} : (Form.o3 cls op w).wf = true ↔ (!w.v || votable cls) = true ∧ ok6 (sig cls op) w = true ∧
    ok7 (sig cls op) w = true ∧ (sig cls op).mod w = true ∧ guardOk w.g w.gn = true ∧ clustersOk cls op w = true := by
  simp only [Form.wf, Bool.and_eq_true, and_assoc]

theorem srcCode_of_none {f : Option (Src → Bool)} {x : Src} (hf : f.isNone = true) (h : srcOk f x = true) : srcCode x = 0 := by
  rw [Option.isNone_iff_eq_none] at hf
  subst hf
  rw [show x = .v 0 from of_decide_eq_true h]
  rfl

/-- No field that an entry calls reserved is set (step 5 of R59). -/
theorem reserved_zero {cls op : Nat} {w : O3} (h6 : ok6 (sig cls op) w = true) (h7 : ok7 (sig cls op) w = true)
    (hm : (sig cls op).mod w = true) :
    ¬((sig cls op).a.isNone && srcCode w.a ≠ 0 || (sig cls op).b.isNone && srcCode w.b ≠ 0 || (sig cls op).c.isNone && srcCode w.c ≠ 0 ||
      (sig cls op).tyR = 4 && w.ty.code ≠ 0 ||
      (sig cls op).modR = 4 && w.mod.toNat ≠ 0 && !(cls = 0x1C && op = 0x07)) = true := by
  have tidy := sig_tidy cls op
  obtain ⟨-, ha, hb, hc, -⟩ := ok6_iff.1 h6
  have ty0 : (sig cls op).tyR = 4 → w.ty.code = 0 := fun h => by
    simp only [ok7, tidy.ty h, Bool.and_eq_true, decide_eq_true_eq] at h7
    rw [h7.1]; rfl
  have mod0 : (sig cls op).modR = 4 → w.mod.toNat ≠ 0 → cls = 0x1C ∧ op = 0x07 := fun h h0 =>
    (tidy.mod h).resolve_left fun g => h0 (by rw [g w hm]; rfl)
  simp only [Bool.or_eq_true, Bool.and_eq_true, Bool.not_eq_true', Bool.and_eq_false_iff, decide_eq_true_eq, decide_eq_false_iff_not]
  rintro ((((⟨h, h0⟩ | ⟨h, h0⟩) | ⟨h, h0⟩) | ⟨h, h0⟩) | ⟨⟨h, h0⟩, hx⟩)
  · exact h0 (srcCode_of_none h ha)
  · exact h0 (srcCode_of_none h hb)
  · exact h0 (srcCode_of_none h hc)
  · exact h0 (ty0 h)
  · exact hx.elim (fun g => g (mod0 h h0).1) (fun g => g (mod0 h h0).2)

theorem dst_ne_p0 {cls op : Nat} {d : Dst} (h : dstOk (sig cls op).dst d = true) : d ≠ .p 0 := by
  rintro rfl
  cases hf : (sig cls op).dst with
  | none => simp [hf, dstOk, Dst.isNone] at h
  | some f => simp [hf, dstOk, (sig_tidy cls op).dst f hf] at h

/-- Form O3: the fields are the operands, and each check of R59 is one of `Form.wf`. -/
theorem decodeO3_number {cls op n : Nat} {w : O3} (mk : O3 → Instr) (hn : O3Fields cls op w n) (hw : (Form.o3 cls op w).wf = true) :
    decodeO3 cls op mk n = .ok (mk w) := by
  obtain ⟨-, h6, h7, hm, hg, hcl⟩ := wf_o3_iff.1 hw
  have hd : w.dst ≠ .p 0 := dst_ne_p0 (ok6_iff.1 h6).1
  have ht : w.ty.code ≠ 15 := (typeCode_lt w.ty).ne
  unfold decodeO3
  rw [if_neg (by rw [hn.a, hn.b, hn.c, hn.ty, hn.mod]; exact reserved_zero h6 h7 hm)]
  simp only [hn.dst, hn.a, hn.b, hn.c, hn.g, hn.gn, hn.ty, hn.mod, hn.p, hn.v, dstOf_dstCode _ hd, srcOf_srcCode, ofCode_code,
    Option.getD_some, Fin.ofNat_val_eq_self, BitVec.ofNat_toNat, BitVec.setWidth_eq, h6, h7, hm, hg, hcl, ht, decide_false, Bool.or_false,
    Bool.not_true, Bool.false_eq_true, if_false]

theorem decodeI32_number {op n : Nat} {w : I32} (mk : I32 → Instr) (hn : I32Fields op w n) (hw : (Form.i32 op w).wf = true) :
    decodeI32 op mk n = .ok (mk w) := by
  simp only [Form.wf, Bool.and_eq_true] at hw
  obtain ⟨⟨hd, ht⟩, hg⟩ := hw
  have hd0 : w.dst ≠ .p 0 := by rintro h; rw [h] at hd; exact Bool.false_ne_true hd
  have h15 : w.ty.code ≠ 15 := (typeCode_lt w.ty).ne
  unfold decodeI32
  simp only [hn.dst, hn.imm, hn.g, hn.gn, hn.ty, hn.low, hn.p, hn.v, dstOf_dstCode _ hd0, ofCode_code, Option.getD_some,
    Fin.ofNat_val_eq_self, BitVec.ofNat_toNat, BitVec.setWidth_eq, hd, ht, hg, h15, decide_false, Bool.or_false,
    Bool.not_true, Bool.false_eq_true, if_false, ne_eq, not_true_eq_false]

theorem decodeB24_number {op n : Nat} {w : B24} (mk : B24 → Instr) (hn : B24Fields op w n) (hw : (Form.b24 op w).wf = true) :
    decodeB24 op mk n = .ok (mk w) := by
  simp only [Form.wf, Bool.and_eq_true] at hw
  obtain ⟨hg, ho⟩ := hw
  unfold decodeB24
  simp only [hn.off, hn.aux, hn.g, hn.gn, hn.lid, hn.low, hn.p, hn.v, Fin.ofNat_val_eq_self, BitVec.ofNat_toNat, BitVec.setWidth_eq, hg]
  by_cases h6 : op = 6
  · subst h6
    simp_all
  · by_cases h7 : op = 7
    · subst h7
      simp_all
    · clear hn
      cases w
      simp_all

/-! ### Decoding -/

/-- A class and operation that the map lists, voted only where a vote is legal, pass steps 1 to 3 of R59. -/
theorem headReason_none {n : Nat} (hc : classAssigned (wordClass n) = true) (ho : opForm (wordClass n) (wordOp n) ≠ .none)
    (hv : (!wordV n || votable (wordClass n)) = true) : headReason n = none := by
  have hv' : (wordV n && !votable (wordClass n)) = false := by
    rw [← Bool.not_not (_ && _), Bool.not_and, Bool.not_not, hv]; rfl
  simp only [headReason, hc, hv', Bool.not_true, Bool.false_eq_true, if_false]

/-- A strand word is decoded by its body where its class and operation are listed and a vote is legal. -/
theorem decodeTableWord_strand {n cls op : Nat} {i : Instr} (hn : n < 2 ^ 64) (hc : wordClass n = cls) (ho : wordOp n = op)
    (ha : classAssigned cls = true) (hf : opForm cls op ≠ .none) (hv : (!wordV n || votable cls) = true) (hb : decodeBody n = .ok i) :
    n < 2 ^ 64 ∧ decodeTableWord 64 n = some i := by
  subst hc ho
  have he : ofBytes (toBytes n 8) = n := (ofBytes_toBytes n 8).trans (Nat.mod_eq_of_lt hn)
  refine ⟨hn, ?_⟩
  rw [decodeTableWord, he, decodeWord, headReason_none ha hf hv]
  simp only [hb]
  rfl

theorem decodeTableWord_whorl {n : Nat} {i : Instr} (hn : n < 2 ^ 32) (h : decodeWhorl n = some i) : decodeTableWord 32 n = some i := by
  have hb : ofBytes (toBytes n 4) = n := (ofBytes_toBytes n 4).trans (Nat.mod_eq_of_lt hn)
  rw [decodeTableWord, hb, if_pos rfl, h]

section
variable {i : Instr} {op n : Nat}

theorem decodeTableWord_o3 {cls : Nat} {w : O3} (hi : i.form = .o3 cls op w) (hw : i.wf = true)
    (hn : (Form.o3 cls op w).number = some n) : n < 2 ^ 64 ∧ decodeTableWord 64 n = some i := by
  have hs := Laws.Shape.statement_all i
  rw [Instr.wf, hi, Bool.and_eq_true] at hw
  simp only [Laws.Shape.Statement, hi] at hs
  obtain ⟨hc, ho, ha, mk, hf, hmk⟩ := hs
  have f := o3_fields hc ho hn
  have hv : (!w.v || votable cls) = true := (wf_o3_iff.1 hw.1).1
  refine decodeTableWord_strand f.bound f.cls f.op ha (by rw [hf]; nofun) (by rw [f.v, hv]) ?_
  simp only [decodeBody, f.cls, f.op, hf, decodeO3_number mk f hw.1, hmk hw.2]

theorem decodeTableWord_i32 {w : I32} (hi : i.form = .i32 op w) (hw : (Form.i32 op w).wf = true)
    (hn : (Form.i32 op w).number = some n) : n < 2 ^ 64 ∧ decodeTableWord 64 n = some i := by
  have hs := Laws.Shape.statement_all i
  simp only [Laws.Shape.Statement, hi] at hs
  obtain ⟨ho, mk, hf, hmk⟩ := hs
  have f := i32_fields ho hn
  refine decodeTableWord_strand f.bound f.cls f.op rfl (by rw [hf]; nofun) (Bool.or_true _) ?_
  simp only [decodeBody, f.cls, f.op, hf, decodeI32_number mk f hw, hmk]

theorem decodeTableWord_b24 {w : B24} (hi : i.form = .b24 op w) (hw : (Form.b24 op w).wf = true)
    (hn : (Form.b24 op w).number = some n) : n < 2 ^ 64 ∧ decodeTableWord 64 n = some i := by
  have hs := Laws.Shape.statement_all i
  simp only [Laws.Shape.Statement, hi] at hs
  obtain ⟨ho, mk, hf, hmk⟩ := hs
  have f := b24_fields ho hn
  refine decodeTableWord_strand f.bound f.cls f.op rfl (by rw [hf]; nofun) (Bool.or_true _) ?_
  simp only [decodeBody, f.cls, f.op, hf, decodeB24_number mk f hw, hmk]

theorem decodeTableWord_nop {w : FormN} (hi : i.form = .nop w) (hn : (Form.nop w).number = some n) :
    n < 2 ^ 64 ∧ decodeTableWord 64 n = some i := by
  have hs := Laws.Shape.statement_all i
  simp only [Laws.Shape.Statement, hi] at hs
  obtain ⟨hf, rfl⟩ := hs
  have f := nop_fields hn
  have hc : BitVec.ofNat 8 n = w.count := BitVec.eq_of_toNat_eq ((BitVec.toNat_ofNat n 8).trans f.count)
  refine decodeTableWord_strand f.bound f.cls f.op rfl (by rw [hf]; nofun) (Bool.or_true _) ?_
  simp only [decodeBody, f.cls, f.op, hf, f.low, f.p, f.v, hc, ne_eq, not_true_eq_false, if_false]

theorem decodeTableWord_ww {w : WW} (hi : i.form = .whorl op w) (hw : i.wf = true) (hn : (Form.whorl op w).number = some n) :
    n < 2 ^ 32 ∧ decodeTableWord 32 n = some i := by
  have hs := Laws.Shape.statement_all i
  simp only [Laws.Shape.Statement, hi] at hs
  obtain ⟨ho, mk, hf, rfl⟩ := hs
  have f := whorl_fields ho hn
  have hm : BitVec.ofNat 14 n = w.imm := BitVec.eq_of_toNat_eq ((BitVec.toNat_ofNat n 14).trans f.imm)
  refine ⟨f.bound, decodeTableWord_whorl f.bound ?_⟩
  simp only [decodeWhorl, f.op, hf, f.d, f.a, f.b, Fin.ofNat_val_eq_self, hm, hw, if_true]

end

/-- Settles O46: by the form of the instruction, whose fields `Form.number` lays out and the decoder reads back. -/
theorem decodeEncode : Obligations.DecodeEncode := by
  intro i hw
  have hf : i.form.wf = true := by rw [Instr.wf, Bool.and_eq_true] at hw; exact hw.1
  cases h : i.form with
  | o3 cls op w => exact ⟨_, congrArg Form.number h, by simpa only [wordBits, h] using decodeTableWord_o3 h hw rfl⟩
  | i32 op w => exact ⟨_, congrArg Form.number h, by simpa only [wordBits, h] using decodeTableWord_i32 h (h ▸ hf) rfl⟩
  | b24 op w => exact ⟨_, congrArg Form.number h, by simpa only [wordBits, h] using decodeTableWord_b24 h (h ▸ hf) rfl⟩
  | nop w => exact ⟨_, congrArg Form.number h, by simpa only [wordBits, h] using decodeTableWord_nop h rfl⟩
  | whorl op w => exact ⟨_, congrArg Form.number h, by simpa only [wordBits, h] using decodeTableWord_ww h hw rfl⟩
  | event => rw [h] at hf; exact absurd hf Bool.false_ne_true

/-- Settles O45: each of the ten is one run of the decoder on a literal word. -/
theorem decodeWords : Obligations.DecodeWords := by
  unfold Obligations.DecodeWords
  decide

end Sys2Proof.Machine

namespace Sys2Proof.Machine

/-! ## Registers: reading after writing, and the frame of the register words -/

/-! ### Reads of the register files (R51, R54, R58) -/

theorem sregOf_setS (r q : Nat) (x : Word) (st : Strand) : sregOf (setS r x st) q = if q = r then x else sregOf st q := SMap.get_set ..

theorem hregOf_setH (r q : Nat) (x : Word) (st : Strand) : hregOf (setH r x st) q = if q = r then x else hregOf st q := SMap.get_set ..

/-- A predicate that is not p0 takes the masked lanes. -/
theorem pregOf_setP (r q : Nat) (m x : Word) (st : Strand) (hr : r ≠ 0) :
    pregOf (setP r m x st) q = if q = r then (pregOf st r &&& ~~~m) ||| (x &&& m) else pregOf st q := by
  simp only [setP, if_neg hr, pregOf, SMap.get_set]
  by_cases hq : q = 0
  · simp only [hq, if_true, if_neg (Ne.symm hr)]
  · simp only [if_neg hq]

theorem pregOf_setP_lane (r q l : Nat) (m x : Word) (st : Strand) (hr : r ≠ 0) (hl : l < 64) :
    (pregOf (setP r m x st) q).getLsbD l = if q = r ∧ m.getLsbD l = true then x.getLsbD l else (pregOf st q).getLsbD l := by
  rw [pregOf_setP r q m x st hr]
  by_cases hq : q = r
  · subst hq
    simp only [if_true, true_and, BitVec.getLsbD_or, BitVec.getLsbD_and, BitVec.getLsbD_not, hl, decide_true]
    cases m.getLsbD l <;> simp
  · simp only [hq, false_and, if_false]

/-- A lane of a vector register takes its value where the mask names it; the lanes of the other registers lie elsewhere. -/
theorem laneOf_setV (r q l : Nat) (m : Word) (xs : List Lane) (st : Strand) (hl : l < 64) (hx : xs.length = 64) :
    laneOf (setV r m xs st) q l = if q = r ∧ m.getLsbD l = true then (xs[l]?).getD 0 else laneOf st q l := by
  simp only [laneOf, setV, setLanes_get, hx]
  by_cases hq : q = r
  · subst hq
    simp only [Nat.add_zero, Nat.add_sub_cancel_left, Nat.le_add_right, true_and, Nat.add_lt_add_iff_left, hl]
  · rw [if_neg (by omega), if_neg (fun h => hq h.1)]

/-- Settles O53: reads after writes by the lemmas above, the frame since a write changes its own file alone. -/
theorem registerReadsAfterWrites : Obligations.RegisterReadsAfterWrites := by
  intro st r q l x m xs hl
  refine ⟨sregOf_setS r q x st, hregOf_setH r q x st, rfl, if_pos rfl, fun hr => pregOf_setP_lane r q l m x st hr hl,
    fun hx => laneOf_setV r q l m xs st hl hx, fun n => ⟨rfl, rfl, rfl, rfl, rfl, rfl, ?_, ?_, ?_⟩⟩
  · rw [sregOf, setP_sreg]; rfl
  · rw [laneOf, setP_vreg]; rfl
  · rw [hregOf, setP_hreg]; rfl

/-! ### The words of the classes that write registers (R54, R86) -/

/-- Where the outcome is a next state, a word without a trap has added at most one write in flight. -/
def landsOut (d : Dst) (s : State) (o : Host.Outcome State Fault Refusal) : Prop := ∀ t, o = .next t → LandsOnly d s t

theorem landsOut_next {d : Dst} {s t : State} (h : LandsOnly d s t) : landsOut d s (.next t) := by
  rintro _ ⟨⟩
  exact h

section
variable (w : O3) (s : State)

theorem landsOut_land {n : Nat} {t : Target} {f : Flags} (h : namesDst w.dst t) : landsOut w.dst s (.next (landAt n t f s)) :=
  landsOut_next (landsOnly_land _ _ _ _ _ h)

theorem landsOut_lanes {cls op : Nat} {ts : List Ty} {dyn : Bool} {k : State → State} (h : LandsOnly w.dst s (k s)) :
    landsOut w.dst s (.next (whenLanes cls op w ts dyn k s)) := landsOut_next (landsOnly_lanes _ _ _ _ _ _ _ _ h)

theorem landsOut_move (n : Nat) (f : Nat → Lane) : landsOut w.dst s (.next (moveLanes n w f s)) := landsOut_next (landsOnly_move ..)

theorem landsOut_pred (x : Word) : landsOut w.dst s (.next (writePred w x s)) := landsOut_land w s (namesDst_pred ..)

theorem ops0C_land : ∀ e ∈ ops0C, landsOut w.dst s (exec (e w) s) := by
  simp only [ops0C, List.forall_mem_cons, List.not_mem_nil, false_imp_iff, implies_true, and_true]
  exact ⟨landsOut_pred w s _, landsOut_pred w s _, landsOut_pred w s _, landsOut_pred w s _, landsOut_pred w s _, landsOut_pred w s _,
    landsOut_land w s (namesDst_vector ..), landsOut_land w s (namesDst_scalar ..), landsOut_land w s (namesDst_scalar ..), landsOut_pred w s _⟩

theorem ops09_land : ∀ e ∈ ops09, landsOut w.dst s (exec (e w) s) := by
  have int (f) : landsOut w.dst s (.next (vecInt w f s)) := landsOut_next (landsOnly_vecInt ..)
  simp only [ops09, List.forall_mem_cons, List.not_mem_nil, false_imp_iff, implies_true, and_true]
  exact ⟨int _, int _, int _, int _, int _, int _, int _, int _, int _, int _, int _, int _, int _, int _, int _, int _, int _,
    landsOut_land w s (namesDst_pred ..), landsOut_land w s (namesDst_vector ..), int _, int _⟩

variable (hu : s.upsets = [])
include hu

theorem ops01_land : ∀ e ∈ ops01, landsOut w.dst s (exec (e w) s) := by
  have int (f) : landsOut w.dst s (.next (scalarInt w f s)) := landsOut_next (landsOnly_scalarInt w f s hu)
  have field (f) : landsOut w.dst s (.next (scalarField w f s)) := landsOut_next (landsOnly_scalarField w f s hu)
  have word {k} (h : LandsOnly w.dst s (k s)) : landsOut w.dst s (.next (scalarWord w.v w.g w.gn k s)) :=
    landsOut_next (landsOnly_scalar _ _ _ _ _ _ hu h)
  have minMax (m f) : landsOut w.dst s (.next (if w.ty = .f32 then scalarMinMax w m s else scalarInt w f s)) := by
    split
    · exact landsOut_next (landsOnly_minmax w m s hu)
    · exact int f
  have cmp : landsOut w.dst s (execCmp w s) := word (by
    split
    · exact landsOnly_deliverScalar ..
    · exact landsOnly_landS ..)
  simp only [ops01, List.forall_mem_cons, List.not_mem_nil, false_imp_iff, implies_true, and_true]
  exact ⟨int _, int _, int _, int _, int _, field _, field _, field _, field _, int _, field _, field _, field _, minMax _ _, minMax _ _,
    int _, int _, field _, field _, word (landsOnly_landS ..), word (landsOnly_landS ..), cmp, word (landsOnly_landS ..), int _,
    word (landsOnly_landS ..)⟩

theorem ops08_land : ∀ e ∈ ops08, landsOut w.dst s (exec (e w) s) := by
  have fp (op dyn f) : landsOut w.dst s (.next (vecFp op w dyn f s)) := landsOut_next (landsOnly_vecFp op w dyn f s hu)
  simp only [ops08, List.forall_mem_cons, List.not_mem_nil, false_imp_iff, implies_true, and_true]
  exact ⟨fp _ _ _, fp _ _ _, fp _ _ _, fp _ _ _, fp _ _ _, fp _ _ _, fp _ _ _, fp _ _ _, fp _ _ _, fp _ _ _, fp _ _ _,
    landsOut_lanes w s (landsOnly_deliverFp _ _ _ _ _ _ (namesDst_pred ..)), fp _ _ _⟩

theorem ops0B_land : ∀ e ∈ ops0B, landsOut w.dst s (exec (e w) s) := by
  have conv (op f) : LandsOnly w.dst s (convert op w f s) := landsOnly_conv op w f s hu
  have reduce (r) : LandsOnly w.dst s (reduceWord w r s) := landsOnly_reduce w r s hu
  have scan : landsOut w.dst s (execVscan w s) := landsOut_lanes w s (by
    simp only [checkShadow_eq _ _ s hu]
    exact landsOnly_data _ _ _ _ _ _ _ (namesDst_vector ..))
  have rngf : landsOut w.dst s (execVrngf w s) := landsOut_next (by
    simp only [checkShadow_eq _ _ s hu]
    exact landsOnly_deliverFp _ _ _ _ _ _ (namesDst_vector ..))
  simp only [ops0B, List.forall_mem_cons, List.not_mem_nil, false_imp_iff, implies_true, and_true]
  exact ⟨landsOut_lanes w s (conv _ _), landsOut_lanes w s (conv _ _), landsOut_lanes w s (landsOnly_move ..),
    landsOut_lanes w s (landsOnly_move ..), landsOut_move w s _ _, landsOut_move w s _ _, landsOut_move w s _ _, landsOut_move w s _ _, landsOut_move w s _ _,
    landsOut_move w s _ _, landsOut_move w s _ _, landsOut_move w s _ _, landsOut_next (landsOnly_guard _ _ _ _ _ (landsOnly_landS ..)),
    landsOut_land w s (namesDst_vector ..), landsOut_lanes w s (reduce _), landsOut_next (reduce _), landsOut_next (reduce _), scan,
    landsOut_land w s (namesDst_vector ..), rngf⟩

end

theorem ops02_land (w : I32) (s : State) (hu : s.upsets = []) : ∀ e ∈ ops02, landsOut w.dst s (exec (e w) s) := by
  have imm (f) : landsOut w.dst s (.next (immOp w f s)) := landsOut_next (landsOnly_imm w f s hu)
  simp only [ops02, List.forall_mem_cons, List.not_mem_nil, false_imp_iff, implies_true, and_true]
  exact ⟨imm _, landsOut_next (landsOnly_scalar _ _ _ _ _ _ hu (landsOnly_landS ..)), imm _, imm _, imm _, imm _, imm _⟩

/-- Settles O54: class by class each word is one of the shared operations, and each of those adds at most one landing. -/
theorem registerWordFrame : Obligations.RegisterWordFrame := by
  rintro i d s t hi hu - - he hr hl
  have lands : LandsOnly d s t := by
    rcases hi with ⟨w, rfl, e, hm, rfl⟩ | ⟨w, rfl, e, hm, rfl⟩
    · simp only [List.mem_append] at hm
      obtain (((hm | hm) | hm) | hm) | hm := hm
      · exact ops01_land w s hu e hm t he
      · exact ops08_land w s hu e hm t he
      · exact ops09_land w s e hm t he
      · exact ops0B_land w s hu e hm t he
      · exact ops0C_land w s e hm t he
    · exact ops02_land w s hu e hm t he
  obtain ⟨ho, hw, hmem, hs, gs, hlen, hst, hgs⟩ := lands.h ⟨hr, hl⟩
  exact ⟨ho, hw, hmem, hs, gs, hlen, hst, hgs⟩

end Sys2Proof.Machine

namespace Sys2Proof.Machine

/-! ## Trap entry and CR.CAUSE -/

/-- The strand behind its trap entry. -/
theorem strandAt_enterTrap (n k c : Nat) (r : TrapReq) (s : State) :
    strandAt (enterTrap n k r c s) n k = enteredStrand r c s.cycle (spindleAt s n).tvec (strandAt s n k) := by
  obtain ⟨w, q, h⟩ := enterTrap_shape n k c r s
  rw [h]
  exact strandAt_updStrand_same ..

/-- Settles O55: the strand in its handler is `enteredStrand`, and `kept_enterTrap` gives what trap entry keeps. -/
theorem trapEntry : Obligations.TrapEntry := by
  intro n k c r s
  obtain ⟨hr, ho, hm⟩ := kept_enterTrap n k r c s
  simp only [strandAt_enterTrap] at hr ⊢
  exact ⟨rfl, rfl, rfl, rfl, rfl, rfl, rfl, rfl, rfl, rfl, hr, rfl, rfl, rfl, rfl, rfl, ho, hm⟩

/-! ### The fields of CR.CAUSE (R63, R64) -/

theorem causeValue_toNat (r : TrapReq) : (causeValue r).toNat = r.detail.toNat * 4294967296 + (if r.pair2 then 32768 else 0) + r.code.toNat := by
  have hd := r.detail.isLt
  have hc := r.code.isLt
  rw [causeValue, BitVec.toNat_ofNat]
  split <;> omega

/-- DETAIL, zeros, the second word of a pair, zeros, the cause: no two fields overlap. -/
theorem causeValue_fields (r : TrapReq) : (causeValue r).extractLsb' 32 32 = r.detail ∧ (causeValue r).extractLsb' 16 16 = 0 ∧
    (causeValue r).getLsbD 15 = r.pair2 ∧ (causeValue r).extractLsb' 8 7 = 0 ∧ (causeValue r).extractLsb' 0 8 = r.code := by
  have hv := causeValue_toNat r
  have hd := r.detail.isLt
  have hc := r.code.isLt
  have field {m} (lo : Nat) (x : BitVec m) (h : (causeValue r).toNat / 2 ^ lo % 2 ^ m = x.toNat) : (causeValue r).extractLsb' lo m = x :=
    BitVec.eq_of_toNat_eq (by rw [BitVec.extractLsb'_toNat, Nat.shiftRight_eq_div_pow, h])
  have pair : (causeValue r).getLsbD 15 = r.pair2 := by
    rw [← bitOf_eq_getLsbD]
    refine bitOf_of_eq ?_
    cases hp : r.pair2 <;> simp only [hp, Bool.false_eq_true, if_true, if_false, bit] at hv ⊢ <;> omega
  refine ⟨field 32 _ ?_, field 16 0 (Eq.trans ?_ BitVec.toNat_zero.symm), pair, field 8 0 (Eq.trans ?_ BitVec.toNat_zero.symm), field 0 _ ?_⟩ <;>
    split at hv <;> omega

/-- What a precise trap of a word alone, outside a handler and with no write in flight, leaves in CR.CAUSE. -/
theorem cause_raise {code detail : Nat} {ea : Word} {s : State} (hp : s.cur.pair = false) (he : (me s).exl = false) (hl : (me s).landings = []) :
    (strandAt (raise code detail ea s) s.cur.spn s.cur.strand).cause = causeValue (trapOf code detail .precise s.cur.group ea s) := by
  have hme (r) : strandAt (noteRaised r s) s.cur.spn s.cur.strand = me s := rfl
  have hin (r) : inFlight (strandAt (updStrand s.cur.spn s.cur.strand holdPending (noteRaised r s)) s.cur.spn s.cur.strand) = false := by
    rw [strandAt_updStrand_same, hme, inFlight, holdPending]
    split <;> simp only [hl, List.isEmpty_nil, Bool.not_true]
  simp only [raise, raiseReq, hp, Bool.false_eq_true, if_false, takeTrap, hme, he, beginTrap, hin, strandAt_enterTrap]
  rfl

/-- DETAIL of ILLEGAL: class, operation and reason (R64). -/
theorem illegalDetail_fields {cls op reason : Nat} (ho : op < 64) (hr : reason < 16) {x : Word}
    (hx : x.extractLsb' 32 32 = BitVec.ofNat 32 (cls * 2 ^ 26 + op * 2 ^ 20 + reason * 2 ^ 16)) :
    x.extractLsb' 58 6 = BitVec.ofNat 6 cls ∧ x.extractLsb' 52 6 = BitVec.ofNat 6 op ∧ x.extractLsb' 48 4 = BitVec.ofNat 4 reason ∧
      x.extractLsb' 32 16 = 0 := by
  have hd : x.toNat / 2 ^ 32 % 2 ^ 32 = (cls * 2 ^ 26 + op * 2 ^ 20 + reason * 2 ^ 16) % 2 ^ 32 := by
    have := congrArg BitVec.toNat hx
    rwa [BitVec.extractLsb'_toNat, Nat.shiftRight_eq_div_pow, BitVec.toNat_ofNat] at this
  have field {m} (lo v : Nat) (h : x.toNat / 2 ^ lo % 2 ^ m = v % 2 ^ m) : x.extractLsb' lo m = BitVec.ofNat m v :=
    BitVec.eq_of_toNat_eq (by rw [BitVec.extractLsb'_toNat, Nat.shiftRight_eq_div_pow, h, BitVec.toNat_ofNat])
  refine ⟨field 58 cls ?_, field 52 op ?_, field 48 reason ?_, field 32 0 ?_⟩ <;> omega

/-- Settles O56: by the fields of `causeValue`, and for ILLEGAL those of its DETAIL. -/
theorem causeLayout : Obligations.CauseLayout := by
  refine ⟨fun n k c r s => ⟨causeValue r, ?_, causeValue_fields r⟩, fun cls op reason s _ ho hr hp he hl => ?_⟩
  · exact congrArg (fun st : Strand => some st.cause) (strandAt_enterTrap n k c r s)
  · rw [raiseIllegal, cause_raise hp he hl]
    obtain ⟨hd, -, -, -, h8⟩ := causeValue_fields (trapOf 0x01 (cls * 2 ^ 26 + op * 2 ^ 20 + reason * 2 ^ 16) .precise s.cur.group 0 s)
    obtain ⟨h1, h2, h3, h4⟩ := illegalDetail_fields ho hr hd
    exact ⟨h1, h2, h3, h4, h8⟩

end Sys2Proof.Machine

namespace Sys2Proof.Machine

/-! ## Words whose guard is false -/

theorem mem_of_opAt {α : Type} {l : List α} {op : Nat} {e : α} (h : opAt l op = some e) : e ∈ l := by
  rw [opAt, Option.ite_none_left_eq_some] at h
  exact List.mem_of_getElem? h.2

/-- An operation from number `n + 1` on stands behind the first `n` of its list. -/
theorem mem_drop_of_opAt {α : Type} {l : List α} {op n : Nat} {e : α} (h : opAt l op = some e) (hn : n < op) : e ∈ l.drop n := by
  rw [opAt, Option.ite_none_left_eq_some] at h
  refine List.mem_of_getElem? (i := op - 1 - n) ?_
  rw [List.getElem?_drop, show n + (op - 1 - n) = op - 1 by omega, h.2]

theorem mem_of_ops03 {op : Nat} {e : O3 → Instr} (h : ops03 op = some e) : e = .movl ∨ e ∈ [Instr.calli, .ret, .jmpi, .halt, .yield] := by
  unfold ops03 at h
  split at h <;> cases h <;> simp

theorem mem_of_opsB24 {op : Nat} {e : B24 → Instr} (h : opsB24 op = some e) : e ∈ [Instr.br, .call, .loop, .loopi] := by
  unfold opsB24 at h
  split at h <;> cases h <;> simp

theorem exec_movl_false {s : State} {w : O3} (h : guard0 s w.g w.gn = false) : exec (.movl w) s = .next s :=
  congrArg Host.Outcome.next (if_pos (by rw [h]; rfl))

section
variable {s : State} {w : O3} (h : guard0 s w.g w.gn = false) (hw : (me s).wait = none) (hm : (me s).mem = none)
include h hw hm

/-- The words that are guarded as a whole: all of classes 0x04 and 0x10 to 0x24, DIV and REM. -/
theorem exec_guarded_false : ∀ l ∈ [ops04, ops0A.drop 6, ops10, ops11, ops14, ops15, ops18, ops1C, ops20, ops24], ∀ e ∈ l,
    exec (e w) s = .next s := by
  have off (k) : (.next (whenGuard w.g w.gn k s) : Host.Outcome State Fault Refusal) = .next s :=
    congrArg Host.Outcome.next (whenGuard_false w.g w.gn k s h hw hm)
  have qstat : exec (qstatOf w) s = .next s := by
    unfold qstatOf
    (repeat' split) <;> exact off _
  have lzdef : exec (lzdefOf w) s = .next s := by
    unfold lzdefOf
    split <;> exact off _
  have mcack : exec (mcackOf w) s = .next s := by
    unfold mcackOf
    (repeat' split) <;> exact off _
  simp only [ops04, ops0A, ops10, ops11, ops14, ops15, ops18, ops1C, ops20, ops24, List.drop_succ_cons, List.drop_zero,
    List.forall_mem_cons, List.not_mem_nil, false_imp_iff, implies_true, and_true, true_and, qstat, lzdef, mcack]
  and_intros <;> exact off _

variable (hu : s.upsets = [])
include hu

/-- The words whose copies vote before the guard decides: class 0x01, and those of class 0x03 in form O3 but MOVL. -/
theorem exec_scalar_false : ∀ e ∈ ops01 ++ [Instr.calli, .ret, .jmpi, .halt, .yield], exec (e w) s = .next s := fun e he => by
  obtain ⟨k, hk⟩ := exec_isScalarWord w e ((show ops01 ++ _ ⊆ _ by
    simp only [ops01, List.cons_append, List.nil_append, List.cons_subset, List.nil_subset, List.mem_cons, true_or, or_true, and_true]) he)
  rw [hk, scalarWord_false _ _ _ k s h hw hm hu]

/-- Form O3, outside classes 0x08, 0x09, 0x0B and 0x0C and the vector words of class 0x0A. -/
theorem exec_o3_false {cls op : Nat} {mk : O3 → Instr} (ho : o3Op cls op = some mk) (h8 : cls ≠ 0x08) (h9 : cls ≠ 0x09) (hB : cls ≠ 0x0B)
    (hC : cls ≠ 0x0C) (hA : cls = 0x0A → 7 ≤ op) : exec (mk w) s = .next s := by
  have guarded (l) (hl : l ∈ [ops04, ops0A.drop 6, ops10, ops11, ops14, ops15, ops18, ops1C, ops20, ops24]) (ho : mk ∈ l) :=
    exec_guarded_false h hw hm l hl mk ho
  have scalar (hmem : mk ∈ ops01 ++ [Instr.calli, .ret, .jmpi, .halt, .yield]) := exec_scalar_false h hw hm hu mk hmem
  unfold o3Op at ho
  split at ho
  · exact scalar (List.mem_append_left _ (mem_of_opAt ho))
  · rcases mem_of_ops03 ho with rfl | hmem
    · exact exec_movl_false h
    · exact scalar (List.mem_append_right _ hmem)
  · exact guarded ops04 (by simp) (mem_of_opAt ho)
  · exact absurd rfl h8
  · exact absurd rfl h9
  · exact guarded (ops0A.drop 6) (by simp) (mem_drop_of_opAt ho (hA rfl))
  · exact absurd rfl hB
  · exact absurd rfl hC
  · exact guarded ops10 (by simp) (mem_of_opAt ho)
  · exact guarded ops11 (by simp) (mem_of_opAt ho)
  · exact guarded ops14 (by simp) (mem_of_opAt ho)
  · exact guarded ops15 (by simp) (mem_of_opAt ho)
  · exact guarded ops18 (by simp) (mem_of_opAt ho)
  · exact guarded ops1C (by simp) (mem_of_opAt ho)
  · exact guarded ops20 (by simp) (mem_of_opAt ho)
  · exact guarded ops24 (by simp) (mem_of_opAt ho)
  · cases ho

end

/-- Settles O60: form O3 by its class, the immediate words and the branches as scalar words. -/
theorem falseGuardHasNoEffect : Obligations.FalseGuardHasNoEffect := by
  intro s hw hm hu
  refine ⟨fun w cls op mk h ho h8 h9 hB hC hA => exec_o3_false h hw hm hu ho h8 h9 hB hC hA, fun w mk h hmem => ?_, fun w op mk h ho => ?_⟩
  · obtain ⟨k, hk⟩ := exec_isScalarWord_imm w mk hmem
    rw [hk, scalarWord_false _ _ _ k s h hw hm hu]
  · obtain ⟨k, hk⟩ := exec_isScalarWord_branch w mk (mem_of_opsB24 ho)
    rw [hk, scalarWord_false _ _ _ k s h hw hm hu]

end Sys2Proof.Machine

namespace Sys2Proof.Machine

/-! ## Where control words and system words trap -/

/-! ### Control words that go (R89, R92, R102, R103, R105) -/

section
variable {w : O3} {s : State} (h : goes w.g w.gn s)
include h

theorem execJmpi_goes : execJmpi w s = .next (whenTarget (srcZero s w.a) transfer s) := congrArg Host.Outcome.next (scalarWord_eq _ _ _ _ s h)

theorem execCalli_goes : execCalli w s = .next (whenTarget (srcZero s w.a) callTo s) := congrArg Host.Outcome.next (scalarWord_eq _ _ _ _ s h)

theorem execRet_empty (hd : (rd s).depth = 0) : execRet w s = .next (raise 0x0C (det 2 0) 0 s) :=
  congrArg Host.Outcome.next ((scalarWord_eq _ _ _ _ s h).trans (if_pos hd))

theorem execRet_goes (hd : (rd s).depth ≠ 0) :
    execRet w s = .next (whenTarget (rasTop (rd s)) (fun t s => transfer t (updMe rasPop s)) s) :=
  congrArg Host.Outcome.next ((scalarWord_eq _ _ _ _ s h).trans (if_neg hd))

theorem execMovl_empty (hl : (latchAt (rd s) w.a.litVal).st = .empty) : execMovl w s = .next (raiseSched 0xE0 w.a.litVal s) := by
  rw [execMovl_votes w s h.1 (by rw [hl]; nofun), voted_eq _ _ _ h.2, hl, if_neg (by nofun)]

end

theorem whenTarget_unaligned {t : Word} (k : Word → State → State) (s : State) (ht : t.toNat % 8 ≠ 0) : whenTarget t k s = raiseAlign 0 s :=
  if_neg (by rw [aligned, decide_eq_true_eq]; exact ht)

theorem whenTarget_aligned {t : Word} (k : Word → State → State) (s : State) (ht : t.toNat % 8 = 0) : whenTarget t k s = k (addr57 t) s :=
  if_pos (decide_eq_true ht)

theorem callTo_full (t : Word) (s : State) (hd : (rd s).depth = 80) : callTo t s = raise 0x0C (det 1 0) 0 s := if_pos hd

theorem execCall_full {w : B24} {s : State} (h : goes w.g w.gn s) (hd : (rd s).depth = 80) :
    execCall w s = .next (raise 0x0C (det 1 0) 0 s) :=
  congrArg Host.Outcome.next ((scalarWord_eq _ _ _ _ s h).trans (callTo_full _ s hd))

/-- A second loop with two stages or more. -/
theorem execLoop_second {w : B24} {s : State} (h : goes w.g w.gn s) (hx : (srcZero s (loopSource w.aux)).toNat / 2 ^ 32 % 8 ≠ 0)
    (hm : (modLoop (rd s)).any (fun x => x ≠ w.lid.val) = true) : execLoop w s = .next (raiseSched 0xE1 w.lid.val s) := by
  have h2 : 2 ≤ bits (srcZero s (loopSource w.aux)).toNat 32 3 + 1 := Nat.succ_le_succ (Nat.pos_of_ne_zero hx)
  exact congrArg Host.Outcome.next ((scalarWord_eq _ _ _ _ s h).trans (if_pos ⟨h2, hm⟩))

/-! ### System words (R108, R109, R124, R126) -/

/-- The numbers up to 0x13 are assigned, and no other. -/
theorem crRead_some {r : Nat} (s : State) (n : Nat) (p : Spindle) (st : Strand) (hr : r ≤ 0x13) : ∃ x, crRead s n p st r = some x := by
  interval_cases r <;> exact ⟨_, rfl⟩

theorem crRead_none {r : Nat} (s : State) (n : Nat) (p : Spindle) (st : Strand) (hr : 0x13 < r) : crRead s n p st r = none := by
  obtain ⟨m, rfl⟩ := Nat.exists_eq_add_of_le' hr
  rfl

section
variable {w : O3} {s : State} (h : guard0 s w.g w.gn = true)
include h

theorem execMfcr_unassigned (hn : 0x13 < srcNum s w.a 8) : execMfcr w s = .next (raiseIllegal 0x04 0x03 5 s) := by
  simp only [execMfcr, whenGuard_of_guard0 w.g w.gn _ s h, crRead_none s s.cur.spn (mySpindle s) (me s) hn]

theorem execMfcr_hidden (hp : (me s).privm = false) (h1 : 0x08 ≤ srcNum s w.a 8) (h2 : srcNum s w.a 8 ≤ 0x10) :
    execMfcr w s = .next (raisePriv s) := by
  obtain ⟨x, hx⟩ := crRead_some s s.cur.spn (mySpindle s) (me s) (Nat.le_trans h2 (by decide))
  have hh : (crHidden (srcNum s w.a 8) && !(me s).privm) = true := by
    rw [crHidden, hp, decide_eq_true h1, decide_eq_true h2]; rfl
  simp only [execMfcr, whenGuard_of_guard0 w.g w.gn _ s h, hx]
  exact congrArg Host.Outcome.next (if_pos hh)

theorem execMtcr_unassigned (hn : 0x13 < srcNum s w.a 8) : execMtcr w s = .next (raiseIllegal 0x04 0x04 5 s) := by
  rw [execMtcr, whenGuard_of_guard0 w.g w.gn _ s h, if_pos hn]

theorem execMtcr_system (hp : (me s).privm = false) (hn : srcNum s w.a 8 = 0x02 ∨ (0x08 ≤ srcNum s w.a 8 ∧ srcNum s w.a 8 ≤ 0x12)) :
    execMtcr w s = .next (raisePriv s) := by
  have hs : (crSystem (srcNum s w.a 8) && !(me s).privm) = true := by simpa [crSystem, hp] using hn
  rw [execMtcr, whenGuard_of_guard0 w.g w.gn _ s h, if_neg (by omega), if_pos hs]

theorem execEret_unprivileged (hp : (me s).privm = false) : execEret w s = .next (raisePriv s) := by
  rw [execEret, whenGuard_of_guard0 w.g w.gn _ s h, whenPriv, hp, if_neg Bool.false_ne_true]

theorem execEret_outside (hp : (me s).privm = true) (he : (me s).exl = false) : execEret w s = .next (raiseSched 0xE2 0 s) := by
  rw [execEret, whenGuard_of_guard0 w.g w.gn _ s h, whenPriv, hp, if_pos rfl, he, Bool.not_false, if_pos rfl]

theorem execEret_unaligned (hp : (me s).privm = true) (he : (me s).exl = true) (ha : (me s).epc.toNat % 8 ≠ 0) :
    execEret w s = .next (raiseAlign 0 s) := by
  rw [execEret, whenGuard_of_guard0 w.g w.gn _ s h, whenPriv, hp, if_pos rfl, he, Bool.not_true, if_neg Bool.false_ne_true, aligned,
    decide_eq_false ha, Bool.not_false, if_pos rfl]

theorem execStrstart_busy (hr : (strandAt s s.cur.spn (srcNum s w.a 2)).run = .running ∨ (strandAt s s.cur.spn (srcNum s w.a 2)).run = .dtrap) :
    execStrstart w s = .next (raiseSched 0xE3 (srcNum s w.a 2) s) := by
  have hb : (strandOf (mySpindle s) (srcNum s w.a 2)).run ≠ .idle ∧ (strandOf (mySpindle s) (srcNum s w.a 2)).run ≠ .halted := by
    change (strandAt s s.cur.spn (srcNum s w.a 2)).run ≠ .idle ∧ (strandAt s s.cur.spn (srcNum s w.a 2)).run ≠ .halted
    rcases hr with hr | hr <;> rw [hr] <;> exact ⟨nofun, nofun⟩
  rw [execStrstart, whenGuard_of_guard0 w.g w.gn _ s h, if_pos hb]

theorem execStrstart_unaligned (hr : (strandAt s s.cur.spn (srcNum s w.a 2)).run = .idle ∨ (strandAt s s.cur.spn (srcNum s w.a 2)).run = .halted)
    (ha : (srcZero s w.b).toNat % 8 ≠ 0) : execStrstart w s = .next (raiseAlign 0 s) := by
  have hb : ¬((strandOf (mySpindle s) (srcNum s w.a 2)).run ≠ .idle ∧ (strandOf (mySpindle s) (srcNum s w.a 2)).run ≠ .halted) :=
    fun hn => hr.elim hn.1 hn.2
  rw [execStrstart, whenGuard_of_guard0 w.g w.gn _ s h, if_neg hb, aligned, decide_eq_false ha, Bool.not_false, if_pos rfl]

end

/-- Settles O5: each clause is a lemma above. -/
theorem controlTraps : Obligations.ControlTraps := by
  refine ⟨⟨fun w s h => ⟨fun hd => execCall_full h hd, fun hx hm => execLoop_second h hx hm⟩, fun w s h => ⟨fun ht => ⟨?_, ?_⟩, fun ht hd => ?_,
    fun hd => execRet_empty h hd, fun hd ht => ?_, fun hl => execMovl_empty h hl⟩⟩, fun w s h => ⟨fun hp => ⟨fun h1 h2 => execMfcr_hidden h hp h1 h2,
      fun hn => execMtcr_system h hp hn, execEret_unprivileged h hp⟩, fun hn => ⟨execMfcr_unassigned h hn, execMtcr_unassigned h hn⟩,
    fun hp he => execEret_outside h hp he, fun hp he ha => execEret_unaligned h hp he ha, fun hr => execStrstart_busy h hr,
    fun hr ha => execStrstart_unaligned h hr ha⟩⟩
  · exact (execCalli_goes h).trans (congrArg Host.Outcome.next (whenTarget_unaligned _ s ht))
  · exact (execJmpi_goes h).trans (congrArg Host.Outcome.next (whenTarget_unaligned _ s ht))
  · exact (execCalli_goes h).trans (congrArg Host.Outcome.next ((whenTarget_aligned _ s ht).trans (callTo_full _ s hd)))
  · exact (execRet_goes h hd).trans (congrArg Host.Outcome.next (whenTarget_unaligned _ s ht))

end Sys2Proof.Machine

namespace Sys2Proof.Machine

/-! ## A step runs the instruction that is decoded -/

/-- What a step does with the state that its move leaves: no word stays in focus, and a vote that has turned non-zero is cast (R333). -/
def comeToRest (t : State) : Host.Outcome State Fault Refusal := .next (castEarly { t with cur := .start })

theorem thenDo_assoc (o : Host.Outcome State Fault Refusal) (f g : State → Host.Outcome State Fault Refusal) :
    thenDo (thenDo o f) g = thenDo o fun x => thenDo (f x) g := by
  cases o <;> rfl

/-! ### The move that a step takes -/

theorem step_event {s : State} {i : Instr} {r : List Turn} (ha : s.agenda = .event i :: r) :
    step s = thenDo (exec i { s with agenda := r, cur := .start }) comeToRest := by
  rw [step, ha]
  exact (thenDo_next _).symm

/-- A turn of the machine's own: the plan has ended, or names one. -/
theorem step_own {h : Bool} {s s1 : State} (hq : s.quiet h s1) : step s = thenDo (ownMove h s1) comeToRest := by
  obtain ⟨⟨ha, rfl, rfl⟩ | ⟨r, ha, rfl⟩, -⟩ := hq
  · rw [step, ha]
    exact (thenDo_next _).symm
  · cases h <;> rw [step, ha] <;> exact (thenDo_next _).symm

section
variable {h : Bool} {s : State} (hd : nextMove h s = none)
include hd

theorem ownMove_issue {n k : Nat} (hi : nextIssue s = some (n, k)) : ownMove h s = issueGroup n k s := by
  simp only [ownMove, hd, hi]

/-- Where no strand may issue, the engines come, then the Whorls, then the end of the cycle. -/
theorem ownMove_unissued (hi : nextIssue s = none) :
    ownMove h s = ((engineMove h s).or (whorlMoves s)).getD (.next (endCycle s)) := by
  simp only [ownMove, hd, hi]
  cases (engineMove h s).or (whorlMoves s) <;> rfl

end

/-! ### The issue of a group -/

section
variable {n k : Nat} {s : State} {w1 w2 : Nat} (hf : fetchGroup s n k = .words w1 w2)
include hf

theorem issueGroup_error {e : DecErr} (he : decodeGroup w1 w2 = .error e) :
    issueGroup n k s = .next (afterIssue n k (strandAt s n k)
      (raiseIllegal e.cls e.op e.reason { s with cur := { groupFocus s n k false with second := e.second } })) := by
  simp only [issueGroup, hf, he]

variable {i : Instr}

theorem issueGroup_marked {o : Option Instr} {x : Bool × Nat} (hg : decodeGroup w1 w2 = .ok (i, o))
    (hm : groupMark (strandAt s n k) i o = some x) :
    issueGroup n k s = .next (afterIssue n k (strandAt s n k)
      (raisePoison x.2 0 { s with cur := { groupFocus s n k false with second := x.1 } })) := by
  simp only [issueGroup, hf, hg, hm]

theorem issueGroup_solo (hg : decodeGroup w1 w2 = .ok (i, none)) (hm : groupMark (strandAt s n k) i none = none) :
    issueGroup n k s = thenDo (exec i { s with cur := groupFocus s n k false })
      fun t => .next (afterIssue n k (strandAt s n k) (soloEnd t)) := by
  simp only [issueGroup, hf, hg, hm]
  exact thenDo_assoc _ _ _

theorem issueGroup_pair {j : Instr} (hg : decodeGroup w1 w2 = .ok (i, some j)) (hm : groupMark (strandAt s n k) i (some j) = none) :
    issueGroup n k s = thenDo (runPair i j { s with cur := groupFocus s n k true })
      fun t => .next (afterIssue n k (strandAt s n k) t) := by
  simp only [issueGroup, hf, hg, hm]

end

/-- The words of a pair, and what follows them: the second runs where the first neither traps nor issues again. -/
theorem thenDo_runPair (i j : Instr) (s : State) (k : State → Host.Outcome State Fault Refusal) :
    thenDo (runPair i j s) k = thenDo (exec i s) fun x =>
      if pairOver x.cur then k (pairEnd s x) else thenDo (exec j (secondWord x)) fun y => k (pairEnd s (joinWords x y)) := by
  rw [runPair, thenDo_assoc]
  congr 1
  funext x
  split
  · rfl
  · exact thenDo_assoc _ _ _

/-! ### The next word of a Whorl -/

theorem runWord_decoded {s : State} {d pc : Nat} {i : Instr} (hi : decodeWhorl (SMap.get 0 (whorlAt s d).prog pc).toNat = some i) :
    runWord s d pc = exec i { s with cur := { Focus.start with whorl := d } } := by
  simp only [runWord, hi]

theorem whorlMove_due {s : State} {d : Nat} {w : Whorl} {r : WRun} (hr : w.run = some r) (hd : r.due ≤ s.tick) :
    whorlMove s d w = some (runWord s d r.pc) := by
  simp only [whorlMove, hr, if_pos hd]

/-- The first Whorl in the order of the list that has something due moves. -/
theorem whorlMoves_first {s : State} {d : Nat} {w : Whorl} {vs ws : SMap Whorl} {o : Host.Outcome State Fault Refusal}
    (hw : s.whorls = vs ++ (d, w) :: ws) (hv : ∀ x ∈ vs, whorlMove s x.1 x.2 = none) (ho : whorlMove s d w = some o) : whorlMoves s = some o := by
  rw [whorlMoves, hw, List.findSome?_append, List.findSome?_eq_none_iff.mpr hv, List.findSome?_cons_of_isSome]
  · exact ho
  · exact Option.isSome_of_eq_some ho

/-! ### What the fetch of a group reads (R45) -/

/-- On frames that are not versioned the home returns the bytes of memory. -/
theorem homeBytes_eq_memBytes (s : State) (x : Option (BitVec 16)) (n : Nat) : ∀ pa, (∀ i, i < n → vpageAt s (pa + i) = none) →
    homeBytes s x pa n = memBytes s pa n := by
  induction n with
  | zero => exact fun _ _ => rfl
  | succ n ih =>
    intro pa hv
    have h0 : homeByte s x pa = memByte s pa := by rw [homeByte, readAt, show vpageAt s pa = none from hv 0 n.succ_pos]
    have ht : homeBytes s x (pa + 1) n = memBytes s (pa + 1) n :=
      ih (pa + 1) fun i hi => by rw [Nat.add_assoc, Nat.add_comm 1 i]; exact hv (i + 1) (Nat.succ_lt_succ hi)
    rw [homeBytes, h0, ht]
    rfl

/-- A good word in a frame that is not versioned, with no store on its way. -/
theorem fetchWord_plain {s : State} {n k pa : Nat} {va : Word} (hp : s.posted = []) (ha : physOf s (spindleAt s n).part va.toNat = some pa)
    (hv : ∀ i, i < 8 → vpageAt s (pa + i) = none) (hm : skeinMark s (skeinOf n) (attOf s (strandAt s n k).tag) pa = 0) :
    fetchWord s n k va = .word (ofBytes (memBytes s pa 8)) := by
  have hs : strandPoison s n k (attOf s (strandAt s n k).tag) pa = 0 := by rw [strandPoison, hp]; exact hm
  have hb : strandBytes s n k (attOf s (strandAt s n k).tag) pa 8 = memBytes s pa 8 := by
    rw [strandBytes, hp]; exact homeBytes_eq_memBytes s _ 8 pa hv
  simp only [fetchWord, ha, hs, hb, ne_eq, not_true_eq_false, if_false]

section
variable {s : State} {n k w1 : Nat} (h1 : fetchWord s n k (strandAt s n k).pc = .word w1)
include h1

theorem fetchGroup_single (hp : wordP w1 = false) : fetchGroup s n k = .words w1 0 := by
  simp only [fetchGroup, h1, hp, Bool.false_eq_true, if_false]

theorem fetchGroup_double {w2 : Nat} (hp : wordP w1 = true) (h2 : fetchWord s n k (addr57 ((strandAt s n k).pc + 8)) = .word w2) :
    fetchGroup s n k = .words w1 w2 := by
  simp only [fetchGroup, h1, hp, h2, if_true]

end

/-- Settles O44: a step is the move that its turn names, and what that move does is said case by case above. -/
theorem stepRunsInstruction : Obligations.StepRunsInstruction := by
  refine ⟨fun s s1 h i j => ⟨fun r ha => step_event ha, fun n k w1 w2 hq hi hf => ?_, fun t hq hi he => ?_, fun d w r ws vs hq hi he hw hv hr hd hx => ?_,
    fun hq hi he hw => ?_⟩, fun s n k pa hp ha ⟨hv, hm⟩ => ?_⟩
  · have hs : step s = thenDo (issueGroup n k s1) comeToRest := (step_own hq).trans (by rw [ownMove_issue hq.2 hi])
    refine ⟨fun hg hm => ?_, fun hg hm => ?_, fun o x hg hm => ?_, fun e he => ?_⟩
    · rw [hs, issueGroup_solo hf hg hm, thenDo_assoc]; rfl
    · rw [hs, issueGroup_pair hf hg hm, thenDo_assoc, thenDo_runPair]; rfl
    · rw [hs, issueGroup_marked hf hg hm]; rfl
    · rw [hs, issueGroup_error hf he]; rfl
  · rw [step_own hq, ownMove_unissued hq.2 hi, he]; rfl
  · rw [step_own hq, ownMove_unissued hq.2 hi, he, Option.none_or, whorlMoves_first hw hv (whorlMove_due hr hd), runWord_decoded hx]; rfl
  · rw [step_own hq, ownMove_unissued hq.2 hi, he, hw]; rfl
  · have h1 := fetchWord_plain (k := k) hp ha hv hm
    exact ⟨fetchGroup_single h1, fun qa hw hb ⟨hv2, hm2⟩ => fetchGroup_double h1 hw (fetchWord_plain hp hb hv2 hm2)⟩

end Sys2Proof.Machine

namespace Sys2Proof.Machine

/-! ## The common write (R96) -/

/-- The least integer that a field of the type stands for. -/
def leastOf (t : Ty) : Int := if t.signed then -(2 : Int) ^ (t.width - 1) else 0

/-- The greatest integer that a field of the type stands for. -/
def greatestOf (t : Ty) : Int := if t.signed then (2 : Int) ^ (t.width - 1) - 1 else (2 : Int) ^ t.width - 1

theorem leastOf_le_greatestOf (t : Ty) : leastOf t ≤ greatestOf t := by cases t <;> decide

/-! ### Fields and the integers they stand for -/

theorem natCast_wrap (x : Int) (n : Nat) : (wrap x n : Int) = x % (2 : Int) ^ n :=
  Int.toNat_of_nonneg (Int.emod_nonneg x (by positivity))

theorem signedValue_eq_bmod (x n : Nat) : signedValue x n = (x : Int).bmod (2 ^ n) := by
  have hc : ((2 ^ n : Nat) : Int) = 2 ^ n := by push_cast; rfl
  simp only [signedValue, Int.bmod_def, ← hc, ← Int.natCast_emod]
  split <;> split <;> omega

/-- The integer of a field is the word's number modulo the type's range. -/
theorem tyInt_emod (t : Ty) (x : Nat) : tyInt t x % (2 : Int) ^ t.width = x % (2 : Int) ^ t.width := by
  unfold tyInt
  split
  · rw [signedValue_eq_bmod]
    exact_mod_cast Int.bmod_emod
  · push_cast
    exact Int.emod_emod_of_dvd _ dvd_rfl

theorem tyInt_wrap_emod (t : Ty) (x : Int) : tyInt t (wrap x t.width) % (2 : Int) ^ t.width = x % (2 : Int) ^ t.width := by
  rw [tyInt_emod, natCast_wrap, Int.emod_emod_of_dvd _ dvd_rfl]

theorem tyInt_mem_range (t : Ty) (x : Nat) : leastOf t ≤ tyInt t x ∧ tyInt t x ≤ greatestOf t := by
  have hp : (0 : Int) < 2 ^ t.width := by positivity
  have hw : (2 : Int) ^ t.width = 2 * 2 ^ (t.width - 1) := by cases t <;> rfl
  unfold leastOf greatestOf tyInt
  split
  · have hlo := Int.le_bmod (x := x) (Nat.two_pow_pos t.width)
    have hhi := Int.bmod_lt (x := x) (Nat.two_pow_pos t.width)
    push_cast at hlo hhi
    rw [signedValue_eq_bmod]
    omega
  · have hlo := Int.emod_nonneg (x : Int) hp.ne'
    have hhi := Int.emod_lt_of_pos (x : Int) hp
    push_cast
    omega

/-- An integer in the type's range is the one that its own field stands for. -/
theorem tyInt_wrap_of_mem {t : Ty} {y : Int} (hlo : leastOf t ≤ y) (hhi : y ≤ greatestOf t) : tyInt t (wrap y t.width) = y := by
  obtain ⟨hlo', hhi'⟩ := tyInt_mem_range t (wrap y t.width)
  have hspan : greatestOf t - leastOf t < 2 ^ t.width := by cases t <;> decide
  have hdvd : (2 : Int) ^ t.width ∣ tyInt t (wrap y t.width) - y :=
    Int.dvd_of_emod_eq_zero (Int.emod_eq_emod_iff_emod_sub_eq_zero.mp (tyInt_wrap_emod t y))
  exact Int.sub_eq_zero.mp (Int.eq_zero_of_abs_lt_dvd hdvd (abs_lt.mpr ⟨by omega, by omega⟩))

/-! ### Saturation is the wrap of the clamped integer -/

theorem wrap_eq_natCast {y : Int} {k n : Nat} (hk : k < 2 ^ n) (h : y = k ∨ y = k - 2 ^ n) : wrap y n = k := by
  have hm : (k : Int) % 2 ^ n = k := Int.emod_eq_of_lt (Int.natCast_nonneg k) (by exact_mod_cast hk)
  apply Int.natCast_inj.mp
  rcases h with rfl | rfl
  · rw [natCast_wrap, hm]
  · rw [natCast_wrap, Int.sub_emod_right, hm]

/-- Clamping by cases, each bound given as its field, wraps the clamped integer. -/
theorem clamp_cases_eq_wrap {lo hi x : Int} {a b n : Nat} (h : lo ≤ hi) (ha : wrap lo n = a) (hb : wrap hi n = b) :
    (if x < lo then (a, true) else if hi < x then (b, true) else (wrap x n, false)) =
      (wrap (max lo (min hi x)) n, decide (x < lo ∨ hi < x)) := by
  subst ha hb
  split
  case isTrue hlo => rw [max_eq_left (by omega), decide_eq_true (.inl hlo)]
  case isFalse hlo =>
    split
    case isTrue hhi => rw [min_eq_left (by omega), max_eq_right h, decide_eq_true (.inr hhi)]
    case isFalse hhi => rw [min_eq_right (by omega), max_eq_right (by omega), decide_eq_false (not_or.mpr ⟨hlo, hhi⟩)]

theorem satS_eq_wrap (x : Int) (m : Nat) :
    satS x (m + 1) = (wrap (max (-2 ^ m) (min (2 ^ m - 1) x)) (m + 1), decide (x < -2 ^ m ∨ 2 ^ m - 1 < x)) := by
  have hp : 0 < 2 ^ m := Nat.two_pow_pos m
  have hc : ((2 ^ m : Nat) : Int) = 2 ^ m := by push_cast; rfl
  have hd : (2 : Int) ^ (m + 1) = 2 * 2 ^ m := by ring
  rw [satS, Nat.add_sub_cancel]
  exact clamp_cases_eq_wrap (by omega) (wrap_eq_natCast (by omega) (.inr (by omega))) (wrap_eq_natCast (by omega) (.inl (by omega)))

theorem satU_eq_wrap (x : Int) (n : Nat) :
    satU x n = (wrap (max 0 (min (2 ^ n - 1) x)) n, decide (x < 0 ∨ 2 ^ n - 1 < x)) := by
  have hp : 0 < 2 ^ n := Nat.two_pow_pos n
  have hc : ((2 ^ n : Nat) : Int) = 2 ^ n := by push_cast; rfl
  exact clamp_cases_eq_wrap (by omega) (wrap_eq_natCast hp (.inl rfl)) (wrap_eq_natCast (by omega) (.inl (by omega)))

/-- Saturation by the type's signedness wraps the clamped integer, and says whether it clamped. -/
theorem saturate_eq_wrap (t : Ty) (x : Int) : (if t.signed then satS x t.width else satU x t.width) =
    (wrap (max (leastOf t) (min (greatestOf t) x)) t.width, decide (x < leastOf t ∨ greatestOf t < x)) := by
  have hw : t.width = t.width - 1 + 1 := by cases t <;> rfl
  unfold leastOf greatestOf
  split
  · rw [hw, satS_eq_wrap, Nat.add_sub_cancel]
  · exact satU_eq_wrap x t.width

/-! ### The value and the flag of the common write -/

theorem flIf_eq_flag_iff {f : Flags} (hf : f ≠ 0) (b : Bool) : flIf b f = f ↔ b = true := by
  cases b
  · exact ⟨fun h => absurd h.symm hf, nofun⟩
  · exact iff_of_true rfl rfl

theorem flIf_eq_zero_iff {f : Flags} (hf : f ≠ 0) (b : Bool) : flIf b f = 0 ↔ b = false := by
  cases b
  · exact iff_of_true rfl rfl
  · exact ⟨fun h => absurd h hf, nofun⟩

theorem extend_eq_ofInt_tyInt (t : Ty) (n : Nat) :
    (if t.signed then signExtend n t.width else zeroExtend n t.width) = BitVec.ofInt 64 (tyInt t n) := by
  unfold tyInt
  split
  · rfl
  · exact (BitVec.ofInt_natCast 64 _).symm

theorem commonWrite_wraps (t : Ty) (x : Int) : commonWrite t false x = (BitVec.ofInt 64 (tyInt t (wrap x t.width)), 0) := by
  rw [← extend_eq_ofInt_tyInt]
  rfl

theorem commonWrite_clamps (t : Ty) (x : Int) : commonWrite t true x =
    (BitVec.ofInt 64 (max (leastOf t) (min (greatestOf t) x)), flIf (decide (x < leastOf t ∨ greatestOf t < x)) flISAT) := by
  have hlo : leastOf t ≤ max (leastOf t) (min (greatestOf t) x) := le_max_left _ _
  have hhi : max (leastOf t) (min (greatestOf t) x) ≤ greatestOf t := max_le (leastOf_le_greatestOf t) (min_le_left _ _)
  simp only [commonWrite, if_true, saturate_eq_wrap, extend_eq_ofInt_tyInt, tyInt_wrap_of_mem hlo hhi]

/-- Settles O3: the wrapped field stands for an integer of the range that agrees with the result modulo 2^width, and saturation
wraps the clamped result, which its own field stands for. -/
theorem commonWriteValue : Obligations.CommonWriteValue := by
  intro t x _
  change (commonWrite t false x).2 = 0 ∧
    (∃ y : Int, leastOf t ≤ y ∧ y ≤ greatestOf t ∧ y % 2 ^ t.width = x % 2 ^ t.width ∧ (commonWrite t false x).1 = BitVec.ofInt 64 y) ∧
    (commonWrite t true x).1 = BitVec.ofInt 64 (max (leastOf t) (min (greatestOf t) x)) ∧
    ((commonWrite t true x).2 = flISAT ↔ x < leastOf t ∨ greatestOf t < x) ∧
    ((commonWrite t true x).2 = 0 ↔ leastOf t ≤ x ∧ x ≤ greatestOf t)
  obtain ⟨hlo, hhi⟩ := tyInt_mem_range t (wrap x t.width)
  rw [commonWrite_wraps, commonWrite_clamps]
  refine ⟨rfl, ⟨_, hlo, hhi, tyInt_wrap_emod t x, rfl⟩, rfl, ?_, ?_⟩
  · rw [flIf_eq_flag_iff (by decide), decide_eq_true_iff]
  · rw [flIf_eq_zero_iff (by decide), decide_eq_false_iff_not, not_or, not_lt, not_lt]

end Sys2Proof.Machine

namespace Sys2Proof.Machine

/-! ## Scalar integer words and immediate words that go (R96, R97, R100) -/

theorem scalarInt_goes (w : O3) (f : Int → Int → Int → Int) (s : State) (h : goes w.g w.gn s) :
    scalarInt w f s = scalarWrite w (f (scalarVal w.ty s w.a) (scalarVal w.ty s w.b) (scalarVal w.ty s w.c)) s :=
  scalarWord_eq _ _ _ _ s h

theorem immOp_goes (w : I32) (f : Int → Int → Int) (s : State) (h : goes w.g w.gn s) :
    immOp w f s = immWrite w (f (tyInt w.ty (dstRead s w.dst).toNat) (immVal w.ty w.imm)) s :=
  scalarWord_eq _ _ _ _ s h

theorem execAbs_goes (w : O3) (s : State) (h : goes w.g w.gn s) :
    execAbs w s = .next (scalarWrite w (if scalarVal w.ty s w.a < 0 then -scalarVal w.ty s w.a else scalarVal w.ty s w.a) s) := by
  have habs (a : Int) : (a.natAbs : Int) = if a < 0 then -a else a := by split <;> omega
  rw [execAbs, scalarInt_goes w _ s h, habs]

/-- On integers the order decides a minimum. -/
theorem execMin_int (w : O3) (s : State) (h : goes w.g w.gn s) (ht : w.ty ≠ .f32) : execMin w s = .next (scalarWrite w
    (if scalarVal w.ty s w.a ≤ scalarVal w.ty s w.b then scalarVal w.ty s w.a else scalarVal w.ty s w.b) s) := by
  rw [execMin, if_neg ht, scalarInt_goes w _ s h, min_def]

/-- On integers the order decides a maximum. -/
theorem execMax_int (w : O3) (s : State) (h : goes w.g w.gn s) (ht : w.ty ≠ .f32) : execMax w s = .next (scalarWrite w
    (if scalarVal w.ty s w.a ≤ scalarVal w.ty s w.b then scalarVal w.ty s w.b else scalarVal w.ty s w.a) s) := by
  rw [execMax, if_neg ht, scalarInt_goes w _ s h, max_def]

/-- Settles O1: an integer word that goes writes its function of the operands, and so does an immediate word. -/
theorem scalarIntegerResults : Obligations.ScalarIntegerResults := by
  refine ⟨fun w s h => ?_, fun w s h => ?_⟩
  · have int (f) : (.next (scalarInt w f s) : Host.Outcome State Fault Refusal) = .next (scalarWrite w _ s) :=
      congrArg Host.Outcome.next (scalarInt_goes w f s h)
    exact ⟨int _, int _, int _, int _, int _, int _, execAbs_goes w s h, int _, int _, execMin_int w s h, execMax_int w s h⟩
  · have imm (f) : (.next (immOp w f s) : Host.Outcome State Fault Refusal) = .next (immWrite w _ s) :=
      congrArg Host.Outcome.next (immOp_goes w f s h)
    have lih : execLih w s = .next (landS _ _ _ 0 s) := congrArg Host.Outcome.next (scalarWord_eq _ _ _ _ s h)
    exact ⟨imm _, lih, imm _, imm _, imm _, imm _, imm _⟩

end Sys2Proof.Machine

namespace Sys2Proof.Machine

/-! ## Transfers of control, loops and latches that go (R85, R89, R90, R92, R95, R102 to R107, R112) -/

theorem callTo_pushes {t : Word} {s : State} (hd : (rd s).depth ≠ 80) :
    callTo t s = transfer t (updMe (rasPush (addr57 s.cur.next)) s) := if_neg hd

section
variable {w : B24} {s : State} (h : goes w.g w.gn s)
include h

theorem execBr_goes : execBr w s = .next (transfer (addr57 (s.cur.addr + BitVec.ofInt 64 (w.off.toInt * 8))) s) :=
  congrArg Host.Outcome.next (scalarWord_eq _ _ _ _ s h)

theorem execCall_pushes (hd : (rd s).depth ≠ 80) : execCall w s =
    .next (transfer (addr57 (s.cur.addr + BitVec.ofInt 64 (w.off.toInt * 8))) (updMe (rasPush (addr57 s.cur.next)) s)) :=
  congrArg Host.Outcome.next ((scalarWord_eq _ _ _ _ s h).trans (callTo_pushes hd))

theorem execLoop_enters : execLoop w s = .next (enterWith w.lid w.off ((srcZero s (loopSource w.aux)).toNat % 2 ^ 32)
    ((srcZero s (loopSource w.aux)).toNat / 2 ^ 32 % 8 + 1) s) := by
  rw [execLoop, scalarWord_eq _ _ _ _ s h]
  simp only [bits, pow_zero, Nat.div_one, Nat.reducePow]

theorem execLoopi_enters : execLoopi w s = .next (enterWith w.lid w.off w.aux.toNat 1 s) :=
  congrArg Host.Outcome.next (scalarWord_eq _ _ _ _ s h)

end

/-- A loop that meets no other loop with stages beside it is entered, or left out where T = 0. -/
theorem enterWith_alone {lid : Fin 4} {off : BitVec 24} {t n : Nat} {s : State}
    (hm : ¬(2 ≤ n ∧ (modLoop (rd s)).any (fun x => x ≠ lid.val) = true)) :
    let e := addr57 (s.cur.addr + BitVec.ofInt 64 (off.toInt * 8))
    enterWith lid off t n s =
      if t = 0 then updCur (fun f => { f with next := afterGroup s s.cur.spn s.cur.strand e }) (updMe (dropLoop lid.val) s)
      else updCur (fun f => { f with started := lid.val :: f.started }) (updMe (enterLoop s.cycle lid.val
        { start := addr57 s.cur.next, stop := e, k := t + n - 1, i := 0, s := n, t := t }) s) :=
  if_neg hm

section
variable {w : O3} {s : State} (h : goes w.g w.gn s)
include h

theorem execHalt_goes : execHalt w s = .next (updMe haltStrand s) := congrArg Host.Outcome.next (scalarWord_eq _ _ _ _ s h)

theorem execYield_goes :
    let others := (upto 4).filter fun k => k ≠ s.cur.strand && eligible s s.cur.spn k
    execYield w s =
      .next (if others.isEmpty then s else updMe (fun st => { st with hold := .yield others (s.cycle + 4) }) s) :=
  congrArg Host.Outcome.next (scalarWord_eq _ _ _ _ s h)

theorem execRet_pops (ht : (rasTop (rd s)).toNat % 8 = 0) (hd : (rd s).depth ≠ 0) :
    execRet w s = .next (transfer (addr57 (rasTop (rd s))) (updMe rasPop s)) :=
  (execRet_goes h hd).trans (congrArg Host.Outcome.next (whenTarget_aligned _ s ht))

theorem execMovl_full (hl : (latchAt (rd s) w.a.litVal).st = .full) : execMovl w s = .next (moveLatch w w.a.litVal s) := by
  rw [execMovl_votes w s h.1 (by rw [hl]; nofun), voted_eq _ _ _ h.2, if_pos hl]

theorem execMovl_pending (hl : (latchAt (rd s) w.a.litVal).st = .pending) :
    execMovl w s = .next (again (updMe (fun st => { st with hold := .latch w.a.litVal }) s)) := by
  simp only [execMovl, h.1, hl, Bool.not_true, Bool.false_eq_true, if_false, if_true]

end

/-- The copy of latch `n` on its way, and the latch read. -/
def latchMoved (w : O3) (n : Nat) (s : State) : State :=
  updMe (emptyLatch n) (landAt (voteLat w.v (if n ≤ 3 then 2 else 1))
    (if n ≤ 3 then dstVector w.dst allLanes (latchAt (rd s) n).lanes else dstScalar w.dst (latchAt (rd s) n).word) 0 s)

theorem latchMoved_eq (w : O3) (n : Nat) (s : State) : latchMoved w n s = updMe (emptyLatch n)
    (if n ≤ 3 then landAt (voteLat w.v 2) (dstVector w.dst allLanes (latchAt (rd s) n).lanes) 0 s
     else landAt (voteLat w.v 1) (dstScalar w.dst (latchAt (rd s) n).word) 0 s) := by
  rw [latchMoved]
  split <;> rfl

theorem fpxDetail_low (f : Flags) : fpxDetail (f &&& 0x1F) = f.toNat % 32 := by
  have hm : (f &&& 0x1F).toNat = f.toNat % 32 := Nat.and_two_pow_sub_one_eq_mod f.toNat 5
  rw [fpxDetail, hm, Nat.mod_mod]

/-- FPX comes after the copy where the deposit left an enabled flag, of which DETAIL gives the low five. -/
theorem moveLatch_eq (w : O3) (n : Nat) (s : State) :
    moveLatch w n s = if enabled (rd s) (latchAt (rd s) n).flags ≠ 0
      then raiseAfter 0x09 ((latchAt (rd s) n).flags.toNat % 32) (latchMoved w n s) else latchMoved w n s := by
  simp only [moveLatch, latchMoved, fpxDetail_low]

/-- Settles O4: each clause is a lemma above. -/
theorem transferResults : Obligations.TransferResults := by
  refine ⟨⟨fun w s h => ⟨execBr_goes h, execCall_pushes h⟩, fun w s h => ⟨fun ht => ?_, fun ht hd => ?_, execRet_pops h, execHalt_goes h,
    execYield_goes h⟩, fun w s hs => congrArg Host.Outcome.next (voted_eq _ _ s hs)⟩, fun w s t n h hm => ⟨fun ht hn => ?_, fun ht hn => ?_⟩,
    fun w s h => ⟨fun hl he => ?_, fun hl he => ?_, execMovl_pending h⟩⟩
  · exact (execJmpi_goes h).trans (congrArg Host.Outcome.next (whenTarget_aligned _ s ht))
  · exact (execCalli_goes h).trans (congrArg Host.Outcome.next ((whenTarget_aligned _ s ht).trans (callTo_pushes hd)))
  · subst ht hn
    exact (execLoop_enters h).trans (congrArg Host.Outcome.next (enterWith_alone hm))
  · subst ht hn
    exact (execLoopi_enters h).trans (congrArg Host.Outcome.next (enterWith_alone hm))
  · rw [show exec (.movl w) s = _ from execMovl_full h hl, moveLatch_eq, if_neg (not_not.mpr he), latchMoved_eq]
    rfl
  · rw [show exec (.movl w) s = _ from execMovl_full h hl, moveLatch_eq, if_pos he, latchMoved_eq]
    rfl

end Sys2Proof.Machine

namespace Sys2Proof.Machine

/-! ## Precise traps of a word alone and of a pair (R112, R114, R115, R117) -/

section
variable {n k : Nat} {r : TrapReq} {s : State}

/-- A trap that still waits is held, and no write in flight goes. -/
theorem holdPending_landings (st : Strand) : (holdPending st).landings = st.landings := by
  unfold holdPending
  split <;> rfl

theorem inFlight_held : inFlight (strandAt (updStrand n k holdPending s) n k) = !(strandAt s n k).landings.isEmpty := by
  rw [strandAt_updStrand_same, inFlight, holdPending_landings]

theorem takeTrap_enters (he : (strandAt s n k).exl = false) (hl : (strandAt s n k).landings = []) :
    takeTrap n k r s = enterTrap n k r s.cycle (updStrand n k holdPending s) := by
  simp only [takeTrap, he, beginTrap, inFlight_held, hl, List.isEmpty_nil, Bool.not_true, Bool.false_eq_true, if_false]

theorem takeTrap_waits (he : (strandAt s n k).exl = false) (hl : (strandAt s n k).landings ≠ []) :
    takeTrap n k r s = updStrand n k (fun st => { st with trap := some r, trapAt := s.cycle }) (updStrand n k holdPending s) := by
  have hf : (strandAt s n k).landings.isEmpty = false := by rwa [List.isEmpty_eq_false_iff]
  simp only [takeTrap, he, beginTrap, inFlight_held, hf, Bool.not_false, Bool.false_eq_true, if_false, if_true]

/-- A second trap stops the strand; what it notes beside it is in the task's record. -/
theorem strandAt_takeTrap_handler (he : (strandAt s n k).exl = true) :
    strandAt (takeTrap n k r s) n k = doubleTrapped (strandAt s n k) := by
  have hd : strandAt (updStrand n k doubleTrapped s) n k = doubleTrapped (strandAt s n k) := strandAt_updStrand_same ..
  rw [takeTrap, if_pos he, doubleTrap]
  split <;> exact hd

end

/-- A word that issued alone takes its trap at once. -/
theorem raise_solo {code detail : Nat} {addr : Word} {s : State} (hp : s.cur.pair = false) :
    let r := trapOf code detail .precise s.cur.group addr s
    raise code detail addr s = takeTrap s.cur.spn s.cur.strand r (noteRaised r s) :=
  if_neg (by rw [hp]; exact Bool.false_ne_true)

/-! ### A precise trap of a pair -/

theorem kept_noteMet (n k : Nat) (s : State) : kept n k s (noteMet s) := by
  unfold noteMet
  split
  · exact kept_noteCorrupt ..
  · exact kept_of_spindles rfl rfl

/-- The words are undone; the flags, the trap and a VOTE3 or SHADOW met change no register. -/
theorem kept_pairTrap (s s1 : State) (r : TrapReq) : kept s1.cur.spn s1.cur.strand s (pairTrap s s1 r) :=
  have undone : kept s1.cur.spn s1.cur.strand s (undoPair s s1) := kept_of_spindles rfl rfl
  have flagged : kept s1.cur.spn s1.cur.strand (undoPair s s1) (updMe (orFlags s1.cur.flags) (undoPair s s1)) :=
    kept_updStrand ⟨rfl, rfl, rfl, rfl, rfl⟩
  kept_trans (kept_trans (kept_trans undone flagged) (kept_takeTrap ..)) (kept_noteMet ..)

theorem pairEnd_precise {s s1 : State} {r : TrapReq} (ha : s1.cur.again = false) (hr : s1.cur.raised = some r) (hk : r.kind ≠ .after) :
    pairEnd s s1 = pairTrap s s1 r := by
  simp only [pairEnd, ha, hr, Bool.false_eq_true, if_false, if_pos hk]

/-- Settles O57: a word alone takes its trap at once, and a pair with a precise trap is undone. -/
theorem preciseTraps : Obligations.PreciseTraps := by
  refine ⟨fun code detail addr s hp => ?_, fun s s1 r ha hr hk => ?_⟩
  · intro n k r u t b
    have ht : t = takeTrap n k r (noteRaised r s) := raise_solo hp
    refine ⟨fun he hl => ht.trans (takeTrap_enters he hl), fun he hl => ht.trans (takeTrap_waits he hl), fun he => ?_⟩
    have hb : b = doubleTrapped (me s) := (congrArg (strandAt · n k) ht).trans (strandAt_takeTrap_handler he)
    obtain ⟨-, others, memory⟩ := kept_takeTrap n k r (noteRaised r s)
    rw [hb, ht]
    exact ⟨rfl, rfl, rfl, rfl, rfl, rfl, rfl, ⟨rfl, rfl, rfl, rfl, rfl⟩, others, memory⟩
  · rw [pairEnd_precise ha hr hk]
    exact kept_pairTrap s s1 r

end Sys2Proof.Machine

namespace Sys2Proof.Machine

/-! ## The return from a handler (R116, R117, R124) -/

/-- The strand behind its return. -/
theorem strandAt_returnTrap (s : State) : strandAt (returnTrap s) s.cur.spn s.cur.strand =
    returnedStrand s.cycle (lowestHeld (me s).held) (me s) := by
  rw [returnTrap_shape]
  exact me_updMe ..

theorem lowestHeld_mem {hs : List TrapReq} (h : hs ≠ []) :
    ∃ x ∈ hs, lowestHeld hs = some x ∧ ∀ y ∈ hs, x.code.toNat ≤ y.code.toNat := by
  obtain ⟨hn, -⟩ | ⟨x, hx, hmem | hnone, hlow, -⟩ := lowestHeld_spec hs none
  · exact absurd hn h
  · exact ⟨x, hmem, hx, hlow⟩
  · cases hnone

/-- Settles O58: the strand is `returnedStrand`, whose trap is the held one of the lowest cause. -/
theorem trapReturn : Obligations.TrapReturn := by
  intro s a t b
  have hb : b = returnedStrand s.cycle (lowestHeld a.held) a := strandAt_returnTrap s
  have ht : t = transfer a.epc (updMe (returnedStrand s.cycle (lowestHeld a.held)) s) := returnTrap_shape s
  have others : otherStrands s.cur.spn s.cur.strand s t := ht ▸ others_updStrand _ _ _ s
  rw [hb]
  refine ⟨bitOf_eq_getLsbD .., rfl, rfl, rfl, rfl, ⟨rfl, rfl, rfl, rfl, rfl⟩, rfl, rfl, rfl, rfl, rfl, others,
    fun _ => rfl, fun h => ?_, fun h => ?_⟩
  · exact congrArg lowestHeld h
  · obtain ⟨x, hmem, hx, hlow⟩ := lowestHeld_mem h
    exact ⟨x, hmem, hx, hlow, by rw [hx]; rfl⟩

end Sys2Proof.Machine

namespace Sys2Proof.Machine

/-! ## The two banks of result latches (R94, R116) -/

/-- A deposit goes to the bank that was current when its word issued. -/
theorem depositLatch_bank (d : Deposit) (st : Strand) :
    (st.exl = true → d.handler = false →
      (depositLatch d st).latch = st.latch ∧ (depositLatch d st).saved = SMap.set .start st.saved d.latch d.full) ∧
    (st.exl = true → d.handler = true →
      (depositLatch d st).latch = SMap.set .start st.latch d.latch d.full ∧ (depositLatch d st).saved = st.saved) ∧
    (st.exl = false → d.handler = true → depositLatch d st = st) := by
  refine ⟨fun he hd => ?_, fun he hd => ?_, fun he hd => ?_⟩ <;> simp [depositLatch, he, hd]

/-- MOVL empties the latch that it reads in the current bank. -/
theorem execMovl_banks {w : O3} {s : State} (h : goes w.g w.gn s) (hr : (latchAt (rd s) w.a.litVal).st = .full)
    (hf : (latchAt (me s) w.a.litVal).st = .full) (he : enabled (rd s) (latchAt (rd s) w.a.litVal).flags = 0) :
    ∃ t, execMovl w s = .next t ∧ (me t).saved = (me s).saved ∧ (me t).latch = SMap.set .start (me s).latch w.a.litVal .start := by
  obtain ⟨ls, hm⟩ : ∃ ls, me (latchMoved w w.a.litVal s) = emptyLatch w.a.litVal { me s with landings := ls } :=
    ⟨_, (me_updMe ..).trans (congrArg (emptyLatch w.a.litVal) (me_updMe _ s))⟩
  refine ⟨latchMoved w w.a.litVal s, ?_, ?_⟩
  · rw [execMovl_full h hr, moveLatch_eq, if_neg (not_not.mpr he)]
  · rw [hm, show emptyLatch w.a.litVal { me s with landings := ls } = setLatch w.a.litVal .start { me s with landings := ls } from if_pos hf]
    exact ⟨rfl, rfl⟩

/-- A latch-unit word changes the latch that it names in the current bank, and what is on its way there. -/
theorem depositIn_banks (n x : Nat) (ls : List Lane) (v : Word) (f : Flags) (h : Option (BitVec 32)) (s : State) :
    let t := depositIn n x ls v f h s
    (me t).saved = (me s).saved ∧ (latchAt (me t) x).st = .pending ∧ (∀ y, y ≠ x → latchAt (me t) y = latchAt (me s) y) ∧
      ∃ d ∈ (me t).deposits, d.latch = x ∧ d.handler = (me s).exl ∧ d.due = s.cycle + n := by
  intro t
  have ht : me t = _ := me_updMe _ s
  have hl : (me t).latch = SMap.set .start (me s).latch x ⟨.pending, [], 0, 0⟩ := congrArg Strand.latch ht
  refine ⟨by rw [ht]; rfl, by rw [latchAt, hl, SMap.get_set_same], fun y hy => by rw [latchAt, hl, SMap.get_set_ne _ _ _ hy]; rfl, ?_⟩
  rw [ht]
  exact ⟨_, List.mem_append_right _ (List.mem_singleton.mpr rfl), rfl, rfl, rfl⟩

/-! ### The latches in CR.SEQ (R94) -/

/-- Below the loops CR.SEQ holds the latch states and the depth. -/
theorem crSeq_mod (st : Strand) : (crSeq st).toNat % 2 ^ 30 = (latchStates st.latch * 2 ^ 16 + st.depth % 128) % 2 ^ 30 := by
  have fields (active lid stages states depth : Nat) :
      (active * 2 ^ 36 + (2 ^ 35 + lid * 2 ^ 33 + stages * 2 ^ 30) + states * 2 ^ 16 + depth) % 2 ^ 64 % 2 ^ 30 =
        (states * 2 ^ 16 + depth) % 2 ^ 30 := by omega
  simp only [crSeq, BitVec.toNat_ofNat]
  split
  · exact fields ..
  · omega

theorem latchCode_lt (l : Latch) : latchCode l < 4 := by
  unfold latchCode
  split <;> decide

/-- Two bits of the states for each latch. -/
theorem latchStates_digit (m : SMap Latch) {x : Nat} (hx : x < 6) : latchStates m / 4 ^ x % 4 = latchCode (SMap.get .start m x) := by
  have hs : latchStates m = 0 + latchCode (SMap.get .start m 0) * 4 ^ 0 + latchCode (SMap.get .start m 1) * 4 ^ 1 +
    latchCode (SMap.get .start m 2) * 4 ^ 2 + latchCode (SMap.get .start m 3) * 4 ^ 3 + latchCode (SMap.get .start m 4) * 4 ^ 4 +
    latchCode (SMap.get .start m 5) * 4 ^ 5 := rfl
  have hc (n : Nat) := latchCode_lt (SMap.get .start m n)
  have h0 := hc 0; have h1 := hc 1; have h2 := hc 2; have h3 := hc 3; have h4 := hc 4; have h5 := hc 5
  interval_cases x <;> omega

theorem crSeq_latch (st : Strand) {x : Nat} (hx : x < 6) : bits (crSeq st).toNat (16 + 2 * x) 2 = latchCode (latchAt st x) := by
  have hd : latchStates st.latch / 4 ^ x % 4 = latchCode (latchAt st x) := latchStates_digit st.latch hx
  have hm := crSeq_mod st
  rw [bits]
  interval_cases x <;> omega

/-- Settles O59: the banks at trap entry, at a deposit, in the handler's words, in CR.SEQ and at ERET. -/
theorem latchBanks : Obligations.LatchBanks := by
  refine ⟨fun n k c r s => ?_, depositLatch_bank, fun w s h hr hf he => execMovl_banks h hr hf he, depositIn_banks,
    fun n x s p st hx => ⟨crSeq st, rfl, crSeq_latch st hx⟩, fun s => ?_⟩
  · simp only [strandAt_enterTrap]
    exact ⟨rfl, fun _ => rfl⟩
  · have hb : me (returnTrap s) = returnedStrand s.cycle (lowestHeld (me s).held) (me s) := strandAt_returnTrap s
    rw [hb]
    exact ⟨rfl, fun d hd => by simpa using (List.mem_filter.mp hd).2⟩

end Sys2Proof.Machine

namespace Sys2Proof.Machine

/-! ## System words that complete (R111, R123 to R130) -/

theorem afterFlags_landed {k : State → State} {s : State} (h : flagsInFlight (me s) = false) : afterFlags k s = k s :=
  if_neg (by rw [h]; exact Bool.false_ne_true)

/-- What the unprivileged view does not show is for the privileged one. -/
theorem not_refused_of_imp {hidden priv : Bool} (h : hidden = true → priv = true) : ¬(hidden && !priv) = true := by
  cases hidden
  · exact Bool.false_ne_true
  · rw [h rfl]; exact Bool.false_ne_true

section
variable {w : O3} {s : State} (h : guard0 s w.g w.gn = true)
include h

theorem execTrap_raises : execTrap w s = .next (raiseAfter 0x80 (det (srcNum s w.a 8) 0) s) :=
  congrArg Host.Outcome.next (whenGuard_of_guard0 w.g w.gn _ s h)

theorem execEret_returns (hp : (me s).privm = true) (he : (me s).exl = true) (ha : (me s).epc.toNat % 8 = 0) :
    execEret w s = .next (returnTrap s) := by
  have hal : aligned (me s).epc.toNat 8 = true := decide_eq_true ha
  simp only [execEret, whenGuard_of_guard0 w.g w.gn _ s h, whenPriv, hp, he, hal, Bool.not_true, Bool.false_eq_true, if_true, if_false]

theorem execMfcr_reads {x : Word} (hx : crRead s s.cur.spn (mySpindle s) (me s) (srcNum s w.a 8) = some x)
    (hp : crHidden (srcNum s w.a 8) = true → (me s).privm = true) (hf : srcNum s w.a 8 = 1 → flagsInFlight (me s) = false) :
    execMfcr w s = .next (landS 1 w.dst x 0 s) := by
  simp only [execMfcr, whenGuard_of_guard0 w.g w.gn _ s h, hx, if_neg (not_refused_of_imp hp)]
  split
  case isTrue h1 => rw [afterFlags_landed (hf h1)]
  case isFalse => rfl

theorem execMtcr_writes (hn : srcNum s w.a 8 ≤ 0x13) (hp : crSystem (srcNum s w.a 8) = true → (me s).privm = true)
    (hf : srcNum s w.a 8 = 1 → flagsInFlight (me s) = false) :
    execMtcr w s = .next (crWrite (srcNum s w.a 8) (srcZero s w.b) s) := by
  simp only [execMtcr, whenGuard_of_guard0 w.g w.gn _ s h, if_neg (Nat.not_lt.mpr hn), if_neg (not_refused_of_imp hp)]
  split
  case isTrue h1 => rw [afterFlags_landed (hf h1)]
  case isFalse => rfl

theorem execStrstart_starts
    (hr : (strandAt s s.cur.spn (srcNum s w.a 2)).run = .idle ∨ (strandAt s s.cur.spn (srcNum s w.a 2)).run = .halted)
    (ha : (srcZero s w.b).toNat % 8 = 0) : execStrstart w s = .next (updStrand s.cur.spn (srcNum s w.a 2)
      (startStrand (me s) (addr57 (srcZero s w.b)) (srcZero s w.c) (s.cycle + 2)) s) := by
  have hb : ¬((strandOf (mySpindle s) (srcNum s w.a 2)).run ≠ .idle ∧ (strandOf (mySpindle s) (srcNum s w.a 2)).run ≠ .halted) :=
    fun hn => hr.elim hn.1 hn.2
  rw [execStrstart, whenGuard_of_guard0 w.g w.gn _ s h, if_neg hb, aligned, decide_eq_true ha, Bool.not_true, if_neg Bool.false_ne_true]

/-- No strand of the mask is still to stop. -/
theorem execStrwait_ends (hr : ∀ k, k < 4 → bitOf (srcNum s w.a 4) k = true → k ≠ s.cur.strand →
      (strandAt s s.cur.spn k).run ≠ .running ∧ (strandAt s s.cur.spn k).run ≠ .purged) :
    execStrwait w s = .next (landS 1 w.dst (BitVec.ofNat 64 (maskOf (fun k =>
      bitOf (srcNum s w.a 4) k && k ≠ s.cur.strand && (strandAt s s.cur.spn k).run = .dtrap) 4)) 0 s) := by
  rw [execStrwait, whenGuard_of_guard0 w.g w.gn _ s h]
  refine congrArg Host.Outcome.next (if_neg fun hany => ?_)
  obtain ⟨k, hk, hb⟩ := List.any_eq_true.mp hany
  simp only [Bool.and_eq_true, Bool.or_eq_true, decide_eq_true_eq] at hb
  obtain ⟨⟨hbit, hne⟩, hrun⟩ := hb
  obtain ⟨h1, h2⟩ := hr k (List.mem_range.mp hk) hbit hne
  exact hrun.elim h1 h2

theorem execStrid_lands : execStrid w s = .next (landS 1 w.dst (BitVec.ofNat 64 s.cur.strand) 0 s) :=
  congrArg Host.Outcome.next (whenGuard_of_guard0 w.g w.gn _ s h)

theorem execSetfp_writes (hf : flagsInFlight (me s) = false) : execSetfp w s = .next (landS 1 w.dst (me s).fpctl 0
    (updMe (fun st => { st with fpctl := fpctlWrite (me s).fpctl (srcZero s w.a) (srcZero s w.b) ||| keptFlags s.cycle st }) s)) :=
  congrArg Host.Outcome.next ((whenGuard_of_guard0 w.g w.gn _ s h).trans (afterFlags_landed hf))

end

/-- Settles O6: each clause is a lemma above. -/
theorem systemResults : Obligations.SystemResults := fun _ _ h =>
  ⟨execTrap_raises h, execEret_returns h, fun _ => execMfcr_reads h, execMtcr_writes h, execStrstart_starts h, execStrwait_ends h,
    execStrid_lands h, execSetfp_writes h⟩

end Sys2Proof.Machine

namespace Sys2Proof.Machine

/-! ## Handles, blocks, residency and page requests (R178, R184, R196 to R199) -/

section
variable {w : O3} {s : State} (h : guard0 s w.g w.gn = true)
include h

theorem execTrans_deposits {r : Fin 16} (hd : w.dst = .h r) : execTrans w s = .next (updMe (fun st => { st with handles := st.handles ++
    [{ due := s.cycle + 24, h := r.val, value := (handleFor s (mySpindle s).part (srcZero s w.a).toNat).1,
       pa := (handleFor s (mySpindle s).part (srcZero s w.a).toNat).2, va := srcZero s w.a, killed := false }] }) s) := by
  rw [execTrans, whenGuard_of_guard0 w.g w.gn _ s h, hd]

theorem execHrel_lands {r : Fin 16} (hd : w.dst = .h r) : execHrel w s = .next (landAt 1 (.h r.val 0) 0 s) := by
  rw [execHrel, whenGuard_of_guard0 w.g w.gn _ s h, hd]

theorem execHchk_lands : execHchk w s = .next (landS 1 w.dst (hregOf (rd s) (hNum w.a)) 0 s) :=
  congrArg Host.Outcome.next (whenGuard_of_guard0 w.g w.gn _ s h)

theorem execLdblk_fills (ha : accessGood s w 128 (128 * ((srcZero s w.c).toNat % 64 + 1)) false)
    (hb : (blockAt (mySpindle s) ((srcZero s w.c).toNat / 2 ^ 16 % 16)).st = .free) :
    execLdblk w s = .next (updMySpindle (setBlock ((srcZero s w.c).toNat / 2 ^ 16 % 16)
      ⟨.filling, BitVec.ofNat 64 (accessVa s w), accessPa s w, (srcZero s w.c).toNat % 64 + 1, (srcZero s w.c).toNat / 2 ^ 8 % 64,
        attOf s (me s).tag, strandHands s s.cur.spn s.cur.strand⟩) s) := by
  have hlines : bits (srcZero s w.c).toNat 0 6 = (srcZero s w.c).toNat % 64 := by
    simp only [bits, pow_zero, Nat.div_one, Nat.reducePow]
  have hfree : ¬(blockAt (mySpindle s) (bits (srcZero s w.c).toNat 16 4)).st ≠ .free := not_not.mpr hb
  simp only [execLdblk, whenGuard_of_guard0 w.g w.gn _ s h, hlines, whenAccess_eq w _ _ _ _ s ha, Bool.false_eq_true, if_false]
  exact congrArg Host.Outcome.next (if_neg hfree)

theorem execBlkwait_ends (hb : (blockAt (mySpindle s) (srcNum s w.a 4)).st = .free ∨ (blockAt (mySpindle s) (srcNum s w.a 4)).st = .ready) :
    execBlkwait w s = .next s :=
  congrArg Host.Outcome.next ((whenGuard_of_guard0 w.g w.gn _ s h).trans (if_pos hb))

theorem execBlkwait_waits (hf : (blockAt (mySpindle s) (srcNum s w.a 4)).st ≠ .free) (hr : (blockAt (mySpindle s) (srcNum s w.a 4)).st ≠ .ready) :
    execBlkwait w s = .next (again s) :=
  congrArg Host.Outcome.next ((whenGuard_of_guard0 w.g w.gn _ s h).trans (if_neg (not_or.mpr ⟨hf, hr⟩)))

/-- WBBLK and EVBLK on a READY block. -/
theorem leaveReady_moves (nx : BlkSt) (hb : (blockAt (mySpindle s) (srcNum s w.a 4)).st = .ready) :
    whenGuard w.g w.gn (leaveReady w nx) s = updMySpindle (setBlock (srcNum s w.a 4)
      { blockAt (mySpindle s) (srcNum s w.a 4) with st := nx }) s :=
  (whenGuard_of_guard0 w.g w.gn _ s h).trans (if_pos hb)

/-- WBBLK and EVBLK on a block in another state. -/
theorem leaveReady_raises (nx : BlkSt) (hb : (blockAt (mySpindle s) (srcNum s w.a 4)).st ≠ .ready) :
    whenGuard w.g w.gn (leaveReady w nx) s = raiseSched 0xE5 (srcNum s w.a 4) s :=
  (whenGuard_of_guard0 w.g w.gn _ s h).trans (if_neg hb)

theorem execReschk_lands : execReschk w s = .next (landS 1 w.dst (me s).resid 0 (updMe (fun st => { st with resid := 0 }) s)) :=
  congrArg Host.Outcome.next (whenGuard_of_guard0 w.g w.gn _ s h)

section
variable (hv : hV (hregOf (rd s) (hNum w.a)) = true)
include hv

theorem execPgreq_resident (hn : hNR (hregOf (rd s) (hNum w.a)) = false) :
    execPgreq w s = .next (raiseSem s.cur.spn w.b.litVal 1 (mySpindle s).q5vt
      (carrySem s.cur.spn w.b.litVal (strandHands s s.cur.spn s.cur.strand) s)) := by
  simp only [execPgreq, whenGuard_of_guard0 w.g w.gn _ s h, hv, hn, Bool.not_true, Bool.not_false, Bool.false_eq_true, if_true, if_false]

theorem execPgreq_appends {t : State} (hn : hNR (hregOf (rd s) (hNum w.a)) = true)
    (ht : appendRequest (mySpindle s).part (hBase (hregOf (rd s) (hNum w.a))) s.cur.spn s.cur.strand w.b.litVal 1 false (me s).tag
      (strandHands s s.cur.spn s.cur.strand) s = some t) : execPgreq w s = .next t := by
  simp only [execPgreq, whenGuard_of_guard0 w.g w.gn _ s h, hv, hn, ht, Bool.not_true, Bool.false_eq_true, if_false]

end

theorem execReplay_goes (hp : (me s).privm = true) : execReplay w s = .next (replayRequests (mySpindle s).part s) :=
  congrArg Host.Outcome.next ((whenGuard_of_guard0 w.g w.gn _ s h).trans (if_pos hp))

end

/-! ## Context image words (R130, R178, R184) -/

/-- An image in memory or in the device region that passes every check: its addresses are taken. -/
theorem whenCtx_eq {w : O3} {store : Bool} (k : Nat → Nat → State → State) {s : State} (he : (me s).exl = true)
    (ha : accessGood s w 64 ctxBytes store) : whenCtx w store k s = k (accessVa s w) (accessPa s w) s := by
  have ⟨_, _, hoff, _, _, hdev⟩ := ha
  have hal : aligned (offsetOf s w.b) 64 = true := decide_eq_true hoff
  simp only [whenCtx, he, hal, whenAccess_eq w _ _ _ _ s ha, accessVa, hdev, Bool.not_true, Bool.false_eq_true, if_false]

section
variable {n : Nat} {checks : (Nat → Nat → State → State) → State → State} {wait : Nat → Nat → State → Bool} {k : Nat → Nat → State → State}
  {s : State}

/-- The first issue of a word that occupies the strand. -/
theorem occupy_first (hm : (me s).mem = none) : occupy n checks wait k s =
    checks (fun va pa s => again (updMe (fun st => { st with
      mem := some { MemOp.sent s.cycle s.tick s.cur.addr (attOf s st.tag) 0 [] with image := some (va, pa) } }) s)) s := by
  simp only [occupy, hm]

section
variable {m : MemOp} {va pa : Nat} (hm : (me s).mem = some m) (hi : m.image = some (va, pa))
include hm hi

theorem occupy_again (hc : s.cycle + 1 < m.c0 + n) : occupy n checks wait k s = again s := by
  simp only [occupy, hm, hi, decide_eq_true hc, Bool.true_or, if_true]

theorem occupy_ends (hc : m.c0 + n ≤ s.cycle + 1) (hw : wait va pa s = false) : occupy n checks wait k s = k va pa s := by
  simp only [occupy, hm, hi, decide_eq_false (Nat.not_lt.mpr hc), hw, Bool.or_false, Bool.false_eq_true, if_false]

end

end

/-- Nothing is on its way to the saved latches or the handles. -/
theorem ctxBusy_eq_false {s : State} (hl : ∀ n, n < 6 → (SMap.get .start (me s).saved n).st ≠ .pending) (hh : (me s).handles = []) :
    ctxBusy s = false := by
  have hno : (upto 6).any (fun n => (SMap.get .start (me s).saved n).st = .pending) = false :=
    List.any_eq_false.mpr fun n hn => by rw [decide_eq_true_eq]; exact hl n (List.mem_range.mp hn)
  rw [ctxBusy, hno, hh]
  rfl

section
variable {w : O3} {s : State} (h : guard0 s w.g w.gn = true) (hp : (me s).privm = true)
include h hp

theorem whenGuard_whenPriv (k : State → State) : whenGuard w.g w.gn (whenPriv k) s = k s :=
  (whenGuard_of_guard0 w.g w.gn _ s h).trans (if_pos hp)

theorem execCtxsv_first (he : (me s).exl = true) (hm : (me s).mem = none) (ha : accessGood s w 64 ctxBytes true) :
    execCtxsv w s = .next (again (updMe (fun st => { st with mem := some { MemOp.sent s.cycle s.tick s.cur.addr (attOf s st.tag) 0 [] with
      image := some (accessVa s w, accessPa s w) } }) s)) := by
  rw [execCtxsv, whenGuard_whenPriv h hp, occupy_first hm, whenCtx_eq _ he ha]

theorem execCtxld_first (he : (me s).exl = true) (hm : (me s).mem = none) (ha : accessGood s w 64 ctxBytes false) :
    execCtxld w s = .next (again (updMe (fun st => { st with mem := some { MemOp.sent s.cycle s.tick s.cur.addr (attOf s st.tag) 0 [] with
      image := some (accessVa s w, accessPa s w) } }) s)) := by
  rw [execCtxld, whenGuard_whenPriv h hp, occupy_first hm, whenCtx_eq _ he ha]

variable {m : MemOp} {va pa : Nat} (hm : (me s).mem = some m) (hi : m.image = some (va, pa))
include hm hi

theorem execCtxsv_again (hc : s.cycle + 1 < m.c0 + 576) : execCtxsv w s = .next (again s) := by
  rw [execCtxsv, whenGuard_whenPriv h hp, occupy_again hm hi hc]

theorem execCtxld_again (hc : s.cycle + 1 < m.c0 + 576) : execCtxld w s = .next (again s) := by
  rw [execCtxld, whenGuard_whenPriv h hp, occupy_again hm hi hc]

variable (hc : m.c0 + 576 ≤ s.cycle + 1)
include hc

theorem execCtxsv_posts (hd : inDevice s (mySpindle s).part va = false) (hb : ctxBusy s = false) : execCtxsv w s =
    .next (postImage (imageMark (me s)) (hNum w.a) va pa (ctxBytes / 8) 0 (ctxImage s.cur.strand (mySpindle s) (me s)) (endImage s)) := by
  rw [execCtxsv, whenGuard_whenPriv h hp, occupy_ends hm hi hc hb, hd, if_neg Bool.false_ne_true]

theorem execCtxld_loads (ho : awaitsOwn s s.cur.spn s.cur.strand (attOf s (me s).tag) 8 pa ctxBytes = false)
    (hv : awaitsInval s s.cur.spn s.cur.strand pa ctxBytes = false)
    (hg : ownPoison s s.cur.spn s.cur.strand (attOf s (me s).tag) [imageReq va pa] = none)
    (hr : ctxRefusal (readCtxImage va pa s).1 = 0) :
    execCtxld w s = .next (updMe (loadImage s (mySpindle s).part (readCtxImage va pa s).1) (endImage (readCtxImage va pa s).2)) := by
  rw [execCtxld, whenGuard_whenPriv h hp, occupy_ends hm hi hc (by rw [ho, hv, Bool.or_false, Bool.and_false])]
  simp only [hg, hr, ne_eq, not_true_eq_false, if_false]

end

/-- Settles O17: each clause is a lemma above. -/
theorem handleBlockResults : Obligations.HandleBlockResults := by
  have next {a b : State} (h : a = b) : (.next a : Host.Outcome State Fault Refusal) = .next b := congrArg Host.Outcome.next h
  refine ⟨fun w s h => ⟨fun r hd => execTrans_deposits h hd, fun r hd => execHrel_lands h hd, execHchk_lands h, execLdblk_fills h,
    execBlkwait_ends h, execBlkwait_waits h, fun hb => next (leaveReady_moves h .writing hb), fun hb => next (leaveReady_moves h .evicting hb),
    fun hb => ⟨next (leaveReady_raises h .writing hb), next (leaveReady_raises h .evicting hb)⟩, execReschk_lands h,
    execPgreq_resident h, fun t hv hn ht => execPgreq_appends h hv hn ht, execReplay_goes h⟩, fun w s h hp he =>
    ⟨fun hm => ⟨execCtxsv_first h hp he hm, execCtxld_first h hp he hm⟩, fun m va pa hm hi => ⟨fun hc =>
      ⟨execCtxsv_again h hp hm hi hc, execCtxld_again h hp hm hi hc⟩, fun hc hd =>
      ⟨fun hl hh => execCtxsv_posts h hp hm hi hc hd (ctxBusy_eq_false hl hh), execCtxld_loads h hp hm hi hc⟩⟩⟩⟩

end Sys2Proof.Machine

namespace Sys2Proof.Machine

/-! ## Scheduling rounds (R363, R375 to R378) -/

theorem placeTask_launches {id : Nat} {t : Task} {b : List (Nat × Nat)} {s : State} (h : t.st ≠ .away) :
    placeTask id t b s = launchTask id t b s := if_neg h

theorem placeTask_rebinds {id : Nat} {t : Task} {b : List (Nat × Nat)} {s : State} (h : t.st = .away) :
    placeTask id t b s = rebindTask id t b s := if_pos h

/-- A candidate does not hold itself back. -/
theorem heldBack_alone (c : Nat × Task) (gone : List Nat) : heldBack [c] gone c = false := by
  simp only [heldBack, List.any_cons, List.any_nil, ne_eq, not_true_eq_false, decide_false, Bool.and_false, Bool.false_and, Bool.or_false]

section
variable {cs rest : List (Nat × Task)} {id : Nat} {t : Task} {gone : List Nat} {s : State} (hh : heldBack cs gone (id, t) = false)
include hh

theorem roundOver_places {b : List (Nat × Nat)} (hb : bindingFor s t [] = some b) (hl : mayLaunch s t = true) :
    roundOver cs ((id, t) :: rest) gone s = roundOver cs rest (gone ++ [id]) (placeTask id t b s) := by
  simp only [roundOver, hh, hb, hl, Bool.false_eq_true, if_false, if_true]

theorem roundOver_preempts (hb : bindingFor s t [] = none) :
    roundOver cs ((id, t) :: rest) gone s = roundOver cs rest gone (preempt t s) := by
  simp only [roundOver, hh, hb, Bool.false_eq_true, if_false]

end

theorem preempt_stops {t : Task} {s : State} {vs : List Nat} (h : takeVictims s t (stoppingTasks s) (victimsFor s t) = some vs) :
    preempt t s = vs.foldl (fun s v => stopTask v s) s := by
  rw [preempt, h]

theorem preempt_none {t : Task} {s : State} (h : takeVictims s t (stoppingTasks s) (victimsFor s t) = none) : preempt t s = s := by
  rw [preempt, h]

/-- The last candidate is passed by none. -/
theorem countSkips_last (gone : List Nat) (c : Nat × Task) (s : State) : countSkips gone [c] s = s :=
  if_neg fun h => Bool.false_ne_true h.2

/-- A candidate that has launched is passed by none. -/
theorem countSkips_launched {gone : List Nat} {c : Nat × Task} {rest : List (Nat × Task)} {s : State} (h : c.1 ∈ gone) :
    countSkips gone (c :: rest) s = countSkips gone rest s := by
  rw [countSkips, if_neg fun hp => by simp [h] at hp]

/-- A candidate that has not launched is passed by one behind it that has. -/
theorem countSkips_passed {gone : List Nat} {c d : Nat × Task} {rest : List (Nat × Task)} {s : State} (hc : c.1 ∉ gone) (hd : d ∈ rest)
    (hg : d.1 ∈ gone) :
    countSkips gone (c :: rest) s = countSkips gone rest (updTask c.1 (fun t => { t with skips := t.skips + 1 }) s) := by
  have hany : rest.any (fun x => gone.contains x.1) = true := List.any_eq_true.mpr ⟨d, hd, List.contains_iff_mem.mpr hg⟩
  rw [countSkips, if_pos ⟨by simpa using hc, hany⟩]

/-- The state at the end of a round that began at `s`. -/
def afterRound (s u : State) : State :=
  { u with roundAt := s.tick + 10000, rounds := s.rounds - 1, launched := u.launched.filter fun x => decide (s.tick < x.1 + 100000) }

/-- What a round leaves, by its candidates, what it has launched and the skips that it counts. -/
theorem schedulingRound_of {s u v : State} {cs : List (Nat × Task)} {gone : List Nat} (hc : candidates s = cs)
    (hr : roundOver cs cs [] s = (u, gone)) (hk : countSkips gone cs u = v) :
    exec .schedulingRound s = .next (afterRound s v) := by
  subst hc hk
  rw [show exec .schedulingRound s = .next (schedulingRound s) from rfl, schedulingRound, hr]
  rfl

section
variable {id : Nat} {t : Task} {s : State} (hc : candidates s = [(id, t)])
include hc

theorem schedulingRound_places {b : List (Nat × Nat)} {u : State} (hb : bindingFor s t [] = some b) (hl : mayLaunch s t = true)
    (hp : placeTask id t b s = u) : exec .schedulingRound s = .next (afterRound s u) :=
  hp ▸ schedulingRound_of hc (roundOver_places (heldBack_alone ..) hb hl) (countSkips_last ..)

theorem schedulingRound_preempts {u : State} (hb : bindingFor s t [] = none) (hp : preempt t s = u) :
    exec .schedulingRound s = .next (afterRound s u) :=
  hp ▸ schedulingRound_of hc (roundOver_preempts (heldBack_alone ..) hb) (countSkips_last ..)

end

section
variable {id id2 : Nat} {t t2 : Task} {s u v : State} {b2 : List (Nat × Nat)} (hc : candidates s = [(id, t), (id2, t2)])
  (h1 : heldBack [(id, t), (id2, t2)] [] (id, t) = false) (hb2 : bindingFor u t2 [] = some b2) (hl2 : mayLaunch u t2 = true)
  (hv : placeTask id2 t2 b2 u = v)
include hc h1 hb2 hl2 hv

/-- Both candidates launch, the second on what the first has left. -/
theorem schedulingRound_places_both {b : List (Nat × Nat)} (hb : bindingFor s t [] = some b) (hl : mayLaunch s t = true)
    (hu : placeTask id t b s = u) (h2 : heldBack [(id, t), (id2, t2)] [id] (id2, t2) = false) :
    exec .schedulingRound s = .next (afterRound s v) := by
  subst hu hv
  refine schedulingRound_of (gone := [id, id2]) hc ((roundOver_places h1 hb hl).trans (roundOver_places h2 hb2 hl2)) ?_
  rw [countSkips_launched (gone := [id, id2]) (c := (id, t)) (List.mem_cons_self ..), countSkips_last]

/-- The first candidate finds no binding, and is passed by the second. -/
theorem schedulingRound_passes (hne : id ≠ id2) (hb : bindingFor s t [] = none) (hu : preempt t s = u)
    (h2 : heldBack [(id, t), (id2, t2)] [] (id2, t2) = false) :
    exec .schedulingRound s = .next (afterRound s (updTask id (fun t => { t with skips := t.skips + 1 }) v)) := by
  subst hu hv
  refine schedulingRound_of (gone := [id2]) hc ((roundOver_preempts h1 hb).trans (roundOver_places h2 hb2 hl2)) ?_
  rw [countSkips_passed (d := (id2, t2)) (by simpa using hne) (List.mem_cons_self ..) (List.mem_cons_self ..), countSkips_last]

end

/-! ## Completion, saving and restoring of tasks (R119, R323, R359) -/

section
variable {id : Nat} {t : Task} {s : State} (h : taskAt s id = some t)
include h

theorem execTaskCompletion_completes (hst : t.st = .resident ∨ t.st = .stopping) (hv : s.dev.svc ≠ 3)
    (hb : ∀ b ∈ t.binding, spindleComplete s b.2 = true) : exec (.taskCompletion id) s = .next (completeTask id t s) := by
  rw [show exec (.taskCompletion id) s = execTaskCompletion id s from rfl, execTaskCompletion, h]
  exact congrArg Host.Outcome.next (if_pos ⟨hst, hv, List.all_eq_true.mpr hb⟩)

/-- A victim that has stopped is saved, or purged where it is one of a step. -/
theorem execPreemptSave_stopped (hst : t.st = .stopping) (hb : ∀ b ∈ t.binding, spindleStopped (recallChunks t s) b.2 = true)
    (hn : ∀ m ∈ (recallChunks t s).net, packetOf (recallChunks t s) t m = false) :
    exec (.preemptSave id) s = .next (if t.instep then castEarly (startPurge t.part t.rqtag (notePreempt t.part t.rqtag (recallChunks t s)))
      else saveTask id t (notePreempt t.part t.rqtag (recallChunks t s))) := by
  have hno : (!(recallChunks t s).net.any (packetOf (recallChunks t s) t)) = true := by
    rw [List.any_eq_false.mpr fun m hm => by rw [hn m hm]; exact Bool.false_ne_true, Bool.not_false]
  rw [show exec (.preemptSave id) s = execPreemptSave id s from rfl, execPreemptSave, h]
  exact congrArg Host.Outcome.next (if_pos ⟨hst, List.all_eq_true.mpr hb, hno⟩)

theorem execResumptionRestoreDone_restores (hst : t.st = .restoring) (hw : ∀ w ∈ windowPlaces t,
      (SMap.get Window.start s.windows w.1).owner = none ∧ (SMap.get Window.start s.windows w.1).queue = []) :
    exec (.resumptionRestoreDone id) s = .next (restoreTask id t s) := by
  have hfree : (windowPlaces t).all (fun w => windowFree (SMap.get .start s.windows w.1)) = true := List.all_eq_true.mpr fun w hm => by
    obtain ⟨hn, hq⟩ := hw w hm
    rw [windowFree, hn, hq]
    rfl
  rw [show exec (.resumptionRestoreDone id) s = execResumptionRestoreDone id s from rfl, execResumptionRestoreDone, h]
  exact congrArg Host.Outcome.next (if_pos ⟨hst, hfree⟩)

end

/-! ## A spindle as a launch leaves it, and its start (R83, R360, R363) -/

section
variable {s : State} {id l n : Nat} {t : Task} (hd : t.descs = [])
include hd

theorem strandOf_launchSpindle (k : Nat) : strandOf (launchSpindle s id t l n) k = if k = 0 then firstStrand t else .start := by
  rw [launchSpindle, hd]
  exact SMap.get_set Strand.start [] k 0 (firstStrand t)

theorem launchSpindle_cbank {i : Nat} (hi : i < t.consts.length) : SMap.get 0 (launchSpindle s id t l n).cbank i = nth 0 t.consts i := by
  rw [launchSpindle, hd]
  refine (SMap.get_setList ..).trans ((if_pos i.zero_le).trans ?_)
  simp only [Nat.sub_zero, nth, List.getD, List.getElem?_eq_getElem hi, Option.getD_some]

theorem launchSpindle_scratch {i : Nat} (hi : i < t.scr.length) : SMap.get 0 (launchSpindle s id t l n).scratch i = nth 0 t.scr i := by
  rw [launchSpindle, hd]
  refine (SMap.get_setList ..).trans ((if_pos i.zero_le).trans ?_)
  simp only [Nat.sub_zero, nth, List.getD, List.getElem?_eq_getElem hi, Option.getD_some]

end

/-- The objects of a spindle after a launch. -/
theorem launchSpindle_objects {s : State} {id l n : Nat} {t : Task} (hd : t.descs = []) :
    let p := launchSpindle s id t l n
    (∀ k, semAt p k = .start) ∧ (∀ k, spoolAt p k = .start) ∧ p.task = some id ∧ p.lcode = l ∧ p.det = t.det := by
  simp only [launchSpindle, hd]
  exact ⟨fun _ => rfl, fun _ => rfl, rfl, rfl, rfl⟩

theorem strandOf_startSpindle (c : Nat) (p : Spindle) :
    strandOf (startSpindle c p) 0 = { strandOf p 0 with hold := .none, readyAt := c + 1 } :=
  strandOf_updStrandOf_same 0 (fun st => { st with hold := .none, readyAt := c + 1 }) p

/-- The start of a task on one spindle is its TSTART. -/
theorem startTask_single {s : State} {id : Nat} {t : Task} {b : Nat × Nat} (hb : t.binding = [b])
    (hh : (strandOf (spindleAt s b.2) 0).hold = .launch) (hn : t.node = none) (ht : taskAt s id = some t) (h0 : t.tstart = 0) :
    spindleAt (startTask id t s) b.2 = startSpindle s.cycle (spindleAt s b.2) ∧
      taskAt (startTask id t s) id = some { t with tstart := s.tick } := by
  have hs : toStart (spindleAt s b.2) = true := decide_eq_true hh
  have hu : startTask id t s = updTask id (fun t => { t with tstart := if t.tstart = 0 then s.tick else t.tstart })
      (updSpindle b.2 (fun p => if toStart p then startSpindle s.cycle p else p) s) := by
    rw [startTask, noteGraphStart, hn, hb]
    rfl
  rw [hu]
  refine ⟨(spindleAt_updSpindle_same ..).trans (if_pos hs), (SMap.get_modify_same ..).trans ((congrArg (Option.map _) ht).trans ?_)⟩
  rw [Option.map_some, if_pos h0]

/-! ## The nodes of a running graph (R373, R374) -/

/-- The graph with node `n` running. -/
def nodeStarted (n : Nat) (g : GraphSt) : GraphSt := updNode n (fun x => { x with st := 1 }) g

/-- The lowest due node starts. -/
theorem withNode_starts {i n kind : Nat} {start running : GraphSt → State → State} {g : GraphSt} {s : State} (hg : graphAt s i = some g)
    (hv : s.dev.svc ≠ 3) (hd : firstDue g = some n) (hk : pktKind (nodeOf g n) = kind) :
    withNode i n kind start running s = start (nodeStarted n g) (setGraph i (some (nodeStarted n g)) s) := by
  rw [withNode, hg]
  exact (if_neg fun h => h.elim (· hk) hv).trans (if_pos hd)

theorem withNodeWord_reads {g : GraphSt} {n : Nat} {k : Nat → State → State} {s : State} {v : Word}
    (h : cpWords s g.part (pktWord (nodeOf g n) 1) 1 = some [v]) :
    withNodeWord g n k s = k v.toNat (cpAcquire g.q g.part (pktWord (nodeOf g n) 1) s) := by
  rw [withNodeWord, h]
  rfl

theorem startTaskNode_ready {i n : Nat} {g : GraphSt} {s : State} {t : Task}
    (h : loadTask s g.part (nth [] g.launches n) (pktTag (nodeOf g n)) g.q g.pkt (some (i, n)) = .ok t) :
    startTaskNode i n g s = enterReady t (setGraph i (some (updNode n (fun x => { x with task := some s.nextTask }) g)) s) := by
  simp only [startTaskNode, h]

/-- What a trip count does, 0 or not. -/
theorem beginLoop_next {i n count : Nat} {g : GraphSt} {s : State} {o : Host.Outcome State Fault Refusal}
    (h : o = .next (beginLoop i n count g s)) :
    (count = 0 → o = .next (completeNode i n ((listedBy (nodeOf g n)).map fun j => (j, true)) s)) ∧
      (count ≠ 0 → o = .next (updGraph i (enterIteration n count) s)) :=
  ⟨fun h0 => by rw [h, beginLoop, if_pos h0, endLoop], fun h0 => by rw [h, beginLoop, if_neg h0]⟩

section
variable {i n : Nat} {g : GraphSt} {s : State} (hg : graphAt s i = some g) (hv : s.dev.svc ≠ 3) (hd : firstDue g = some n)
include hg hv hd

theorem execTaskNode_starts {t : Task} (hk : pktKind (nodeOf g n) = 0x10)
    (h : loadTask (setGraph i (some (nodeStarted n g)) s) g.part (nth [] g.launches n) (pktTag (nodeOf g n)) g.q g.pkt (some (i, n)) = .ok t) :
    execTaskNode i n s = .next (enterReady t
      (setGraph i (some (updNode n (fun x => { x with task := some s.nextTask }) (nodeStarted n g))) (setGraph i (some (nodeStarted n g)) s))) :=
  congrArg Host.Outcome.next ((withNode_starts hg hv hd hk).trans (startTaskNode_ready h))

theorem execLoopNode_fixed (hk : pktKind (nodeOf g n) = 0x12) (hw : pktWord (nodeOf g n) 1 = 0) : execLoopNode i n s =
    .next (beginLoop i n (bits (pktWord (nodeOf g n) 2) 32 16) (nodeStarted n g) (setGraph i (some (nodeStarted n g)) s)) :=
  congrArg Host.Outcome.next ((withNode_starts hg hv hd hk).trans (if_pos hw))

variable {v : Word} (h : cpWords (setGraph i (some (nodeStarted n g)) s) g.part (pktWord (nodeOf g n) 1) 1 = some [v])
include h

theorem execCondNode_marks (hk : pktKind (nodeOf g n) = 0x11) : execCondNode i n s = .next (completeNode i n
    (condMarks (nodeOf g n) v.toNat) (cpAcquire g.q g.part (pktWord (nodeOf g n) 1) (setGraph i (some (nodeStarted n g)) s))) :=
  congrArg Host.Outcome.next ((withNode_starts hg hv hd hk).trans (withNodeWord_reads h))

theorem execSwitchNode_marks (hk : pktKind (nodeOf g n) = 0x13) : execSwitchNode i n s = .next (completeNode i n
    (switchMarks (nodeOf g n) v.toNat) (cpAcquire g.q g.part (pktWord (nodeOf g n) 1) (setGraph i (some (nodeStarted n g)) s))) :=
  congrArg Host.Outcome.next ((withNode_starts hg hv hd hk).trans (withNodeWord_reads h))

theorem execLoopNode_reads (hk : pktKind (nodeOf g n) = 0x12) (hw : pktWord (nodeOf g n) 1 ≠ 0) : execLoopNode i n s = .next (beginLoop i n
    v.toNat (nodeStarted n g) (cpAcquire g.q g.part (pktWord (nodeOf g n) 1) (setGraph i (some (nodeStarted n g)) s))) :=
  congrArg Host.Outcome.next ((withNode_starts hg hv hd hk).trans ((if_neg hw).trans (withNodeWord_reads h)))

end

/-- Settles O40: rounds, ends of tasks, launches and nodes, each by its lemmas above. -/
theorem scheduleEvents : Obligations.ScheduleEvents := by
  refine ⟨fun id t s => ⟨⟨fun hc => schedulingRound_of hc rfl rfl, fun b hc hb hl => ⟨fun ha => ?_, fun ha => ?_⟩,
    fun hc hb => ⟨fun vs hv => ?_, fun hv => ?_⟩, fun id2 t2 b2 hc hne ha2 => ⟨fun b hb hl ha => ?_, fun hb hv h1 h2 hb2 hl2 => ?_⟩⟩,
    fun ht => ⟨execTaskCompletion_completes ht, ?_, execResumptionRestoreDone_restores ht⟩⟩, fun s id l n t hd => ?_,
    fun i n g s hg hv hd => ?_⟩
  · exact schedulingRound_places hc hb hl (placeTask_launches ha)
  · exact schedulingRound_places hc hb hl (placeTask_rebinds ha)
  · exact schedulingRound_preempts hc hb (preempt_stops hv)
  · exact schedulingRound_preempts hc hb (preempt_none hv)
  · exact fun h1 h2 hb2 hl2 =>
      schedulingRound_places_both hc h1 hb2 hl2 (placeTask_launches ha2) hb hl (placeTask_launches ha) h2
  · exact schedulingRound_passes hc h1 hb2 hl2 (placeTask_launches ha2) hne hb (preempt_none hv) h2
  · intro s0 hst hb hn
    have hp := execPreemptSave_stopped ht hst hb hn
    exact ⟨fun hi => hp.trans (by rw [hi]; rfl), fun hi => hp.trans (by rw [hi]; rfl)⟩
  · intro p
    have hp (k : Nat) : strandOf p k = if k = 0 then firstStrand t else .start := strandOf_launchSpindle hd k
    have h0 : strandOf p 0 = firstStrand t := hp 0
    have hq : strandOf (startSpindle s.cycle p) 0 = { firstStrand t with hold := .none, readyAt := s.cycle + 1 } :=
      h0 ▸ strandOf_startSpindle s.cycle p
    obtain ⟨hsem, hspool, htask, hl, hdet⟩ := launchSpindle_objects (s := s) (id := id) (l := l) (n := n) hd
    rw [h0]
    exact ⟨rfl, rfl, rfl, rfl, rfl, rfl, rfl, rfl, rfl, rfl, rfl,
      ⟨congrArg Strand.hold hq, congrArg Strand.readyAt hq, congrArg Strand.pc hq⟩, fun b => startTask_single,
      fun k hk => (hp k).trans (if_neg hk), hsem, hspool, htask, hl, hdet, fun i => launchSpindle_cbank hd, fun i => launchSpindle_scratch hd⟩
  · intro w g1 s1 word seen
    refine ⟨fun t hk h => execTaskNode_starts hg hv hd hk h, fun v hk h => execCondNode_marks hg hv hd h hk,
      fun v hk h => execSwitchNode_marks hg hv hd h hk, fun hk => ?_⟩
    intro loops
    exact ⟨fun hw => beginLoop_next (execLoopNode_fixed hg hv hd hk hw), fun v hw h => beginLoop_next (execLoopNode_reads hg hv hd h hk hw)⟩

end Sys2Proof.Machine

namespace Sys2Proof.Machine

/-! ## Numbers: integer vector words (R147 to R150) -/

/-- An integer vector word whose meaning agrees on every element's bits with `g` is the write of `g` of its elements. -/
theorem vecInt_writes {w : O3} {f : Nat → Nat → Nat → Int} (g : Nat → Nat → Nat → Int) (s : State) (h : ∀ a b c, f a b c = g a b c) :
    vecInt w f s = vecIntWrite w (fun l e => g (encAt w.ty s w.a l e) (encAt w.ty s w.b l e) (encAt w.ty s w.c l e)) s := by
  obtain rfl : f = g := funext₃ h
  rfl

/-- The same for a word that reads its elements by the type's signedness. -/
theorem vecIntVal_writes {w : O3} {f : Int → Int → Int → Int} (g : Int → Int → Int → Int) (s : State) (h : ∀ x y z, f x y z = g x y z) :
    vecIntVal w f s = vecIntWrite w (fun l e => g (tyInt w.ty (encAt w.ty s w.a l e)) (tyInt w.ty (encAt w.ty s w.b l e))
      (tyInt w.ty (encAt w.ty s w.c l e))) s :=
  vecInt_writes (fun a b c => g (tyInt w.ty a) (tyInt w.ty b) (tyInt w.ty c)) s fun _ _ _ => h _ _ _

/-- An element shifted left by bits [5:0] of another. -/
theorem shlRes_natCast (x : Int) (b : Nat) : shlRes x b = x * (2 : Int) ^ (b % 64) :=
  congrArg (fun k : Nat => x * (2 : Int) ^ k) (Int.toNat_natCast (b % 64))

theorem natAbs_eq_ite_neg (x : Int) : (x.natAbs : Int) = if x < 0 then -x else x := by split <;> omega

/-- Settles O8: each word is the write of its function of the elements' bits or values; what the model writes as a minimum, a maximum,
an absolute value or `shlRes` is brought to the statement's form by its equation. -/
theorem vectorIntegerResults : Obligations.VectorIntegerResults := by
  intro w s
  have onBits (f g) (h : ∀ a b c, f a b c = g a b c) :
      (.next (vecInt w f s) : Host.Outcome State Fault Refusal) = .next (vecIntWrite w _ s) :=
    congrArg Host.Outcome.next (vecInt_writes g s h)
  have onValues (f g) (h : ∀ x y z, f x y z = g x y z) :
      (.next (vecIntVal w f s) : Host.Outcome State Fault Refusal) = .next (vecIntWrite w _ s) :=
    congrArg Host.Outcome.next (vecIntVal_writes g s h)
  have asBits (f) := onBits f f fun _ _ _ => rfl
  have asValues (f) := onValues f f fun _ _ _ => rfl
  exact ⟨asValues _, asValues _, asValues _, asValues _, asValues _,
    onValues _ (fun x y _ => if x ≤ y then x else y) fun x y _ => Int.min_def x y,
    onValues _ (fun x y _ => if x ≤ y then y else x) fun x y _ => Int.max_def x y,
    onValues _ (fun x _ _ => if x < 0 then -x else x) fun x _ _ => natAbs_eq_ite_neg x,
    asBits _, asBits _, asBits _, asBits _, asBits _,
    onBits _ (fun a b _ => tyInt w.ty a * (2 : Int) ^ (b % 64)) fun a b _ => shlRes_natCast (tyInt w.ty a) b,
    asBits _, asBits _, asBits _, asBits _, asBits _, rfl, rfl⟩

end Sys2Proof.Machine

namespace Sys2Proof.Machine

/-! ## Numbers: conversion, movement, reduction and random words, and predicate words (R151 to R168) -/

/-! ### Words whose mode and types may run (R154, R157 to R161) -/

/-- Where its check is all that stands before it, a word is its plain meaning. -/
theorem next_whenLanes {cls op : Nat} {w : O3} {ts : List Ty} {dyn : Bool} {s : State} (h : fpMayRun s w ts dyn) (k : State → State) :
    (.next (whenLanes cls op w ts dyn k s) : Host.Outcome State Fault Refusal) = .next (k s) :=
  congrArg Host.Outcome.next (whenLanes_eq cls op w ts dyn k s h)

/-! ### Scans and random numbers (R166, R167) -/

/-- The lanes of a word with one element in each: the element's encoding in its type's width, 0 where a lane takes no part. -/
theorem lanesFrom_overLanes_one (t : Ty) (m : Word) (f : Nat → Nat → ElemRes) :
    lanesFrom t (overLanes m 1 f) =
      (upto 64).map fun l => if m.getLsbD l then BitVec.ofNat 32 ((f l 0).enc % 2 ^ t.width) else 0 := by
  rw [lanesFrom, overLanes, List.map_map]
  refine List.map_congr_left fun l _ => ?_
  cases hm : m.getLsbD l
  · simp [hm, packElems]
  · simp [hm, packElems, upto]

theorem execVscan_runs {w : O3} {s : State} (hu : s.upsets = []) (h : fpMayRun s w [] (w.ty = .f32)) :
    let m := guardMask s w.g w.gn
    let rs := overLanes m 1 fun l _ => sumElem s w (actUpTo m l)
    execVscan w s = .next (deliverData 6 (w.ty = .f32) (dstVector w.dst m (lanesFrom w.ty rs)) (flagsOf rs)
      (shadowFound 0x0B 0x12 false w w.ty rs) s) := by
  rw [execVscan, next_whenLanes h]
  simp only [checkShadow_eq _ _ s hu]
  rfl

theorem execVrng_runs (w : O3) (s : State) :
    let m := guardMask s w.g w.gn
    execVrng w s = .next (landAt 4 (dstVector w.dst m ((upto 64).map fun l =>
      if m.getLsbD l then BitVec.ofNat 32 (laneDraw s w l) else 0)) 0 s) := by
  have word (n : Nat) : BitVec.ofNat 32 (n % 2 ^ Ty.b32.width) = BitVec.ofNat 32 n :=
    BitVec.eq_of_toNat_eq (by simp [Ty.width])
  simp only [execVrng, lanesFrom_overLanes_one, word]

theorem execVrngf_runs {w : O3} {s : State} (hu : s.upsets = []) :
    let m := guardMask s w.g w.gn
    let rs := overLanes m 1 fun l _ => drawElem (laneDraw s w l / 256 + w.c.litVal / 4)
    execVrngf w s = .next (deliverFp 5 (dstVector w.dst m (lanesFrom .f32 rs)) 0 (shadowFound 0x0B 0x14 false w .f32 rs) s) := by
  simp only [execVrngf, checkShadow_eq _ _ s hu]
  rfl

/-- Settles O10: conversions and VREDADD are their plain meaning once they may run, VREDMAX and VREDMIN always; a scan and a drawn
fraction find the SHADOW of their own results. -/
theorem convertReduceResults : Obligations.ConvertReduceResults := fun w s hu =>
  ⟨fun h => next_whenLanes h _, fun h => next_whenLanes h _, fun h => next_whenLanes h _, rfl, rfl,
    fun h => execVscan_runs hu h, execVrng_runs w s, execVrngf_runs hu⟩

/-! ### Movement under the guard and predicate words (R161 to R164, R168) -/

/-- VCOMPRESS delivers in position `l` the lane of the `l`-th one of the predicate, 0 where there is none. -/
theorem execVcompress_runs (w : O3) (s : State) :
    execVcompress w s = .next (laneWrite 3 w (fun l => ((oneAt (srcPred s w.b) l).map (laneBits s w.a)).getD 0) s) := by
  refine congrArg (fun f => Host.Outcome.next (laneWrite 3 w f s)) (funext fun l => ?_)
  cases oneAt (srcPred s w.b) l <;> rfl

theorem execVmovs_runs {w : O3} {s : State} (h : guard0 s w.g w.gn = true) :
    let x := laneBits s w.a (laneNum s w.b)
    execVmovs w s = .next (landS 2 w.dst (if w.ty = .s32 then signExtend x.toNat 32 else zeroExtend x.toNat 32) 0 s) :=
  congrArg Host.Outcome.next (whenGuard_of_guard0 w.g w.gn _ s h)

/-- Settles O11: VPACK and VUNPACK once they may run, VMOVS under a true guard, VCOMPRESS by its equation; the other words are
written in the model as they are stated. -/
theorem laneMoveResults : Obligations.LaneMoveResults :=
  ⟨fun w s => ⟨fun h => next_whenLanes h _, fun h => next_whenLanes h _, rfl, rfl, rfl, rfl, execVcompress_runs w s, rfl, rfl, rfl,
    execVmovs_runs, rfl⟩, fun _ _ => ⟨rfl, rfl, rfl, rfl, rfl, rfl, rfl, rfl, rfl, rfl⟩⟩

/-! ### VCOMPRESS against VEXPAND (R163) -/

/-- Past the count of all its ones a predicate has no further one. -/
theorem oneAt_none {p : Word} {l : Nat} (h : ((List.range 64).filter fun i => p.getLsbD i).length ≤ l) : oneAt p l = none :=
  List.getElem?_eq_none h

/-- Settles O12: a packed lane stands where `oneAt_count` finds it, and the model's count of ones below a lane is `m`. -/
theorem compressExpand : Obligations.CompressExpand := by
  intro w s p m a
  refine ⟨⟨_, execVcompress_runs w s, fun j hj hp => ?_, fun l hl => ?_⟩, ⟨_, rfl, fun l _ => ?_⟩, fun q hq hg => ?_⟩
  · rw [oneAt_count p j hj hp]
    rfl
  · rw [oneAt_none hl]
    rfl
  · rw [ones_eq_count]
  · have count : ones (srcPred s q.a &&& guardMask s q.g q.gn).toNat 64 = m 64 := by
      rw [hq, hg, allLanes, BitVec.and_allOnes, ones_eq_count]
    exact congrArg (fun n => Host.Outcome.next (landS 2 q.dst (BitVec.ofNat 64 n) 0 s)) count

/-! ### One lane read and one lane written (R153, R164) -/

theorem zeroExtend_toNat (x : Lane) : zeroExtend x.toNat 32 = x.zeroExtend 64 := by
  rw [zeroExtend, Nat.mod_eq_of_lt x.isLt, BitVec.ofNat_toNat]

theorem signExtend_toNat (x : Lane) : signExtend x.toNat 32 = x.signExtend 64 := by
  rw [signExtend, signedValue_eq_bmod, ← BitVec.toInt_eq_toNat_bmod, BitVec.signExtend]

/-- A lane of a register after the landing of lanes that a rule gives for each. -/
theorem laneOf_writeTarget_vector {d : Dst} {r : Fin 64} (hd : d = .v r) (m : Word) (f : Nat → Lane) (st : Strand) {l : Nat} (hl : l < 64) :
    laneOf (writeTarget (dstVector d m ((upto 64).map f)) st) r.val l = if m.getLsbD l = true then f l else laneOf st r.val l := by
  have hx : ((upto 64).map f)[l]? = some (f l) := by
    rw [List.getElem?_map, upto, List.getElem?_range hl]
    rfl
  subst hd
  rw [dstVector, writeTarget, laneOf_setV r.val r.val l m _ st hl (by simp [upto]), hx]
  simp only [true_and, Option.getD_some]

/-- Settles O13: VMOVS extends the lane as its type says, and a lane under VINS's guard lands as the rule for it gives. -/
theorem laneExtractInsert : Obligations.LaneExtractInsert := by
  intro w s n x
  refine ⟨fun h => ⟨fun ht => ?_, fun ht => ?_⟩, _, rfl, fun r st l hd hl => ?_⟩
  · refine (execVmovs_runs h).trans ?_
    rw [if_neg (by rw [ht]; decide), zeroExtend_toNat]
    rfl
  · refine (execVmovs_runs h).trans ?_
    rw [if_pos ht, signExtend_toNat]
    rfl
  · rw [laneOf_writeTarget_vector hd _ _ _ hl, hd]
    rfl

end Sys2Proof.Machine

namespace Sys2Proof.Machine

/-! ## Accesses through a handle: the order of the checks (R180, R186) -/

section
variable {w : O3} {al len : Nat} {store : Bool} {k : Nat → Nat → Bool → State → State} {s : State}

theorem whenAccess_invalid (hv : hV (hregOf (rd s) (hNum w.a)) = false) :
    whenAccess w al len store k s = raiseHandle 1 (hNum w.a) 0 (BitVec.ofNat 64 (offsetOf s w.b)) s := by
  simp only [whenAccess, hv, Bool.not_false, if_true]

section
variable (hv : hV (hregOf (rd s) (hNum w.a)) = true)
include hv

theorem whenAccess_unaligned (ha : offsetOf s w.b % al ≠ 0) :
    whenAccess w al len store k s = raiseAlign (BitVec.ofNat 64 (accessVa s w)) s := by
  have hal : aligned (offsetOf s w.b) al = false := decide_eq_false ha
  simp only [whenAccess, accessVa, hv, hal, Bool.not_true, Bool.not_false, Bool.false_eq_true, if_false, if_true]

variable (ha : offsetOf s w.b % al = 0)
include ha

theorem whenAccess_outside (hr : hSize (hregOf (rd s) (hNum w.a)) < offsetOf s w.b + len) :
    whenAccess w al len store k s = raiseHandle 2 (hNum w.a) 0
      (BitVec.ofNat 64 (hBase (hregOf (rd s) (hNum w.a)) + max (offsetOf s w.b) (hSize (hregOf (rd s) (hNum w.a))))) s := by
  have hal : aligned (offsetOf s w.b) al = true := decide_eq_true ha
  simp only [whenAccess, hv, hal, hr, Bool.not_true, Bool.false_eq_true, if_false, if_true]

variable (hr : offsetOf s w.b + len ≤ hSize (hregOf (rd s) (hNum w.a)))
include hr

theorem whenAccess_readOnly (hw : hWR (hregOf (rd s) (hNum w.a)) = false) :
    whenAccess w al len true k s = raiseHandle 4 (hNum w.a) 0 (BitVec.ofNat 64 (accessVa s w)) s := by
  have hal : aligned (offsetOf s w.b) al = true := decide_eq_true ha
  simp only [whenAccess, accessVa, hv, hal, Nat.not_lt.mpr hr, hw, Bool.not_true, Bool.not_false, Bool.and_true, Bool.false_eq_true, if_false,
    if_true]

/-- An access that passes the checks goes on, be its page resident or not. -/
theorem whenAccess_passes (hw : store = true → hWR (hregOf (rd s) (hNum w.a)) = true) :
    whenAccess w al len store k s = k (accessVa s w) (accessPa s w) (hNR (hregOf (rd s) (hNum w.a))) s := by
  have hal : aligned (offsetOf s w.b) al = true := decide_eq_true ha
  simp only [whenAccess, accessVa, accessPa, hv, hal, Nat.not_lt.mpr hr, not_refused_of_imp hw, Bool.not_true, Bool.false_eq_true, if_false]

end

end

section
variable {w : O3} {s t : State} (hg : guard0 s w.g w.gn = true)
include hg

/-- A store that the checks stop. -/
theorem execSt_stopped (h : ∀ k, whenAccess w (w.ty.width / 8) (w.ty.width / 8) true k s = t) : execSt w s = .next t := by
  rw [execSt, whenGuard_of_guard0 w.g w.gn _ s hg, storeWord, toBytes_length, h]

/-- A load and a store that the checks stop alike. -/
theorem execLd_execSt_stopped (hm : (me s).mem = none)
    (h : ∀ store k, whenAccess w (w.ty.width / 8) (w.ty.width / 8) store k s = t) : execLd w s = .next t ∧ execSt w s = .next t := by
  refine ⟨?_, execSt_stopped hg (h true)⟩
  rw [execLd, whenGuard_of_guard0 w.g w.gn _ s hg, loadWord, resumeOr, hm, Option.isSome_none, if_neg Bool.false_ne_true, h]

/-- A store to a page that is not resident raises HANDLE. -/
theorem execSt_absent (hv : hV (hregOf (rd s) (hNum w.a)) = true) (ha : offsetOf s w.b % (w.ty.width / 8) = 0)
    (hr : offsetOf s w.b + w.ty.width / 8 ≤ hSize (hregOf (rd s) (hNum w.a))) (hw : hWR (hregOf (rd s) (hNum w.a)) = true)
    (hn : hNR (hregOf (rd s) (hNum w.a)) = true) :
    execSt w s = .next (raiseHandle 3 (hNum w.a) 0 (BitVec.ofNat 64 (accessVa s w)) s) := by
  rw [execSt, whenGuard_of_guard0 w.g w.gn _ s hg, storeWord, toBytes_length, whenAccess_passes hv ha hr fun _ => hw, if_pos hn]

end

/-- Settles O16: LD and ST make the same checks, whose outcomes are the lemmas above. -/
theorem accessTraps : Obligations.AccessTraps := fun _ _ hg hm =>
  ⟨fun hv => execLd_execSt_stopped hg hm fun _ _ => whenAccess_invalid hv,
   fun hv ha => execLd_execSt_stopped hg hm fun _ _ => whenAccess_unaligned hv ha,
   fun hv ha hr => execLd_execSt_stopped hg hm fun _ _ => whenAccess_outside hv ha hr,
   fun hv ha hr hw => execSt_stopped hg fun _ => whenAccess_readOnly hv ha hr hw,
   execSt_absent hg⟩

end Sys2Proof.Machine

namespace Sys2Proof.Machine

/-! ## Loads (R181, R187, R190, R191, R194) -/

/-! ### Requests that go out, and data that are there (R187) -/

section
variable {fin : List Byte → State → State} {k : State → State} {s : State}

theorem resumeOr_first (hm : (me s).mem = none) : resumeOr fin k s = k s := by
  rw [resumeOr, hm, Option.isSome_none, if_neg Bool.false_ne_true]

theorem memLoad_first (acq : BitVec 5) (reqs : List (Nat × Word × Nat)) (hm : (me s).mem = none) :
    memLoad acq reqs fin s = sends acq reqs s := by
  simp only [memLoad, hm]
  rfl

/-- A word whose good data are there takes them, whatever it would do at its first issue. -/
theorem resumeOr_takes {m : MemOp} (hm : (me s).mem = some m) (hr : m.ready = true) (hp : m.poison = none) :
    resumeOr fin k s = fin m.data (updMe (fun st => { st with mem := none }) s) := by
  rw [resumeOr, hm, Option.isSome_some, if_pos rfl]
  simp only [memLoad, hm, hr, hp, Bool.not_true, Bool.false_eq_true, if_false]

end

/-- The mask of a load's acquire is its literal. -/
theorem acquireMask_eq (w : O3) : (if isAcquire w then accessMask w else 0) = if w.mod.toNat % 4 = 1 then BitVec.ofNat 5 w.c.litVal else 0 := by
  by_cases hq : w.mod.toNat % 4 = 1
  · have hne : w.mod.toNat % 4 ≠ 0 := by omega
    rw [isAcquire, decide_eq_true hq, if_pos rfl, if_pos hq, accessMask, if_neg hne]
  · rw [isAcquire, decide_eq_false hq, if_neg Bool.false_ne_true, if_neg hq]

theorem accessVa_not_inDevice {w : O3} {al len : Nat} {store : Bool} {s : State} (h : accessGood s w al len store) :
    inDevice s (mySpindle s).part (accessVa s w) = false := by
  obtain ⟨_, _, _, _, _, hdev⟩ := h
  exact hdev

/-- A load that passes every check sends one request. -/
theorem loadWord_sends {w : O3} {al len : Nat} {s : State} (absent : State → State) (fin : List Byte → State → State)
    (hm : (me s).mem = none) (ha : accessGood s w al len false) : loadWord w al len absent fin s =
      sends (if w.mod.toNat % 4 = 1 then BitVec.ofNat 5 w.c.litVal else 0) [(accessPa s w, BitVec.ofNat 64 (accessVa s w), len)] s := by
  rw [loadWord, resumeOr_first hm, whenAccess_eq w _ _ _ _ s ha, accessVa_not_inDevice ha]
  simp only [Bool.false_eq_true, if_false, memLoad_first _ _ hm, acquireMask_eq]

/-- An indexed access that passes every check goes on with the page's addresses. -/
theorem whenIndexed_eq {w : O3} {store : Bool} {s : State} (k : Nat → Nat → Bool → State → State) (h : indexedGood s w store) :
    whenIndexed w store k s = k (hBase (hregOf (rd s) (hNum w.a))) (SMap.get 0 (rd s).hpa (hNum w.a)) false s := by
  obtain ⟨hv, hn, hoff, hout, hw, _⟩ := h
  have hal : aligned (offsetOf s w.b) 4 = true := decide_eq_true hoff
  simp only [whenIndexed, hv, hal, hout, hn, not_refused_of_imp hw, Bool.not_true, Bool.false_eq_true, if_false]

section
variable {w : O3} {s : State} (hg : guard0 s w.g w.gn = true) (hm : (me s).mem = none)
include hg hm

theorem execLd_sends (ha : accessGood s w (w.ty.width / 8) (w.ty.width / 8) false) : execLd w s =
    .next (sends (if w.mod.toNat % 4 = 1 then BitVec.ofNat 5 w.c.litVal else 0)
      [(accessPa s w, BitVec.ofNat 64 (accessVa s w), w.ty.width / 8)] s) := by
  rw [execLd, whenGuard_of_guard0 w.g w.gn _ s hg, loadWord_sends _ _ hm ha]

theorem execVld_sends (ha : accessGood s w 4 256 false) : execVld w s =
    .next (sends (if w.mod.toNat % 4 = 1 then BitVec.ofNat 5 w.c.litVal else 0)
      [(accessPa s w, BitVec.ofNat 64 (accessVa s w), 256)] s) := by
  rw [execVld, whenGuard_of_guard0 w.g w.gn _ s hg, loadWord_sends _ _ hm ha]

theorem execVldx_sends (ha : indexedGood s w false) : execVldx w s =
    .next (sends 0 ((upto 64).map fun l => (SMap.get 0 (rd s).hpa (hNum w.a) + laneOff s w l,
      BitVec.ofNat 64 (hBase (hregOf (rd s) (hNum w.a)) + laneOff s w l), 4)) s) := by
  have ⟨_, _, _, _, _, hdev⟩ := ha
  rw [execVldx, whenGuard_of_guard0 w.g w.gn _ s hg, resumeOr_first hm, whenIndexed_eq _ ha, hdev]
  simp only [Bool.false_eq_true, if_false, memLoad_first _ _ hm]

theorem execCbload_sends {base : Word} {rs : List (Nat × Word × Nat)} (hb : (taskOf s (mySpindle s)).bind Task.cbva = some base)
    (hr : cbRequests s (mySpindle s).part base.toNat w.a.litVal (w.b.litVal + 1) = some rs) : execCbload w s = .next (sends 0 rs s) := by
  rw [execCbload, whenGuard_of_guard0 w.g w.gn _ s hg, resumeOr_first hm]
  simp only [hb, hr, memLoad_first _ _ hm]

/-- LD from a page that is not resident reads nothing (R181). -/
theorem execLd_absent (hv : hV (hregOf (rd s) (hNum w.a)) = true) (hn : hNR (hregOf (rd s) (hNum w.a)) = true)
    (ha : offsetOf s w.b % (w.ty.width / 8) = 0) (hr : offsetOf s w.b + w.ty.width / 8 ≤ hSize (hregOf (rd s) (hNum w.a))) :
    execLd w s = .next (landAbsent 2 (dstScalar w.dst 0) 1 s) := by
  rw [execLd, whenGuard_of_guard0 w.g w.gn _ s hg, loadWord, resumeOr_first hm,
    whenAccess_passes hv ha hr fun h => absurd h Bool.false_ne_true, if_pos hn]

end

/-- A word whose good data are there takes them, whatever its guard. -/
theorem next_resumeOr_takes {w : O3} {s : State} {m : MemOp} (fin : List Byte → State → State) (k : State → State)
    (hm : (me s).mem = some m) (hr : m.ready = true) (hp : m.poison = none) :
    (.next (whenGuard w.g w.gn (resumeOr fin k) s) : Host.Outcome State Fault Refusal) =
      .next (fin m.data (updMe (fun st => { st with mem := none }) s)) :=
  congrArg Host.Outcome.next ((whenGuard_reading w.g w.gn s _ m hm).trans (resumeOr_takes hm hr hp))

/-- Settles O14: first issues send, later ones take what has come; each by a lemma above. -/
theorem loadResults : Obligations.LoadResults := by
  refine ⟨fun w s hg hm => ⟨execLd_sends hg hm, execVld_sends hg hm, execVldx_sends hg hm, fun _ _ => execCbload_sends hg hm⟩,
    fun w s m hm hr hp => ?_, fun w s hg hm => execLd_absent hg hm⟩
  exact ⟨next_resumeOr_takes _ _ hm hr hp, next_resumeOr_takes _ _ hm hr hp, next_resumeOr_takes _ _ hm hr hp,
    next_resumeOr_takes _ _ hm hr hp⟩

end Sys2Proof.Machine

namespace Sys2Proof.Machine

/-! ## Stores, scratchpad and spill slab (R171 to R175, R190 to R193, R231, R338) -/

/-- A store that passes every check, with nothing of its strand out for its release to wait for, posts its pieces. -/
theorem storeWord_posts {w : O3} {al unit : Nat} {s : State} (mk : Nat → Bool) (bs : List Byte) (ha : accessGood s w al bs.length true)
    (hr : accessMask w = 0 ∨ nothingOut s s.cur.spn s.cur.strand) : storeWord w al unit mk bs s =
      (upto (bs.length / unit)).foldl (fun t i =>
        postPiece (accessPa s w) bs.length (mk i) (lineSpoilt (accessPa s w) unit (bs.length / unit) mk i) (hNum w.a)
          (BitVec.ofNat 64 (accessVa s w + unit * i)) (accessPa s w + unit * i) ((bs.drop (unit * i)).take unit) (accessMask w) t)
        (released (accessMask w) s) := by
  rw [storeWord, whenAccess_eq w _ _ _ _ s ha, accessVa_not_inDevice ha, if_neg Bool.false_ne_true, if_neg Bool.false_ne_true,
    afterRelease_eq _ _ s hr]

/-! ### A strand's access to scratchpad (R171, R172, R225, R291) -/

section
variable {wr : Bool} {off len : Nat} {us : List Nat} {k : State → State} {s : State}

/-- What `scratchGood` asks of the units of an access: where the checker runs, no open slot and no unordered entry lies under them. -/
def entryFree (wr : Bool) (us : List Nat) (s : State) : Prop :=
  (mySpindle s).det = true → zoneFault (mySpindle s) us = none ∧
    overlapFault (mySpindle s) 5 (nextEntry (mySpindle s)) wr us = none

theorem whenFree_eq (h : entryFree wr us s) : whenFree wr us k s = k s := by
  cases hd : (mySpindle s).det with
  | false => simp only [whenFree, hd, Bool.not_false, if_true]
  | true =>
    obtain ⟨hz, ho⟩ := h hd
    simp only [whenFree, hd, hz, ho, Bool.not_true, Bool.false_eq_true, if_false]

theorem mySpindle_takeBanks (bs : List Nat) (s : State) : mySpindle (updMySpindle (takeBanks bs) s) = takeBanks bs (mySpindle s) :=
  spindleAt_updSpindle_same ..

theorem whenEntry_eq (h : entryFree wr us s) : whenEntry wr us k s = k (entered wr us s) := by
  have hp := mySpindle_takeBanks (us.map unitBank) s
  cases hd : (mySpindle s).det with
  | false =>
    have ht : (mySpindle (updMySpindle (takeBanks (us.map unitBank)) s)).det = false := by rw [hp]; exact hd
    simp only [whenEntry, whenOrdered, entered, hd, ht, Bool.not_false, Bool.false_eq_true, if_false, if_true]
  | true =>
    obtain ⟨hz, ho⟩ := h hd
    have ht : (mySpindle (updMySpindle (takeBanks (us.map unitBank)) s)).det = true := by rw [hp]; exact hd
    have hq : overlapFault (mySpindle (updMySpindle (takeBanks (us.map unitBank)) s)) 5
        (nextEntry (mySpindle (updMySpindle (takeBanks (us.map unitBank)) s))) wr us = none := by rw [hp]; exact ho
    simp only [whenEntry, whenOrdered, entered, hd, hz, ht, hq, Bool.not_true, Bool.false_eq_true, if_false, if_true]

/-- A scratchpad access that passes every check, its own `check` too, goes on behind its entry. -/
theorem whenScratch_eq {check : (State → State) → State → State} (h : scratchGood s wr off len) (hc : ∀ k, check k s = k s) :
    whenScratch wr off len check k s = k (entered wr (unitsOf off len) s) := by
  obtain ⟨hoff, hlen, hfree⟩ := h
  have hal : aligned off 4 = true := decide_eq_true hoff
  rw [whenScratch, hal, Bool.not_true, if_neg Bool.false_ne_true, if_neg (Nat.not_lt.mpr hlen), whenFree_eq hfree, hc, whenEntry_eq hfree]

theorem whenTagged_eq {tag : BitVec 16} (h : ∀ t ∈ tilesOf off len, tileTag (mySpindle s) t = tag) : whenTagged off len tag k s = k s := by
  have hf : ((tilesOf off len).find? fun t => tileTag (mySpindle s) t ≠ tag) = none :=
    List.find?_eq_none.mpr fun t ht => by rw [decide_eq_true_eq]; exact not_not.mpr (h t ht)
  simp only [whenTagged, hf]

end

section
variable {w : O3} {s : State} (hg : guard0 s w.g w.gn = true)
include hg

theorem execVlds_lands (h : scratchGood s false (offsetOf s w.a) 256)
    (hp : scratchPoison (mySpindle (entered false (unitsOf (offsetOf s w.a) 256) s)) (offsetOf s w.a) 256 = none)
    (ht : w.mod.toNat % 2 = 1 → ∀ t ∈ tilesOf (offsetOf s w.a) 256, tileTag (mySpindle s) t = (srcZero s w.c).truncate 16) :
    execVlds w s = .next (landLanes 4 w
      (scratchBytes (mySpindle (entered false (unitsOf (offsetOf s w.a) 256) s)) (offsetOf s w.a) 256)
      (entered false (unitsOf (offsetOf s w.a) 256) s)) := by
  rw [execVlds, whenGuard_of_guard0 w.g w.gn _ s hg, whenScratch_eq h]
  · simp only [hp]
  · intro k
    by_cases hc : w.mod.toNat % 2 = 1
    · rw [if_pos hc, whenTagged_eq (ht hc)]
    · rw [if_neg hc]

theorem execVsts_stores (h : scratchGood s true (offsetOf s w.a) 256) : execVsts w s = .next (updMySpindle (fun p =>
      markStored (offsetOf s w.a) (fun i => storedMark (entered true (unitsOf (offsetOf s w.a) 256) s) w i ≠ 0)
        (scratchWrite (offsetOf s w.a) (storedLanes (entered true (unitsOf (offsetOf s w.a) 256) s) w) false p))
      (entered true (unitsOf (offsetOf s w.a) 256) s)) := by
  rw [execVsts, whenGuard_of_guard0 w.g w.gn _ s hg, whenScratch_eq h fun _ => rfl]

theorem execSld_lands : execSld w s = .next (landS 1 w.dst (SMap.get 0 (rd s).slab (slabIndex w)) 0 s) := by
  rw [execSld, whenGuard_of_guard0 w.g w.gn _ s hg]

theorem execSst_writes : execSst w s = .next (updMe (fun st => { st with
    slab := SMap.set 0 st.slab (slabIndex w) (dstRead s w.dst) }) s) := by
  rw [execSst, whenGuard_of_guard0 w.g w.gn _ s hg]

theorem execVstx_posts (ha : indexedGood s w true) : execVstx w s = .next ((upto 64).foldl (fun t l =>
      postLane l (decide (storedMark s w (l / 16) ≠ 0)) (hNum w.a)
        (BitVec.ofNat 64 (hBase (hregOf (rd s) (hNum w.a)) + laneOff s w l))
        (SMap.get 0 (rd s).hpa (hNum w.a) + laneOff s w l) (toBytes (dstLane s w.dst l).toNat 4) t) s) := by
  have ⟨_, _, _, _, _, hdev⟩ := ha
  rw [execVstx, whenGuard_of_guard0 w.g w.gn _ s hg, whenIndexed_eq _ ha, hdev, if_neg Bool.false_ne_true, if_neg Bool.false_ne_true]

end

/-- Settles O15: ST and VST by `storeWord_posts`, the other words by their lemmas above. -/
theorem storeResults : Obligations.StoreResults := by
  refine ⟨fun w s hg hr => ⟨fun ha => ?_, fun ha => ?_, execVstx_posts hg⟩,
    fun w s hg => ⟨execVlds_lands hg, execVsts_stores hg, execSld_lands hg, execSst_writes hg⟩⟩
  · refine congrArg Host.Outcome.next ((whenGuard_of_guard0 w.g w.gn _ s hg).trans (storeWord_posts _ _ ?_ hr))
    rw [toBytes_length]; exact ha
  · refine congrArg Host.Outcome.next ((whenGuard_of_guard0 w.g w.gn _ s hg).trans (storeWord_posts _ _ ?_ hr))
    rw [storedLanes_length]; exact ha

end Sys2Proof.Machine

namespace Sys2Proof.Machine

/-! ## Stores and atomic operations at their homes (R228, R234, R241, R242) -/

/-- What an agent knows has no part in what a home refuses. -/
theorem refusesAny_updView (n a : Nat) (f : View → View) (s : State) : refusesAny (updView n a f s) = refusesAny s := by
  rw [updView]
  split_ifs <;> rfl

/-- A write that its home takes is applied there, and its lines are noted. -/
theorem applyWrite_takes {w : Posted} {bs : List Byte} {s : State} (h : refusesAny s w.att w.pa bs.length = false) :
    applyWrite w bs s = clearWhole w (noteLines w.spn w.strand w.att w.rel w.marked w.pa bs.length
      (homeWrite w.org w.att w.pa bs w.marked s)) := by
  rw [applyWrite, h, if_neg Bool.false_ne_true]

section
variable {i : Nat} {w : Posted} {s : State} (hp : s.posted[i]? = some w) (hm : mayApply s i w = true) (hs : stale s w.tag w.att = false)
  (hr : refusesAny s w.att w.pa w.data.length = false)
include hp hm hs hr

theorem execStoreApply_applies (ha : w.atom = none) (hk : w.strand < 4) : execStoreApply i s =
    .next (clearWhole w (noteLines w.spn w.strand w.att w.rel w.marked w.pa w.data.length
      (homeWrite w.org w.att w.pa w.data w.marked (dropPosted i s)))) := by
  have ht : applyWrite w w.data (dropPosted i s) = _ := applyWrite_takes hr
  simp only [execStoreApply, hp, hm, hs, ha, hk, ht, Option.isSome_none, Bool.not_true, Bool.or_self, Bool.false_eq_true, if_false, if_true]

theorem execAtomApply_applies {a : BitVec 4 × Ty} (ha : w.atom = some a) (hd : inDevice s w.part w.va.toNat = false)
    (hq : loadPoison s w.att [(w.pa, w.va, w.data.length)] = none) : execAtomApply i s =
    .next (clearWhole w (noteLines w.spn w.strand w.att w.rel w.marked w.pa w.data.length
      (homeWrite (atomOrigin s w.att w.pa w.data.length w.org) w.att w.pa
        (toBytes (atomNew a.1.toNat a.2 (ofBytes (homeBytes s w.att w.pa w.data.length)) (ofBytes w.data)) w.data.length) w.marked
        (gainLast w.spn w.strand w.att w.pa w.data.length (dropPosted i s))))) := by
  have hg : refusesAny (gainLast w.spn w.strand w.att w.pa w.data.length (dropPosted i s)) w.att w.pa w.data.length = false := by
    rw [gainLast, refusesAny_updView]; exact hr
  simp only [execAtomApply, hp, hm, hs, ha, hd, hq, Bool.not_true, Bool.false_eq_true, if_false]
  rw [applyWrite_takes (by rw [toBytes_length]; exact hg), toBytes_length]
  rfl

end

/-! ## Answers to loads and atomic operations (R187, R232, R235, R241, R242) -/

/-- An acquire that does not wait holds back nothing. -/
theorem not_acquire_waits {acq : BitVec 5} {c : Bool} (h : acq = 0 ∨ c = true) : ¬(acq ≠ 0 ∧ (!c) = true) := by
  rintro ⟨hne, hc⟩
  rcases h with h | h
  · exact hne h
  · rw [h] at hc; exact Bool.false_ne_true hc

section
variable {n k : Nat} {m : MemOp} {s : State} (hm : (strandAt s n k).mem = some m) (hs : stale s (strandAt s n k).tag m.att = false)
include hm hs

theorem execLoadDataReturn_answers (ha : m.atom = none) (hq : m.reqs ≠ []) (hr : m.ready = false) (ht : loadTime s n m ≤ s.cycle)
    (hw : loadWaits s n k m.att m.reqs = false)
    (hc : m.acq = 0 ∨ acquireClear s (skeinOf n) m.acq (viewOf (loadAnswer n k m s).2 n k).hb = true) :
    execLoadDataReturn n k s = .next (updStrand n k (fun st => { st with
      mem := some { m with ready := true, data := (loadAnswer n k m s).1, poison := ownPoison s n k m.att m.reqs } })
      (loadAnswer n k m s).2) := by
  have hready : loadReady s n k m = true := by
    rw [loadReady, decide_eq_true ht, hw, Bool.not_false, Bool.true_and, Bool.true_and, Bool.or_eq_true, decide_eq_true_eq]
    exact hc
  have hsend : (m.ready || m.atom.isSome || m.reqs.isEmpty) = false := by
    rw [hr, ha, List.isEmpty_eq_false_iff.mpr hq]; rfl
  simp only [execLoadDataReturn, hm, hs, hsend, hready, Bool.not_true, Bool.false_eq_true, if_false]

section
variable {a : AtomReq} {r : Nat × Word × Nat} {t : State} (ha : m.atom = some a) (hq : m.reqs = [r]) (hp : hasPosted s n k = false)
  (hc : m.c0 + 40 ≤ s.cycle) (hh : homeReady s a.org r.1 s.posted = true) (hd : inDevice s (spindleAt s n).part r.2.1.toNat = false)
  (hl : loadPoison s m.att [r] = none) (ht : noteAcquire n k m.acq (gainLast n k m.att r.1 r.2.2 (requestLines n k m r s)) = t)
  (hv : m.acq = 0 ∨ acquireClear s (skeinOf n) m.acq (viewOf t n k).hb = true)
include ha hq hp hc hh hd hl ht hv

/-- An atomic operation that writes nothing. -/
theorem execAtomicReply_reads (hw : requestNew a (ofBytes (homeBytes s m.att r.1 r.2.2)) = none) :
    execAtomicReply n k s = .next (finishAtomic n k m a (ofBytes (homeBytes s m.att r.1 r.2.2)) t) := by
  simp only [execAtomicReply, hm, hs, ha, hq, hp, hh, hd, hl, ht, hw, decide_eq_false (Nat.not_lt.mpr hc), not_acquire_waits hv, Bool.not_true,
    Bool.or_self, Bool.false_eq_true, if_false]

/-- An atomic operation whose write the home takes. -/
theorem execAtomicReply_writes {new : Nat} (hw : requestNew a (ofBytes (homeBytes s m.att r.1 r.2.2)) = some new)
    (hf : refusesAny s m.att r.1 r.2.2 = false) (hg : refusesAny t m.att r.1 r.2.2 = false) :
    execAtomicReply n k s = .next (finishAtomic n k m a (ofBytes (homeBytes s m.att r.1 r.2.2)) (clearWhole (requestWrite s n k m a r)
      (noteLines n k m.att a.rel false r.1 r.2.2
        (homeWrite (atomOrigin s m.att r.1 r.2.2 a.org) m.att r.1 (toBytes new r.2.2) false t)))) := by
  have happly : applyWrite (requestWrite s n k m a r) (toBytes new r.2.2) t = clearWhole (requestWrite s n k m a r)
      (noteLines n k m.att a.rel false r.1 r.2.2
        (homeWrite (atomOrigin s m.att r.1 r.2.2 a.org) m.att r.1 (toBytes new r.2.2) false t)) := by
    rw [applyWrite_takes (by rw [toBytes_length]; exact hg), toBytes_length]
    rfl
  simp only [execAtomicReply, hm, hs, ha, hq, hp, hh, hd, hl, ht, hw, hf, happly, decide_eq_false (Nat.not_lt.mpr hc), not_acquire_waits hv,
    Bool.not_true, Bool.or_self, Bool.false_eq_true, if_false]

end

end

/-! ## Ends of block moves (R185) -/

section
variable {n b : Nat} {s : State}

theorem execBlockFillDone_readies (h : (blockAt (spindleAt s n) b).st = .filling) : execBlockFillDone n b s =
    .next (carrySem n (blockAt (spindleAt s n) b).sem (blockAt (spindleAt s n) b).carry (raiseSem n (blockAt (spindleAt s n) b).sem 1 []
      (fillBlock n (blockAt (spindleAt s n) b) (updSpindle n (setBlock b { blockAt (spindleAt s n) b with st := .ready }) s)))) :=
  congrArg Host.Outcome.next (if_neg (not_not.mpr h))

theorem execBlockWritebackDone_readies (h : (blockAt (spindleAt s n) b).st = .writing) : execBlockWritebackDone n b s =
    .next (cleanCopies (blockKeys n (blockAt (spindleAt s n) b))
      (updSpindle n (setBlock b { blockAt (spindleAt s n) b with st := .ready }) s)) :=
  congrArg Host.Outcome.next (if_neg (not_not.mpr h))

theorem execBlockEvictDone_releases (h : (blockAt (spindleAt s n) b).st = .evicting) :
    execBlockEvictDone n b s = .next (releaseBlock n b s) :=
  congrArg Host.Outcome.next (if_neg (not_not.mpr h))

end

/-! ## Messages of a phaser (R216, R324, R337) -/

/-- The counts of a neighbour for the open attempt reach its context. -/
theorem receiveGather_open {m : GatherMsg} {c : Nat} {s : State} (hc : groupCtx s m.grp = some c) (ho : (ctxAt s c).isOpen = true)
    (ha : m.att = some (ctxAt s c).att) : receiveGather m s = gatherIn c m s := by
  have hf : ((groupCtx s m.grp).filter fun c => (ctxAt s c).isOpen && decide (m.att = some (ctxAt s c).att)) = some c := by
    rw [hc, Option.filter_some, ho, decide_eq_true ha]; rfl
  simp only [receiveGather, hf]

/-- Those of an attempt that is yet to open wait. -/
theorem receiveGather_early {m : GatherMsg} {s : State}
    (hc : ∀ c, groupCtx s m.grp = some c → (ctxAt s c).isOpen = false ∨ m.att ≠ some (ctxAt s c).att) (h0 : 0 < gatherAhead s m)
    (h1 : gatherAhead s m < 2 ^ 15) : receiveGather m s = { s with early := s.early ++ [m] } := by
  have hf : ((groupCtx s m.grp).filter fun c => (ctxAt s c).isOpen && decide (m.att = some (ctxAt s c).att)) = none := by
    rw [Option.filter_eq_none_iff]
    intro c hg hb
    rw [Bool.and_eq_true, decide_eq_true_eq] at hb
    rcases hc c hg with h | h
    · exact Bool.false_ne_true (h.symm.trans hb.1)
    · exact h hb.2
  simp only [receiveGather, hf]
  exact if_pos ⟨h0, h1⟩

/-- Settles O31: each event by its lemma above. -/
theorem memoryEvents : Obligations.MemoryEvents := by
  have next {a b : State} (h : a = b) : (.next a : Host.Outcome State Fault Refusal) = .next b := congrArg Host.Outcome.next h
  refine ⟨fun s => ⟨fun i w hp hm hs hr => ⟨execStoreApply_applies hp hm hs hr, fun a ha _ => execAtomApply_applies hp hm hs hr ha⟩,
    fun n k m hm hs => ⟨execLoadDataReturn_answers hm hs, fun a r ha hq hp hc hh hd hl => ?_⟩⟩,
    fun n b lit m s => ⟨execBlockFillDone_readies, execBlockWritebackDone_readies, execBlockEvictDone_releases, rfl,
      fun c hc ho ha => ?_, fun hc h0 h1 => next (receiveGather_early hc h0 h1)⟩⟩
  · exact fun hv => ⟨execAtomicReply_reads hm hs ha hq hp hc hh hd hl rfl hv, fun _ => execAtomicReply_writes hm hs ha hq hp hc hh hd hl rfl hv⟩
  · intro i x y t hl
    have hin : execPhaserGatherReceive m s = .next (if y.full then gatherFrom c i none (completeStep c i t) else t) :=
      next ((receiveGather_open hc ho ha).trans (if_neg (by rw [hl]; exact Bool.false_ne_true)))
    exact ⟨fun hy => hin.trans (by rw [hy, if_neg Bool.false_ne_true]), fun hy => hin.trans (by rw [hy, if_pos rfl])⟩

end Sys2Proof.Machine

namespace Sys2Proof.Machine

/-! ## Words that wait (R201, R203) -/

/-- The wait of the strand in focus is over. -/
def endWait (s : State) : State := updMe (fun st => { st with wait := none, arrived := false }) s

section
variable {code obj e target : Nat} {ok : WaitSt → State → Bool} {act : WaitSt → State → State} {s : State}

theorem waitWord_first (h : (me s).wait = none) : waitWord code obj e target ok act s = startWait code obj e target s := by
  simp only [waitWord, h]

theorem waitWord_met {x : WaitSt} (h : (me s).wait = some x) (ho : ok x s = true) :
    waitWord code obj e target ok act s = act x (endWait s) := by
  simp only [waitWord, h, ho, if_true, endWait]

theorem waitWord_unmet {x : WaitSt} (h : (me s).wait = some x) (ho : ok x s = false) :
    waitWord code obj e target ok act s = again s := by
  simp only [waitWord, h, ho, Bool.false_eq_true, if_false]

end

theorem whenSpool_on {i : Nat} {k : State → State} {s : State} (h : (spoolAt (mySpindle s) i).on = true) : whenSpool i k s = k s := by
  rw [whenSpool, if_pos h]

theorem whenReg_live {lit need : Nat} {k : State → State} {s : State} {r : PhReg} (hr : regOf (me s) lit = some r) (hd : r.drop = false)
    (hm : r.mode &&& need = need) : whenReg lit need k s = k s := by
  simp only [whenReg, hr, hd, hm, Bool.false_eq_true, ne_eq, not_true_eq_false, or_self, if_false]

/-! ## Semaphores (R200, R201, R205 to R208, R221) -/

/-! ### The sum of a raise (R200) -/

theorem addSem_count (c n : Nat) (vt : SMap Nat) (x : Sem) : (addSem c n vt x).count.toNat = min (2 ^ 32 - 1) (x.count.toNat + n) := by
  have hx : x.count.toNat < 2 ^ 32 := x.count.isLt
  by_cases h : n = 0
  · rw [addSem, if_pos h]; omega
  · rw [addSem, if_neg h, BitVec.toNat_ofNat, semTop]; omega

theorem addSem_ovf (c n : Nat) (vt : SMap Nat) (x : Sem) :
    (addSem c n vt x).ovf = (x.ovf || decide (2 ^ 32 - 1 < x.count.toNat + n)) := by
  have hx : x.count.toNat < 2 ^ 32 := x.count.isLt
  by_cases h : n = 0
  · rw [addSem, if_pos h, decide_eq_false (by omega), Bool.or_false]
  · rw [addSem, if_neg h, semTop]

@[simp] theorem semAt_updSem_same (k : Nat) (f : Sem → Sem) (p : Spindle) : semAt (updSem k f p) k = f (semAt p k) := SMap.get_modify_same ..

theorem semAt_updSem_ne {j k : Nat} (f : Sem → Sem) (p : Spindle) (h : j ≠ k) : semAt (updSem k f p) j = semAt p j :=
  SMap.get_modify_ne _ _ f h

theorem semAt_raiseSem_same (n k v : Nat) (vt : SMap Nat) (s : State) : semAt (spindleAt (raiseSem n k v vt s) n) k =
    addSem s.cycle v (if (spindleAt s n).det then vt else []) (semAt (spindleAt s n) k) := by
  rw [raiseSem, spindleAt_updSpindle_same, semAt_updSem_same]

theorem semAt_raiseSem_ne {j k : Nat} (n v : Nat) (vt : SMap Nat) (s : State) (h : j ≠ k) :
    semAt (spindleAt (raiseSem n k v vt s) n) j = semAt (spindleAt s n) j := by
  rw [raiseSem, spindleAt_updSpindle_same, semAt_updSem_ne _ _ h]

/-! ### The words under a true guard -/

theorem b2n_mul (b : Bool) (n : Nat) : b2n b * n = if b then n else 0 := by
  rw [b2n, ite_mul, one_mul, zero_mul]

section
variable {w : O3} {s : State} (hg : guard0 s w.g w.gn = true)
include hg

theorem execSemsig_raises : execSemsig w s = .next (raiseSem s.cur.spn (semNum s w) (srcNum s w.b 32) (mySpindle s).q5vt
    (carrySem s.cur.spn (semNum s w) (strandHands s s.cur.spn s.cur.strand) s)) := by
  rw [execSemsig, whenGuard_of_guard0 w.g w.gn _ s hg]

theorem execSemset_sets (hd : (mySpindle s).det = true → semNamed (mySpindle s) (semNum s w) = false) :
    execSemset w s = .next (updMySpindle (updSem (semNum s w)
      (setSem s.cycle (srcNum s w.b 32) (if (mySpindle s).det then (mySpindle s).q5vt else []))) s) := by
  have hn : ¬((mySpindle s).det && semNamed (mySpindle s) (semNum s w)) = true := by rw [Bool.and_eq_false_imp.mpr hd]; exact Bool.false_ne_true
  exact congrArg Host.Outcome.next ((whenGuard_of_guard0 w.g w.gn _ s hg).trans (if_neg hn))

theorem execSemrd_reads (hd : (mySpindle s).det = true → (me s).privm = true) : execSemrd w s = .next (landS 1 w.dst
    (BitVec.ofNat 64 ((if (semAt (mySpindle s) (semNum s w)).ovf then 2 ^ 32 else 0) + (semAt (mySpindle s) (semNum s w)).count.toNat)) 0 s) := by
  rw [← b2n_mul]
  exact congrArg Host.Outcome.next ((whenGuard_of_guard0 w.g w.gn _ s hg).trans (whenStatus_open 0x11 _ s hd))

/-! ### The first issue of a waiting word (R203) -/

variable (hw : (me s).wait = none)
include hw

theorem execSemwait_starts : execSemwait w s = .next (startWait 1 (semNum s w) (timeoutOf w) (srcNum s w.b 32) s) := by
  rw [execSemwait, whenGuard_of_guard0 w.g w.gn _ s hg, waitWord_first hw]

theorem execSpfreew_starts (ho : (spoolAt (mySpindle s) (spoolNum s w)).on = true) :
    execSpfreew w s = .next (startWait 2 (spoolNum s w) (timeoutOf w) 0 s) := by
  rw [execSpfreew, whenGuard_of_guard0 w.g w.gn _ s hg, whenSpool_on ho, waitWord_first hw]

theorem execSpfillw_starts (ho : (spoolAt (mySpindle s) (spoolNum s w)).on = true) :
    execSpfillw w s = .next (startWait 2 (spoolNum s w) (timeoutOf w) 0 s) := by
  rw [execSpfillw, whenGuard_of_guard0 w.g w.gn _ s hg, whenSpool_on ho, waitWord_first hw]

theorem execPhwait_starts {r : PhReg} (hr : regOf (me s) w.a.litVal = some r) (hd : r.drop = false) (hm : r.mode &&& 2 = 2) :
    execPhwait w s = .next (startWait 3 w.a.litVal (timeoutOf w) 0 s) := by
  rw [execPhwait, whenGuard_of_guard0 w.g w.gn _ s hg, whenReg_live hr hd hm, waitWord_first hw]

theorem execTickw_starts (hd : (mySpindle s).det = true → w.dst.isS = false) :
    execTickw w s = .next (startWait 4 0 0 (srcZero s w.a).toNat s) := by
  rw [execTickw, whenGuard_of_guard0 w.g w.gn _ s hg, Bool.and_eq_false_imp.mpr hd, if_neg Bool.false_ne_true, waitWord_first hw]

theorem execCdrain_starts : execCdrain w s = .next (startWait 4 (srcNum s w.a 4) (timeoutOf w) 0 s) := by
  rw [execCdrain, whenGuard_of_guard0 w.g w.gn _ s hg, waitWord_first hw]

end

/-! ### The turns of SEMWAIT (R206) -/

section
variable {w : O3} {s : State} {x : WaitSt} (hw : (me s).wait = some x)
include hw

theorem execSemwait_met (hx : x.target ≤ (semAt (mySpindle s) x.obj).count.toNat) : execSemwait w s = .next (meetWait x (endWait s)) := by
  rw [execSemwait, whenGuard_resuming w.g w.gn s _ x hw, waitWord_met hw (decide_eq_true hx)]

theorem execSemwait_unmet (hx : (semAt (mySpindle s) x.obj).count.toNat < x.target) : execSemwait w s = .next (again s) := by
  rw [execSemwait, whenGuard_resuming w.g w.gn s _ x hw, waitWord_unmet hw (decide_eq_false (Nat.not_le.mpr hx))]

end

/-- Settles O19: the words by their lemmas above, the sum by `addSem_count` and `addSem_ovf`. -/
theorem semaphoreResults : Obligations.SemaphoreResults := by
  refine ⟨fun w s => ⟨fun hg => ⟨execSemsig_raises hg, execSemset_sets hg, execSemrd_reads hg⟩,
      fun x hw hx => execSemwait_met hw hx, fun x hw hx => execSemwait_unmet hw hx, fun x hw hx hd => execTickw_met w s x hw hx hd⟩,
    fun s n k v vt => ⟨?_, ?_, fun j hj => semAt_raiseSem_ne n v vt s hj⟩,
    fun w s hg hw => ⟨execSemwait_starts hg hw, fun ho => ⟨execSpfreew_starts hg hw ho, execSpfillw_starts hg hw ho⟩,
      fun r hr hd hm => execPhwait_starts hg hw hr hd hm, execTickw_starts hg hw, execCdrain_starts hg hw⟩⟩
  · rw [semAt_raiseSem_same, addSem_count]
  · rw [semAt_raiseSem_same, addSem_ovf]

end Sys2Proof.Machine

namespace Sys2Proof.Machine

/-! ## Spools (R210 to R212) -/

section
variable {w : O3} {s : State} (hg : guard0 s w.g w.gn = true)
include hg

theorem execSpldef_defines (hi : (spoolAt (mySpindle s) (spoolNum s w)).on = true → (spoolAt (mySpindle s) (spoolNum s w)).idle = true)
    (hd : spoolOk (srcZero s w.b).toNat (mySpindle s).sg = true) :
    execSpldef w s = .next (updMySpindle (setSpool (spoolNum s w) (.ofDesc (srcZero s w.b).toNat)) s) := by
  refine congrArg Host.Outcome.next ((whenGuard_of_guard0 w.g w.gn _ s hg).trans (if_neg ?_))
  rw [Bool.and_eq_false_imp.mpr fun ho => by rw [hi ho]; rfl, hd]
  exact Bool.false_ne_true

variable {x : Spool} (hx : spoolAt (mySpindle s) (spoolNum s w) = x) (ho : x.on = true)
include hx ho

theorem execSppub_publishes (hc : x.pclaim ≠ 0) : execSppub w s =
    .next (updMySpindle (setSpool (spoolNum s w) { x with pclaim := x.pclaim - 1, ready := x.ready + 1 }) s) := by
  subst hx
  refine congrArg Host.Outcome.next ((whenGuard_of_guard0 w.g w.gn _ s hg).trans (if_neg ?_))
  rw [ho, decide_eq_false hc]
  exact Bool.false_ne_true

theorem execSpret_returns (hc : x.cclaim ≠ 0) : execSpret w s =
    .next (updMySpindle (setSpool (spoolNum s w) { x with head := (x.head + 1) % x.slots, cclaim := x.cclaim - 1 }) s) := by
  subst hx
  refine congrArg Host.Outcome.next ((whenGuard_of_guard0 w.g w.gn _ s hg).trans (if_neg ?_))
  rw [ho, decide_eq_false hc]
  exact Bool.false_ne_true

end

section
variable {w : O3} {s : State} {y : WaitSt} {x : Spool} (hw : (me s).wait = some y) (hy : y.obj = spoolNum s w)
  (hx : spoolAt (mySpindle s) (spoolNum s w) = x) (ho : x.on = true) (ht : spoolAt (mySpindle (endWait s)) (spoolNum s w) = x)
include hw hy hx ho ht

theorem execSpfreew_claims (hf : 0 < x.free) : execSpfreew w s =
    .next (landS 1 w.dst (BitVec.ofNat 64 (x.base + x.tail * x.bytes)) 0
      (updMySpindle (setSpool (spoolNum s w) { x with tail := (x.tail + 1) % x.slots, pclaim := x.pclaim + 1 }) (endWait s))) := by
  rw [execSpfreew, whenGuard_resuming w.g w.gn s _ y hw, whenSpool_on (hx ▸ ho), waitWord_met hw (by rw [hy, hx]; exact decide_eq_true hf)]
  simp only [claimSlot, hy, ht]

theorem execSpfillw_takes (hf : 0 < x.ready) : execSpfillw w s =
    .next (landS 1 w.dst (BitVec.ofNat 64 (x.base + (x.head + x.cclaim) % x.slots * x.bytes)) 0
      (updMySpindle (setSpool (spoolNum s w) { x with ready := x.ready - 1, cclaim := x.cclaim + 1 }) (endWait s))) := by
  rw [execSpfillw, whenGuard_resuming w.g w.gn s _ y hw, whenSpool_on (hx ▸ ho), waitWord_met hw (by rw [hy, hx]; exact decide_eq_true hf)]
  simp only [takeSlot, hy, ht]

end

/-! ## Phasers (R215 to R219) -/

section
variable {w : O3} {s : State} (hg : guard0 s w.g w.gn = true)
include hg

theorem execPhreg_registers (hr : regOf (me s) w.a.litVal = none) (hl : (me s).regs.length < 8)
    (hs : phLevel w.a.litVal = 4 → ∃ t, taskOf s (mySpindle s) = some t ∧ t.instep = true) {r : PhReg × Phaser}
    (he : newReg w.a.litVal w.b.litVal (phSeen (mySpindle s) w.a.litVal) (phaserAt s (mySpindle s) w.a.litVal) = r) :
    execPhreg w s = .next (gatherOut s.cur.spn w.a.litVal none (setPhaser s.cur.spn w.a.litVal r.2
      (updMe (fun st => { st with regs := st.regs ++ [r.1] }) s))) := by
  subst he
  refine congrArg Host.Outcome.next ((whenGuard_of_guard0 w.g w.gn _ s hg).trans (if_neg ?_))
  rw [hr, decide_eq_false (Nat.not_le.mpr hl)]
  by_cases h4 : phLevel w.a.litVal = 4
  · obtain ⟨t, ht, hin⟩ := hs h4
    simp only [ht, hin, Bool.not_true, Bool.and_false, Option.isSome_none, Bool.or_self, Bool.false_eq_true, not_false_eq_true]
  · simp only [h4, decide_false, Bool.false_and, Option.isSome_none, Bool.or_self, Bool.false_eq_true, not_false_eq_true]

variable {r : PhReg} (hr : regOf (me s) w.a.litVal = some r) (hd : r.drop = false)
include hr hd

/-- PHDROP of a registration that is pending, or that does not signal. -/
theorem execPhdrop_leaves (h : r.pend = true ∨ r.mode % 2 = 0) :
    execPhdrop w s = .next (updMe (fun st => { st with regs := st.regs.filter fun q => q.ph ≠ w.a.litVal }) s) := by
  have hc : (r.pend || !bitOf r.mode 0) = true := by
    rcases h with h | h
    · rw [h, Bool.true_or]
    · simp [bitOf, h]
  simp only [execPhdrop, whenGuard_of_guard0 w.g w.gn _ s hg, hr, hd, hc, Bool.false_eq_true, if_false, if_true]

variable (hp : r.pend = false) (hm : r.mode % 2 = 1)
include hp hm

/-- PHDROP of a signaller: it arrives where it has not done so, and leaves at the completion of the phase. -/
theorem execPhdrop_drops : execPhdrop w s =
    let x := phaserAt s (mySpindle s) w.a.litVal
    let t := updMe (updReg w.a.litVal fun r => { r with drop := true, arrph := x.phase }) s
    .next (if r.arrph = x.phase then t else gatherOut s.cur.spn w.a.litVal none
      (arrive s.cur.spn w.a.litVal (strandHands s s.cur.spn s.cur.strand) t)) := by
  have hc : (r.pend || !bitOf r.mode 0) = false := by simp [bitOf, hp, hm]
  simp only [execPhdrop, whenGuard_of_guard0 w.g w.gn _ s hg, hr, hd, hc, Bool.false_eq_true, if_false]

end

section
variable {w : O3} {s : State} {y : WaitSt} {r : PhReg} (hw : (me s).wait = some y) (hr : regOf (me s) w.a.litVal = some r)
  (hd : r.drop = false)
include hw hr hd

theorem execPharr_arrives {b : State} (he : beginRelease s.cur.spn s.cur.strand (phMask w.a.litVal) s = b) (hm : r.mode &&& 1 = 1)
    (hb : (me b).wait = some y) (hl : regLive b w.a.litVal = true) (ha : hasArrived b w.a.litVal = false)
    (hrel : arrivalReleased b w.a.litVal = true) : execPharr w s = .next (makeArrival w.a.litVal (endWait b)) := by
  subst he
  exact congrArg Host.Outcome.next ((whenGuard_resuming w.g w.gn s _ y hw).trans ((whenReg_live hr hd hm).trans
    (waitWord_met hb (by rw [hl, ha, hrel]; rfl))))

theorem execPhwait_passes (hm : r.mode &&& 2 = 2) (hp : phasePassed s w.a.litVal = true) :
    execPhwait w s = .next (passPhase w w.a.litVal (endWait s)) :=
  congrArg Host.Outcome.next ((whenGuard_resuming w.g w.gn s _ y hw).trans ((whenReg_live hr hd hm).trans (waitWord_met hw hp)))

theorem execPharw_passes {b : State} {z : WaitSt}
    (he : arriveOnce w w.a.litVal (beginRelease s.cur.spn s.cur.strand (phMask w.a.litVal) s) = b) (hm : r.mode &&& 3 = 3)
    (hb : (me b).wait = some z) (ha : (me b).arrived = true) (hp : phasePassed b w.a.litVal = true) :
    execPharw w s = .next (passPhase w w.a.litVal (endWait b)) := by
  subst he
  exact congrArg Host.Outcome.next ((whenGuard_resuming w.g w.gn s _ y hw).trans ((whenReg_live hr hd hm).trans
    (waitWord_met hb (by rw [ha, hp]; rfl))))

end

/-- Settles O20: each word by its lemma above. -/
theorem spoolResults : Obligations.SpoolResults := by
  refine ⟨fun w s => ⟨fun hg => ⟨execSpldef_defines hg, execSppub_publishes hg rfl, execSpret_returns hg rfl⟩,
      fun y hw hy ho ht => ⟨execSpfreew_claims hw hy rfl ho ht, execSpfillw_takes hw hy rfl ho ht⟩⟩,
    fun w s => ⟨fun hg => ⟨fun hr hl hs => execPhreg_registers hg hr hl hs rfl, fun r hr hd => execPhdrop_leaves hg hr hd,
        fun r hr hd hp hm hne => (execPhdrop_drops hg hr hd hp hm).trans (congrArg Host.Outcome.next (if_neg hne)),
        fun r hr hd hp hm he => (execPhdrop_drops hg hr hd hp hm).trans (congrArg Host.Outcome.next (if_pos he))⟩,
      fun y r hw hr hd => ⟨execPharr_arrives hw hr hd rfl, execPhwait_passes hw hr hd,
        fun hm ⟨z, hz⟩ => execPharw_passes hw hr hd rfl hm hz⟩⟩⟩

end Sys2Proof.Machine

namespace Sys2Proof.Machine

/-! ## Landing zones (R289 to R291, R310 to R313) -/

theorem zoneLive_idle {z : Zone} (ht : z.taken = 0) (hs : ∀ j, j < z.slots → (slotAt z j).st ≠ .inflight) : zoneLive z = false := by
  have ha : ((upto z.slots).any fun j => decide ((slotAt z j).st = .inflight)) = false :=
    List.any_eq_false.mpr fun j hj => by rw [decide_eq_true_eq]; exact hs j (List.mem_range.mp hj)
  rw [zoneLive, ht, ha, Bool.or_false]
  rfl

/-- The fields of the descriptor of a zone (R310). -/
theorem zoneOf_eq (d k : Nat) : zoneOf d k =
    { base := d / 2 ^ 40 % 2 ^ 24, slots := d / 2 ^ 36 % 16 + 1, bytes := d % 2 ^ 24, sem := d / 2 ^ 30 % 64,
      tags := decide (d / 2 ^ 29 % 2 = 1), head := 0, taken := 0, slot := [], flags := 0, owner := k, binder := none } := by
  rw [zoneOf, bits, bits, bits, bits, pow_zero, Nat.div_one]
  rfl

section
variable {w : O3} {s : State} (hg : guard0 s w.g w.gn = true)
include hg

theorem execLzdefZone_defines
    (hi : ∀ x, zoneAt (mySpindle s) (zoneNum s w) = some x → x.taken = 0 ∧ ∀ j, j < x.slots → (slotAt x j).st ≠ .inflight)
    (hd : zoneDescOk (srcZero s w.b).toNat (mySpindle s).sg = true) : execLzdefZone w s = .next (updMySpindle (fun p =>
      { p with zones := SMap.set none p.zones (zoneNum s w) (some (zoneOf (srcZero s w.b).toNat s.cur.strand)) }) s) := by
  cases hz : zoneAt (mySpindle s) (zoneNum s w) with
  | none => simp only [execLzdefZone, whenGuard_of_guard0 w.g w.gn _ s hg, hz, hd, Bool.not_true, Bool.false_eq_true, if_false]
  | some x =>
    obtain ⟨ht, hs⟩ := hi x hz
    simp only [execLzdefZone, whenGuard_of_guard0 w.g w.gn _ s hg, hz, zoneLive_idle ht hs, hd, Bool.not_true, Bool.false_eq_true, if_false]

theorem execLzdefBinding_defines (hi : ∀ b, bindAt (mySpindle s) (zoneNum s w) = some b → b.resv = [] ∧ b.att = 0)
    (hd : bindDescOk (srcZero s w.b).toNat (srcZero s w.c).toNat = true) :
    execLzdefBinding w s = .next (updMySpindle (fun p => { p with binds := SMap.set none p.binds (zoneNum s w) (some
      { za := srcZero s w.c, slots := (srcZero s w.b).toNat / 2 ^ 36 % 16 + 1, bytes := (srcZero s w.b).toNat % 2 ^ 24, next := 0,
        credits := (srcZero s w.b).toNat / 2 ^ 36 % 16 + 1, resv := [], att := 0, kr := 0, cancels := [] }) }) s) := by
  have hb : bits (srcZero s w.b).toNat 0 24 = (srcZero s w.b).toNat % 2 ^ 24 := by rw [bits, pow_zero, Nat.div_one]
  cases hz : bindAt (mySpindle s) (zoneNum s w) with
  | none =>
    simp only [execLzdefBinding, whenGuard_of_guard0 w.g w.gn _ s hg, hz, hd, hb, Bool.not_true, Bool.false_eq_true, if_false]
    rfl
  | some b =>
    obtain ⟨hr, ha⟩ := hi b hz
    simp only [execLzdefBinding, whenGuard_of_guard0 w.g w.gn _ s hg, hz, hr, ha, hd, hb, List.isEmpty_nil, Nat.lt_irrefl, decide_false,
      Bool.not_true, Bool.or_self, Bool.false_eq_true, if_false]
    rfl

theorem execLzrel_returns {x : Zone} (hx : zoneAt (mySpindle s) (zoneNum s w) = some x) (ht : 0 < x.taken)
    (he : entryFree true (unitsOf (x.base + x.head * x.bytes) x.bytes) s) :
    execLzrel w s = .next (returnSlot (zoneNum s w) x (entered true (unitsOf (x.base + x.head * x.bytes) x.bytes) s)) := by
  simp only [execLzrel, whenGuard_of_guard0 w.g w.gn _ s hg, hx, Nat.ne_of_gt ht, if_false, whenEntry_eq he]

theorem execLzstat_reads (hd : (mySpindle s).det = true → (me s).privm = true) : execLzstat w s = .next (landS 1 w.dst
    (if w.b.litVal = 0 then ((zoneAt (mySpindle s) (zoneNum s w)).map zoneWord).getD 0
      else ((bindAt (mySpindle s) (zoneNum s w)).map bindWord).getD 0) 0 s) := by
  rw [execLzstat, whenGuard_of_guard0 w.g w.gn _ s hg, whenStatus_open _ _ s hd]

end

section
variable {w : O3} {s : State} {y : WaitSt} (hw : (me s).wait = some y) (hy : y.obj = zoneNum s w)
include hw hy

theorem execLzres_reserves {b : Binding} (hb : bindAt (mySpindle s) (zoneNum s w) = some b)
    (ht : bindAt (mySpindle (endWait s)) (zoneNum s w) = some b) (hc : 0 < b.credits) :
    execLzres w s = .next (landS 1 w.dst (BitVec.ofNat 64 ((1 + b.kr % 65535) * 2 ^ 16 + b.next)) 0
      (updMySpindle (updBind (zoneNum s w) fun c => { c with
        next := (c.next + 1) % c.slots, credits := c.credits - 1, resv := c.resv ++ [(c.next, 1 + b.kr % 65535)], kr := c.kr + 1 })
        (endWait s))) := by
  have hn : ¬(bindAt (mySpindle s) (zoneNum s w)).isNone = true := by rw [hb]; exact Bool.false_ne_true
  rw [execLzres, whenGuard_resuming w.g w.gn s _ y hw, if_neg hn, waitWord_met hw]
  · simp only [reserve, hy, ht]
  · simp only [hy, hb, decide_eq_true hc]

section
variable {x : Zone} (hx : zoneAt (mySpindle s) (zoneNum s w) = some x) (hl : x.taken < x.slots)
include hx hl

theorem execLzwait_takes (hs : (slotAt x (nextSlot x)).st = .arrived ∨ (slotAt x (nextSlot x)).st = .broken) :
    execLzwait w s = .next (takeArrival w y (endWait s)) := by
  have hn : ¬(zoneAt (mySpindle s) (zoneNum s w)).isNone = true := by rw [hx]; exact Bool.false_ne_true
  have hthere : slotThere x = true := by
    rw [slotThere, decide_eq_true hl, Bool.true_and, Bool.or_eq_true, decide_eq_true_eq, decide_eq_true_eq]
    exact hs
  rw [execLzwait, whenGuard_resuming w.g w.gn s _ y hw, if_neg hn, waitWord_met hw]
  simp only [hy, hx, hthere]

variable (ht : zoneAt (mySpindle (endWait s)) (zoneNum s w) = some x)
include ht

theorem execLzwait_arrived (hs : (slotAt x (nextSlot x)).st = .arrived) : execLzwait w s = .next (landS 1 w.dst
    (BitVec.ofNat 64 (0 * 2 ^ 63 + expectedSeq x (nextSlot x) % 2 ^ 16 * 2 ^ 32 + (x.base + nextSlot x * x.bytes) % 2 ^ 32)) 0
    (updMySpindle (updZone (zoneNum s w) fun z =>
        { updSlot (nextSlot x) (fun y => { y with st := .consumed }) z with taken := z.taken + 1 })
      (updMe (fun st => { st with view := st.view.handed 4 (slotAt x (nextSlot x)).carry }) (endWait s)))) := by
  have hb : decide ((slotAt x (nextSlot x)).st = .broken) = false := by rw [hs]; rfl
  rw [execLzwait_takes hw hy hx hl (.inl hs)]
  simp only [takeArrival, hy, ht, hb, b2n, Bool.false_eq_true, if_false]

theorem execLzwait_broken (hs : (slotAt x (nextSlot x)).st = .broken) : execLzwait w s = .next (landS 1 w.dst
    (BitVec.ofNat 64 (1 * 2 ^ 63 + expectedSeq x (nextSlot x) % 2 ^ 16 * 2 ^ 32 + (x.base + nextSlot x * x.bytes) % 2 ^ 32)) 0
    (updMySpindle (updZone (zoneNum s w) fun z => { updSlot (nextSlot x) (fun y => y) z with taken := z.taken + 1 }) (endWait s))) := by
  have hb : decide ((slotAt x (nextSlot x)).st = .broken) = true := by rw [hs]; rfl
  rw [execLzwait_takes hw hy hx hl (.inr hs)]
  simp only [takeArrival, hy, ht, hb, b2n, if_true]

end

end

/-- Settles O22: each word by its lemma above. -/
theorem landingZoneResults : Obligations.LandingZoneResults := by
  intro w s
  refine ⟨fun hg => ⟨fun hi hd => ?_, execLzdefBinding_defines hg, fun x hx ht => execLzrel_returns hg hx ht, execLzstat_reads hg⟩,
    fun y b hw hy hb ht hc => execLzres_reserves hw hy hb ht hc,
    fun y x hw hy hx ht hl => ⟨execLzwait_arrived hw hy hx hl ht, execLzwait_broken hw hy hx hl ht⟩⟩
  rw [← zoneOf_eq]
  exact execLzdefZone_defines hg hi hd

end Sys2Proof.Machine

namespace Sys2Proof.Machine

/-! ## Issues of the copy channels (R270 to R276, R295) -/

theorem issueCopy_head {kind n ch : Nat} {f : Nat → Rec → State → State} {r : Rec} {s : State}
    (hh : headRec (spindleAt s n) (ch + 1) = some r) (hr : headReady s n (ch + 1) r = true) (hk : r.kind = kind) :
    issueCopy kind n ch f s = f (ch + 1) r s := by
  simp only [issueCopy, hh, hk, hr, and_self, if_true]

/-- A chunk of memory that has not been asked for is asked for (R271). -/
theorem withSource_asks {n q : Nat} {r : Rec} {off : Int} {len : Nat} {k : List Byte → State → State} {s : State} (hp : r.sp 0 = true)
    (hd : r.data = none) (hs : r.sent = false) {rs : List (Nat × Word × Nat)}
    (hq : recordReqs s (spindleAt s n).part (recordVa r 0 off) len false = .ok rs) : withSource n q r off len k s =
    updHead n q (fun r => { r with sent := true, sentAt := s.tick, src := recordVa r 0 off }) s := by
  simp only [withSource, hp, hd, hs, hq, Bool.not_true, Bool.false_eq_true, if_false]

/-- A chunk whose source is there and whose destination takes it is moved. -/
theorem withSource_writeChunk {n q : Nat} {r : Rec} {off : Int} {len : Nat} {bs : List Byte} {s v t : State}
    (hs : readsChunk n q r off len s bs v) (ht : putsChunk n q r bs v t) : withSource n q r off len (writeChunk n q r) s = t := by
  rw [withSource_eq _ _ _ _ _ _ _ _ _ hs, writeChunk_eq _ _ _ _ _ _ ht]

/-- The constants of a block, which a record draws with (R265, R274). -/
def blockWords (n pbi : Nat) (s : State) : List Word := (upto 3).map fun i => cbankAt (spindleAt s n) (pbi + i)

/-- A record reads the constants of its block at its first issue alone. -/
theorem withBlock_eq (n q pbi : Nat) (r : Rec) (k : Rec → State → State) (s : State) : withBlock n q pbi r k s =
    k (if r.pb.isEmpty then { r with pb := blockWords n pbi s } else r)
      (if r.pb.isEmpty then updHead n q (fun x => { x with pb := blockWords n pbi s }) s else s) := by
  by_cases h : r.pb.isEmpty = true
  · rw [withBlock, if_pos h, if_pos h, if_pos h]
    rfl
  · rw [withBlock, if_neg h, if_neg h, if_neg h]

section
variable {n q : Nat} {r : Rec}

/-- COPYACC adds the source chunk to the destination chunk (R274). -/
theorem copyaccStep_adds {b : Rec} {s s1 v t : State} {xs : List Byte}
    (hb : (if r.pb.isEmpty then { r with pb := blockWords n (bits (r.word 6) 44 8) s } else r) = b)
    (h1 : (if r.pb.isEmpty then updHead n q (fun x => { x with pb := blockWords n (bits (r.word 6) 44 8) s }) s else s) = s1)
    (hs : readsChunk n q b (16 * r.addr (srcOperand r) r.n) r.srcBytes s1 xs v)
    {o : Nat} (ho : r.byte (dstOperand r) r.n = o) {x : State} (hx : engineNoted n q r.seq [(o, r.chunk)] [] v = x)
    (hg : engineGood v n q b none [(o, r.chunk)] [])
    (ht : putsChunk n q b (addChunk b xs (scratchBytes (spindleAt x n) o r.chunk)).1
      (queueFlags n q (addChunk b xs (scratchBytes (spindleAt x n) o r.chunk)).2 x) t) : copyaccStep n q r s = t := by
  obtain ⟨pb, rfl⟩ : ∃ pb, b = { r with pb := pb } := by
    rw [← hb]
    split
    · exact ⟨_, rfl⟩
    · exact ⟨r.pb, rfl⟩
  subst ho hx
  rw [copyaccStep, withBlock_eq, hb, h1]
  exact (withSource_eq _ _ _ _ _ _ _ _ _ hs).trans ((whenEngine_eq _ _ _ _ _ _ _ _ hg).trans (writeChunk_eq _ _ _ _ _ _ ht))

/-- Where a GATHER's chunk begins behind its source: the index that stands in scratchpad, in chunks (R275). -/
def gatherOffset (n : Nat) (r : Rec) (x : State) : Int :=
  16 * r.from (srcOperand r) + ofBytes (scratchBytes (spindleAt x n) (r.byte (idxOperand r) 0 + 4 * r.n) 4) * r.chunk

/-- A GATHER whose chunk lies in its source goes on with that chunk. -/
theorem gatherStep_reads {s x : State} {off : Int} (hd : r.data = none)
    (hx : engineNoted n q r.seq [(r.byte (idxOperand r) 0 + 4 * r.n, 4)] [] s = x)
    (hg : engineGood s n q r none [(r.byte (idxOperand r) 0 + 4 * r.n, 4)] []) (h0 : 0 ≤ off)
    (hl : off + r.chunk ≤ (if r.sp 0 then hSize (r.handle 0) else (spindleAt x n).sg * 65536 : Nat)) (ho : gatherOffset n r x = off) :
    gatherStep n q r s = withSource n q r off r.chunk (writeChunk n q r) x := by
  have hn : ¬r.data.isSome = true := by rw [hd]; exact Bool.false_ne_true
  rw [gatherStep, if_neg hn, whenEngine_eq _ _ _ _ _ _ _ _ hg, hx]
  subst ho
  by_cases hp : r.sp 0 = true
  · rw [if_pos hp] at hl
    exact (if_pos hp).trans (if_neg (Int.not_lt.mpr hl))
  · rw [if_neg hp] at hl
    exact (if_neg hp).trans ((if_neg (Int.not_lt.mpr h0)).trans (if_neg (Int.not_lt.mpr hl)))

/-- A GATHER whose chunk has returned from memory writes it. -/
theorem gatherStep_returned {bs : List Byte} {s t : State} (hp : r.sp 0 = true) (hd : r.data = some bs) (ht : putsChunk n q r bs s t) :
    gatherStep n q r s = t := by
  have hs : r.data.isSome = true := by rw [hd]; rfl
  rw [gatherStep, if_pos hs]
  exact withSource_writeChunk (.inr ⟨hp, hd, rfl⟩) ht

theorem sendChunk_sends {bs : List Byte} {s : State} {port : Nat} (h : pathTo s n (zaPkg r.za) = some port) : sendChunk n q r bs s =
    countIssue n q r.units (updHead n q (fun r => { r with ports := if r.ports.contains port then r.ports else port :: r.ports })
      { s with net := s.net ++ [.chunk
        { hdr := hdrFor s n (zaPkg r.za) r.sseq r.tag, lspn := zaSpn r.za, zone := zaZone r.za, slot := r.slot, seq := r.sseq,
          off := r.n * r.chunk, last := r.total, rop := bits (r.word 4) 56 4, xw := bits (r.word 4) 50 6, data := bs, spn := n,
          chan := q - 1, recno := r.seq, port := port }] }) := by
  simp only [sendChunk, h]

end

/-! ## Reads that return, records that end, and the power of the sub-arrays (R245, R250, R276, R417) -/

theorem execCopyReadReturn_answers {n ch : Nat} {r : Rec} {s : State} (hh : headRec (spindleAt s n) (ch + 1) = some r) (hs : r.sent = true)
    (hd : r.data = none) (hf : (queueAt (spindleAt s n) (ch + 1)).faulted = false) {rs : List (Nat × Word × Nat)}
    (hq : recordReqs s (spindleAt s n).part r.src r.srcBytes false = .ok rs)
    (hp : ownPoison s n (copyAgent (ch + 1)) (attOf s r.tag) rs = none) {back : List Byte × State}
    (hb : readChunk n (ch + 1) r.tag rs (rs.foldl (fun s x => recordLines n (ch + 1) r x s) s) = back) :
    execCopyReadReturn n ch s = .next (updHead n (ch + 1) (fun x => { x with data := some back.1 }) back.2) := by
  simp only [execCopyReadReturn, hh, hs, hd, hf, hq, hp, hb, Option.isSome_none, Bool.not_true, Bool.or_self, Bool.false_eq_true, if_false]

theorem execEngineRecordComplete_completes {n q : Nat} {d : Done} {ds : List Done} {s : State}
    (hq : (queueAt (spindleAt s n) q).done = d :: ds) (hc : d.due ≤ s.cycle) (ha : recordApplied s n q d.r = true)
    (hm : mulShadow (spindleAt s n) d.r = none) : execEngineRecordComplete n q s = .next (completeRec n q d.r s) := by
  simp only [execEngineRecordComplete, hq, ha, hm, Nat.not_lt.mpr hc, Bool.not_true, Bool.false_eq_true, or_self, if_false]

section
variable {n x : Nat} {s : State}

theorem execSubarrayWakeDone_held (h : s.dev.wakeHold = true) : execSubarrayWakeDone n x s = .next s :=
  congrArg Host.Outcome.next (if_pos (.inr (.inr h)))

theorem execSubarrayWakeDone_wakes (hw : SMap.get 0 (spindleAt s n).matrix.waking x ≠ 0)
    (hc : SMap.get 0 (spindleAt s n).matrix.waking x ≤ s.cycle) (hh : s.dev.wakeHold = false) :
    execSubarrayWakeDone n x s = .next (updMatrix n (fun m =>
      { m with waking := SMap.set 0 m.waking x 0, awake := SMap.set false m.awake x true, used := SMap.set 0 m.used x s.cycle }) s) := by
  refine congrArg Host.Outcome.next (if_neg ?_)
  rw [hh, or_iff_right hw, or_iff_right (Nat.not_lt.mpr hc)]
  exact Bool.false_ne_true

theorem execSubarrayGate_gates (ha : SMap.get false (spindleAt s n).matrix.awake x = true)
    (hc : SMap.get 0 (spindleAt s n).matrix.used x + 2048 < s.cycle) (hn : arrayNeeded (spindleAt s n) x = false) :
    execSubarrayGate n x s = .next (updMatrix n (fun m => { m with awake := SMap.set false m.awake x false }) s) := by
  refine congrArg Host.Outcome.next (if_pos ?_)
  rw [ha, hn, decide_eq_true hc]
  rfl

end

/-- Settles O34: the head of a channel issues by `issueCopy_head` and what an issue of its kind does; the other events by their
lemmas above. -/
theorem copyIssues : Obligations.CopyIssues := by
  refine ⟨fun n ch r s hh => ⟨fun hr => ?_, fun hs hd hf rs hq hp => execCopyReadReturn_answers hh hs hd hf hq hp rfl⟩,
    fun n q x s => ⟨fun d ds => execEngineRecordComplete_completes, execSubarrayWakeDone_held, execSubarrayWakeDone_wakes,
      execSubarrayGate_gates⟩⟩
  have issues {kind : Nat} {f : Nat → Rec → State → State} {t : State} (hk : r.kind = kind) (hf : f (ch + 1) r s = t) :
      (.next (issueCopy kind n ch f s) : Host.Outcome State Fault Refusal) = .next t :=
    congrArg Host.Outcome.next ((issueCopy_head hh hr hk).trans hf)
  refine ⟨fun hk bs v t hs ht => issues hk (withSource_writeChunk hs ht), fun hk t ht => issues hk (writeChunk_eq _ _ _ _ _ _ ht),
    fun hk xs v t hs hg ht => issues hk (copyaccStep_adds rfl rfl hs rfl rfl hg ht), fun hk hd hg h0 hl => ⟨fun bs v t hs ht => ?_, ?_⟩,
    fun hk hp bs t hd ht => issues hk (gatherStep_returned hp hd ht), fun hk bs v port hs hp => ?_,
    fun hk hp hd hs rs hq => issues hk (withSource_asks hp hd hs hq)⟩
  · exact issues hk ((gatherStep_reads hd rfl hg h0 hl rfl).trans (withSource_writeChunk hs ht))
  · exact fun hp hs rs hq => issues hk ((gatherStep_reads hd rfl hg h0 hl rfl).trans (withSource_asks hp hd hs hq))
  · exact issues hk ((withSource_eq _ _ _ _ _ _ _ _ _ hs).trans (sendChunk_sends hp))

end Sys2Proof.Machine

namespace Sys2Proof.Machine

/-! ## Device memory as function 0 reaches it (R328, R401) -/

/-- The first byte of a range that begins in a hole of the address space. -/
theorem find_hole_first {n pa : Nat} (hn : 0 < n) (h : paExists pa = false) : (upto n).find? (fun i => !paExists (pa + i)) = some 0 := by
  rw [upto, List.find?_range_eq_some]
  exact ⟨by rw [Nat.add_zero, h]; rfl, List.mem_range.mpr hn, fun j hj => absurd hj (Nat.not_lt_zero j)⟩

section
variable {pa n : Nat} {s : State}

theorem readPa_there (h : ∀ i, i < n → paExists (pa + i) = true) : readPa s pa n = .ok (homeBytes s none pa n) := by
  rw [readPa, find_none_of_forall n (fun i => paExists (pa + i)) h]

theorem readPa_hole (hn : 0 < n) (h : paExists pa = false) : readPa s pa n = .error pa := by
  rw [readPa, find_hole_first hn h]
  rfl

end

section
variable {pa : Nat} {bs : List Byte} {s : State}

theorem writePa_hole (hn : 0 < bs.length) (h : paExists pa = false) : writePa pa bs s = .error pa := by
  rw [writePa, find_hole_first hn h]
  rfl

variable (h : ∀ i, i < bs.length → paExists (pa + i) = true)
include h

theorem writePa_there (hr : refusesAny s none pa bs.length = false) :
    writePa pa bs s = .ok (outsideWrite (hostAgent 0) false none pa bs s) := by
  rw [writePa, find_none_of_forall _ (fun i => paExists (pa + i)) h, hr]
  exact if_neg Bool.false_ne_true

theorem writePa_refused (hr : refusesAny s none pa bs.length = true) :
    writePa pa bs s = .ok ((refusingParts s pa bs.length).foldl (fun s p => countRefused p s) s) := by
  rw [writePa, find_none_of_forall _ (fun i => paExists (pa + i)) h, hr]
  exact if_pos rfl

end

section
variable {addr pa : Nat} {s : State} (ha : addr < 2 ^ 36) (hpa : bits s.dev.apbase.toNat 36 28 * 2 ^ 36 + addr = pa)
include ha hpa

theorem execHostMemoryRead_ok {n : Nat} {bs : List Byte} (h : readPa s pa n = .ok bs) :
    execHostMemoryRead 0 addr n s = .next (updDev (fun d => { d with hostRead := bs }) s) := by
  rw [execHostMemoryRead, if_pos rfl, if_neg (Nat.not_le.mpr ha), hpa, h]

theorem execHostMemoryRead_error {n a : Nat} (h : readPa s pa n = .error a) :
    execHostMemoryRead 0 addr n s = .fault (.noSuchAddress a) := by
  rw [execHostMemoryRead, if_pos rfl, if_neg (Nat.not_le.mpr ha), hpa, h]

theorem execHostMemoryWrite_ok {bs : List Byte} {t : State} (h : writePa pa bs s = .ok t) : execHostMemoryWrite 0 addr bs s = .next t := by
  rw [execHostMemoryWrite, if_pos rfl, if_neg (Nat.not_le.mpr ha), hpa, h]

theorem execHostMemoryWrite_error {bs : List Byte} {a : Nat} (h : writePa pa bs s = .error a) :
    execHostMemoryWrite 0 addr bs s = .fault (.noSuchAddress a) := by
  rw [execHostMemoryWrite, if_pos rfl, if_neg (Nat.not_le.mpr ha), hpa, h]

end

/-! ## Stores to the object window (R222) -/

section
variable {m off i : Nat} {v : Word} {s : State}

section
variable (h : off < 0x200) (hi : off / 8 = i)
include h hi

theorem windowStore_semaphore (hf : ((spindleAt s m).det && semNamed (spindleAt s m) i) = false) : windowStore m off v s =
    .ok (updSpindle m (updSem i (setSem s.cycle (v.toNat % 2 ^ 32) (if (spindleAt s m).det then (spindleAt s m).q5vt else []))) s) := by
  subst hi
  exact (if_pos h).trans (if_neg (by rw [hf]; exact Bool.false_ne_true))

theorem windowStore_semaphore_named (hf : ((spindleAt s m).det && semNamed (spindleAt s m) i) = true) :
    windowStore m off v s = .error (0x08, 0x12, i) := by
  subst hi
  exact (if_pos h).trans (if_pos hf)

end

section
variable (h : ¬off < 0x200) (h4 : off < 0x400) (hi : off / 32 % 16 = i) {half : Nat} (hh : off % 32 / 8 = half) (h1 : half ≤ 1)
include h h4 hi hh h1

theorem windowStore_spool (hf : (spoolAt (spindleAt s m) i).idle = true) :
    windowStore m off v s = .ok (updSpindle m (setSpool i (spoolStore half v (spoolAt (spindleAt s m) i))) s) := by
  subst hi hh
  exact (if_neg h).trans ((if_pos h4).trans ((if_pos h1).trans (if_pos hf)))

theorem windowStore_spool_busy (hf : (spoolAt (spindleAt s m) i).idle = false) : windowStore m off v s = .error (0x05, 0xEA, i) := by
  subst hi hh
  exact (if_neg h).trans ((if_pos h4).trans ((if_pos h1).trans (if_neg (by rw [hf]; exact Bool.false_ne_true))))

end

section
variable (h : ¬off < 0x400) (h6 : off < 0x600)
include h h6

theorem windowStore_phaser_rest (h0 : off % 32 / 8 ≠ 0) : windowStore m off v s = .ok s :=
  (if_neg (by omega)).trans ((if_neg h).trans ((if_pos h6).trans (if_pos h0)))

variable (hi : off / 32 % 16 = i) (h0 : off % 32 / 8 = 0)
include hi h0

theorem windowStore_phaser (hf : phaserBusy (spindleAt s m) i = false) : windowStore m off v s = .ok (updSpindle m (fun p => { p with
    phasers := SMap.set .start p.phasers i { (SMap.get Phaser.start p.phasers i) with phase := v.truncate 32 }
    phView := SMap.set 0 p.phView i (v.truncate 32) }) s) := by
  subst hi
  exact (if_neg (by omega)).trans ((if_neg h).trans ((if_pos h6).trans ((if_neg (not_not.mpr h0)).trans
    (if_neg (by rw [hf]; exact Bool.false_ne_true)))))

theorem windowStore_phaser_busy (hf : phaserBusy (spindleAt s m) i = true) : windowStore m off v s = .error (0x05, 0xEA, i) := by
  subst hi
  exact (if_neg (by omega)).trans ((if_neg h).trans ((if_pos h6).trans ((if_neg (not_not.mpr h0)).trans (if_pos hf))))

end

end

/-! ### The window of a VF (R222, R328) -/

/-- Function `fn` is an enabled VF, and spindle `k` one of its partition. -/
def vfReaches (s : State) (fn k : Nat) : Prop := vfOn s fn = true ∧ k < 640 ∧ inPartition s (vfPart s fn) k = true

section
variable {fn k n : Nat} {v : Word} {s : State} (hm : vfReaches s fn k)
include hm

theorem vfReaches_lt : k < 640 :=
  have ⟨_, hlt, _⟩ := hm
  hlt

theorem vfStore_taken {o : Nat} {t : State} (h22 : ¬o < 2 ^ 22) (hk : (o - 2 ^ 22) / 4096 = k) (h : windowStore k (o % 4096) v s = .ok t) :
    vfStore fn o v s = t := by
  obtain ⟨hon, hlt, hin⟩ := hm
  rw [vfStore_gen fn k _ o v s hon hlt hin h22 hk rfl, h]

theorem vfStore_refused {o : Nat} {e : WinErr} (h22 : ¬o < 2 ^ 22) (hk : (o - 2 ^ 22) / 4096 = k)
    (h : windowStore k (o % 4096) v s = .error e) : vfStore fn o v s = countRefused (vfPart s fn) s := by
  obtain ⟨hon, hlt, hin⟩ := hm
  rw [vfStore_gen fn k _ o v s hon hlt hin h22 hk rfl, h]

section
variable (hn : n < 64)
include hn

theorem execObjectWindowSemaphoreStore_sets (h : ((spindleAt s k).det && semNamed (spindleAt s k) n) = false) :
    execObjectWindowSemaphoreStore fn k n v s = .next (updSpindle k (updSem n (setSem s.cycle (v.toNat % 2 ^ 32)
      (if (spindleAt s k).det then (spindleAt s k).q5vt else []))) s) :=
  congrArg Host.Outcome.next ((if_pos ⟨vfReaches_lt hm, hn⟩).trans
    (vfStore_taken hm (by omega) (by omega) (windowStore_semaphore (by omega) (by omega) h)))

theorem execObjectWindowSemaphoreStore_refused (h : ((spindleAt s k).det && semNamed (spindleAt s k) n) = true) :
    execObjectWindowSemaphoreStore fn k n v s = .next (countRefused (vfPart s fn) s) :=
  congrArg Host.Outcome.next ((if_pos ⟨vfReaches_lt hm, hn⟩).trans
    (vfStore_refused hm (by omega) (by omega) (windowStore_semaphore_named (by omega) (by omega) h)))

end

variable (hn : n < 16)
include hn

section
variable {half : Nat} (hh : half < 2)
include hh

theorem execObjectWindowSpoolStore_stores (h : (spoolAt (spindleAt s k) n).idle = true) : execObjectWindowSpoolStore fn k n half v s =
    .next (updSpindle k (setSpool n (spoolStore half v (spoolAt (spindleAt s k) n))) s) :=
  congrArg Host.Outcome.next ((if_pos ⟨vfReaches_lt hm, hn, hh⟩).trans
    (vfStore_taken hm (by omega) (by omega) (windowStore_spool (by omega) (by omega) (by omega) (by omega) (by omega) h)))

theorem execObjectWindowSpoolStore_refused (h : (spoolAt (spindleAt s k) n).idle = false) : execObjectWindowSpoolStore fn k n half v s =
    .next (countRefused (vfPart s fn) s) :=
  congrArg Host.Outcome.next ((if_pos ⟨vfReaches_lt hm, hn, hh⟩).trans
    (vfStore_refused hm (by omega) (by omega) (windowStore_spool_busy (by omega) (by omega) (by omega) rfl (by omega) h)))

end

section
variable {i : Nat}

theorem execObjectWindowPhaserStore_stores (hi : i < 8) (h : phaserBusy (spindleAt s k) n = false) :
    execObjectWindowPhaserStore fn k n i v s = .next (updSpindle k (fun p => { p with
      phasers := SMap.set .start p.phasers n { (SMap.get Phaser.start p.phasers n) with phase := v.truncate 32 }
      phView := SMap.set 0 p.phView n (v.truncate 32) }) s) :=
  congrArg Host.Outcome.next ((if_pos ⟨vfReaches_lt hm, hn, by omega⟩).trans
    (vfStore_taken hm (by omega) (by omega) (windowStore_phaser (by omega) (by omega) (by omega) (by omega) h)))

theorem execObjectWindowPhaserStore_refused (hi : i < 8) (h : phaserBusy (spindleAt s k) n = true) :
    execObjectWindowPhaserStore fn k n i v s = .next (countRefused (vfPart s fn) s) :=
  congrArg Host.Outcome.next ((if_pos ⟨vfReaches_lt hm, hn, by omega⟩).trans
    (vfStore_refused hm (by omega) (by omega) (windowStore_phaser_busy (i := n) (by omega) (by omega) (by omega) (by omega) h)))

theorem execObjectWindowPhaserStore_rest (hi : 8 ≤ i) (h : i < 32) : execObjectWindowPhaserStore fn k n i v s = .next s :=
  congrArg Host.Outcome.next ((if_pos ⟨vfReaches_lt hm, hn, h⟩).trans
    (vfStore_taken hm (by omega) (by omega) (windowStore_phaser_rest (by omega) (by omega) (by omega))))

end

end

/-- Settles O41: function 0 by `readPa_there` and its like, the object window by the lemmas of its three kinds of object. -/
theorem hostAccesses : Obligations.HostAccesses := by
  intro fn addr n k bs v s
  refine ⟨fun ha h => execHostMemoryRead_ok ha rfl (readPa_there h), fun ha hn h => execHostMemoryRead_error ha rfl (readPa_hole hn h),
    fun ha h => ⟨fun hr => execHostMemoryWrite_ok ha rfl (writePa_there h hr), fun hr => execHostMemoryWrite_ok ha rfl (writePa_refused h hr)⟩,
    fun ha hn h => execHostMemoryWrite_error ha rfl (writePa_hole hn h),
    fun hm hn => ⟨fun h => execObjectWindowSemaphoreStore_sets hm hn (Bool.and_eq_false_iff.mpr h), fun hd hs =>
      execObjectWindowSemaphoreStore_refused hm hn (by rw [hd, hs]; rfl)⟩,
    fun hm hn => ⟨fun h => ⟨execObjectWindowSpoolStore_stores hm hn Nat.two_pos h, execObjectWindowSpoolStore_stores hm hn Nat.one_lt_two h⟩,
      fun h i hi => execObjectWindowSpoolStore_refused hm hn hi h, fun i hi h => execObjectWindowPhaserStore_stores hm hn hi h,
      fun i hi h => execObjectWindowPhaserStore_refused hm hn hi h, fun i hi h => execObjectWindowPhaserStore_rest hm hn hi h⟩⟩

end Sys2Proof.Machine

namespace Sys2Proof.Machine

/-! ## A store that is applied, byte by byte (R228) -/

/-- The first bytes of the lines that a range touches lie in the range. -/
theorem mem_lineStarts {pa n b : Nat} (hn : 0 < n) (h : b ∈ lineStarts pa n) : pa ≤ b ∧ b < pa + n := by
  rw [lineStarts, List.mem_cons, List.mem_map] at h
  obtain rfl | ⟨i, hi, rfl⟩ := h
  · omega
  · have hlt : i < (pa + (n - 1)) / 128 - pa / 128 := List.mem_range.mp hi
    omega

/-- A home refuses no write outside versioned pages. -/
theorem refusesAny_unversioned {s : State} {x : Option (BitVec 16)} {pa n : Nat} (hn : 0 < n)
    (hv : ∀ a, pa ≤ a → a < pa + n → vpageAt s a = none) : refusesAny s x pa n = false := by
  refine List.any_eq_false.mpr fun b hb => ?_
  obtain ⟨hlo, hhi⟩ := mem_lineStarts hn hb
  simp only [refuses, hv b hlo hhi, Bool.false_eq_true, not_false_eq_true]

/-- What the end of a write of a whole line changes: at most the marks of the line. -/
theorem clearWhole_shape (w : Posted) (s : State) : ∃ p k, clearWhole w s = { s with memPoison := p, l2Marks := k } := by
  unfold clearWhole markHome markLine markCopy
  dsimp only
  repeat' split
  all_goals exact ⟨_, _, rfl⟩

section
variable (w : Posted) (s : State)

@[simp] theorem memByte_clearWhole (a : Nat) : memByte (clearWhole w s) a = memByte s a := by
  rw [memByte, clearWhole_mem, memByte]

@[simp] theorem clearWhole_posted : (clearWhole w s).posted = s.posted := by
  obtain ⟨p, k, h⟩ := clearWhole_shape w s
  rw [h]

@[simp] theorem strandAt_clearWhole (n k : Nat) : strandAt (clearWhole w s) n k = strandAt s n k := by
  obtain ⟨p, m, h⟩ := clearWhole_shape w s
  rw [h]; rfl

end

section
variable (o : Origin) (x : Option (BitVec 16)) (pa : Nat) (bs : List Byte) (q : Bool) (s : State)

@[simp] theorem homeWrite_posted : (homeWrite o x pa bs q s).posted = s.posted := by
  rw [onlyHome_homeWrite o x pa bs q s]

@[simp] theorem strandAt_homeWrite (n k : Nat) : strandAt (homeWrite o x pa bs q s) n k = strandAt s n k := by
  rw [onlyHome_homeWrite o x pa bs q s]; rfl

end

/-- Settles O50: no home refuses the store, the write at the home gives the bytes, and noting its lines keeps them. -/
theorem storedBytes : Obligations.StoredBytes := by
  intro s i w hp ha hk hd hm hs hv
  have hr : refusesAny s w.att w.pa w.data.length = false := refusesAny_unversioned (List.length_pos_iff.mpr hd) hv
  obtain ⟨hbytes, hposted, hregs⟩ := noteLines_keeps w.spn w.strand w.att w.rel w.marked w.pa w.data.length
    (homeWrite w.org w.att w.pa w.data w.marked (dropPosted i s))
  refine ⟨_, execStoreApply_applies hp hm hs hr ha hk, fun a => ?_, fun n k => ?_, ?_⟩
  · rw [memByte_clearWhole, hbytes, homeWrite_bytes w.org w.att w.marked w.pa w.data (dropPosted i s) hv]
    rfl
  · have hkept := hregs n k
    rw [strandAt_homeWrite] at hkept
    rw [strandAt_clearWhole]
    exact hkept
  · rw [clearWhole_posted, hposted, homeWrite_posted]
    rfl

end Sys2Proof.Machine

namespace Sys2Proof.Machine

/-! ## Fences and atomic words at their issue (R231 to R233, R239 to R243) -/

section
variable {w : O3} {op : Nat} {s : State}

/-- An atomic operation outside determinism mode that passes every check goes on with its addresses. -/
theorem whenAtomic_passes (k : Nat → Nat → State → State) (hd : (mySpindle s).det = false)
    (ha : accessGood s w (w.ty.width / 8) (w.ty.width / 8) true) :
    whenAtomic w op k s = k (accessVa s w) (accessPa s w) s := by
  simp only [whenAtomic, hd, whenAccess_eq w _ _ _ _ s ha, accessVa_not_inDevice ha, Bool.false_and, Bool.false_eq_true, if_false]

/-- In determinism mode every atomic operation but ATOM raises NONDET (R243). -/
theorem whenAtomic_nondet (k : Nat → Nat → State → State) (hd : (mySpindle s).det = true) (ho : op ≠ 2) :
    whenAtomic w op k s = raiseNondet 0x21 op s := by
  rw [whenAtomic, hd, decide_eq_true ho, Bool.and_self, if_pos rfl]

/-- So is ATOM on `.f32`, whose sums depend on their order. -/
theorem whenAtomic_nondet_f32 (k : Nat → Nat → State → State) (hd : (mySpindle s).det = true) (ht : w.ty = .f32) :
    whenAtomic w 2 k s = raiseNondet 0x22 2 s := by
  simp only [whenAtomic, hd, ht, ne_eq, not_true_eq_false, decide_false, decide_true, Bool.and_false, Bool.and_true, Bool.false_eq_true,
    if_false, if_true]

end

/-- The state in which the strand in focus has released and has sent the request of an atomic operation (R242). -/
def sentAtomic (w : O3) (op : Nat) (y : Word) (s : State) : State :=
  let r := released (orderMaskOf 2 w.c) s
  let a : AtomReq := { op := op, ty := w.ty, x := dstRead r w.dst, y := y, dst := dstNum w.dst, acq := orderMaskOf 1 w.c,
                       rel := orderMaskOf 2 w.c, next := r.cur.next, hn := hNum w.a, org := originOf r s.cur.spn s.cur.strand }
  let m := MemOp.sent r.cycle r.tick r.cur.addr (attOf r (me r).tag) a.acq
    [(accessPa s w, BitVec.ofNat 64 (accessVa s w), w.ty.width / 8)]
  again (updMe (fun st => { st with mem := some { m with atom := some a } })
    (tickDie s.cur.spn s.cur.strand a.org (issueWrite s.cur.spn s.cur.strand r)))

section
variable {w : O3} {s : State}

/-- ATOMR, CAS and SWAP at their first issue, with nothing of the strand out, release and send their request. -/
theorem sendAtomic_sends (opw op : Nat) (y : Word) (hm : (me s).mem = none) (hd : (mySpindle s).det = false)
    (ho : nothingOut s s.cur.spn s.cur.strand) (ha : accessGood s w (w.ty.width / 8) (w.ty.width / 8) true) :
    sendAtomic w opw op y s = sentAtomic w op y s := by
  rw [sendAtomic, hm, Option.isSome_none, if_neg Bool.false_ne_true, whenAtomic_passes _ hd ha, afterRelease_eq _ _ s (.inr ho)]
  simp only [sentAtomic, released_cur]

theorem sendAtomic_nondet {opw : Nat} (op : Nat) (y : Word) (hm : (me s).mem = none) (hd : (mySpindle s).det = true) (ho : opw ≠ 2) :
    sendAtomic w opw op y s = raiseNondet 0x21 opw s := by
  rw [sendAtomic, hm, Option.isSome_none, if_neg Bool.false_ne_true, whenAtomic_nondet _ hd ho]

/-- A word under a true guard goes where its body goes. -/
theorem next_whenGuard {t : State} {k : State → State} (hg : guard0 s w.g w.gn = true) (h : k s = t) :
    (.next (whenGuard w.g w.gn k s) : Host.Outcome State Fault Refusal) = .next t :=
  congrArg Host.Outcome.next ((whenGuard_of_guard0 w.g w.gn _ s hg).trans h)

variable (hg : guard0 s w.g w.gn = true)
include hg

/-- A fence that only acquires. -/
theorem execFence_acquire (hl : w.a.litVal = 1) : execFence w s = .next (afterAcquire (BitVec.ofNat 5 w.b.litVal) id s) :=
  next_whenGuard hg (if_pos hl)

section
variable (ho : nothingOut s s.cur.spn s.cur.strand)
include ho

/-- A fence that only releases. -/
theorem execFence_release (h1 : w.a.litVal ≠ 1) (h3 : w.a.litVal ≠ 3) : execFence w s =
    .next (tagLines s.cur.spn s.cur.strand (BitVec.ofNat 5 w.b.litVal) (released (BitVec.ofNat 5 w.b.litVal) s)) := by
  rw [execFence, whenGuard_of_guard0 w.g w.gn _ s hg, if_neg h1, afterRelease_eq _ _ s (.inr ho), if_neg h3, released_cur, id]

/-- A fence that does both: the acquire comes after the release. -/
theorem execFence_both (h3 : w.a.litVal = 3) : execFence w s =
    .next (afterAcquire (BitVec.ofNat 5 w.b.litVal) (tagLines s.cur.spn s.cur.strand (BitVec.ofNat 5 w.b.litVal))
      (released (BitVec.ofNat 5 w.b.litVal) s)) := by
  rw [execFence, whenGuard_of_guard0 w.g w.gn _ s hg, if_neg (by omega), afterRelease_eq _ _ s (.inr ho), if_pos h3, released_cur]

theorem execAtom_posts (hd : (mySpindle s).det = false) (ha : accessGood s w (w.ty.width / 8) (w.ty.width / 8) true) : execAtom w s =
    .next (postAtom (some (w.mod, w.ty)) (hNum w.a) (BitVec.ofNat 64 (accessVa s w)) (accessPa s w)
      (toBytes (dstRead s w.dst).toNat (w.ty.width / 8)) (orderMaskOf 2 w.c) (released (orderMaskOf 2 w.c) s)) := by
  rw [execAtom, whenGuard_of_guard0 w.g w.gn _ s hg, whenAtomic_passes _ hd ha, afterRelease_eq _ _ s (.inr ho)]

end

end

/-- Settles O18: each word under a true guard, by its lemma above. -/
theorem fenceAtomicResults : Obligations.FenceAtomicResults := by
  constructor
  · intro w s hg ho
    refine ⟨execFence_acquire hg, execFence_release hg ho, fun h3 => ?_, fun hd ha => ⟨execAtom_posts hg ho hd ha, fun hm => ?_⟩⟩
    · rw [show exec (.fence w) s = _ from execFence_both hg ho h3, afterAcquire, released_cur]
    · exact ⟨next_whenGuard hg (sendAtomic_sends _ _ _ hm hd ho ha), next_whenGuard hg (sendAtomic_sends _ _ _ hm hd ho ha),
        next_whenGuard hg (sendAtomic_sends _ _ _ hm hd ho ha)⟩
  · intro w s hg hd hm
    exact ⟨next_whenGuard hg (sendAtomic_nondet _ _ hm hd (by decide)), next_whenGuard hg (sendAtomic_nondet _ _ hm hd (by decide)),
      next_whenGuard hg (sendAtomic_nondet _ _ hm hd (by decide)), fun ht => next_whenGuard hg (whenAtomic_nondet_f32 _ hd ht)⟩

end Sys2Proof.Machine

namespace Sys2Proof.Machine

/-! ## The matrix engine: what an issue of MMA or MMAZ does to the accumulators (R260) -/

/-! ### The matrix store of a spindle after the updates of an issue -/

section
variable (n : Nat) (s : State)

@[simp] theorem matrix_updMatrix (f : Matrix → Matrix) : (spindleAt (updMatrix n f s) n).matrix = f (spindleAt s n).matrix := by
  rw [updMatrix, spindleAt_updSpindle_same]

@[simp] theorem matrix_updHead (q : Nat) (f : Rec → Rec) : (spindleAt (updHead n q f s) n).matrix = (spindleAt s n).matrix := by
  rw [updHead, spindleAt_updSpindle_same]; rfl

@[simp] theorem matrix_queueFlags (q : Nat) (f : Flags) : (spindleAt (queueFlags n q f s) n).matrix = (spindleAt s n).matrix := by
  rw [queueFlags, spindleAt_updSpindle_same]; rfl

@[simp] theorem matrix_countIssue (q units : Nat) : (spindleAt (countIssue n q units s) n).matrix = (spindleAt s n).matrix := by
  rw [countIssue, matrix_updHead, spindleAt_updSpindle_same]; rfl

@[simp] theorem acc_useArrays (xs : List Nat) :
    (spindleAt (useArrays n xs s) n).matrix.acc = (spindleAt s n).matrix.acc := by
  rw [useArrays, matrix_updMatrix]

@[simp] theorem matrix_clearUnits (row cols : Nat) :
    (spindleAt (updSpindle n (clearUnits row cols) s) n).matrix = (spindleAt s n).matrix := by
  rw [spindleAt_updSpindle_same]; rfl

end

/-! ### The elements of a row after an issue -/

/-- Does an issue of MMAZ start a row anew, its old elements left out (R260)? -/
def startsRow (r : Rec) (row : Nat) : Bool := decide (r.kind = 2) && !r.rows.contains row

/-- Column `j` of an issue of MMA or MMAZ: of integers or of floating-point elements (R260). -/
def mulCell (r : Rec) (t u : Ty) (row off soff : Nat) (p : Spindle) (j : Nat) : Cell :=
  if t = .s8 ∨ t = .n8 then
    intCell u (bitOf r.kflags 7) (startsRow r row) (rowInts t (scratchBytes p off 256)) p.matrix row j
  else
    floatCell u (startsRow r row) (rowElems t (scratchBytes p off 256) (scratchBytes p soff 16)) p.matrix row j

/-- The columns that an issue of MMA or MMAZ writes (R263). -/
def mulCols (r : Rec) : Nat := 8 * (bits r.kflags 8 3 + 1)

section
variable (n : Nat) (r : Rec) (t u : Ty) (row off soff : Nat) (s : State)

/-- The cells that an issue writes, as the model lists them. -/
theorem mulCell_map (cols : Nat) (p : Spindle) : (upto cols).map (mulCell r t u row off soff p) =
    if t = .s8 ∨ t = .n8 then
      (upto cols).map (intCell u (bitOf r.kflags 7) (startsRow r row) (rowInts t (scratchBytes p off 256)) p.matrix row)
    else
      (upto cols).map (floatCell u (startsRow r row) (rowElems t (scratchBytes p off 256) (scratchBytes p soff 16)) p.matrix row) := by
  unfold mulCell
  split <;> rfl

/-- An issue of MMA or MMAZ changes the accumulators by its columns' cells alone. -/
theorem acc_mulIssue : (spindleAt (mulIssue n r t u row off soff s) n).matrix.acc =
    (setCells row 0 ((upto (mulCols r)).map (mulCell r t u row off soff (spindleAt s n))) (spindleAt s n).matrix).acc := by
  rw [mulCell_map]
  simp only [mulIssue, matrix_countIssue, matrix_updHead, acc_useArrays, matrix_queueFlags, Bool.or_eq_true, decide_eq_true_eq]
  split
  · rw [matrix_clearUnits, matrix_updMatrix]; rfl
  · rw [matrix_updMatrix]; rfl

/-- An accumulator element after an issue of MMA or MMAZ: its cell in the columns of the row, as it was elsewhere. -/
theorem acc_get_mulIssue (i : Nat) : SMap.get 0 (spindleAt (mulIssue n r t u row off soff s) n).matrix.acc i =
    if 64 * row ≤ i ∧ i < 64 * row + mulCols r then (mulCell r t u row off soff (spindleAt s n) (i - 64 * row)).x
    else SMap.get 0 (spindleAt s n).matrix.acc i := by
  rw [acc_mulIssue, setCells_acc_get, Nat.add_zero]
  by_cases hl : 64 * row ≤ i
  · by_cases hc : i - 64 * row < mulCols r
    · rw [if_pos hl, if_pos ⟨hl, by omega⟩, List.getElem?_map, upto, List.getElem?_range hc, Option.map_some, Option.map_some,
        Option.getD_some]
    · rw [if_pos hl, if_neg (by omega), List.getElem?_eq_none (by rw [List.length_map, upto, List.length_range]; omega), Option.map_none,
        Option.getD_none]
  · rw [if_neg hl, if_neg (fun h => hl h.1)]

/-- A column of the issue holds the value of its cell. -/
theorem acc_get_mulIssue_column {j : Nat} (hj : j < mulCols r) :
    SMap.get 0 (spindleAt (mulIssue n r t u row off soff s) n).matrix.acc (64 * row + j) =
      (mulCell r t u row off soff (spindleAt s n) j).x := by
  rw [acc_get_mulIssue, if_pos ⟨Nat.le_add_right .., Nat.add_lt_add_left hj _⟩, Nat.add_sub_cancel_left]

end

/-- The value of a floating-point cell (R260). -/
theorem floatCell_x (u : Ty) (fresh : Bool) (a : List Fp) (m : Matrix) (row j : Nat) {ps : List FpF}
    (hp : (a.zip (rowElems u (bColumn m j) (bScale m j))).map (fun x => mulExact x.1 x.2) = ps) :
    (floatCell u fresh a m row j).x = BitVec.ofNat 32 (roundFp .fp32 .rne false
      (if fresh then (dotSlice ps).1 else (addExact (Fp.decode .fp32 (SMap.get 0 m.acc (64 * row + j)).toNat) (dotSlice ps).1).1)).1 := by
  subst hp
  cases fresh <;> rfl

/-- The value of an integer cell (R260). -/
theorem intCell_x (u : Ty) (sat fresh : Bool) (a : List Int) (m : Matrix) (row j : Nat) {d : Int}
    (hd : (a.zip (rowInts u (bColumn m j))).foldl (fun v x => v + x.1 * x.2) 0 = d) {v : Int}
    (hv : (if fresh then d else signedValue (SMap.get 0 m.acc (64 * row + j)).toNat 32 + d) = v) :
    (intCell u sat fresh a m row j).x = BitVec.ofNat 32 (if sat then (satS v 32).1 else wrap v 32) := by
  subst hv hd
  simp only [intCell, List.foldl_map]
  cases sat <;> rfl

/-- Settles O33: a column of the row holds its cell's value, and an element outside the columns is as it was. -/
theorem matrixProduct : Obligations.MatrixProduct := by
  intro n r t u row off soff s
  refine ⟨fun j hj hs hn => ?_, fun j hj ht => ?_, fun i hi => ?_⟩
  · have hcol := acc_get_mulIssue_column n r t u row off soff s hj
    rw [mulCell, if_neg (not_or.mpr ⟨hs, hn⟩)] at hcol
    exact hcol.trans (floatCell_x u _ _ _ row j rfl)
  · have hcol := acc_get_mulIssue_column n r t u row off soff s hj
    rw [mulCell, if_pos ht] at hcol
    exact hcol.trans (intCell_x u _ _ _ _ row j rfl rfl)
  · refine (acc_get_mulIssue n r t u row off soff s i).trans (if_neg ?_)
    rw [mulCols]
    omega

end Sys2Proof.Machine

namespace Sys2Proof.Machine

/-! ## Issues of the matrix engine (R252, R258 to R265) -/

section
variable {n : Nat} {r : Rec} {s : State}

theorem issueMatrix_head {k : Nat} {f : Rec → State → State} (hh : headRec (spindleAt s n) 0 = some r)
    (hr : matrixReady s n r = true) (hk : r.kind = k) : issueMatrix [k] n f s = f r s := by
  have hc : ([k].contains r.kind && matrixReady s n r) = true := by rw [hk, hr, List.contains_cons, beq_self_eq_true]; rfl
  simp only [issueMatrix, hh, hc, if_true]

theorem whenRow_clean {row units : Nat} {k : State → State} (h : rowPoison (spindleAt s n) row units = 0) :
    whenRow n r row units k s = k s := if_pos h

theorem whenShadow_near {row : Nat} {k : State → State} (h : shadowColumn (spindleAt s n).matrix row 64 = none) :
    whenShadow n r row k s = k s := by
  rw [whenShadow, h]

/-- The scratchpad that MMA, MMAZ and BLOAD read in an issue: a row, and a scale row where the type has one. -/
def elementReads (r : Rec) : List (Nat × Nat) :=
  (r.byte (rowOperand 0) r.n, 256) :: (if r.ty.getD .bf16 = .e2m1 then [(r.byte (scaleOperand 1) r.n, 16)] else [])

/-- The state behind the reads of an issue of MMA, MMAZ or BLOAD. -/
def elementsRead (n : Nat) (r : Rec) (s : State) : State := engineNoted n 0 r.seq (elementReads r) [] s

/-- The tile tag that a record checks where one of its flags asks for it. -/
def rowCheck (r : Rec) (flag : Nat) : Option (BitVec 16 × Nat × Nat) :=
  if bitOf r.kflags flag then some (BitVec.ofNat 16 (r.word 3), r.byte (rowOperand 0) r.n, 256) else none

/-- MMA and MMAZ multiply where the B store holds a type that pairs with theirs (R258) and their accesses pass. -/
theorem mulStep_multiplies {u : Ty} (hu : (spindleAt s n).matrix.btype = some u)
    (hp : r.n = 0 → pairOk (r.ty.getD .bf16) u = true) (hg : engineGood s n 0 r (rowCheck r 6) (elementReads r) [])
    (hc : rowPoison (spindleAt (elementsRead n r s) n) (r.row (accOperand 2) r.n)
      (if startsRow r (r.row (accOperand 2) r.n) then 0 else (bits r.kflags 8 3 + 2) / 2) = 0) :
    mulStep n r s = mulIssue n r (r.ty.getD .bf16) u (r.row (accOperand 2) r.n) (r.byte (rowOperand 0) r.n)
      (r.byte (scaleOperand 1) r.n) (elementsRead n r s) := by
  have hq : ¬(r.n = 0 ∧ (!pairOk (r.ty.getD .bf16) u) = true) := by
    rintro ⟨h0, hn⟩
    rw [hp h0] at hn
    exact Bool.false_ne_true hn
  simp only [mulStep, hu, if_neg hq]
  exact (whenEngine_eq _ _ _ _ _ _ _ _ hg).trans (whenRow_clean hc)

/-- A store of an accumulator row to scratchpad, its accesses and its check passed (R261, R264, R265). -/
theorem storeStep_stores {o : Operand} {f : Spindle → Nat → List Byte × Flags} {v : State}
    (hv : engineNoted n 0 r.seq [] [(r.byte o r.n, o.bytes)] s = v)
    (hg : engineGood s n 0 r none [] [(r.byte o r.n, o.bytes)])
    (hp : rowPoison (spindleAt v n) (r.row (accOperand 0) r.n) 4 = 0)
    (hs : shadowColumn (spindleAt v n).matrix (r.row (accOperand 0) r.n) 64 = none) :
    storeStep n r o f s = countIssue n 0 1 (queueFlags n 0 (f (spindleAt v n) (r.row (accOperand 0) r.n)).2
      (updSpindle n (scratchWrite (r.byte o r.n) (f (spindleAt v n) (r.row (accOperand 0) r.n)).1 false) v)) := by
  subst hv
  exact (whenEngine_eq _ _ _ _ _ _ _ _ hg).trans ((whenRow_clean hp).trans (whenShadow_near hs))

/-- What MXT writes of a row in an issue. -/
def mxtOperand (r : Rec) : Operand := ⟨1, false, false, r.mxtBytes, r.mxtBytes⟩

/-- A record that has its block's constants differs from the record before in these alone. -/
theorem withConstants_eq (r : Rec) (ws : List Word) : ∃ pb, (if r.pb.isEmpty then { r with pb := ws } else r) = { r with pb := pb } := by
  split
  · exact ⟨ws, rfl⟩
  · exact ⟨r.pb, rfl⟩

/-- MXT stores its row with the constants of its block, read at the first issue (R265). -/
theorem mxtIssue_stores {b : Rec} {s1 v : State}
    (hb : (if r.pb.isEmpty then { r with pb := blockWords n (bits (r.word 6) 48 8) s } else r) = b)
    (h1 : (if r.pb.isEmpty then updHead n 0 (fun x => { x with pb := blockWords n (bits (r.word 6) 48 8) s }) s else s) = s1)
    (hv : engineNoted n 0 r.seq [] [(r.byte (mxtOperand r) r.n, r.mxtBytes)] s1 = v)
    (hg : engineGood s1 n 0 b none [] [(r.byte (mxtOperand r) r.n, r.mxtBytes)])
    (hp : rowPoison (spindleAt v n) (r.row (accOperand 0) r.n) 4 = 0)
    (hs : shadowColumn (spindleAt v n).matrix (r.row (accOperand 0) r.n) 64 = none) :
    withBlock n 0 (bits (r.word 6) 48 8) r (fun r => storeStep n r (mxtOperand r) (mxtRow r)) s =
      countIssue n 0 1 (queueFlags n 0 (mxtRow b (spindleAt v n) (r.row (accOperand 0) r.n)).2 (updSpindle n
        (scratchWrite (r.byte (mxtOperand r) r.n) (mxtRow b (spindleAt v n) (r.row (accOperand 0) r.n)).1 false) v)) := by
  obtain ⟨pb, he⟩ := withConstants_eq r (blockWords n (bits (r.word 6) 48 8) s)
  obtain rfl := he.symm.trans hb
  rw [withBlock_eq, he, h1]
  exact storeStep_stores (r := { r with pb := pb }) hv hg hp hs

end

/-- Settles O32: the head issues by `issueMatrix_head`, and what it does then is the lemma of its kind above. -/
theorem matrixIssues : Obligations.MatrixIssues := by
  intro n r s hh hr
  have issues {k : Nat} {f : Rec → State → State} {t : State} (hk : r.kind = k) (hf : f r s = t) :
      (.next (issueMatrix [k] n f s) : Host.Outcome State Fault Refusal) = .next t :=
    congrArg Host.Outcome.next ((issueMatrix_head hh hr hk).trans hf)
  refine ⟨fun u hu hp hg hc => ?_, fun hk hg => issues hk ?_, fun hk hg => issues hk ?_,
    fun hk hg hp hs => issues hk (storeStep_stores rfl hg hp hs), fun hk hg hp hs => issues hk (mxtIssue_stores rfl rfl rfl hg hp hs)⟩
  · have hm := mulStep_multiplies hu hp hg hc
    exact ⟨fun hk => issues hk hm, fun hk => issues hk hm⟩
  · rw [bloadStep, whenEngine_eq _ _ _ _ _ _ _ _ hg]
  · rw [accldStep, whenEngine_eq _ _ _ _ _ _ _ _ hg]

end Sys2Proof.Machine

namespace Sys2Proof.Machine

/-! ## Pushes of engine records, CDRAIN and QSTAT (R256, R257, R281 to R283) -/

/-! ### Pushes (R256, R281, R282) -/

/-- The record that a push names lies aligned in scratchpad, and no mark lies under it (R171, R256, R338). -/
def recordThere (off : Nat) (s : State) : Prop :=
  off % 64 = 0 ∧ off + 64 ≤ (mySpindle s).sg * 65536 ∧ scratchPoison (mySpindle s) off 64 = none

theorem whenRecord_there {off : Nat} {k : List Word → State → State} {s : State} (h : recordThere off s) :
    whenRecord off k s = k (recordWords (mySpindle s) off) s := by
  obtain ⟨hoff, hlen, hp⟩ := h
  have hal : aligned off 64 = true := decide_eq_true hoff
  rw [whenRecord, hal, Bool.not_true, if_neg Bool.false_ne_true, if_neg (Nat.not_lt.mpr hlen), hp]

section
variable {w : O3} {s : State} (hg : guard0 s w.g w.gn = true)
include hg

section
variable (hr : recordThere (srcNum s w.a 32) s) (he : entryFree false (unitsOf (srcNum s w.a 32) 64) s)
include hr he

theorem execMqpush_appends {r : Rec}
    (hn : newRec s (srcNum s w.a 32) (recordWords (mySpindle s) (srcNum s w.a 32)) (pushBias s w.b) (pushBias s w.c) = r)
    (hf : matrixRefusal s (pushBias s w.b) r = none) (hl : (queueAt (mySpindle s) 0).recs.length < 16) :
    execMqpush w s = .next (appendRec 0 r (landNext w 0 (entered false (unitsOf (srcNum s w.a 32) 64) s))) := by
  rw [execMqpush, whenGuard_of_guard0 w.g w.gn _ s hg, whenRecord_there hr]
  simp only [hn, hf, if_neg (Nat.not_le.mpr hl)]
  rw [whenEntry_eq he]

theorem execCqpush_pushes {q : Nat} (hq : srcNum s w.c 2 + 1 = q) {r : Rec}
    (hn : attachHandles (rd s)
      (newRec s (srcNum s w.a 32) (recordWords (mySpindle s) (srcNum s w.a 32)) (pushBias s w.b) 0) = r)
    (hf : copyRefusal 0x03 s (pushBias s w.b) r = none) (hb : bindRefusal (mySpindle s) r = none)
    (hl : (queueAt (mySpindle s) q).recs.length < 16) :
    execCqpush w s = .next (pushCopy q r (landNext w q (entered false (unitsOf (srcNum s w.a 32) 64) s))) := by
  rw [execCqpush, whenGuard_of_guard0 w.g w.gn _ s hg]
  simp only [whenRecord_there hr, hn, hq, hf, hb, Option.or_none, if_neg (Nat.not_le.mpr hl)]
  rw [whenEntry_eq he]

end

/-- CSTAGE appends its stage whole where no record of it is refused, poisoned or without room (R282). -/
theorem execCstage_pushes {t : Task} {st : List (Nat × Nat)} (ht : taskOf s (mySpindle s) = some t)
    (hs : t.sched[srcNum s w.a 12]? = some st) (hp : ∀ x ∈ stageRecs st, scratchPoison (mySpindle s) x.2 64 = none)
    (hr : stageRoom (mySpindle s) st = true) (he : entryFree false ((stageRecs st).flatMap fun x => unitsOf x.2 64) s)
    {s1 s2 : State} (h1 : stagePush (stageRecs st) s = .ok s1)
    (h2 : stagePush (stageRecs st) (entered false ((stageRecs st).flatMap fun x => unitsOf x.2 64) s) = .ok s2) :
    execCstage w s = .next s2 := by
  have hstage : ((taskOf s (mySpindle s)).map Task.sched).bind (fun t => t[srcNum s w.a 12]?) = some st := by
    rw [ht, Option.map_some, Option.bind_some, hs]
  rw [execCstage, whenGuard_of_guard0 w.g w.gn _ s hg]
  simp only [hstage, List.findSome?_eq_none_iff.mpr hp, h1, hr, Bool.not_true, Bool.false_eq_true, if_false]
  rw [whenEntry_eq he, appendStage, h2]

end

/-! ### The end of CDRAIN (R283) -/

theorem execCdrain_ends {w : O3} {s : State} {x : WaitSt} (hw : (me s).wait = some x)
    (hd : ∀ c, c < 4 → bitOf x.obj c = true → drained (mySpindle s) c = true) :
    execCdrain w s = .next (landS0 w.dst (BitVec.ofNat 64 (faultedMask (mySpindle (endWait s)) x.obj)) (endWait s)) := by
  rw [execCdrain, whenGuard_resuming w.g w.gn s _ x hw, waitWord_met hw]
  refine List.all_eq_true.mpr fun c hc => ?_
  cases hb : bitOf x.obj c with
  | false => rfl
  | true => rw [hd c (List.mem_range.mp hc) hb, Bool.or_true]

/-! ### QSTAT (R257) -/

/-- Outside determinism mode, or with privilege, the status of a queue may be read. -/
theorem status_open {s : State} (hd : (mySpindle s).det = true → (me s).privm = true) : ¬((mySpindle s).det && !(me s).privm) = true := by
  rw [Bool.and_eq_true, Bool.not_eq_true']
  exact fun h => Bool.false_ne_true (h.2.symm.trans (hd h.1))

section
variable {w : O3} {s : State} (hg : guard0 s w.g w.gn = true) (hq : srcNum s w.a 3 ≤ 4)
include hg hq

/-- QSTAT under a true guard goes on with a queue that there is. -/
theorem whenGuard_whenQueue {k : Nat → State → State} : whenGuard w.g w.gn (whenQueue w k) s = k (srcNum s w.a 3) s := by
  rw [whenGuard_of_guard0 w.g w.gn _ s hg, whenQueue, if_neg (Nat.not_lt.mpr hq)]

theorem execQstatMxcap_lands : execQstatMxcap w s = .next (landS 1 w.dst mxcap 0 s) := by
  rw [execQstatMxcap, whenGuard_whenQueue hg hq]

variable (hd : (mySpindle s).det = true → (me s).privm = true)
include hd

/-- Where the status of a queue may be read, QSTAT reads it and then acts. -/
theorem readQueue_acts {act : Nat → State → State} : (.next (readQueue w act s) : Host.Outcome State Fault Refusal) =
    .next (act (srcNum s w.a 3) (landS 1 w.dst (queueWord s s.cur.spn (srcNum s w.a 3)) 0 s)) := by
  rw [readQueue, whenGuard_whenQueue hg hq, if_neg (status_open hd)]

theorem execQstatSkip_drops (hf : (queueAt (mySpindle s) (srcNum s w.a 3)).faulted = true) :
    execQstatSkip w s = .next (updMySpindle (updQueue (srcNum s w.a 3) (dropFaulted s.cycle))
      (landS 1 w.dst (queueWord s s.cur.spn (srcNum s w.a 3)) 0 s)) := by
  rw [execQstatSkip, whenGuard_whenQueue hg hq, if_neg (status_open hd), hf, Bool.not_true, if_neg Bool.false_ne_true]

theorem execQstatSkip_refuses (hf : (queueAt (mySpindle s) (srcNum s w.a 3)).faulted = false) :
    execQstatSkip w s = .next (raiseSched 0xEB (srcNum s w.a 3) s) := by
  rw [execQstatSkip, whenGuard_whenQueue hg hq, if_neg (status_open hd), hf, Bool.not_false, if_pos rfl]

end

/-- Settles O21: the pushes and CDRAIN by their lemmas above; QSTAT reads by `readQueue_acts`, and its skip is one of two cases. -/
theorem pushResults : Obligations.PushResults := by
  refine ⟨fun w s hg => ⟨fun hoff hlen hp hs => ?_, fun t st ht hs hp hr he s1 s2 h1 h2 => execCstage_pushes hg ht hs hp hr he h1 h2,
      fun x hw hd => execCdrain_ends hw hd⟩,
    fun w s hg hq => ⟨fun hd => ?_, execQstatMxcap_lands hg hq⟩⟩
  · have hr : recordThere (srcNum s w.a 32) s := ⟨hoff, hlen, hp⟩
    obtain ⟨_, _, he⟩ := hs
    exact ⟨execMqpush_appends hg hr he rfl, execCqpush_pushes hg hr he rfl rfl⟩
  · exact ⟨readQueue_acts hg hq hd, execQstatSkip_drops hg hq hd, execQstatSkip_refuses hg hq hd, readQueue_acts hg hq hd,
      readQueue_acts hg hq hd⟩

end Sys2Proof.Machine

namespace Sys2Proof.Machine

/-! ## Version blocks: the slot of a read, and what an open attempt's write shows to whom (R324 to R328, R335) -/

/-! ### The slot of a read (R326) -/

/-- Where slot `w` of a version block holds the byte at `a` of slot 0. -/
def slotPlace (v : VPage) (w : Bool) (a : Nat) : Nat := if w then a + v.twin else a

theorem homeByte_currentSlot {s : State} {a : Nat} {v : VPage} (hv : vpageAt s a = some v) (y : Option (BitVec 16)) :
    homeByte s y a = memByte s (slotPlace v (currentSlot (ctxAt s v.ctx) (vmetaAt s a) y) a) := by
  simp only [homeByte, readAt, hv, slotPlace]

/-- Where every byte of the unit at an address is there, function 0 reads it as the home returns it to a request without a tag. -/
theorem execHostMemoryRead_there {s : State} {addr pa n : Nat} (ha : addr < 2 ^ 36)
    (hpa : bits s.dev.apbase.toNat 36 28 * 2 ^ 36 + addr = pa) (h : ∀ i, i < n → paExists (pa + i) = true) :
    execHostMemoryRead 0 addr n s = .next (updDev (fun d => { d with hostRead := homeBytes s none pa n }) s) :=
  execHostMemoryRead_ok ha hpa (readPa_there h)

/-- Settles O52: `homeByte_slot` for a request; a strand with no store on its way and the host read at the home. -/
theorem slotOfRead : Obligations.SlotOfRead := by
  intro s pa x v hv
  refine ⟨homeByte_slot s pa v hv x, fun hp n k => ?_, fun addr n ha hpa hn he => ?_⟩
  · rw [strandBytes, hp, List.foldl_nil]
    exact congrArg ([·]) (homeByte_slot s pa v hv x)
  · refine ⟨_, execHostMemoryRead_there ha hpa.symm he, ?_⟩
    obtain ⟨m, rfl⟩ := Nat.exists_eq_add_one_of_ne_zero hn.ne'
    exact congrArg some (homeByte_slot s pa v hv none)

/-! ### The two slots of a block that an open attempt has written (R326, R327) -/

section
variable {g : Ctx} {b : VMeta}

theorem currentSlot_tentative (ho : g.isOpen = true) (hb : b.v = true) (ha : b.a = g.att) (y : Option (BitVec 16)) :
    currentSlot g b y = if y = some g.att then b.w else !b.w := by
  simp [currentSlot, ho, hb, ha]

/-- The slot of a block that the open attempt has not written does not depend on the reader. -/
theorem currentSlot_settled (h : (b.v && decide (b.a = g.att)) = false) (y : Option (BitVec 16)) : currentSlot g b y = currentSlot g b none := by
  cases hb : b.v <;> simp_all [currentSlot]

theorem currentSlot_closed (ho : g.isOpen = false) (hb : b.v = true) (y : Option (BitVec 16)) :
    currentSlot g b y = if SMap.get false g.bitmap (b.a.toNat % 4096) then b.w else !b.w := by
  simp [currentSlot, ho, hb]

end

/-- In `t`, the block of `pa` holds in slot `w` what the attempt `att` reads of it in `s`, and in the other slot what everyone else
reads. -/
structure Tentative (s t : State) (v : VPage) (att : BitVec 16) (pa : Nat) (w : Bool) : Prop where
  vmeta : vmetaAt t pa = ⟨w, true, att⟩
  own : ∀ a, a / 256 = pa / 256 → memByte t (slotPlace v w a) = homeByte s (some att) a
  rest : ∀ a, a / 256 = pa / 256 → ∀ y, y ≠ some att → memByte t (slotPlace v (!w) a) = homeByte s y a

section
variable {s : State} {a pa : Nat} (ha : a / 256 = pa / 256)
include ha

theorem vmetaAt_sameBlock : vmetaAt s a = vmetaAt s pa := by rw [vmetaAt, vmetaAt, ha]

theorem vpageAt_sameBlock : vpageAt s a = vpageAt s pa := by rw [vpageAt, vpageAt, show a / 2 ^ 21 = pa / 2 ^ 21 by omega]

end

section
variable {s : State} {pa : Nat} {v : VPage} (hv : vpageAt s pa = some v)
include hv

/-- A block that the open attempt has written before is as it stands. -/
theorem tentative_of_written (ho : (ctxAt s v.ctx).isOpen = true) (hb : (vmetaAt s pa).v = true)
    (ha : (vmetaAt s pa).a = (ctxAt s v.ctx).att) : Tentative s s v (ctxAt s v.ctx).att pa (vmetaAt s pa).w where
  vmeta := by rw [← hb, ← ha]
  own a h := by
    rw [homeByte_currentSlot ((vpageAt_sameBlock h).trans hv), vmetaAt_sameBlock h, currentSlot_tentative ho hb ha, if_pos rfl]
  rest a h y hy := by
    rw [homeByte_currentSlot ((vpageAt_sameBlock h).trans hv), vmetaAt_sameBlock h, currentSlot_tentative ho hb ha, if_neg hy]

/-- The first write of the open attempt to a block copies its current slot into the other one (R327). -/
theorem tentative_of_copy (hw : 256 ≤ v.twin) (hb : ((vmetaAt s pa).v && decide ((vmetaAt s pa).a = (ctxAt s v.ctx).att)) = false)
    {c : Bool} {m0 m1 : Nat} {t : State} (hc : currentSlot (ctxAt s v.ctx) (vmetaAt s pa) none = c)
    (hmem : t.mem = (copyBlock (slotPlace v c (pa / 256 * 256)) (slotPlace v (!c) (pa / 256 * 256)) m0 m1 s).mem)
    (hmeta : vmetaAt t pa = ⟨!c, true, (ctxAt s v.ctx).att⟩) : Tentative s t v (ctxAt s v.ctx).att pa (!c) := by
  have read {a : Nat} (h : a / 256 = pa / 256) (y : Option (BitVec 16)) : homeByte s y a = memByte s (slotPlace v c a) := by
    rw [homeByte_currentSlot ((vpageAt_sameBlock h).trans hv), vmetaAt_sameBlock h, currentSlot_settled hb, hc]
  have byte (a : Nat) : memByte t a = _ := (congrArg (SMap.get memDefault · a) hmem).trans (memByte_copyBlock
    (slotPlace v c (pa / 256 * 256)) (slotPlace v (!c) (pa / 256 * 256)) m0 m1 s (by cases c <;> simp [slotPlace] <;> omega) a)
  refine ⟨hmeta, fun a h => ?_, fun a h y _ => ?_⟩
  · rw [read h, byte, if_pos (by cases c <;> simp [slotPlace] <;> omega)]
    congr 1
    cases c <;> simp [slotPlace] <;> omega
  · rw [read h, byte, if_neg (by cases c <;> simp [slotPlace] <;> omega), Bool.not_not]

/-- A home prepares the block for a write of the open attempt, whose place is in the slot that the attempt reads (R327). -/
theorem prepBlock_tentative (hw : 256 ≤ v.twin) (ho : (ctxAt s v.ctx).isOpen = true) :
    ∃ w, Tentative s (prepBlock (some (ctxAt s v.ctx).att) pa s).1 v (ctxAt s v.ctx).att pa w ∧
      (prepBlock (some (ctxAt s v.ctx).att) pa s).2 = slotPlace v w pa := by
  simp only [prepBlock, hv, ho, decide_true, Bool.and_self, if_true]
  cases hb : (vmetaAt s pa).v && decide ((vmetaAt s pa).a = (ctxAt s v.ctx).att) with
  | true =>
    obtain ⟨hbv, hba⟩ := Bool.and_eq_true_iff.mp hb
    exact ⟨_, tentative_of_written hv ho hbv (of_decide_eq_true hba), rfl⟩
  | false =>
    refine ⟨_, tentative_of_copy hv hw hb (m0 := homeMark s none (pa / 256 * 256)) (m1 := homeMark s none (pa / 256 * 256 + 128)) rfl ?_
      (SMap.get_set_same ..), ?_⟩ <;>
      cases currentSlot (ctxAt s v.ctx) (vmetaAt s pa) none <;> rfl

end

/-! ### A write of the open attempt within one line (R327, R335) -/

section
variable (o : Origin) (x : Option (BitVec 16)) (pa : Nat) (bs : List Byte) (q : Bool) (s : State)

theorem memByte_homeWriteLine (b : Nat) :
    memByte (homeWriteLine o x pa bs q s) b = memByte (setMemBytes (prepBlock x pa s).2 bs (prepBlock x pa s).1) b := by
  show memByte (storeLine (prepBlock x pa s).2 bs q
    (cacheHome x pa bs.length q (noteWrite o (prepBlock x pa s).2 bs.length (prepBlock x pa s).1))) b = _
  rw [memByte_storeLine, memByte, setMemBytes, cacheHome_mem]
  rfl

theorem vmeta_homeWriteLine : (homeWriteLine o x pa bs q s).vmeta = (prepBlock x pa s).1.vmeta := by
  obtain ⟨c, k, hc⟩ := cacheHome_shape x pa bs.length q (noteWrite o (prepBlock x pa s).2 bs.length (prepBlock x pa s).1)
  show (storeLine (prepBlock x pa s).2 bs q (cacheHome x pa bs.length q (noteWrite o (prepBlock x pa s).2 bs.length (prepBlock x pa s).1))).vmeta = _
  rw [hc]
  rfl

theorem ctxAt_homeWriteLine (c : Nat) : ctxAt (homeWriteLine o x pa bs q s) c = ctxAt s c := by
  rw [onlyHome_homeWriteLine o x pa bs q s]
  rfl

end

/-- In `t`, slot `w` of the block of `pa` holds `bs` from `pa` on, and else what `Tentative` has of the block. -/
structure Written (s t : State) (v : VPage) (att : BitVec 16) (pa : Nat) (bs : List Byte) (w : Bool) : Prop where
  vmeta : vmetaAt t pa = ⟨w, true, att⟩
  own : ∀ a, a / 256 = pa / 256 →
    memByte t (slotPlace v w a) = if pa ≤ a ∧ a < pa + bs.length then (bs[a - pa]?).getD 0 else homeByte s (some att) a
  rest : ∀ a, a / 256 = pa / 256 → ∀ y, y ≠ some att → memByte t (slotPlace v (!w) a) = homeByte s y a

section
variable {s : State} {pa : Nat} {v : VPage} {bs : List Byte} (hv : vpageAt s pa = some v) (hw : 256 ≤ v.twin)
include hv hw

theorem written_of_homeWriteLine (o : Origin) (q : Bool) (ho : (ctxAt s v.ctx).isOpen = true) (hl : pa % 128 + bs.length ≤ 128) :
    ∃ w, Written s (homeWriteLine o (some (ctxAt s v.ctx).att) pa bs q s) v (ctxAt s v.ctx).att pa bs w := by
  obtain ⟨w, ⟨hm, hown, hrest⟩, hplace⟩ := prepBlock_tentative hv hw ho
  refine ⟨w, by rw [vmetaAt, vmeta_homeWriteLine]; exact hm, fun a h => ?_, fun a h y hy => ?_⟩
  · rw [memByte_homeWriteLine, hplace, ← hown a h]
    by_cases hin : pa ≤ a ∧ a < pa + bs.length
    · rw [if_pos hin, memByte_setMemBytes, if_pos (by cases w <;> simp [slotPlace] <;> omega),
        show slotPlace v w a - slotPlace v w pa = a - pa by cases w <;> simp [slotPlace]; omega,
        List.getElem?_eq_getElem (by omega), Option.getD_some, Option.getD_some]
    · rw [if_neg hin, memByte_setMemBytes_outside _ _ _ _ (by cases w <;> simp [slotPlace] <;> omega)]
  · rw [memByte_homeWriteLine, hplace, memByte_setMemBytes_outside _ _ _ _ (by cases w <;> simp [slotPlace] <;> omega), hrest a h y hy]

end

section
variable {s t u : State} {att : BitVec 16} {pa a : Nat} {v : VPage} {bs : List Byte} {w : Bool}
  (hw : Written s t v att pa bs w) (hv : vpageAt t pa = some v) (ha : a / 256 = pa / 256)
include hw hv ha

/-- While the attempt is open, it reads the slot that it has written, and everyone else the other one. -/
theorem homeByte_written_open (ho : (ctxAt t v.ctx).isOpen = true) (hatt : (ctxAt t v.ctx).att = att) (y : Option (BitVec 16)) :
    homeByte t y a = memByte t (slotPlace v (if y = some att then w else !w) a) := by
  subst hatt
  rw [homeByte_currentSlot ((vpageAt_sameBlock ha).trans hv), vmetaAt_sameBlock ha, hw.vmeta, currentSlot_tentative ho rfl rfl]

/-- After the decision everyone reads the slot that the outcome bit of the attempt names. -/
theorem homeByte_written_closed (hmem : u.mem = t.mem) (hmeta : u.vmeta = t.vmeta) (hpage : u.vpage = t.vpage)
    (ho : (ctxAt u v.ctx).isOpen = false) (y : Option (BitVec 16)) :
    homeByte u y a = memByte t (slotPlace v (if SMap.get false (ctxAt u v.ctx).bitmap (att.toNat % 4096) then w else !w) a) := by
  have hp : vpageAt u a = some v := by rw [vpageAt_sameBlock ha, vpageAt, hpage]; exact hv
  have hm : vmetaAt u a = ⟨w, true, att⟩ := by rw [vmetaAt_sameBlock ha, vmetaAt, hmeta]; exact hw.vmeta
  rw [homeByte_currentSlot hp, hm, currentSlot_closed ho rfl, memByte, hmem, memByte]

end

/-- Settles O51: the attempt's slot holds what it has written and the other one the block as before (`written_of_homeWriteLine`);
who reads which slot, and when, is `homeByte_written_open` and `homeByte_written_closed`. -/
theorem attemptIsolation : Obligations.AttemptIsolation := by
  intro s o pa bs q v hv hw g x t ho
  have refused (y : Option (BitVec 16)) : refuses s y pa = decide (y ≠ x) := by
    simp only [refuses, hv]
    exact (congrArg (· && decide (y ≠ x)) ho).trans (Bool.true_and _)
  refine ⟨fun y hy => (refused y).trans (decide_eq_true hy), (refused x).trans (decide_eq_false (· rfl)), fun hl a ha => ?_⟩
  obtain ⟨w, hwr⟩ := written_of_homeWriteLine hv hw o q ho hl
  have hpt : vpageAt t pa = some v := (congrFun (vpageAt_homeWriteLine o x pa bs q s) pa).trans hv
  have hct : ctxAt t v.ctx = g := ctxAt_homeWriteLine o x pa bs q s v.ctx
  have read := homeByte_written_open hwr hpt ha ((congrArg Ctx.isOpen hct).trans ho) (congrArg Ctx.att hct)
  have hx : homeByte t x a = memByte t (slotPlace v w a) := (read x).trans (by rw [if_pos rfl])
  refine ⟨fun y hy => ?_, hx.trans (hwr.own a ha), fun u hm hmeta hpage hclosed => ?_⟩
  · rw [read y, if_neg hy]
    exact hwr.rest a ha y hy
  · have after := homeByte_written_closed hwr hpt ha hm hmeta hpage hclosed
    refine ⟨fun hb y => ?_, fun hb y => ?_⟩
    · rw [after y, if_pos hb, hx]
    · rw [after y, if_neg (Bool.eq_false_iff.mp hb)]
      exact hwr.rest a ha none (Option.some_ne_none _).symm

end Sys2Proof.Machine

namespace Sys2Proof.Machine

/-! ## The Whorl: its words (R386 to R389) -/

/-! ### Words of a run -/

section
variable {w : WW} {s : State} {r : WRun} (hr : (whorlAt s s.cur.whorl).run = some r)
include hr

/-- A word acts on the run of its Whorl. -/
theorem withRun_running (k : WRun → State → State) : withRun k s = k r s := by
  simp only [withRun, hr]

/-- A word goes where its body goes on the run. -/
theorem next_withRun {k : WRun → State → State} {t : State} (h : k r s = t) :
    (.next (withRun k s) : Host.Outcome State Fault Refusal) = .next t :=
  congrArg Host.Outcome.next ((withRun_running hr k).trans h)

theorem next_writeD {f : WRun → State → Word} {x : Word} (h : f r s = x) :
    (.next (writeD w f s) : Host.Outcome State Fault Refusal) = .next (goOn (setWreg w.d x r) (r.pc + 1) 1 s) :=
  next_withRun hr (by rw [h])

theorem next_branchWord {test : Word → Word → Bool} {c : Bool} (h : test (wreg r w.a) (wreg r w.b) = c) :
    (.next (branchWord w test s) : Host.Outcome State Fault Refusal) = .next (goOn r (if c then r.pc + wwImm w else r.pc + 1) 1 s) :=
  next_withRun hr (by rw [h])

theorem execTrig_zero (ha : wreg r w.a = 0) : execTrig w s = .next (goOn r (r.pc + 1) 1 s) :=
  next_withRun hr (by rw [if_neg (not_not.mpr ha)])

theorem execTrig_acts (ha : wreg r w.a ≠ 0) : execTrig w s = .next (goOn r (r.pc + 1) 1 (trigActions r (wwImm w) s)) :=
  next_withRun hr (by rw [if_pos ha])

end

/-! ### Registers and branches (R386, R387) -/

/-- Settles O28: each word is one of the two forms above. -/
theorem whorlRegisterResults : Obligations.WhorlRegisterResults := by
  intro w s r hr
  exact ⟨next_writeD hr rfl, next_writeD hr rfl, next_writeD hr rfl, next_writeD hr rfl, next_writeD hr rfl, next_writeD hr rfl,
    next_writeD hr rfl, next_writeD hr rfl, next_writeD hr rfl, next_writeD hr rfl, next_writeD hr rfl, next_writeD hr rfl,
    next_writeD hr rfl, next_branchWord hr rfl, next_branchWord hr rfl, next_branchWord hr rfl⟩

/-! ### Cells of the run's table (R386, R388) -/

@[simp] theorem whorlAt_updWhorl_same (d : Nat) (f : Whorl → Whorl) (s : State) : whorlAt (updWhorl d f s) d = f (whorlAt s d) :=
  SMap.get_modify_same ..

section
variable (r : WRun) (x : Nat) (v : Word) (s : State)

theorem whorlAt_setCell : whorlAt (setCell r x v s) s.cur.whorl =
    { whorlAt s s.cur.whorl with cells := SMap.set 0 (whorlAt s s.cur.whorl).cells (cellAt (runSlot r s) x) v } :=
  whorlAt_updWhorl_same s.cur.whorl _ s

theorem runSlot_setCell : runSlot r (setCell r x v s) = runSlot r s := by
  show attachAt (whorlAt (setCell r x v s) s.cur.whorl) r.slot = _
  rw [whorlAt_setCell]
  rfl

theorem cellOf_setCell : cellOf r (setCell r x v s) x = v := by
  rw [cellOf, runSlot_setCell]
  exact (congrArg (fun w => SMap.get 0 w.cells _) (whorlAt_setCell r x v s)).trans (SMap.get_set_same ..)

theorem cells_setCell_ne {i : Nat} (h : i ≠ cellAt (runSlot r s) x) :
    SMap.get 0 (whorlAt (setCell r x v s) s.cur.whorl).cells i = SMap.get 0 (whorlAt s s.cur.whorl).cells i := by
  rw [whorlAt_setCell, SMap.get_set_ne _ _ _ h]

theorem cellOf_addCell : (cellOf r (addCell r x v s) x).toNat = min (2 ^ 64 - 1) ((cellOf r s x).toNat + v.toNat) := by
  rw [addCell, cellOf_setCell, BitVec.toNat_ofNat]
  omega

end

/-- Settles O29: each word acts on the run, and the table by the lemmas of a cell. -/
theorem whorlTableResults : Obligations.WhorlTableResults := by
  refine ⟨fun w s r hr => ?_, fun r x v s => ⟨cellOf_setCell r x v s, fun i => cells_setCell_ne r x v s, cellOf_addCell r x v s,
    runSlot_setCell r x v s⟩⟩
  exact ⟨next_withRun hr rfl, next_withRun hr rfl, next_withRun hr rfl, next_withRun hr rfl, execTrig_zero hr, execTrig_acts hr,
    next_withRun hr rfl, next_withRun hr rfl⟩

/-! ## The Whorl: its slots, tenants and runs (R382 to R385) -/

theorem bits_low (x n : Nat) : bits x 0 n = x % 2 ^ n := by
  rw [bits, pow_zero, Nat.div_one]

theorem updWhorl_updWhorl (d : Nat) (f g : Whorl → Whorl) (s : State) : updWhorl d g (updWhorl d f s) = updWhorl d (fun w => g (f w)) s := by
  simp only [updWhorl, SMap.modify_modify]

section
variable {d i : Nat} {s : State}

/-! ### Attach slots (R382, R383) -/

section
variable (hd : d < 4) (hi : i < 32)
include hd hi

/-- What a write of EN = 1 makes of the Whorl is what `writeAttach0` makes of it as it stands. -/
theorem execAttachSlotEnable_writes {v : Word} {f : Whorl → Whorl}
    (h : writeAttach0 i (v ||| 0x8000_0000_0000_0000) (whorlAt s d) = f (whorlAt s d)) :
    execAttachSlotEnable d i v s = .next (updWhorl d f s) := by
  rw [execAttachSlotEnable, if_pos ⟨hd, hi⟩, updWhorl_congr d _ f s h]

theorem execAttachSlotDisable_clears : execAttachSlotDisable d i s = .next (updWhorl d (updAttach i fun a =>
    { a with w0 := a.w0 &&& 0x7FFF_FFFF_FFFF_FFFF, queue := [] }) s) := by
  rw [execAttachSlotDisable, if_pos ⟨hd, hi⟩]

end

theorem en_set (v : Word) : (v ||| 0x8000_0000_0000_0000).getLsbD 63 = true := by
  rw [BitVec.getLsbD_or]
  exact Bool.or_true _

theorem writeAttach0_enabled {v : Word} {w : Whorl} (hv : v.getLsbD 63 = true) (he : (attachAt w i).en = true) :
    writeAttach0 i v w = w := by
  rw [writeAttach0, if_pos hv, if_pos he]

theorem writeAttach0_disabled {v : Word} {w : Whorl} (hv : v.getLsbD 63 = true) (he : (attachAt w i).en = false) :
    writeAttach0 i v w = enableSlot i v w := by
  rw [writeAttach0, if_pos hv, if_neg (Bool.eq_false_iff.mp he)]

section
variable {v : Word} {w : Whorl} {a : Attach} (ha : (attachAt w i).withWord0 v = a)
include ha

theorem enableSlot_passes (h : attachErr w i a = 0) : enableSlot i v w = updAttach i (fun _ =>
    { a with w0 := a.w0 ||| 0x8000_0000_0000_0000, w1 := (a.w1 &&& attachMask1) ||| BitVec.ofNat 64 (slotCost w a % 512 * 16) }) w := by
  simp only [enableSlot, ha, h, if_true, Nat.zero_mul, Nat.zero_add]

theorem enableSlot_fails (h : attachErr w i a ≠ 0) : enableSlot i v w = updAttach i (fun _ =>
    { a with w1 := (a.w1 &&& attachMask1) ||| BitVec.ofNat 64 (attachErr w i a * 2 ^ 20 + a.maxc % 512 * 16) }) w := by
  simp only [enableSlot, ha, if_neg h]

end

/-! ### Tenants, events and runs (R384, R385) -/

theorem execTenantBudgetWrite_writes {p : Nat} {v : Word} (hd : d < 4) (hp : p < 64) {b sum : Nat} (hb : v.toNat % 2 ^ 20 = b)
    (hs : ((upto 64).filter (· ≠ p)).foldl (fun a q => a + budgetOf (whorlAt s d) q) b = sum) :
    execTenantBudgetWrite d p v s = .next (updWhorl d (fun w => if 1000000 < sum then w
      else updTenant p 0 (fun x => BitVec.ofNat 64 (x.toNat / 2 ^ 20 * 2 ^ 20 + b)) w) s) := by
  rw [execTenantBudgetWrite, if_pos ⟨hd, hp⟩]
  exact congrArg Host.Outcome.next (updWhorl_congr _ _ _ _ (by simp only [writeBudget, bits_low, hb, hs]))

theorem offerEvent_offers (e : TapEvent) (h : s.whorls ≠ []) : offerEvent e s = (upto 32).foldl (offerSlot e) s := by
  rw [offerEvent, if_neg (mt List.isEmpty_iff.mp h)]

section
variable {e : TapEvent} {es : List TapEvent} {a : Attach} {t : Nat} (ha : attachAt (whorlAt s d) i = a) (hq : a.queue = e :: es)
  (ht : tenantWord (whorlAt s d) a.tenant 0 = t)
include ha hq ht

theorem startRun_starts (h : t / 2 ^ 24 % 2 ^ 20 + a.maxc ≤ t % 2 ^ 20) : startRun d i s = updWhorl d (fun w =>
    { updTenant a.tenant 0 (fun x => x + BitVec.ofNat 64 (a.maxc * 2 ^ 24)) (updAttach i (fun a => { a with queue := es }) { w with last := i }) with
      run := some { slot := i, ev := e, pc := a.pstart, regs := [], due := s.tick } }) s := by
  simp only [startRun, ha, hq, ht, bits_low]
  exact (if_pos h).trans (updWhorl_updWhorl d _ _ s)

theorem startRun_drops (h : t % 2 ^ 20 < t / 2 ^ 24 % 2 ^ 20 + a.maxc) : startRun d i s = countDrop d a.tenant 32 (updWhorl d (fun w =>
    updAttach i (fun a => { a with queue := es }) { w with last := i }) s) := by
  simp only [startRun, ha, hq, ht, bits_low]
  exact if_neg (Nat.not_le.mpr h)

end

theorem execWhorlRunStart_serves (hr : (whorlAt s d).run = none) (hn : (whorlAt s d).next ≤ s.tick)
    (hs : nextRunSlot (whorlAt s d) = some i) : execWhorlRunStart d i s = .next (startRun d i s) := by
  rw [execWhorlRunStart, if_pos ⟨Option.isNone_iff_eq_none.mpr hr, hn, hs⟩]

end

/-- Settles O43: each event by its lemma above. -/
theorem whorlSlots : Obligations.WhorlSlots := by
  intro d i p v m e s w put a slot
  refine ⟨fun hd hi he => execAttachSlotEnable_writes hd hi (writeAttach0_enabled (en_set v) he),
    fun hd hi he => ⟨fun h => ?_, fun h => ?_⟩, execAttachSlotDisable_clears, rfl,
    fun hd hp => execTenantBudgetWrite_writes hd hp rfl rfl, fun ht => congrArg Host.Outcome.next (if_pos ht),
    fun hw => congrArg Host.Outcome.next (offerEvent_offers e hw), fun es hr hn hs hq => ⟨fun h => ?_, fun h => ?_⟩⟩
  · exact execAttachSlotEnable_writes hd hi ((writeAttach0_disabled (en_set v) he).trans (enableSlot_passes rfl h))
  · exact execAttachSlotEnable_writes hd hi ((writeAttach0_disabled (en_set v) he).trans (enableSlot_fails rfl h))
  · exact (execWhorlRunStart_serves hr hn hs).trans (congrArg Host.Outcome.next
      ((startRun_starts rfl hq rfl h).trans (updWhorl_congr _ _ _ _ rfl)))
  · exact (execWhorlRunStart_serves hr hn hs).trans (congrArg Host.Outcome.next
      ((startRun_drops rfl hq rfl h).trans (congrArg (countDrop d _ 32) (updWhorl_congr _ _ _ _ rfl))))

end Sys2Proof.Machine

namespace Sys2Proof.Machine

/-! ## Step transactions: the words of class 0x20 (R344 to R354) -/

theorem inStep_eq (s : State) : inStep s = (mySpindle s).step.getLsbD 63 := bitOf_eq_getLsbD _ _

theorem whenStep_inside {s : State} (h : (mySpindle s).step.getLsbD 63 = true) (k : State → State) : whenStep k s = k s :=
  if_pos ((inStep_eq s).trans h)

theorem whenStep_outside {s : State} (h : (mySpindle s).step.getLsbD 63 = false) (k : State → State) :
    whenStep k s = raiseSched 0xF4 0 s :=
  if_neg (by rw [inStep_eq, h]; exact Bool.false_ne_true)

theorem whenPriv_privileged {s : State} (h : (me s).privm = true) (k : State → State) : whenPriv k s = k s := if_pos h

theorem whenPriv_user {s : State} (h : (me s).privm = false) (k : State → State) : whenPriv k s = raisePriv s :=
  if_neg (by rw [h]; exact Bool.false_ne_true)

section
variable {w : O3} {s : State}

/-! ### STEPWAIT in a later turn -/

/-- STEPWAIT, in the turn in which its step has a decision, delivers it. -/
theorem execStepwait_met {y : WaitSt} {v : Word} (hw : (me s).wait = some y) (ha : waitAnswer s y = some v)
    (he : waitAnswer (endWait s) y = some v) : execStepwait w s = .next (landS 1 w.dst v 0 (endWait s)) := by
  have hfirst : ((me s).wait.isNone && inStep s && decide (srcNum s w.a 48 = (mySpindle s).step.toNat % 2 ^ 48)) = false := by rw [hw]; rfl
  refine congrArg Host.Outcome.next ((whenGuard_resuming w.g w.gn s _ y hw).trans ((if_neg (by rw [hfirst]; exact Bool.false_ne_true)).trans ?_))
  exact (waitWord_met (ok := fun x s => (waitAnswer s x).isSome) hw (by rw [ha]; rfl)).trans (by rw [he]; rfl)

/-! ### Under a true guard -/

variable (hg : guard0 s w.g w.gn = true)
include hg

/-- STEPWAIT for the step of its own task raises SCHED. -/
theorem execStepwait_own (hs : (mySpindle s).step.getLsbD 63 = true) (ha : srcNum s w.a 48 = (mySpindle s).step.toNat % 2 ^ 48)
    (hw : (me s).wait = none) : execStepwait w s = .next (raiseSched 0xF5 0 s) :=
  next_whenGuard hg (if_pos (by rw [hw, inStep_eq, hs, ha, decide_eq_true rfl]; rfl))

/-- A word of a step in a task that belongs to one. -/
theorem next_whenStep {k : State → State} {t : State} (hs : (mySpindle s).step.getLsbD 63 = true) (h : k s = t) :
    (.next (whenGuard w.g w.gn (whenStep k) s) : Host.Outcome State Fault Refusal) = .next t :=
  next_whenGuard hg ((whenStep_inside hs k).trans h)

/-- A privileged word of a privileged strand. -/
theorem next_whenPriv {k : State → State} {t : State} (hp : (me s).privm = true) (h : k s = t) :
    (.next (whenGuard w.g w.gn (whenPriv k) s) : Host.Outcome State Fault Refusal) = .next t :=
  next_whenGuard hg ((whenPriv_privileged hp k).trans h)

/-- A privileged word of another strand. -/
theorem next_raisePriv {k : State → State} (hp : (me s).privm = false) :
    (.next (whenGuard w.g w.gn (whenPriv k) s) : Host.Outcome State Fault Refusal) = .next (raisePriv s) :=
  next_whenGuard hg (whenPriv_user hp k)

section
variable (hs : (mySpindle s).step.getLsbD 63 = true)
include hs

theorem execStepid_step (h : w.a.litVal = 0) : execStepid w s = .next (landS 1 w.dst (mySpindle s).step 0 s) :=
  next_whenStep hg hs (if_pos h)

theorem execStepid_ord {c : Nat} (h : w.a.litVal = 1) (hd : ¬((mySpindle s).det = true ∧ (me s).privm = false)) (hc : myCtx s = some c) :
    execStepid w s = .next (landS 1 w.dst (BitVec.ofNat 64 (ctxAt s c).ord) 0 s) := by
  have hok : ((mySpindle s).det && !(me s).privm) = false := by simpa using hd
  exact next_whenStep hg hs (by simp only [h, one_ne_zero, if_false, hok, hc, Bool.false_eq_true])

theorem execStepid_nondet (h : w.a.litVal = 1) (hd : (mySpindle s).det = true) (hp : (me s).privm = false) :
    execStepid w s = .next (raise 0x08 0x18000000 0 s) :=
  next_whenStep hg hs (by simp only [h, one_ne_zero, if_false, hd, hp, Bool.not_false, Bool.and_self, if_true]; rfl)

theorem execVote_posts {a : Nat} (ha : srcNum s w.a 8 = a) (hl : a % 4 + 32 * (a / 32 % 2) = a) :
    execVote w s = .next (postFlags (BitVec.ofNat 6 a) s) :=
  next_whenStep hg hs (by subst ha; exact if_neg (not_not.mpr hl))

theorem execLosschk_spike (h : isSpike (Fp.decode .fp32 (srcNum s w.a 32)) (lossLimit s w.b) = true) :
    execLosschk w s = .next (landS0 w.dst 1 (postFlags 0x01 s)) :=
  next_whenStep hg hs (by simp only [h, if_true]; rfl)

theorem execLosschk_calm (h : isSpike (Fp.decode .fp32 (srcNum s w.a 32)) (lossLimit s w.b) = false) :
    execLosschk w s = .next (landS0 w.dst 0 s) :=
  next_whenStep hg hs (by simp only [h, Bool.false_eq_true, if_false]; rfl)

end

theorem execRqtag_reads (h : w.a.isNone = true) : execRqtag w s = .next (landS 1 w.dst ((me s).tag.zeroExtend 64) 0 s) :=
  next_whenGuard hg (if_pos h)

theorem execRqtag_sets (h : w.a.isNone = false) (hp : (me s).privm = true) : execRqtag w s = .next (landS 1 w.dst ((me s).tag.zeroExtend 64) 0
    (updMe (fun st => { st with tag := (srcZero s w.a).truncate 16 }) s)) :=
  next_whenGuard hg ((if_neg (by rw [h]; exact Bool.false_ne_true)).trans (whenPriv_privileged hp _))

theorem execRqtag_user (h : w.a.isNone = false) (hp : (me s).privm = false) : execRqtag w s = .next (raisePriv s) :=
  next_whenGuard hg ((if_neg (by rw [h]; exact Bool.false_ne_true)).trans (whenPriv_user hp _))

theorem execMcread_votes (h : w.a.litVal = 0) (hd : (mySpindle s).det = true → (me s).privm = true) :
    execMcread w s = .next (landS 1 w.dst (BitVec.ofNat 64 (mySpindle s).cvotes) 0 s) := by
  have hok : ¬((mySpindle s).det && !(me s).privm) = true := by simpa using hd
  exact next_whenGuard hg ((if_pos h).trans (if_neg hok))

theorem execMcread_nondet (h : w.a.litVal = 0) (hd : (mySpindle s).det = true) (hp : (me s).privm = false) :
    execMcread w s = .next (raiseNondet 0x19 0 s) :=
  next_whenGuard hg ((if_pos h).trans (if_pos (by rw [hd, hp]; rfl)))

theorem execMcread_user (h : w.a.litVal ≠ 0) (hp : (me s).privm = false) : execMcread w s = .next (raisePriv s) :=
  next_whenGuard hg ((if_neg h).trans (whenPriv_user hp _))

theorem execMcread_privileged (hp : (me s).privm = true) : execMcread w s = .next (landS 1 w.dst (if w.a.litVal = 0 then
    BitVec.ofNat 64 (mySpindle s).cvotes else if w.a.litVal = 1 then corrWord (mySpindle s) else mcWord s (mySpindle s).part w.a.litVal) 0 s) := by
  by_cases h : w.a.litVal = 0
  · rw [execMcread_votes hg h fun _ => hp, if_pos h]
  · rw [if_neg h]
    exact next_whenGuard hg ((if_neg h).trans (whenPriv_privileged hp _))

theorem execTagpurge_other (hp : (me s).privm = true) (h : (srcZero s w.a).truncate 16 ≠ (me s).tag) :
    execTagpurge w s = .next (castEarly (startPurge (mySpindle s).part ((srcZero s w.a).truncate 16) s)) :=
  next_whenGuard hg ((if_pos h).trans (whenPriv_privileged hp _))

theorem execTagpurge_user (hp : (me s).privm = false) (h : (srcZero s w.a).truncate 16 ≠ (me s).tag) :
    execTagpurge w s = .next (raisePriv s) :=
  next_whenGuard hg ((if_pos h).trans (whenPriv_user hp _))

theorem execTagpurge_own (h : (srcZero s w.a).truncate 16 = (me s).tag) : execTagpurge w s =
    .next (updMe (fun st => { st with run := .purged }) (castEarly (startPurge (mySpindle s).part ((srcZero s w.a).truncate 16) s))) :=
  next_whenGuard hg (if_neg (not_not.mpr h))

theorem execScrub_visits (hv : hV (hregOf (rd s) (hNum w.a)) = true) (hn : hNR (hregOf (rd s) (hNum w.a)) = false) :
    execScrub w s = .next (if hVers (hregOf (rd s) (hNum w.a)) then
      normalisePage (SMap.get 0 (rd s).hpa (hNum w.a)) (hSize (hregOf (rd s) (hNum w.a))) s else s) := by
  refine next_whenGuard hg ?_
  simp only [hv, hn, Bool.not_true, Bool.false_eq_true, if_false]
  cases hVers (hregOf (rd s) (hNum w.a)) <;> rfl

section
variable (hp : (me s).privm = true)
include hp

theorem execMcackSuspect_fenced {d : Nat × Nat × Nat × Nat} (hd : (partAt s (mySpindle s).part).suspect = some d)
    (hf : skeinFenced s d.1 = true) : execMcackSuspect w s = .next (updMyPart (fun x => { x with suspect := none, suspectVote := false }) s) :=
  next_whenPriv hg hp (by simp only [hd, hf, if_true])

theorem execMcackSuspect_unfenced (hf : ∀ d, (partAt s (mySpindle s).part).suspect = some d → skeinFenced s d.1 = false) :
    execMcackSuspect w s = .next (raiseSched 0xF7 0 s) := by
  refine next_whenPriv hg hp ?_
  cases hd : (partAt s (mySpindle s).part).suspect with
  | none => rfl
  | some d => simp only [hf d hd, Bool.false_eq_true, if_false]

theorem execVerdef_refused {r : Nat} (hr : verdefReason s (mySpindle s).part w.a.litVal ((srcZero s w.b).toNat % 2 ^ 57) (srcZero s w.c).toNat = r)
    (h : r ≠ 0) : execVerdef w s = .next (raiseSched 0xF6 r s) :=
  next_whenPriv hg hp (by subst hr; exact if_pos h)

section
variable (hr : verdefReason s (mySpindle s).part w.a.litVal ((srcZero s w.b).toNat % 2 ^ 57) (srcZero s w.c).toNat = 0)
include hr

theorem execVerdef_undefines {x : Region} (hx : regionAt s (mySpindle s).part w.a.litVal = some x) :
    execVerdef w s = .next (undefineRegion (mySpindle s).part w.a.litVal x s) :=
  next_whenPriv hg hp (by simp only [hr, hx, ne_eq, not_true_eq_false, if_false])

theorem execVerdef_defines {c : Nat} (hx : regionAt s (mySpindle s).part w.a.litVal = none) (hc : myCtx s = some c) : execVerdef w s =
    .next (defineRegion (mySpindle s).part w.a.litVal ((srcZero s w.b).toNat % 2 ^ 57) (srcZero s w.c).toNat c s) :=
  next_whenPriv hg hp (by simp only [hr, hx, hc, ne_eq, not_true_eq_false, if_false])

end
end
end

/-! ### The obligations -/

/-- Settles O25: STEPID's two selectors. -/
theorem stepIdValues : Obligations.StepIdValues := fun _ _ hg hs =>
  ⟨execStepid_step hg hs, fun h hd _ hc => execStepid_ord hg hs h hd hc, execStepid_nondet hg hs⟩

/-- Settles O26: each word has its lemma above; a word outside a step, or that needs the privilege, raises. -/
theorem stepWordResults : Obligations.StepWordResults := by
  refine ⟨fun w s => ⟨fun hg => ⟨fun hs => ⟨fun a ha hl => execVote_posts hg hs ha hl, execLosschk_spike hg hs, execLosschk_calm hg hs⟩,
      ⟨execRqtag_reads hg, execRqtag_sets hg⟩, execMcread_votes hg, fun hp => ?_, execTagpurge_own hg, execScrub_visits hg⟩,
    fun _ _ hw ha he => execStepwait_met hw ha he⟩, fun w s hg => ⟨?_, execStepwait_own hg, fun hp => ?_, ?_, ?_⟩⟩
  · exact ⟨execMcread_privileged hg hp, next_whenPriv hg hp rfl, next_whenPriv hg hp rfl, fun _ hd hf => execMcackSuspect_fenced hg hp hd hf,
      execTagpurge_other hg hp, fun hr => ⟨fun _ hx => execVerdef_undefines hg hp hr hx, fun _ hx hc => execVerdef_defines hg hp hr hx hc⟩⟩
  · rintro hs e (rfl | rfl | rfl) <;> exact next_whenGuard hg (whenStep_outside hs _)
  · exact ⟨next_raisePriv hg hp, next_raisePriv hg hp, next_raisePriv hg hp, next_raisePriv hg hp, execTagpurge_user hg hp,
      fun h => execRqtag_user hg h hp, fun h => execMcread_user hg h hp, fun h hd => execMcread_nondet hg h hd hp⟩
  · exact execMcackSuspect_unfenced hg
  · exact fun _ hr h hp => execVerdef_refused hg hp hr h

/-! ## What the state after reset holds -/

/-- The words of a partition's entry at reset. -/
theorem partWord_reset (p i : Nat) : partWord .reset p i = if i = 0 then 2 ^ 48 + 256 * 2 ^ 32 else 0 := by
  show (SMap.get 0 Part.start.w i).toNat = _
  split
  · next h => subst h; rfl
  · next h => simp [Part.start, SMap.get, Ne.symm h]

/-- Settles O47: nothing is listed in the state after reset, so each lookup gives what stands in place of an entry. -/
theorem resetState : Obligations.ResetState :=
  ⟨rfl, rfl, rfl, rfl, rfl, rfl, rfl, rfl, fun _ => rfl, fun _ => ⟨rfl, rfl, rfl, rfl, rfl, rfl⟩,
    fun p => ⟨partWord_reset p 0, fun i hi => (partWord_reset p i).trans (if_neg (by omega))⟩, fun _ _ => rfl, fun _ => rfl,
    fun _ _ => ⟨rfl, rfl, rfl, rfl, rfl, rfl⟩, fun _ => rfl, fun _ => ⟨rfl, fun _ => ⟨rfl, rfl, rfl, rfl, rfl, rfl⟩⟩⟩

end Sys2Proof.Machine

namespace Sys2Proof.Machine

/-! ## Decisions and recovery (R331, R335 to R343) -/

/-- A fold of steps that each leave something of the state alone leaves it alone. -/
theorem foldl_keeps {α β : Type} {g : State → β} {f : State → α → State} (h : ∀ s a, g (f s a) = g s) (l : List α) (s : State) :
    g (l.foldl f s) = g s :=
  List.foldlRecOn (motive := fun t : State => g t = g s) l f rfl fun t ht a _ => (h t a).trans ht

@[simp] theorem ctxAt_updCtx_same (c : Nat) (f : Ctx → Ctx) (s : State) : ctxAt (updCtx c f s) c = f (ctxAt s c) :=
  SMap.get_modify_same ..

/-! ### What an offer to the Whorls leaves alone -/

section
variable (t g : Nat) (a b c : Word) (s : State)

theorem tapGroup_ctxs : (tapGroup t g a b c s).ctxs = s.ctxs := by
  obtain ⟨w, r, h⟩ := tapGroup_shape t g a b c s
  rw [h]

theorem tapGroup_groups : (tapGroup t g a b c s).groups = s.groups := by
  obtain ⟨w, r, h⟩ := tapGroup_shape t g a b c s
  rw [h]

theorem tapGroup_purges : (tapGroup t g a b c s).purges = s.purges := by
  obtain ⟨w, r, h⟩ := tapGroup_shape t g a b c s
  rw [h]

end

/-! ### A decision closes its attempt (R336) -/

/-- What a decision records of an attempt. -/
def decisionHist (m : DecisionMsg) (g : Ctx) : Hist :=
  { step := g.stepno, commit := m.commit, flags := m.flags, first := m.first, seqno := g.opened }

/-- A context once a decision has closed its attempt, with the record `h` of it. -/
def closedCtx (m : DecisionMsg) (h : Hist) (g : Ctx) : Ctx :=
  { g with
    isOpen := false
    decided := true
    purging := !m.commit
    bitmap := if m.commit then SMap.set false g.bitmap (g.att.toNat % 4096) true else g.bitmap
    hist := (g.hist ++ [h]).drop (g.hist.length + 1 - 64) }

/-- The state in which a decision has closed its attempt, before what a commit or an abort adds. -/
def closeAttempt (c : Nat) (m : DecisionMsg) (s : State) : State :=
  let g := ctxAt s c
  let t := updCtx c (closedCtx m (decisionHist m g))
    (tapGroup 0x08 g.grp (if m.commit then 1 else 2) (BitVec.ofNat 64 g.stepno) (m.flags.zeroExtend 64) s)
  { t with net := t.net.filter (fun x => !ownVote g.grp x), unacked := t.unacked.filter fun x => !ownVote g.grp x }

/-- The last of a list stays when the oldest entries beyond a bound go. -/
theorem getLast?_drop_append_singleton {α : Type} (l : List α) (x : α) : ((l ++ [x]).drop (l.length + 1 - 64)).getLast? = some x := by
  rw [List.getLast?_drop, if_neg (by rw [List.length_append, List.length_singleton]; omega), List.getLast?_concat]

section
variable (c : Nat) (m : DecisionMsg) (s : State)

theorem applyDecision_commit (h : m.commit = true) : applyDecision c m s =
    countCommit (groupPart s (ctxAt s c).grp) (ctxAt s c).stepno (closeAttempt c m s) := if_pos h

theorem applyDecision_abort (h : m.commit = false) : applyDecision c m s =
    startPurge (groupPart s (ctxAt s c).grp) (ctxAt s c).tag (abortObjects c (closeAttempt c m s)) :=
  if_neg (by rw [h]; exact Bool.false_ne_true)

theorem ctxAt_closeAttempt : ctxAt (closeAttempt c m s) c = closedCtx m (decisionHist m (ctxAt s c)) (ctxAt s c) :=
  (ctxAt_updCtx_same c _ _).trans (congrArg (fun x => closedCtx m _ (SMap.get .start x c)) (tapGroup_ctxs ..))

theorem closedCtx_bitmap_commit (h : Hist) (g : Ctx) (hm : m.commit = true) :
    SMap.get false (closedCtx m h g).bitmap (g.att.toNat % 4096) = true := by
  simp only [closedCtx, hm, if_true, SMap.get_set_same]

theorem closedCtx_bitmap_abort (h : Hist) (g : Ctx) (hm : m.commit = false) : (closedCtx m h g).bitmap = g.bitmap := by
  simp only [closedCtx, hm, Bool.false_eq_true, if_false]

theorem closedCtx_hist_last (h : Hist) (g : Ctx) : (closedCtx m h g).hist.getLast? = some h := getLast?_drop_append_singleton ..

theorem closeAttempt_groups : (closeAttempt c m s).groups = s.groups := tapGroup_groups ..

theorem closeAttempt_purges : (closeAttempt c m s).purges = s.purges := tapGroup_purges ..

theorem abortObjects_groups : (abortObjects c s).groups = s.groups := by
  have hspin := foldl_keeps (g := State.groups) (fun s n => updSpindle_groups n abortSpindle s) (stepSpindles s (ctxAt s c)) s
  simp only [abortObjects]
  exact (foldl_keeps (g := State.groups) (f := fun s (x : Nat × Bobbin) => setBobbin x.1 none s) (fun _ _ => rfl) _ _).trans hspin

theorem startPurge_groups (p : Nat) (tag : BitVec 16) : (startPurge p tag s).groups = s.groups := by
  unfold startPurge voteFlags
  cases openCtx s tag <;> dsimp only <;> split <;> rfl

/-- A decision leaves the step groups' entries alone. -/
theorem applyDecision_groups : (applyDecision c m s).groups = s.groups := by
  cases h : m.commit with
  | true => exact (congrArg State.groups (applyDecision_commit c m s h)).trans (closeAttempt_groups c m s)
  | false => rw [applyDecision_abort c m s h, startPurge_groups, abortObjects_groups, closeAttempt_groups]

/-- A commit: the outcome bit is 1, and nothing is purged. -/
theorem applyDecision_commits (h : m.commit = true) : (ctxAt (applyDecision c m s) c).isOpen = false ∧
    SMap.get false (ctxAt (applyDecision c m s) c).bitmap ((ctxAt s c).att.toNat % 4096) = true ∧
    (ctxAt (applyDecision c m s) c).hist.getLast? = some ⟨(ctxAt s c).stepno, true, m.flags, m.first, (ctxAt s c).opened⟩ ∧
    (applyDecision c m s).purges = s.purges := by
  have hc : ctxAt (applyDecision c m s) c = ctxAt (closeAttempt c m s) c := by rw [applyDecision_commit c m s h]; rfl
  have hp : (applyDecision c m s).purges = (closeAttempt c m s).purges := by rw [applyDecision_commit c m s h]; rfl
  rw [hc, hp, ctxAt_closeAttempt, closeAttempt_purges]
  exact ⟨rfl, closedCtx_bitmap_commit m _ _ h, h ▸ closedCtx_hist_last m _ _, rfl⟩

/-- An abort: the outcome bit stays 0, and the purge of the step's tag starts. -/
theorem applyDecision_aborts (h : m.commit = false) : (ctxAt (applyDecision c m s) c).isOpen = false ∧
    (ctxAt (applyDecision c m s) c).bitmap = (ctxAt s c).bitmap ∧
    (ctxAt (applyDecision c m s) c).hist.getLast? = some ⟨(ctxAt s c).stepno, false, m.flags, m.first, (ctxAt s c).opened⟩ ∧
    (groupPart s (ctxAt s c).grp, (ctxAt s c).tag) ∈ (applyDecision c m s).purges := by
  obtain ⟨f, hf⟩ := startPurge_ctx (groupPart s (ctxAt s c).grp) (ctxAt s c).tag (abortObjects c (closeAttempt c m s)) c
  rw [applyDecision_abort c m s h, hf, abortObjects_ctx, ctxAt_closeAttempt]
  exact ⟨rfl, closedCtx_bitmap_abort m (decisionHist m (ctxAt s c)) _ h, h ▸ closedCtx_hist_last m _ _, startPurge_mem ..⟩

end

/-! ### Where a decision arrives (R335) -/

section
variable {c : Nat} {m : DecisionMsg} {s : State}

/-- The children depend on the groups' entries alone. -/
theorem treeKids_of_groups {t : State} (h : t.groups = s.groups) (grp : Nat) : treeKids t grp = treeKids s grp :=
  congrArg (fun g => treeKids { s with groups := g } grp) h

theorem execDecisionReceive_acked (h : m.dst ≠ ownPkg s m.grp) :
    execDecisionReceive m s = .next (ackTree (.decision m.dst m) s) := congrArg Host.Outcome.next (if_pos h)

variable (hd : m.dst = ownPkg s m.grp) (hc : groupCtx s m.grp = some c) (ho : (ctxAt s c).isOpen = true) (ha : (ctxAt s c).att = m.att)
include hd hc ho ha

/-- A decision for the open attempt of this device: at the root it is the one that it sent to itself; elsewhere it goes on. -/
theorem execDecisionReceive_open : execDecisionReceive m s = .next (
    if treeRoot s m.grp then
      (if s.net.contains (.decision (ownPkg s m.grp) m) then
        applyDecision c m { s with net := s.net.filter (· ≠ .decision (ownPkg s m.grp) m) } else s)
    else sendDecision m (applyDecision c m s)) := by
  have hf : (groupCtx s m.grp).filter (fun c => (ctxAt s c).isOpen && decide ((ctxAt s c).att = m.att)) = some c := by
    rw [hc, Option.filter_some, if_pos (by rw [ho, ha, decide_eq_true rfl]; rfl)]
  refine congrArg Host.Outcome.next ((if_neg (not_not.mpr hd)).trans ?_)
  simp only [hf]

theorem execDecisionReceive_root (hr : treeRoot s m.grp = true) (hn : NetMsg.decision (ownPkg s m.grp) m ∈ s.net) :
    execDecisionReceive m s = .next (applyDecision c m { s with net := s.net.filter (· ≠ .decision (ownPkg s m.grp) m) }) := by
  rw [execDecisionReceive_open hd hc ho ha, if_pos hr, if_pos (List.contains_iff_mem.mpr hn)]

theorem execDecisionReceive_child (hr : treeRoot s m.grp = false) : execDecisionReceive m s =
    .next ((treeKids s m.grp).foldl (fun s k => sendTree m.grp k (.decision k { m with dst := k }) s) (applyDecision c m s)) := by
  rw [execDecisionReceive_open hd hc ho ha, hr, if_neg Bool.false_ne_true, sendDecision, treeKids_of_groups (applyDecision_groups c m s)]

end

/-- Settles O37: what an arriving decision does is `applyDecision`, whose commit and abort are above. -/
theorem decisionApplied : Obligations.DecisionApplied := fun c m s =>
  ⟨execDecisionReceive_acked, fun hd hc ho ha => ⟨execDecisionReceive_root hd hc ho ha, execDecisionReceive_child hd hc ho ha,
    applyDecision_commits c m s, applyDecision_aborts c m s⟩⟩

/-! ### Purges, the scrubber, the in-field test, containment lost -/

section
variable {p block k : Nat} {tag : BitVec 16} {s : State}

theorem execPurgeComplete_ready (hm : tag ∈ (s.purges.filter fun x => x.1 = p).map (·.2)) (hr : purgeReady s p tag = true) :
    execPurgeComplete p tag s = .next (completePurge p tag s) := by
  have hp : (p, tag) ∈ s.purges := by
    obtain ⟨⟨q, t⟩, hx, rfl⟩ := List.mem_map.mp hm
    obtain ⟨hin, hq⟩ := List.mem_filter.mp hx
    obtain rfl : q = p := of_decide_eq_true hq
    exact hin
  exact congrArg Host.Outcome.next (if_pos ⟨List.contains_iff_mem.mpr hp, hr⟩)

theorem normalise_settled {v : VPage} (hv : vpageAt s (256 * block) = some v) (hb : (vmetaAt s (256 * block)).v = true)
    (ho : (ctxAt s v.ctx).isOpen = true → (vmetaAt s (256 * block)).a ≠ (ctxAt s v.ctx).att) : normalise block s =
      { s with vmeta := SMap.set .start s.vmeta block ⟨currentSlot (ctxAt s v.ctx) (vmetaAt s (256 * block)) none, false, 0⟩ } := by
  have hnot : (!(vmetaAt s (256 * block)).v ||
      ((ctxAt s v.ctx).isOpen && decide ((vmetaAt s (256 * block)).a = (ctxAt s v.ctx).att))) = false := by
    rw [hb, Bool.not_true, Bool.false_or, Bool.and_eq_false_imp]
    exact fun h => decide_eq_false (ho h)
  simp only [normalise, hv, hnot, Bool.false_eq_true, if_false]

section
variable (hk : k < 80)
  (hb : ∀ c, c < 16 → (ctxAt s c).isOpen = true →
    groupPart s (ctxAt s c).grp ∉ (upto 64).filter fun p => bitOf (partWord s p 0) 63 && inPartition s p (8 * k))
include hk hb

/-- Between attempts nothing keeps a skein from its test. -/
theorem inField_free : ¬(80 ≤ k ∨ ((upto 16).any fun c => (ctxAt s c).isOpen &&
    ((upto 64).filter fun p => bitOf (partWord s p 0) 63 && inPartition s p (8 * k)).contains (groupPart s (ctxAt s c).grp)) = true) := by
  rintro (h | h)
  · omega
  · obtain ⟨c, hc, hx⟩ := List.any_eq_true.mp h
    obtain ⟨ho, hin⟩ := Bool.and_eq_true_iff.mp hx
    exact hb c (List.mem_range.mp hc) ho (List.contains_iff_mem.mp hin)

theorem execInFieldTest_passed : execInFieldTest k true s =
    .next { s with dev := { s.dev with commits := SMap.set (0, 0, 0) s.dev.commits k (0, 0, 0) } } :=
  congrArg Host.Outcome.next (if_neg (inField_free hk hb))

theorem execInFieldTest_failed : let x := SMap.get (0, 0, 0) s.dev.commits k
    execInFieldTest k false s = .next (((upto 64).filter fun p => bitOf (partWord s p 0) 63 && inPartition s p (8 * k)).foldl
      (fun s p => { s with parts := SMap.modify .start s.parts p fun y =>
        { y with suspect := some (y.suspect.getD (k, x.1, x.2.1, x.2.2)), suspectVote := true } }) s) :=
  congrArg Host.Outcome.next (if_neg (inField_free hk hb))

end

theorem execContainmentLost_stops (h : s.dev.svc ≠ 3) :
    let t := s.spindles.foldl (fun s x => if x.2.task.isSome then updSpindle x.1 haltSpindle s else s) s
    execContainmentLost s = .next { t with dev := { t.dev with svc := 3, msix := t.dev.msix ++ [(0, 0)] } } :=
  congrArg Host.Outcome.next (if_neg h)

end

/-- Settles O38: each of the four events, where its conditions hold. -/
theorem recoveryEvents : Obligations.RecoveryEvents := fun _ _ _ _ _ =>
  ⟨execPurgeComplete_ready, fun _ hv hb ho => congrArg Host.Outcome.next (normalise_settled hv hb ho),
    fun hk hb => ⟨execInFieldTest_passed hk hb, execInFieldTest_failed hk hb⟩, execContainmentLost_stops⟩

end Sys2Proof.Machine

namespace Sys2Proof.Machine

/-! ## The words of bobbins (R296, R297, R303, R314 to R316) -/

section
variable {w : O3} {s : State} {op : Option (BitVec 4)}

/-- The element that BST, or BATOM of an operation, gives. -/
def bobElemOf (w : O3) (op : Option (BitVec 4)) (s : State) : BobElem :=
  .mk ((srcZero s w.a).toNat % 2 ^ 57 % 2 ^ 16) (decide (w.ty.width = 64)) op w.ty (dstRead s w.dst) s.cur.spn s.cur.strand

section
variable (hd : (mySpindle s).det = true → op.isSome = true → w.ty ≠ .f32) (ha : (srcZero s w.a).toNat % 2 ^ 57 % (w.ty.width / 8) = 0)
include hd ha

/-- An aligned element that determinism mode admits stops for its own package alone. -/
theorem putElem_admitted : putElem w op s = if srcNum s w.b 15 = domPkg (mySpindle s) then
    raise 0x10 (8 * 2 ^ 24 + srcNum s w.b 15) (BitVec.ofNat 64 ((srcZero s w.a).toNat % 2 ^ 57)) s
    else bobbinPut (srcNum s w.b 15) ((srcZero s w.a).toNat % 2 ^ 57) (bobElemOf w op s) s := by
  have hok : ((mySpindle s).det && op.isSome && decide (w.ty = .f32)) = false := by
    rw [Bool.and_assoc, Bool.and_eq_false_imp]
    exact fun h => Bool.and_eq_false_imp.mpr fun ho => decide_eq_false (hd h ho)
  have hal : (!aligned ((srcZero s w.a).toNat % 2 ^ 57) (w.ty.width / 8)) = false := by
    rw [aligned, decide_eq_true ha]; rfl
  rw [putElem, hok, hal, if_neg Bool.false_ne_true, if_neg Bool.false_ne_true]
  rfl

theorem putElem_own (hp : srcNum s w.b 15 = domPkg (mySpindle s)) : putElem w op s =
    raise 0x10 (8 * 2 ^ 24 + srcNum s w.b 15) (BitVec.ofNat 64 ((srcZero s w.a).toNat % 2 ^ 57)) s := by
  rw [putElem_admitted hd ha, if_pos hp]

/-- An element whose key has an open bobbin enters it. -/
theorem putElem_open {i : Nat} {b : Bobbin} (hp : srcNum s w.b 15 ≠ domPkg (mySpindle s))
    (ho : openBobbin s (dieOf s.cur.spn) (mySpindle s).part (domGrp (mySpindle s)) (me s).tag (srcNum s w.b 15)
      ((srcZero s w.a).toNat % 2 ^ 57 / 2 ^ 16) = some i) (hb : bobbinAt s i = some b) :
    putElem w op s = appendElem i b (bobElemOf w op s) s := by
  rw [putElem_admitted hd ha, if_neg hp]
  simp only [bobbinPut, ho, hb]

end

theorem bobbinAt_setBobbin_same (i : Nat) (b : Option Bobbin) (s : State) : bobbinAt (setBobbin i b s) i = b := SMap.get_set_same ..

section
variable {i : Nat} {b : Bobbin} {e : BobElem}

theorem length_append_eq_sixteen : (b.elems ++ [e]).length = 16 ↔ b.elems.length = 15 := by
  rw [List.length_append, List.length_singleton]; omega

theorem bobbinAt_appendElem (h : b.elems.length ≠ 15) :
    bobbinAt (appendElem i b e s) i = some { b with elems := b.elems ++ [e], last := s.cycle } := by
  rw [appendElem, if_neg (mt length_append_eq_sixteen.mp h), bobbinAt_setBobbin_same]

theorem appendElem_full (h : b.elems.length = 15) :
    appendElem i b e s = leaveBobbin i 0 (setBobbin i (some { b with elems := b.elems ++ [e], last := s.cycle }) s) :=
  if_pos (length_append_eq_sixteen.mpr h)

end

end

/-- Settles O23: BST and BATOM put an element (`putElem`), an append is `appendElem`, and the others are their functions. -/
theorem bobbinResults : Obligations.BobbinResults := by
  refine ⟨fun w s hg => ⟨fun ha hp i b ⟨ho, hb⟩ => ⟨?_, fun hf => ?_⟩, fun ha hp hd => ⟨?_, ?_⟩, next_whenGuard hg rfl,
    next_whenGuard hg rfl, fun hd => next_whenGuard hg (whenStatus_open _ _ _ hd)⟩, fun i b e s => ⟨bobbinAt_appendElem, appendElem_full⟩⟩
  · exact next_whenGuard hg (putElem_open (op := none) (fun _ h => absurd h Bool.false_ne_true) ha hp ho hb)
  · exact next_whenGuard hg (putElem_open (fun h _ => hf h) ha hp ho hb)
  · exact next_whenGuard hg (putElem_own (op := none) (fun _ h => absurd h Bool.false_ne_true) ha hp)
  · exact next_whenGuard hg (putElem_own (fun h _ => absurd (hd.symm.trans h) Bool.false_ne_true) ha hp)

end Sys2Proof.Machine

namespace Sys2Proof.Machine

/-! ## Attempts and votes (R322, R333 to R335) -/

theorem updCtx_congr {c : Nat} {f g : Ctx → Ctx} {s : State} (h : f (ctxAt s c) = g (ctxAt s c)) : updCtx c f s = updCtx c g s :=
  congrArg (fun x => { s with ctxs := SMap.set .start s.ctxs c x }) h

/-! ### An attempt opens (R322) -/

/-- A context that opens its next attempt at a tick. -/
def openedCtx (tag : BitVec 16) (step td ord : Nat) (g : Ctx) : Ctx :=
  { g with tag := tag, stepno := step, isOpen := true, att := g.att + 1, ord := ord, td := td, vflags := 0,
           bitmap := SMap.set false g.bitmap ((g.att + 1).toNat % 4096) false, cast := none, first := none, kids := [],
           decided := false, opened := g.opened + 1, phasers := [] }

theorem openAttempt_eq (c : Nat) (tag : BitVec 16) (step deadline ord : Nat) (s : State) : openAttempt c tag step deadline ord s =
    receiveEarly { updCtx c (openedCtx tag step (s.tick + deadline) ord) s with
      lastAtt := SMap.set 0 s.lastAtt (ctxAt s c).grp ((ctxAt s c).att + 1) } :=
  congrArg (fun g : Ctx => receiveEarly { updCtx c (openedCtx tag step (s.tick + deadline) ord) s with
      lastAtt := SMap.set 0 s.lastAtt g.grp g.att })
    (ctxAt_updCtx_same c (openedCtx tag step (s.tick + deadline) ord) s)

section
variable {q c k d : Nat} {y : Pkt} {m : VoteMsg} {s : State}

theorem execAttemptOpen_begins (hy : openWaiter s q = some y) (hc : groupCtx s (openGrp y.w) = some c) (ho : mayOpen s c = true)
    (hp : purging s (queuePart s q) (pktTag y.w) = false) (hs : s.dev.svc = 2) : execAttemptOpen q s = .next (beginAttempt q c y s) := by
  simp only [execAttemptOpen, hy, hc, ho, hp, hs, Bool.not_false, and_self, if_true]

/-! ### Bounds of votes (R333, R334) -/

theorem execVoteDeadline_late (ho : (ctxAt s c).isOpen = true) (hc : (ctxAt s c).cast = none) (ht : (ctxAt s c).td ≤ s.tick) :
    execVoteDeadline c s = .next (castVote c (updCtx c (fun g => { g with vflags := g.vflags ||| fLate }) s)) :=
  congrArg Host.Outcome.next (if_pos ⟨ho, hc, ht⟩)

/-- No vote of a child that a context holds is that of `k`. -/
theorem kids_any_eq_false {g : Ctx} (h : ∀ x ∈ g.kids, x.1 ≠ k) : (g.kids.any fun x => x.1 = k) = false :=
  List.any_eq_false.mpr fun x hx => by rw [decide_eq_true_eq]; exact h x hx

theorem execChildVoteDeadline_late (ho : (ctxAt s c).isOpen = true) (hd : (ctxAt s c).decided = false)
    (hk : k ∈ treeKids s (ctxAt s c).grp) (hn : ∀ x ∈ (ctxAt s c).kids, x.1 ≠ k)
    (ht : (ctxAt s c).td + 2400 * treeHeight s (ctxAt s c).grp ≤ s.tick) :
    execChildVoteDeadline c k s = .next (weighVotes c (updCtx c (fun g => { g with kids := g.kids ++ [(k, fLate, some k)] }) s)) :=
  congrArg Host.Outcome.next (if_pos ⟨ho, by rw [hd]; rfl, hk, by rw [kids_any_eq_false hn]; rfl, ht⟩)

/-! ### A vote arrives (R334) -/

theorem execVoteReceive_own (h : m.src = ownPkg s m.grp) :
    execVoteReceive m s = .next (ackTree (.vote (treeParent s m.grp) m) s) := congrArg Host.Outcome.next (if_pos h)

section
variable (hs : m.src ≠ ownPkg s m.grp)
include hs

theorem execVoteReceive_child (hc : groupCtx s m.grp = some c) (ho : (ctxAt s c).isOpen = true) (ha : (ctxAt s c).att = m.att)
    (hk : m.src ∈ treeKids s m.grp) : execVoteReceive m s = .next (weighVotes c (updCtx c (heardChild m) s)) := by
  refine congrArg Host.Outcome.next ((if_neg hs).trans ?_)
  simp only [hc, ho, ha, hk, Bool.not_true, Bool.false_eq_true, ne_eq, not_true_eq_false, or_self, if_false]

theorem execVoteReceive_other (h : ∀ c, groupCtx s m.grp = some c → (ctxAt s c).isOpen = true → (ctxAt s c).att ≠ m.att) :
    execVoteReceive m s = .next s := by
  refine congrArg Host.Outcome.next ((if_neg hs).trans ?_)
  cases hc : groupCtx s m.grp with
  | none => rfl
  | some c =>
    refine if_pos ?_
    cases ho : (ctxAt s c).isOpen with
    | false => exact .inl rfl
    | true => exact .inr (.inl (h c hc ho))

end

/-- The first vote of a child stands as it came. -/
theorem heardChild_first {g : Ctx} (h : ∀ x ∈ g.kids, x.1 ≠ m.src) :
    heardChild m g = { g with kids := g.kids.filter (fun x => x.1 ≠ m.src) ++ [(m.src, m.flags, m.first)] } := by
  have hf : g.kids.find? (fun x => x.1 = m.src) = none := List.find?_eq_none.mpr fun x hx => by rw [decide_eq_true_eq]; exact h x hx
  have hl : lowerPkg m.first none = m.first := by cases m.first <;> rfl
  have hz : m.flags ||| 0 = m.flags := BitVec.or_zero
  simp only [heardChild, hf, hz, hl]

/-- A later vote of a child is added to what is held of it. -/
theorem heardChild_again {g : Ctx} {x : Nat × BitVec 6 × Option Nat} (h : g.kids.find? (fun x => x.1 = m.src) = some x) : heardChild m g =
    { g with kids := g.kids.filter (fun x => x.1 ≠ m.src) ++ [(m.src, m.flags ||| x.2.1, lowerPkg m.first x.2.2)] } := by
  simp only [heardChild, h]

/-! ### What nobody has acknowledged is sent again (R334) -/

theorem sendTree_kept {grp : Nat} {x : NetMsg} (h : x ∈ s.unacked) :
    sendTree grp d x s = if (routePort s grp d).isSome ∧ x ∉ s.net then { s with net := s.net ++ [x] } else s := by
  rw [sendTree, if_pos (List.contains_iff_mem.mpr h)]
  refine if_congr (and_congr_right fun _ => ?_) rfl rfl
  rw [Bool.not_eq_true', ← Bool.not_eq_true, List.contains_iff_mem]

theorem execVoteResend_vote (h : s.unacked[k]? = some (.vote d m)) : execVoteResend k s = .next (sendTree m.grp d (.vote d m) s) := by
  simp only [execVoteResend, h]

theorem execVoteResend_decision {e : DecisionMsg} (h : s.unacked[k]? = some (.decision d e)) :
    execVoteResend k s = .next (sendTree e.grp d (.decision d e) s) := by
  simp only [execVoteResend, h]

/-! ### The root decides (R335) -/

/-- Every child's vote is there. -/
theorem kids_all (h : ∀ k ∈ treeKids s (ctxAt s c).grp, ∃ x ∈ (ctxAt s c).kids, x.1 = k) :
    ((treeKids s (ctxAt s c).grp).all fun k => (ctxAt s c).kids.any fun x => x.1 = k) = true :=
  List.all_eq_true.mpr fun k hk => by
    obtain ⟨x, hx, he⟩ := h k hk
    exact List.any_eq_true.mpr ⟨x, hx, decide_eq_true he⟩

/-- The root of an open attempt decides with the first flag, or with the last vote. -/
theorem weighVotes_root (ho : (ctxAt s c).isOpen = true) (hd : (ctxAt s c).decided = false)
    (hr : treeParent s (ctxAt s c).grp = ownPkg s (ctxAt s c).grp)
    (hv : (combinedVote (ctxAt s c)).1 ≠ 0 ∨
      ((ctxAt s c).cast.isSome = true ∧ ∀ k ∈ treeKids s (ctxAt s c).grp, ∃ x ∈ (ctxAt s c).kids, x.1 = k)) :
    weighVotes c s = rootDecide c (combinedVote (ctxAt s c)) s := by
  have hgo : (decide ((combinedVote (ctxAt s c)).1 = 0) &&
      !((ctxAt s c).cast.isSome && (treeKids s (ctxAt s c).grp).all fun k => (ctxAt s c).kids.any fun x => x.1 = k)) = false := by
    rcases hv with hv | ⟨hc, hk⟩
    · rw [decide_eq_false hv, Bool.false_and]
    · rw [hc, kids_all hk, Bool.and_self, Bool.not_true, Bool.and_false]
  simp only [weighVotes, ho, hd, hgo, Bool.not_true, Bool.or_self, Bool.false_eq_true, if_false]
  exact if_pos (decide_eq_true hr)

/-- The root's decision goes to itself and to each child. -/
theorem rootDecide_sends (v : BitVec 6 × Option Nat) : let g := ctxAt s c
    let m : DecisionMsg := { grp := g.grp, dst := ownPkg s g.grp, att := g.att, commit := decide (v.1 = 0), flags := v.1, first := v.2 }
    ∃ t, rootDecide c v s = (treeKids s g.grp).foldl (fun s k => sendTree g.grp k (.decision k { m with dst := k }) s) t ∧
      (ctxAt t c).decided = true ∧ t.net = s.net ++ [.decision (ownPkg s g.grp) m] :=
  ⟨_, rfl, congrArg Ctx.decided (ctxAt_updCtx_same c (fun g => { g with decided := true }) { s with net := _ }), rfl⟩

end

/-- Settles O36: the events of an attempt and of its votes, then the root's decision. -/
theorem attemptEvents : Obligations.AttemptEvents := by
  refine ⟨fun q c k y m e s => ⟨fun hy hc ho hp hs => ?_, execVoteDeadline_late, execChildVoteDeadline_late, execVoteReceive_own,
    fun hs hc ho ha hk => ⟨fun hn => ?_, fun x hx => ?_⟩, execVoteReceive_other, fun d x hx hu => ?_⟩, fun c s ho hd hr hv => ?_⟩
  · refine (execAttemptOpen_begins hy hc ho hp hs).trans (congrArg Host.Outcome.next ?_)
    rw [beginAttempt, openAttempt_eq]
    rfl
  · exact (execVoteReceive_child hs hc ho ha hk).trans (congrArg (fun t => Host.Outcome.next (weighVotes c t)) (updCtx_congr (heardChild_first hn)))
  · exact (execVoteReceive_child hs hc ho ha hk).trans (congrArg (fun t => Host.Outcome.next (weighVotes c t)) (updCtx_congr (heardChild_again hx)))
  · have hm := List.mem_of_getElem? hu
    rcases hx with ⟨rfl, hg⟩ | ⟨rfl, hg⟩
    · exact (execVoteResend_vote hu).trans (by rw [sendTree_kept hm, hg])
    · exact (execVoteResend_decision hu).trans (by rw [sendTree_kept hm, hg])
  · rw [weighVotes_root ho hd hr hv]
    exact rootDecide_sends _

end Sys2Proof.Machine

namespace Sys2Proof.Machine

/-! ## Ports and the packets that arrive over them (R286 to R302, R320, R324, R400, R408) -/

/-! ### Ports (R302, R320, R408) -/

section
variable {i peer : Nat} {es : List PeerEntry} {s : State}

theorem execPortTrained_up (h : (portAt s i).st = 1) : execPortTrained i peer es s =
    .next (updPort i (fun x => { x with st := 2, peerPort := peer, peers := es, down := false }) s) :=
  congrArg Host.Outcome.next (if_pos h)

theorem execPortTrained_back (h : (portAt s i).st = 2) (hd : (portAt s i).down = true) : execPortTrained i peer es s =
    .next (setPort i { portAt s i with down := false } s) :=
  congrArg Host.Outcome.next ((if_neg (by omega)).trans ((if_pos ⟨h, hd⟩).trans (updPort_of_eq _ _ _ rfl)))

theorem execLinkLoss_down (h : (portAt s i).st = 2) (hd : (portAt s i).down = false) : execLinkLoss i s =
    .next (setPort i { portAt s i with down := true, since := s.tick } s) :=
  congrArg Host.Outcome.next ((if_pos ⟨h, by rw [hd]; rfl⟩).trans (updPort_of_eq _ _ _ rfl))

theorem execPortFailure_fails (h : (portAt s i).st = 2) (hd : (portAt s i).down = true) (ht : (portAt s i).since + 20000 ≤ s.tick) :
    execPortFailure i s = .next (losePackets i (updPort i (fun x => { x with st := 3, down := false }) s)) :=
  congrArg Host.Outcome.next (if_pos ⟨h, hd, ht⟩)

theorem execTrainingRetry_again (h : (portAt s i).st = 1) (ht : (portAt s i).since + 50000000 ≤ s.tick) :
    execTrainingRetry i s = .next (setPort i { portAt s i with since := s.tick } s) :=
  congrArg Host.Outcome.next ((if_pos ⟨h, ht⟩).trans (updPort_of_eq _ _ _ rfl))

theorem execFlitCrcResend_counts (h : (portAt s i).st = 2) : execFlitCrcResend i s =
    .next (tapLink i (setPort i { portAt s i with retry := min 0xFFFF ((portAt s i).retry + 1) } s)) :=
  congrArg Host.Outcome.next ((if_pos h).trans (congrArg (tapLink i) (updPort_of_eq _ _ _ rfl)))

theorem execPeerEntryExchange_takes (h : (portAt s i).st = 2) : execPeerEntryExchange i es s =
    .next (setPort i { portAt s i with peers := es } s) :=
  congrArg Host.Outcome.next ((if_pos h).trans (updPort_of_eq _ _ _ rfl))

theorem execPortEnable_on (h : (portAt s i).en = false) : execPortEnable i true s =
    .next (updPort i (fun x => { x with en := true, st := 1, since := s.tick, down := false }) s) :=
  congrArg Host.Outcome.next ((if_pos rfl).trans (if_neg (by rw [h]; exact Bool.false_ne_true)))

theorem execPortRetrain_failed (h : (portAt s i).st = 3) : execPortRetrain i s =
    .next (updPort i (fun x => { x with st := 1, since := s.tick }) s) := congrArg Host.Outcome.next (if_pos h)

/-- A change of STATE is told to the Whorl and to system software. -/
theorem next_updPort_told {f : Port → Port} (h : (f (portAt s i)).st ≠ (portAt s i).st) :
    (.next (updPort i f s) : Host.Outcome State Fault Refusal) = .next (raiseVector 0 0 (tapLink i (setPort i (f (portAt s i)) s))) :=
  congrArg Host.Outcome.next (updPort_of_ne i f s h)

/-- A port that goes down tells its STATE, and then its packets are lost. -/
theorem next_losePackets_told {f : Port → Port} (h : (f (portAt s i)).st ≠ (portAt s i).st) :
    (.next (losePackets i (updPort i f s)) : Host.Outcome State Fault Refusal) =
      .next (losePackets i (raiseVector 0 0 (tapLink i (setPort i (f (portAt s i)) s)))) :=
  congrArg (fun t => Host.Outcome.next (losePackets i t)) (updPort_of_ne i f s h)

end

/-! ### Chunks, their answers, credits and cancel notices (R286 to R295) -/

/-- A packet from another device, of the attempt that is open here or of none. -/
def arrivesNow (s : State) (h : PktHdr) : Prop :=
  h.dst = ownPkg s h.grp ∧ h.src ≠ h.dst ∧ pktFuture s h = false ∧ pktStale s h = false

section
variable {s : State} {h : PktHdr}

theorem received_now (hn : arrivesNow s h) (m : NetMsg) : received h m s = some s :=
  received_eq h m s hn.1 hn.2.1 hn.2.2.1

theorem arrivesNow_fresh (hn : arrivesNow s h) : pktStale s h = false := hn.2.2.2

theorem arrivesNow_remote (hn : arrivesNow s h) : h.src ≠ h.dst := hn.2.1

theorem targetAway_of_target {grp lspn n : Nat} (ht : targetSpindle s grp lspn = some n) : targetAway s grp lspn = false := by
  rw [targetAway, ht]; rfl

theorem updSpindle_congr {n : Nat} {f g : Spindle → Spindle} (hfg : f (spindleAt s n) = g (spindleAt s n)) :
    updSpindle n f s = updSpindle n g s := congrArg (fun p => setSpindle n p s) hfg

end

section
variable {c : ChunkMsg} {n : Nat} {x : Zone} {s : State}
  (hn : arrivesNow s c.hdr) (ht : targetSpindle s c.hdr.grp c.lspn = some n) (hz : zoneAt (spindleAt s n) c.zone = some x)
  (hj : c.slot < x.slots) (hst : (slotAt x c.slot).st = .free ∨ (slotAt x c.slot).st = .inflight)
  (hd : stepDiffers (spindleAt s n) s c.hdr = false) (hl : c.off + c.data.length ≤ x.bytes) (hq : c.seq = expectedSeq x c.slot)
  (hw : windowForeign s n c = false)
include hn ht hz hj hst hd hl hq hw

/-- A chunk that its slot takes lands and is answered. -/
theorem execRputChunkReceive_lands : execRputChunkReceive c s = .next (answerChunk c 0 (landChunk n x c s)) := by
  have hfree : ¬(x.slots ≤ c.slot ∨ ((slotAt x c.slot).st ≠ .free ∧ (slotAt x c.slot).st ≠ .inflight)) := by
    rintro (h | ⟨h1, h2⟩)
    · omega
    · exact hst.elim h1 h2
  have hgood : (stepDiffers (spindleAt s n) s c.hdr || decide (x.bytes < c.off + c.data.length) || decide (c.seq ≠ expectedSeq x c.slot) ||
      windowForeign s n c) = false := by
    rw [hd, hw, decide_eq_false (by omega), decide_eq_false (not_not.mpr hq)]; rfl
  rw [execRputChunkReceive, targetAway_of_target ht, if_neg Bool.false_ne_true, received_now hn]
  simp only [takeChunk, arrivesNow_fresh hn, ht, hz, if_neg hfree, hgood, Bool.false_eq_true, if_false]

end

section
variable {a : AcceptMsg} {s : State}

/-- The answer of another device takes the chunk off the way, unless it says that the chunk waits. -/
theorem execRputChunkAccept_remote (hs : a.hdr.src ≠ a.hdr.dst) (hr : received a.hdr (.accept a) s = some s) : execRputChunkAccept a s =
    let t := if a.status = 3 then s else { s with net := s.net.eraseP (answered a) }
    .next (if pktStale s a.hdr then t else takeAnswer a t) := by
  have hif : (if a.hdr.src = a.hdr.dst ∨ a.status = 3 then s else { s with net := s.net.eraseP (answered a) }) =
      if a.status = 3 then s else { s with net := s.net.eraseP (answered a) } := if_congr (or_iff_right hs) rfl rfl
  simp only [execRputChunkAccept, hr, hif]

theorem execRputChunkAccept_now (hn : arrivesNow s a.hdr) : execRputChunkAccept a s =
    .next (takeAnswer a (if a.status = 3 then s else { s with net := s.net.eraseP (answered a) })) := by
  rw [execRputChunkAccept_remote (arrivesNow_remote hn) (received_now hn _)]
  simp only [arrivesNow_fresh hn, Bool.false_eq_true, if_false]

theorem execRputChunkAccept_stale (hd : a.hdr.dst = ownPkg s a.hdr.grp) (hs : a.hdr.src ≠ a.hdr.dst) (hf : pktFuture s a.hdr = false)
    (ho : pktStale s a.hdr = true) : execRputChunkAccept a s =
      .next (if a.status = 3 then s else { s with net := s.net.eraseP (answered a) }) := by
  rw [execRputChunkAccept_remote hs (received_eq _ _ _ hd hs hf)]
  simp only [ho, if_true]

theorem takeAnswer_accepted (t : State) (h : a.status = 0) : takeAnswer a t =
    updNumbered a.spn (a.chan + 1) a.recno (fun r => { r with acks := r.acks + 1, away := false }) t := if_pos h

theorem takeAnswer_waits (t : State) (h : a.status = 3) : takeAnswer a t =
    updNumbered a.spn (a.chan + 1) a.recno (fun r => { r with away := true }) t := (if_neg (by omega)).trans (if_pos h)

theorem takeAnswer_refused (t : State) (h0 : a.status ≠ 0) (h3 : a.status ≠ 3) : takeAnswer a t =
    failRput a.spn (a.chan + 1) a.recno (if a.status = 2 then 8 else 9) t := (if_neg h0).trans (if_neg h3)

end

section
variable {e : CreditMsg} {s : State} (hn : arrivesNow s e.hdr)
include hn

theorem execSlotCreditReceive_binding {x : Nat × Spindle} {b : Nat}
    (hx : s.spindles.find? (fun x => x.2.task.isSome && (bindingFor? e x.2).isSome) = some x)
    (hb : bindingFor? e (spindleAt s x.1) = some b) (hd : stepDiffers x.2 s e.hdr = false) : execSlotCreditReceive e s =
      .next (updSpindle x.1 (updBind b fun b => { b with credits := min b.slots (b.credits + 1) }) s) := by
  simp only [execSlotCreditReceive, received_now hn, arrivesNow_fresh hn, hx, hd, Bool.false_eq_true, if_false]
  exact congrArg Host.Outcome.next (updSpindle_congr (by simp only [addCredit, hb]))

theorem execSlotCreditReceive_saved (hx : s.spindles.find? (fun x => x.2.task.isSome && (bindingFor? e x.2).isSome) = none) :
    execSlotCreditReceive e s = .next { s with tasks := s.tasks.map fun x => (x.1, x.2.map (creditSaved e)) } := by
  simp only [execSlotCreditReceive, received_now hn, arrivesNow_fresh hn, hx, Bool.false_eq_true, if_false]

end

section
variable {k : CancelMsg} {i : Nat} {s : State}

theorem execCancelNoticeReceive_acked (h : k.hdr.dst ≠ ownPkg s k.hdr.grp) : execCancelNoticeReceive k s = .next (dropCancel k s) :=
  congrArg Host.Outcome.next (if_pos h)

theorem execCancelNoticeReceive_breaks {n : Nat} {x : Zone} (hn : arrivesNow s k.hdr) (hd : stepDiffers (spindleAt s n) s k.hdr = false)
    (ht : targetSpindle s k.hdr.grp k.lspn = some n) (hz : zoneAt (spindleAt s n) k.zone = some x) (hj : k.slot < x.slots)
    (hst : (slotAt x k.slot).st = .free ∨ (slotAt x k.slot).st = .inflight) (hq : expectedSeq x k.slot = k.seq) :
    execCancelNoticeReceive k s =
      .next (breakZone n k.zone k.slot x (updSpindle n (updZone k.zone fun y => { y with binder := some k.hdr.src }) s)) := by
  rw [execCancelNoticeReceive, if_neg (not_not.mpr hn.1), targetAway_of_target ht, Bool.false_and, if_neg Bool.false_ne_true, received_now hn]
  simp only [if_neg (arrivesNow_remote hn), arrivesNow_fresh hn, ht, hd, hz, Bool.false_eq_true, if_false]
  exact congrArg Host.Outcome.next (if_pos ⟨hj, hst, hq⟩)

theorem execCancelNoticeResend_sends {m : CancelMsg} (h : (openCancels s)[i]? = some m) (hc : s.net.contains (.cancel m) = false) :
    execCancelNoticeResend i s = .next { s with net := s.net ++ [.cancel m] } := by
  simp only [execCancelNoticeResend, h, hc, Bool.false_eq_true, if_false]

end

/-! ### Bobbins, their flits and addends (R297 to R301, R318) -/

section
variable {die j i : Nat} {f : FlitMsg} {m : FlitDone} {b : Bobbin} {e : BobElem} {s : State}

theorem execBobbinAgeExpiry_leaves (hb : bobbinAt s (64 * die + j) = some b) (ha : b.born + b.bage ≤ s.cycle) :
    execBobbinAgeExpiry die j s = .next (leaveBobbin (64 * die + j) 1 s) := by
  simp only [execBobbinAgeExpiry, hb, ha, if_true]

/-- An element of a good page, that no refusal and no poison stops, acts at its home. -/
theorem applyElem_home {pkg p page : Nat} {att : Option (BitVec 16)} {t : Xlat} (ht : translate s p (page * 2 ^ 16 + e.off) = some t)
    (hw : t.wr = true) (hr : t.nr = false) (hd : t.dev = false)
    (ho : refusesAny s att (t.pa + (page * 2 ^ 16 + e.off) % t.size) (if e.wide then 8 else 4) = false)
    (hp : e.op.isSome = true → readPoison s att (t.pa + (page * 2 ^ 16 + e.off) % t.size) (if e.wide then 8 else 4) = 0) :
    applyElem pkg p page att e s = (outsideWrite (farAgent pkg) e.op.isSome att (t.pa + (page * 2 ^ 16 + e.off) % t.size)
      (elemBytes e (homeBytes s att (t.pa + (page * 2 ^ 16 + e.off) % t.size) (if e.wide then 8 else 4))) s, 0) := by
  have hpoison : (e.op.isSome &&
      decide (readPoison s att (t.pa + (page * 2 ^ 16 + e.off) % t.size) (if e.wide then 8 else 4) ≠ 0)) = false :=
    Bool.and_eq_false_imp.mpr fun h => decide_eq_false (not_not.mpr (hp h))
  simp only [applyElem, ht, hw, hr, hd, ho, hpoison, Bool.not_true, Bool.false_eq_true, if_false]

theorem elemBytes_store (h : e.op = none) (old : List Byte) : elemBytes e old = toBytes e.value.toNat (if e.wide then 8 else 4) := by
  simp only [elemBytes, h]

theorem elemBytes_atomic {op : BitVec 4} (h : e.op = some op) (old : List Byte) : elemBytes e old =
    toBytes (atomNew op.toNat e.ty (ofBytes old) (e.value.toNat % 2 ^ (8 * if e.wide then 8 else 4))) (if e.wide then 8 else 4) := by
  simp only [elemBytes, h]

/-- A flit of one element, for a task in the flit's step. -/
theorem execBobbinFlitReceive_one {r : State × Nat} (he : f.elems = [e]) (hn : arrivesNow s f.hdr) (hg : (groupTasks s f.hdr.grp).isEmpty = false)
    (hs : ∀ x, groupStep s f.hdr.grp = some x → x = f.hdr.step)
    (hr : applyElem f.hdr.src (groupPart s f.hdr.grp) f.page f.hdr.att e s = r) : execBobbinFlitReceive f s =
      .next { r.1 with net := r.1.net ++ [.flitDone { hdr := answer f.hdr, id := f.id, status := [r.2] }] } := by
  have htake : takeFlit f s = (r.1, [r.2]) := by
    rw [takeFlit_eq f s hg hs, he]
    simp only [applyElems, hr]
  simp only [execBobbinFlitReceive, received_now hn, arrivesNow_fresh hn, htake, Bool.false_eq_true, if_false]

theorem execBobbinCompletionReceive_clean (hb : (s.flits.find? fun b => b.id = m.id) = some b) (h0 : ∀ r ∈ m.status, r = 0) :
    execBobbinCompletionReceive m s =
      .next { s with flits := s.flits.filter (fun b => b.id ≠ m.id), net := s.net.filter fun x => !isFlit m.id x } := by
  simp only [execBobbinCompletionReceive, hb, failElems_of_zero _ _ _ _ _ h0]

theorem execXaddApply_adds {q : XAddOp} {qs : List XAddOp} (hq : (winAt s die i).queue = q :: qs) (ho : stale s q.tag q.att = false)
    (hm : mayAdd s die q = true) : execXaddApply die i s =
      .next (updWin die i (fun x => noteAddend q.org ((xaddValues q).foldl xwAdd { x with queue := qs })) s) := by
  simp only [execXaddApply, hq, ho, hm, Bool.not_true, Bool.false_eq_true, if_false]

end

/-! ### The obligation -/

/-- Writes of EN and of RETRAIN change STATE, which is told; a port that goes down loses its packets. -/
theorem portEnable_portRetrain_told (i : Nat) (s : State) :
    let x := portAt s i
    let told := fun (y : Port) => raiseVector 0 0 (tapLink i (setPort i y s))
    (x.en = false → x.st ≠ 1 → execPortEnable i true s = .next (told { x with en := true, st := 1, since := s.tick, down := false })) ∧
    (x.st ≠ 0 → execPortEnable i false s = .next (losePackets i (told { x with en := false, st := 0, peers := [], down := false }))) ∧
    (x.st = 3 → execPortRetrain i s = .next (told { x with st := 1, since := s.tick })) :=
  ⟨fun he h => (execPortEnable_on he).trans (next_updPort_told h.symm), fun h => next_losePackets_told h.symm,
    fun h => (execPortRetrain_failed h).trans (next_updPort_told fun he => absurd (he.trans h) (by decide : (1 : Nat) ≠ 3))⟩

/-- Settles O35: the ports, then chunks, answers, credits and notices, then bobbins and addends, by the lemmas above. -/
theorem portEvents : Obligations.PortEvents := by
  refine ⟨fun i peer es s => ⟨fun h => ?_, execLinkLoss_down, execPortTrained_back, fun h hd ht => ?_, execTrainingRetry_again,
      execFlitCrcResend_counts, execPeerEntryExchange_takes, portEnable_portRetrain_told i s⟩,
    fun c a e k i s => ⟨fun n x hn ht hz hj hst hd hl hq hw => ?_, fun hn => ?_,
      fun hn => ⟨fun _ _ hx hb hd => execSlotCreditReceive_binding hn hx hb hd, execSlotCreditReceive_saved hn⟩, execRputChunkAccept_stale,
      execCancelNoticeReceive_acked, fun _ _ hn hd ht hz hj hst hq => execCancelNoticeReceive_breaks hn hd ht hz hj hst hq,
      fun _ h hc => execCancelNoticeResend_sends h hc⟩,
    fun die j f m b e s => ⟨execBobbinAgeExpiry_leaves, fun t he hd hs hf ho hg hst ht hw hr hv hno => ?_, execBobbinCompletionReceive_clean,
      fun _ _ _ hq ho hm => execXaddApply_adds hq ho hm⟩⟩
  · exact (execPortTrained_up h).trans (next_updPort_told fun he => absurd (he.trans h) (by decide : (2 : Nat) ≠ 1))
  · exact (execPortFailure_fails h hd ht).trans (next_losePackets_told fun he => absurd (he.trans h) (by decide : (3 : Nat) ≠ 2))
  · have hl := execRputChunkReceive_lands hn ht hz hj hst hd hl hq hw
    exact ⟨fun hne => hl.trans (by rw [landChunk, if_neg hne]; rfl), fun heq => hl.trans (by rw [landChunk, if_pos heq]; rfl)⟩
  · have ha := execRputChunkAccept_now hn
    exact ⟨fun h => ha.trans (by rw [takeAnswer_accepted _ h]), fun h => ha.trans (by rw [takeAnswer_waits _ h]),
      fun h0 h3 => ha.trans (by rw [takeAnswer_refused _ h0 h3, if_neg h3])⟩
  · have hone := fun hp => execBobbinFlitReceive_one he ⟨hd, hs, hf, ho⟩ hg hst (applyElem_home ht hw hr hv hno hp)
    refine ⟨fun h => ?_, fun op h hp => ?_⟩
    · exact (hone fun h' => absurd h' (by rw [h]; exact Bool.false_ne_true)).trans (by rw [elemBytes_store h]; rfl)
    · exact (hone fun _ => hp).trans (by rw [elemBytes_atomic h]; rfl)

end Sys2Proof.Machine

namespace Sys2Proof.Machine

/-! ## The command processor's queues (R355 to R370) -/

@[simp] theorem cmdqAt_updCmdq_same (q : Nat) (f : CmdQ → CmdQ) (s : State) : cmdqAt (updCmdq q f s) q = f (cmdqAt s q) :=
  SMap.get_modify_same ..

theorem updCmdq_congr {q : Nat} {f g : CmdQ → CmdQ} {s : State} (h : f (cmdqAt s q) = g (cmdqAt s q)) : updCmdq q f s = updCmdq q g s :=
  congrArg (fun x => { s with queues := SMap.set .start s.queues q x }) h

/-- A queue depends on the queues alone. -/
theorem cmdqAt_of_queues {s t : State} (h : t.queues = s.queues) (q : Nat) : cmdqAt t q = cmdqAt s q :=
  congrArg (fun m => SMap.get CmdQ.start m q) h

/-! ### What the command processor's reads and writes leave alone -/

theorem updView_queues (n a : Nat) (f : View → View) (s : State) : (updView n a f s).queues = s.queues := by
  unfold updView
  (repeat' split) <;> rfl

theorem cpAcquire_queues (q p va : Nat) (s : State) : (cpAcquire q p va s).queues = s.queues := by
  unfold cpAcquire
  split
  · exact (updView_queues ..).trans (updView_queues ..)
  · rfl

theorem homeWrite_queues (o : Origin) (x : Option (BitVec 16)) (pa : Nat) (bs : List Byte) (m : Bool) (s : State) :
    (homeWrite o x pa bs m s).queues = s.queues := by
  rw [onlyHome_homeWrite o x pa bs m s]

theorem writeNow_queues (n a : Nat) (x : Option (BitVec 16)) (pa : Nat) (bs : List Byte) (s : State) :
    (writeNow n a x pa bs s).queues = s.queues := (homeWrite_queues ..).trans (updView_queues ..)

theorem cpWrite_queues (q p va : Nat) (bs : List Byte) (s : State) : (cpWrite q p va bs s).queues = s.queues := by
  unfold cpWrite
  split
  · split
    · rfl
    · exact writeNow_queues ..
  · rfl

/-! ### Registers of a queue (R355 to R357) -/

section
variable {q : Nat} {v : Word} {s : State} (hq : q < 1024)
include hq

theorem execNotifyWptrWrite_in : execNotifyWptrWrite q v s = .next (writeWptr q v s) := congrArg Host.Outcome.next (if_pos hq)

theorem execQstsWrite_in : execQstsWrite q v s =
    .next (updCmdq q (fun x => if v.toNat / 2 ^ 62 = 1 ∧ x.state = 2 then { x with state := 1 } else x) s) := by
  have hb : bits v.toNat 62 2 = v.toNat / 2 ^ 62 := Nat.mod_eq_of_lt (by have := v.isLt; omega)
  rw [← hb]
  exact congrArg Host.Outcome.next (if_pos hq)

theorem execQueueDescriptorWrite_in {word : Nat} {g : CmdQ → CmdQ} (hw : word < 2) (h : writeDesc word v (cmdqAt s q) = g (cmdqAt s q)) :
    execQueueDescriptorWrite q word v s = .next (updCmdq q g s) :=
  congrArg Host.Outcome.next ((if_pos ⟨hq, hw⟩).trans (updCmdq_congr h))

end

/-- A queue that is enabled starts anew. -/
theorem writeDesc_enables {v : Word} {x : CmdQ} (hon : (descWord x v).getLsbD 0 = true) (hwas : x.d0.getLsbD 0 = false) :
    writeDesc 0 v x = { x with d0 := descWord x v, wptr := 0, rptr := 0, state := 1, reason := 0, gone := [], base := x.base + x.rptr } :=
  (if_neg Nat.zero_ne_one).trans (if_pos (by rw [hon, hwas]; rfl))

theorem writeDesc_disables {v : Word} {x : CmdQ} (hoff : (descWord x v).getLsbD 0 = false) :
    writeDesc 0 v x = { x with d0 := descWord x v, state := 0 } := by
  have hno : ¬(descWord x v).getLsbD 0 = true := by rw [hoff]; exact Bool.false_ne_true
  exact (if_neg Nat.zero_ne_one).trans ((if_neg fun h => hno (Bool.and_eq_true_iff.mp h).1).trans (if_neg hno))

/-! ### Taking a packet (R356, R367, R369) -/

section
variable {x : CmdQ} {w : List Word} {q : Nat} {s : State}

/-- A packet that nothing stops is taken; STEPOPEN and STEPCLOSE have checks of their own. -/
theorem takePkt_takes (n : Nat) (hr : takeReason (cmdqAt s q) w = 0) (h6 : pktKind w ≠ 6) (h7 : pktKind w ≠ 7) :
    takePkt q n w s = updCmdq q (fun z => { z with pkts := z.pkts ++ [newPkt n w] }) s := by
  rw [takePkt, if_neg (not_not.mpr hr), if_neg h7, if_neg fun h => h6 h.1]

/-- Reading on in a ring leaves the checks of a packet as they are. -/
theorem takeReason_of_d0 {y : CmdQ} (h : y.d0 = x.d0) : takeReason y w = takeReason x w := by
  simp only [takeReason, h]

theorem execQueuePoll_takes {w : List Word} (hm : mayTake (updCmdq q passGone s) q = true) (hv : s.dev.svc ≠ 3)
    (hw : cpWords (updCmdq q passGone s) (queuePart (updCmdq q passGone s) q)
      (slotVa (cmdqAt (updCmdq q passGone s) q) (cmdqAt (updCmdq q passGone s) q).rptr) 8 = some w)
    (hp : pktValid w = true) (hs : spanTaker (cmdqAt (updCmdq q passGone s) q) = none)
    (hr : takeReason (cmdqAt (updCmdq q passGone s) q) w = 0) (h6 : pktKind w ≠ 6) (h7 : pktKind w ≠ 7) :
    let s0 := updCmdq q passGone s
    let x0 := cmdqAt s0 q
    let n := x0.base + x0.rptr
    execQueuePoll q s = .next (startAtTake q n (updCmdq q (fun z => { z with pkts := z.pkts ++ [newPkt n w] })
      (updCmdq q (fun z => { z with rptr := z.rptr + 1 })
        (cpWrite q (queuePart s0 q) (slotVa x0 x0.rptr) (toBytes ((pktWord w 0) - 0x8000) 8) s0)))) := by
  have hgo : (!pktValid w || (decide (s.dev.svc = 3) &&
      !(decide (pktKind w = 8) && bitOf (cmdqAt (updCmdq q passGone s) q).d0.toNat 2))) = false := by
    rw [hp, decide_eq_false hv]; rfl
  simp only [execQueuePoll, hm, hw, hgo, hs, Bool.not_true, Bool.false_eq_true, if_false]
  rw [takePkt_takes _ ?_ h6 h7]
  rw [cmdqAt_updCmdq_same, cmdqAt_of_queues (cpWrite_queues ..)]
  exact (takeReason_of_d0 rfl).trans hr

end

/-! ### Packets that start (R358, R361 to R365) -/

/-- A WAITSIG that can read its word sees it. -/
theorem readWaitsig_reads {q : Nat} {y : Pkt} {z : Word} {t : State}
    (hz : cpWords t (queuePart t q) (pktWord y.w 1 % 2 ^ 57) 1 = some [z]) :
    readWaitsig q y t = if waitsigMet y.w z.toNat then dropPkt q y.idx (cpAcquire q (queuePart t q) (pktWord y.w 1 % 2 ^ 57) t)
    else cpAcquire q (queuePart t q) (pktWord y.w 1 % 2 ^ 57) t := by
  simp only [readWaitsig, hz]
  rfl

section
variable {q k : Nat} {y : Pkt} {s : State} (hy : pktAt s q k = some y)
include hy

/-- A packet of its kind that meets its condition acts. -/
theorem next_withPkt {kind : Nat} {ok : State → Pkt → Bool} {f : Pkt → State → State} {t : State} (hk : pktKind y.w = kind)
    (ho : ok s y = true) (h : f y s = t) : (.next (withPkt q k kind ok f s) : Host.Outcome State Fault Refusal) = .next t := by
  refine congrArg Host.Outcome.next (Eq.trans ?_ h)
  simp only [withPkt, hy]
  exact if_pos ⟨hk, ho⟩

theorem execResync_writes (hk : pktKind y.w = 8) (hs : y.started = true) : execResync q k s = .next (dropPkt q y.idx
    (cpAtomic q (queuePart s q) (pktWord y.w 2 % 2 ^ 57) (fun x => x + (2 ^ 64 - 1))
      (cpWrite q (queuePart s q) (pktWord y.w 1 % 2 ^ 57) (wordBytes ((y.kept[0]?).getD [])) s))) :=
  next_withPkt hy hk hs (by rw [nth, List.getD_eq_getElem?_getD])

section
variable (hk : pktKind y.w = 5) (hs : y.started = true) (hv : s.dev.svc ≠ 3) {z : Word}
  (hz : cpWords s (queuePart s q) (pktWord y.w 1 % 2 ^ 57) 1 = some [z])
include hk hs hv hz

theorem execWaitsigReread_reads : execWaitsigReread q k s = .next (
    if waitsigMet y.w z.toNat then dropPkt q y.idx (cpAcquire q (queuePart s q) (pktWord y.w 1 % 2 ^ 57) s)
    else cpAcquire q (queuePart s q) (pktWord y.w 1 % 2 ^ 57) s) :=
  next_withPkt hy hk (by rw [hs, decide_eq_true hv]; rfl) (readWaitsig_reads hz)

/-- A WAITSIG whose timeout elapses unmet completes, and its queue, which runs, stops. -/
theorem execWaitsigTimeout_stops (hn : pktWord y.w 3 % 2 ^ 32 ≠ 0) (ht : y.since + pktWord y.w 3 % 2 ^ 32 ≤ s.tick)
    (hm : waitsigMet y.w z.toNat = false) (hx : (cmdqAt s q).state = 1) (hi : y.idx = k) : execWaitsigTimeout q k s =
      .next (updCmdq q (fun x => { x with state := 2, reason := 7 })
        (dropPkt q y.idx (cpAcquire q (queuePart s q) (pktWord y.w 1 % 2 ^ 57) s))) := by
  have hc := cmdqAt_of_queues (cpAcquire_queues q (queuePart s q) (pktWord y.w 1 % 2 ^ 57) s) q
  have hlate : waitsigLate s y = true := by
    rw [waitsigLate, hs, decide_eq_true hv, decide_eq_true hn, decide_eq_true ht]; rfl
  have hstill : (pktAt (cpAcquire q (queuePart s q) (pktWord y.w 1 % 2 ^ 57) s) q y.idx).isSome = true := by
    rw [pktAt, hc, hi, ← pktAt, hy]; rfl
  have hruns : (cmdqAt (dropPkt q y.idx (cpAcquire q (queuePart s q) (pktWord y.w 1 % 2 ^ 57) s)) q).state = 1 := by
    rw [dropPkt, cmdqAt_updCmdq_same, hc, hx]
  refine next_withPkt hy hk hlate ?_
  rw [expireWaitsig, readWaitsig_reads hz, hm, if_neg Bool.false_ne_true, if_pos hstill, stopRunning, if_pos hruns]
  rfl

end

section
variable (hm : mayStart s q y = true)
include hm

/-- A packet that may start does. -/
theorem next_startPkt {kind : Nat} {f : Pkt → State → State} {t : State} (hk : pktKind y.w = kind) (h : f y s = t) :
    (.next (startPkt q k kind f s) : Host.Outcome State Fault Refusal) = .next t := next_withPkt hy hk hm h

theorem execWaitsig_reads (hk : pktKind y.w = 5) {z : Word} : let t := updPkt q y.idx (fun y => { y with started := true, since := s.tick }) s
    cpWords t (queuePart t q) (pktWord y.w 1 % 2 ^ 57) 1 = some [z] → execWaitsig q k s = .next (
      if waitsigMet y.w z.toNat then dropPkt q y.idx (cpAcquire q (queuePart t q) (pktWord y.w 1 % 2 ^ 57) t)
      else cpAcquire q (queuePart t q) (pktWord y.w 1 % 2 ^ 57) t) :=
  fun hz => next_startPkt hy hm hk (readWaitsig_reads hz)

theorem execSignal_starts (hk : pktKind y.w = 4) : execSignal q k s = .next (startSignal q y s) := next_startPkt hy hm hk rfl

theorem execLaunch_ready (hk : pktKind y.w = 2) {t : Task} (hl : loadTask s (queuePart s q) y.w (pktTag y.w) q y.idx none = .ok t) :
    execLaunch q k s = .next (enterReady t (updPkt q y.idx (fun y => { noteStart y with task := some s.nextTask }) s)) :=
  next_startPkt hy hm hk (by simp only [startLaunch, hl])

theorem execLaunch_refused (hk : pktKind y.w = 2) {l : Nat} (hl : loadTask s (queuePart s q) y.w (pktTag y.w) q y.idx none = .error l)
    (hs : y.span = none) : execLaunch q k s =
      .next (dropPkt q y.idx (finishRecord (emptyTask s (queuePart s q) y.w (pktTag y.w) q y.idx) l 1 s)) :=
  next_startPkt hy hm hk (by simp only [startLaunch, hl, hs, Option.isSome_none, Bool.false_eq_true, if_false])

theorem execGraph_loads (hk : pktKind y.w = 3) {i : Nat} (hi : (upto 64).find? (fun i => (graphAt s i).isNone) = some i) :
    execGraph q k s = .next (loadGraph q i y s) := next_startPkt hy hm hk (by simp only [hi])

theorem execStepopen_assigns (hk : pktKind y.w = 6) (hp : y.phase = 1) (hv : s.dev.svc = 2) {c : Nat}
    (hc : ctxFor s (openGrp y.w) = some c) : execStepopen q k s =
      .next (assignCtx c (openGrp y.w) (updPkt q y.idx (fun y => { y with started := true, phase := 2, ord := 0 }) s)) := by
  refine next_startPkt hy hm hk ?_
  simp only [hc]
  exact if_pos ⟨hp, hv⟩

end

/-- STEPCLOSE acts on its span. -/
theorem execStepclose_acts {i : Nat} {o : Pkt} (hk : pktKind y.w = 7) (hv : s.dev.svc ≠ 3) (hi : y.span = some i) (ho : pktAt s q i = some o)
    (hp : o.phase = 3) : execStepclose q k s = .next (closeSpan q o y s) := by
  refine next_withPkt hy hk (decide_eq_true hv) ?_
  simp only [hi, Option.bind_some, ho, hp, if_true]

end

/-! ### SIGNAL's interrupt (R364) -/

section
variable {q : Nat} {y : Pkt} {s : State}

/-- Does a SIGNAL raise its queue's interrupt? -/
theorem signal_irq_iff : (bitOf (pktFlags y.w) 2 && (cmdqAt s q).d0.getLsbD 1) = true ↔
    pktFlags y.w / 4 % 2 = 1 ∧ (cmdqAt s q).d0.getLsbD 1 = true := by
  rw [Bool.and_eq_true, bitOf, decide_eq_true_iff]
  norm_num

/-- SIGNAL before its interrupt. -/
def signalled (q : Nat) (y : Pkt) (s : State) : State :=
  dropPkt q y.idx (cpAtomic q (queuePart s q) (pktWord y.w 1 % 2 ^ 57) (signalWord y.w) (cpRelease q s))

theorem startSignal_quiet (h : ¬(pktFlags y.w / 4 % 2 = 1 ∧ (cmdqAt s q).d0.getLsbD 1 = true)) : startSignal q y s = signalled q y s :=
  if_neg (mt signal_irq_iff.mp h)

theorem startSignal_raises (h : pktFlags y.w / 4 % 2 = 1 ∧ (cmdqAt s q).d0.getLsbD 1 = true) : startSignal q y s =
    raiseVector ((cmdqAt s q).bind.toNat / 2 ^ 8 % 2 ^ 7) ((cmdqAt s q).d1.toNat % 2 ^ 16) (signalled q y s) := by
  rw [← bits_low (cmdqAt s q).d1.toNat 16]
  exact if_pos (signal_irq_iff.mpr h)

/-! ### GRAPH's body (R370) -/

/-- Of the kinds of a legal body's nodes none is a packet's. -/
theorem bodyOk_not_packet {ns : List (List Word)} (h : bodyOk ns = true) :
    (ns.any fun w => decide (1 ≤ pktKind w) && decide (pktKind w ≤ 8)) = false := by
  have hnodes : ns.all nodeOk = true := by
    simp only [bodyOk, Bool.and_eq_true] at h
    obtain ⟨⟨⟨⟨⟨hnodes, -⟩, -⟩, -⟩, -⟩, -⟩ := h
    exact hnodes
  refine List.any_eq_false.mpr fun w hw hk => ?_
  have hnode := List.all_eq_true.mp hnodes w hw
  simp only [nodeOk, Bool.and_eq_true, decide_eq_true_eq] at hnode hk
  omega

theorem loadGraph_starts {i : Nat} {ws : List Word} {ls : List (List Word)} (h0 : 0 < pktWord y.w 2) (hmax : pktWord y.w 2 ≤ 4096)
    (ha : pktWord y.w 1 % 64 = 0) (hw : cpWords s (queuePart s q) (pktWord y.w 1) (8 * pktWord y.w 2) = some ws)
    (hb : bodyOk (pieces 8 (pktWord y.w 2) ws) = true) (hl : launchesOf s (queuePart s q) (pieces 8 (pktWord y.w 2) ws) = some ls)
    (hp : ∀ l ∈ ls, bits (pktFlags l) 1 2 ≤ bits (cmdqAt s q).d0.toNat 3 2) : loadGraph q i y s =
      setGraph i (some (newGraph q (queuePart s q) y (pieces 8 (pktWord y.w 2) ws) ls))
        (updPkt q y.idx (fun y => { y with started := true, graph := some i }) s) := by
  have hrange : ¬(pktWord y.w 2 = 0 ∨ 4096 < pktWord y.w 2 ∨ pktWord y.w 1 % 64 ≠ 0) := by omega
  have hprio : (ls.any fun l => decide (bits (cmdqAt s q).d0.toNat 3 2 < bits (pktFlags l) 1 2)) = false :=
    List.any_eq_false.mpr fun l hm => by rw [decide_eq_true_eq]; exact not_lt.mpr (hp l hm)
  simp only [loadGraph, if_neg hrange, hw, bodyOk_not_packet hb, hb, hl, hprio, Bool.not_true, Bool.false_eq_true, if_false]
  rfl

/-! ### STEPCLOSE and the attempt of its span (R368) -/

section
variable {o : Pkt} {c : Nat} (hc : groupCtx s (openGrp o.w) = some c)
include hc

theorem closeSpan_votes (ho : (ctxAt s c).isOpen = true) (hn : (ctxAt s c).opened = o.since) (hs : y.started = false)
    (hd : spanDone s q c y = true) : closeSpan q o y s =
      updPkt q y.idx (fun y => { y with started := true }) (if (ctxAt s c).cast.isSome then s else castVote c s) := by
  have hopen : attemptOpen s o = true := by
    simp only [attemptOpen, hc, ho, hn, decide_true, Bool.and_self]
  simp only [closeSpan, hopen, if_true, hc, hs, hd, Bool.not_false, Bool.and_self]
  rfl

theorem closeSpan_decided {h : Hist} (ho : (ctxAt s c).isOpen = false) (hh : (ctxAt s c).hist.find? (fun h => h.seqno = o.since) = some h) :
    closeSpan q o y s = afterDecision q o y h s := by
  have hopen : attemptOpen s o = false := by
    simp only [attemptOpen, hc, ho, Bool.false_and]
  have hist : attemptHist s o = some h := by rw [attemptHist, hc, Option.bind_some, hh]
  simp only [closeSpan, hopen, hist, Bool.false_eq_true, if_false]

end
end

/-! ### The obligation -/

/-- Settles O39: the registers, the take, and each packet by the lemma of its start or act. -/
theorem queueEvents : Obligations.QueueEvents := by
  refine ⟨fun q k v y s => ⟨execNotifyWptrWrite_in, execQstsWrite_in, fun hq => execQueueDescriptorWrite_in hq (by decide) rfl,
      fun hq hon hwas => execQueueDescriptorWrite_in hq (by decide) (writeDesc_enables hon hwas),
      fun hq hoff => execQueueDescriptorWrite_in hq (by decide) (writeDesc_disables hoff),
      fun w hm hv hw hp hs hr h6 h7 => execQueuePoll_takes hm hv hw hp hs hr h6 h7,
      fun hy hm => ⟨fun hk => next_startPkt hy hm hk rfl, fun hk => ⟨fun hi => ?_, fun hi => ?_⟩, fun hk _ => execWaitsig_reads hy hm hk⟩,
      fun hy hk hs hv _ hz => ⟨execWaitsigReread_reads hy hk hs hv hz, execWaitsigTimeout_stops hy hk hs hv hz⟩⟩,
    fun q k y s hy => ⟨fun hm => ⟨fun hk => ⟨fun _ hl => execLaunch_ready hy hm hk hl, fun _ hl hs => execLaunch_refused hy hm hk hl hs⟩,
        fun i _ _ hk hi h0 hmax ha hw hb hl hp => ?_, fun _ hk hp hv hc => execStepopen_assigns hy hm hk hp hv hc⟩,
      fun i o c hk hv hi ho hp hc => ⟨fun hop hn hs hd => ?_, fun h hop hh => ?_⟩, execResync_writes hy⟩⟩
  · exact (execSignal_starts hy hm hk).trans (by rw [startSignal_quiet hi]; rfl)
  · exact (execSignal_starts hy hm hk).trans (by rw [startSignal_raises hi]; rfl)
  · exact (execGraph_loads hy hm hk hi).trans (by rw [loadGraph_starts h0 hmax ha hw hb hl hp])
  · exact (execStepclose_acts hy hk hv hi ho hp).trans (by rw [closeSpan_votes hc hop hn hs hd])
  · exact (execStepclose_acts hy hk hv hi ho hp).trans (by rw [closeSpan_decided hc hop hh])

end Sys2Proof.Machine
